-- ==== Sys2Proof/Word.lean ====
section
/-! DEFINITION. The word types of the Scadel 9600 (R8, R56): code words of 32 bits, bytes, and the register-name
fields of an instruction word. Nothing here computes; the bit helpers that a repair may mend stand in
Sys2Proof/Decode.lean and Sys2Proof/Machine/Bits.lean. -/

namespace Sys2Proof

/-- A byte of memory. -/
abbrev Byte := BitVec 8
/-- A run of bytes, lowest address first. -/
abbrev Bytes := List (BitVec 8)
/-- A code word (R8, R54). -/
abbrev Word := BitVec 32
/-- A vector register name v0 to v127 (R57, kinds V and E). -/
abbrev VReg := BitVec 7
/-- A scalar register name s0 to s63 (R57, kind S). -/
abbrev SReg := BitVec 6
/-- A predicate name p0 to p7 (R57, kind P), and the guard field. -/
abbrev PReg := BitVec 3
/-- A tile name t0 to t15 (R57, kind T). -/
abbrev TReg := BitVec 4
/-- An accumulator name a0 to a7 (R57, kind C). -/
abbrev AReg := BitVec 3
/-- A handoff register name h0 to h15 (R57, kind H). -/
abbrev HReg := BitVec 4
/-- A buffer selector: ORD, SCOPE and REC (R59, kind B). -/
abbrev BufSel := BitVec 7
/-- A 7-bit field that is an immediate or a minor code (R57, kinds I and N). -/
abbrev Imm7 := BitVec 7
/-- A trap cause code (R115). -/
abbrev Imm8 := BitVec 8
/-- A code target: a signed word offset (R62). -/
abbrev Target := BitVec 30
/-- A frame demand: SG in bits 11:7 and VG in bits 6:0 of its literal (R148). -/
abbrev Demand := BitVec 12
/-- A rounding field (R105). -/
abbrev Rnd := BitVec 2
/-- An access type code (R111): 0 to 6. -/
abbrev TypeCode := BitVec 4

end Sys2Proof
end

