-- ==== Sys2Proof/Syntax.lean ====
section
/-! DEFINITION. The instructions of the Scadel 9600: one constructor for every row of spec/opcode_table.json, in the
table's order but for three events that the machine itself calls. The first part are the instructions of a program's
words; the second part are the table's machine events: what an agent other than a team's issue does, or what the
outside world does to the package. An event's arguments carry what the outside supplies with it (R361 onward); an
event of the machine's own names the unit it happens at. -/

namespace Sys2Proof

/-- A destination of the stall hint (R339): a pod over Ultra Ethernet, or a member of the own pod over UALink. -/
inductive FabricDest where
  | pod (p : BitVec 9)
  | member (m : BitVec 9)
  deriving DecidableEq, Repr

/-- The engine classes that acknowledge a stop to the headland collector (R401). -/
inductive EngineClass where
  | issue | mma | copy | fabric | collective | gleaner | hashSign | trigger
  deriving DecidableEq, Repr

/-- What a fabric packet does at its target (R251, R252, R253). -/
inductive PacketOp where
  | write (data : Bytes) (enables : List Bool)
  | read (len : Nat)
  /-- the lanes merged into the request, each by its place from the first byte and its value (R334) -/
  | atomic (op : BitVec 5) (wide : Bool) (lanes : List (Nat × BitVec 64))
  | cas (bytes : Nat) (lanes : List (Nat × BitVec 128 × BitVec 128))
  deriving DecidableEq, Repr

/-- The identity of a fence interval (R337): source rank, job, source role and interval number. -/
structure FenceId where
  rank : BitVec 18
  job : BitVec 32
  role : Nat
  num : BitVec 16
  deriving DecidableEq, Repr

/-- A packet as the target sees it (R251): who sent it, where it goes, its key, its counter and its interval. -/
structure Packet where
  src : BitVec 18
  /-- a number the transport gives the packet, by which a retransmitted copy is recognised (R352) -/
  seq : Nat
  /-- the Prery address of its first byte -/
  addr : BitVec 64
  key : BitVec 32
  op : PacketOp
  /-- the destination COUNTER index, and whether the packet counts there (R242) -/
  counter : BitVec 8
  counts : Bool
  interval : Option FenceId
  deriving DecidableEq, Repr

/-- How a packet is answered (R254, R352): acknowledged, with the old value or the read bytes, refused, or to be sent again
later (R337, R458). -/
inductive PacketAck where
  | placed (data : Bytes)
  | refused
  | later
  deriving DecidableEq, Repr

/-- What an event brings to memory, a chunk or a packet, and how much of it the event writes: all that is left, or the
one atom named, the rest at a later event (R306, R307, R334). -/
structure Portion (α : Type) where
  what : α
  atom : Option Nat
  deriving DecidableEq, Repr

/-- A contribution to one chunk of a collective (R258, R359), as it reaches this device: who contributes, to which
collective and chunk, its parameters, its elements' bytes, whether an element was read from poisoned memory, and
whether its packets match its count. -/
structure Contribution where
  rank : BitVec 18
  job : BitVec 32
  group : BitVec 32
  seq : BitVec 32
  chunk : Nat
  kind : BitVec 4
  op : BitVec 4
  count : BitVec 40
  srcFormat : BitVec 4
  dstFormat : BitVec 4
  anchor : BitVec 11
  root : BitVec 18
  data : Bytes
  poisoned : Bool
  matched : Bool
  deriving DecidableEq, Repr

/-- A host AtomicOp on the BAR 4 window (R361, R379). -/
inductive HostAtomic where
  | fetchAdd (bytes : Nat) (v : BitVec 64)
  | swap (bytes : Nat) (v : BitVec 64)
  | cas (bytes : Nat) (compare swap : BitVec 128)
  deriving DecidableEq, Repr

/-- The host-visible registers that only hold the value written to them (R363, R367, R394, R400, R437). -/
inductive HostReg where
  | root (vi a : Nat)
  | invAddr (vi : Nat)
  | faultBase (vi : Nat)
  | migDst (vi : Nat)
  | migVa (vi : Nat)
  | migIova (vi : Nat)
  | winBase (vi : Nat)
  | queueBase (vi i : Nat)
  | queueHeadWb (vi i : Nat)
  | ctxPlot
  | ctxTeams
  | telSel
  /-- any offset the register tables do not list: the write is ignored (R363) -/
  | unlisted (off : Nat)
  deriving DecidableEq, Repr

/-- One constructor per row of spec/opcode_table.json. -/
inductive Instr where
  /-- NOP (R163) -/
  | nop (g : PReg)
  /-- BRA (R146) -/
  | bra (t : Target) (g : PReg)
  /-- BRC_ANY (R146) -/
  | brcAny (t : Target) (g : PReg)
  /-- BRC_ALL (R146) -/
  | brcAll (t : Target) (g : PReg)
  /-- BRC_NONE (R146) -/
  | brcNone (t : Target) (g : PReg)
  /-- BRX (R147) -/
  | brx (a : SReg) (g : PReg)
  /-- CALLF (R148) -/
  | callf (t : Target) (dem : Demand) (g : PReg)
  /-- CALLX (R149) -/
  | callx (a : SReg) (dem : Demand) (g : PReg)
  /-- RETF (R150) -/
  | retf (g : PReg)
  /-- UNWIND (R151) -/
  | unwind (n : Imm7) (g : PReg)
  /-- WINB (R152) -/
  | winb (w : Imm7) (g : PReg)
  /-- IFP (R156) -/
  | ifp (a : PReg) (t : Target) (g : PReg)
  /-- ELSEP (R156) -/
  | elsep (t : Target)
  /-- ENDIF (R156) -/
  | endif
  /-- LOOP (R157) -/
  | loop (t : Target)
  /-- BRK (R157) -/
  | brk (a : PReg) (g : PReg)
  /-- CONT (R157) -/
  | cont (a : PReg) (g : PReg)
  /-- ENDL (R157) -/
  | endl (t : Target)
  /-- SERB (R158) -/
  | serb
  /-- SERE (R158) -/
  | sere (t : Target)
  /-- EXIT (R160) -/
  | exit (g : PReg)
  /-- TRAP (R161) -/
  | trap (c : Imm7) (g : PReg)
  /-- SVC (R162) -/
  | svc (n : BitVec 30) (g : PReg)
  /-- BKPT (R162) -/
  | bkpt (g : PReg)
  /-- YIELD (R163) -/
  | yield (g : PReg)
  /-- WAITF (R164) -/
  | waitf (m : BitVec 12) (g : PReg)
  /-- RDSR (R165) -/
  | rdsr (d : SReg) (n : Imm7) (g : PReg)
  /-- WRSR (R165) -/
  | wrsr (a : SReg) (n : Imm7) (g : PReg)
  /-- CLOCK (R166) -/
  | clock (d : SReg) (g : PReg)
  /-- CACHE_IINV (R167) -/
  | cacheIinv (a : SReg) (g : PReg)
  /-- CACHE_IINVALL (R167) -/
  | cacheIinvall (a : SReg) (g : PReg)
  /-- CACHE_L1INV (R167) -/
  | cacheL1inv (a : SReg) (g : PReg)
  /-- HASH (R168) -/
  | hash (d : SReg) (b : BufSel) (g : PReg)
  /-- SIGN (R169) -/
  | sign (d : SReg) (a : SReg) (b : BufSel) (g : PReg)
  /-- DRDV (R173) -/
  | drdv (d : SReg) (a : SReg) (g : PReg)
  /-- DWRV (R173) -/
  | dwrv (d : SReg) (a : SReg) (g : PReg)
  /-- DRDS (R173) -/
  | drds (d : SReg) (a : SReg) (g : PReg)
  /-- DWRS (R173) -/
  | dwrs (d : SReg) (a : SReg) (g : PReg)
  /-- DRDT (R173) -/
  | drdt (d : SReg) (a : SReg) (g : PReg)
  /-- DWRT (R173) -/
  | dwrt (d : SReg) (a : SReg) (g : PReg)
  /-- DRDA (R173) -/
  | drda (d : SReg) (a : SReg) (g : PReg)
  /-- DWRA (R173) -/
  | dwra (d : SReg) (a : SReg) (g : PReg)
  /-- DRDG (R173) -/
  | drdg (d : SReg) (a : SReg) (g : PReg)
  /-- DWRG (R173) -/
  | dwrg (d : SReg) (a : SReg) (g : PReg)
  /-- GENRD (R174) -/
  | genrd (d : SReg) (a : SReg) (g : PReg)
  /-- GENCERT (R174) -/
  | gencert (d : SReg) (a : SReg) (g : PReg)
  /-- IADD_V (R179) -/
  | iaddV (d : VReg) (a : VReg) (b : VReg) (g : PReg)
  /-- ISUB_V (R179) -/
  | isubV (d : VReg) (a : VReg) (b : VReg) (g : PReg)
  /-- IMUL_V (R179) -/
  | imulV (d : VReg) (a : VReg) (b : VReg) (g : PReg)
  /-- IADDI_V (R179) -/
  | iaddiV (d : VReg) (a : VReg) (i : Imm7) (g : PReg)
  /-- AND_V (R179) -/
  | andV (d : VReg) (a : VReg) (b : VReg) (g : PReg)
  /-- OR_V (R179) -/
  | orV (d : VReg) (a : VReg) (b : VReg) (g : PReg)
  /-- XOR_V (R179) -/
  | xorV (d : VReg) (a : VReg) (b : VReg) (g : PReg)
  /-- SHL_V (R179) -/
  | shlV (d : VReg) (a : VReg) (b : VReg) (g : PReg)
  /-- SHR_Z32_V (R179) -/
  | shrZ32V (d : VReg) (a : VReg) (b : VReg) (g : PReg)
  /-- IMULH_V (R180) -/
  | imulhV (sg : Bool) (d : VReg) (a : VReg) (b : VReg) (g : PReg)
  /-- IDIV_V (R181) -/
  | idivV (sg : Bool) (d : VReg) (a : VReg) (b : VReg) (g : PReg)
  /-- IREM_V (R181) -/
  | iremV (sg : Bool) (d : VReg) (a : VReg) (b : VReg) (g : PReg)
  /-- IMIN_V (R180) -/
  | iminV (sg : Bool) (d : VReg) (a : VReg) (b : VReg) (g : PReg)
  /-- IMAX_V (R180) -/
  | imaxV (sg : Bool) (d : VReg) (a : VReg) (b : VReg) (g : PReg)
  /-- SHR_S32_V (R180) -/
  | shrS32V (d : VReg) (a : VReg) (b : VReg) (g : PReg)
  /-- ROTL_V (R180) -/
  | rotlV (d : VReg) (a : VReg) (b : VReg) (g : PReg)
  /-- MOVL_V (R182) -/
  | movlV (d : VReg) (v : BitVec 30) (g : PReg)
  /-- BFX (R183) -/
  | bfx (d : VReg) (a : VReg) (pos : BitVec 5) (len : BitVec 6) (sg : Bool) (g : PReg)
  /-- BFI (R183) -/
  | bfi (d : VReg) (a : VReg) (pos : BitVec 5) (len : BitVec 6) (g : PReg)
  /-- MOV (R184) -/
  | mov (d : VReg) (a : VReg) (g : PReg)
  /-- NOT (R184) -/
  | not (d : VReg) (a : VReg) (g : PReg)
  /-- NEG (R184) -/
  | neg (d : VReg) (a : VReg) (g : PReg)
  /-- IABS (R184) -/
  | iabs (d : VReg) (a : VReg) (g : PReg)
  /-- POPC (R184) -/
  | popc (d : VReg) (a : VReg) (g : PReg)
  /-- CLZ (R184) -/
  | clz (d : VReg) (a : VReg) (g : PReg)
  /-- BREV (R184) -/
  | brev (d : VReg) (a : VReg) (g : PReg)
  /-- SEXT8 (R184) -/
  | sext8 (d : VReg) (a : VReg) (g : PReg)
  /-- SEXT16 (R184) -/
  | sext16 (d : VReg) (a : VReg) (g : PReg)
  /-- LANEID (R184) -/
  | laneid (d : VReg) (g : PReg)
  /-- IADD_S (R179) -/
  | iaddS (d : SReg) (a : SReg) (b : SReg) (g : PReg)
  /-- ISUB_S (R179) -/
  | isubS (d : SReg) (a : SReg) (b : SReg) (g : PReg)
  /-- IADDI_S (R179) -/
  | iaddiS (d : SReg) (a : SReg) (i : Imm7) (g : PReg)
  /-- IMUL_S (R179) -/
  | imulS (d : SReg) (a : SReg) (b : SReg) (g : PReg)
  /-- MOVL_S (R182) -/
  | movlS (d : SReg) (v : BitVec 60) (g : PReg)
  /-- IMULH_S (R180) -/
  | imulhS (sg : Bool) (d : SReg) (a : SReg) (b : SReg) (g : PReg)
  /-- IDIV_S (R181) -/
  | idivS (sg : Bool) (d : SReg) (a : SReg) (b : SReg) (g : PReg)
  /-- IREM_S (R181) -/
  | iremS (sg : Bool) (d : SReg) (a : SReg) (b : SReg) (g : PReg)
  /-- IMIN_S (R180) -/
  | iminS (sg : Bool) (d : SReg) (a : SReg) (b : SReg) (g : PReg)
  /-- IMAX_S (R180) -/
  | imaxS (sg : Bool) (d : SReg) (a : SReg) (b : SReg) (g : PReg)
  /-- SHR_S32_S (R180) -/
  | shrS32S (d : SReg) (a : SReg) (b : SReg) (g : PReg)
  /-- ROTL_S (R180) -/
  | rotlS (d : SReg) (a : SReg) (b : SReg) (g : PReg)
  /-- AND_S (R180) -/
  | andS (d : SReg) (a : SReg) (b : SReg) (g : PReg)
  /-- OR_S (R180) -/
  | orS (d : SReg) (a : SReg) (b : SReg) (g : PReg)
  /-- XOR_S (R180) -/
  | xorS (d : SReg) (a : SReg) (b : SReg) (g : PReg)
  /-- SHL_S (R180) -/
  | shlS (d : SReg) (a : SReg) (b : SReg) (g : PReg)
  /-- SHR_Z32_S (R180) -/
  | shrZ32S (d : SReg) (a : SReg) (b : SReg) (g : PReg)
  /-- ICMP_V (R185) -/
  | icmpV (d : PReg) (a : VReg) (b : VReg) (c : BitVec 4) (g : PReg)
  /-- ICMP_S (R185) -/
  | icmpS (d : PReg) (a : SReg) (b : SReg) (c : BitVec 4) (g : PReg)
  /-- PLOG (R186) -/
  | plog (d : PReg) (a : PReg) (b : PReg) (tt : BitVec 4) (g : PReg)
  /-- VOTE_ANY (R187) -/
  | voteAny (d : SReg) (a : PReg) (g : PReg)
  /-- VOTE_ALL (R187) -/
  | voteAll (d : SReg) (a : PReg) (g : PReg)
  /-- VOTE_COUNT (R187) -/
  | voteCount (d : SReg) (a : PReg) (g : PReg)
  /-- BALLOT (R188) -/
  | ballot (d : VReg) (a : PReg) (g : PReg)
  /-- SHFL (R189) -/
  | shfl (d : VReg) (a : VReg) (b : VReg) (g : PReg)
  /-- SHFLU (R189) -/
  | shflu (d : VReg) (a : VReg) (b : VReg) (g : PReg)
  /-- SHFLD (R189) -/
  | shfld (d : VReg) (a : VReg) (b : VReg) (g : PReg)
  /-- SHFLX (R189) -/
  | shflx (d : VReg) (a : VReg) (b : VReg) (g : PReg)
  /-- GRED_IADD (R190) -/
  | gredIadd (d : VReg) (a : VReg) (g : PReg)
  /-- GRED_IMIN_S32 (R190) -/
  | gredIminS32 (d : VReg) (a : VReg) (g : PReg)
  /-- GRED_IMIN_Z32 (R190) -/
  | gredIminZ32 (d : VReg) (a : VReg) (g : PReg)
  /-- GRED_IMAX_S32 (R190) -/
  | gredImaxS32 (d : VReg) (a : VReg) (g : PReg)
  /-- GRED_IMAX_Z32 (R190) -/
  | gredImaxZ32 (d : VReg) (a : VReg) (g : PReg)
  /-- GRED_AND (R190) -/
  | gredAnd (d : VReg) (a : VReg) (g : PReg)
  /-- GRED_OR (R190) -/
  | gredOr (d : VReg) (a : VReg) (g : PReg)
  /-- GRED_XOR (R190) -/
  | gredXor (d : VReg) (a : VReg) (g : PReg)
  /-- GRED_FADD (R190) -/
  | gredFadd (d : VReg) (a : VReg) (g : PReg)
  /-- GRED_FMIN (R190) -/
  | gredFmin (d : VReg) (a : VReg) (g : PReg)
  /-- GRED_FMAX (R190) -/
  | gredFmax (d : VReg) (a : VReg) (g : PReg)
  /-- MOVS (R191) -/
  | movs (d : VReg) (a : SReg) (g : PReg)
  /-- RDLN (R191) -/
  | rdln (d : SReg) (a : VReg) (n : BitVec 10) (g : PReg)
  /-- SEL (R192) -/
  | sel (d : VReg) (a : VReg) (b : VReg) (p : PReg) (g : PReg)
  /-- FADD (R193) -/
  | fadd (d : VReg) (a : VReg) (b : VReg) (g : PReg)
  /-- FMUL (R193) -/
  | fmul (d : VReg) (a : VReg) (b : VReg) (g : PReg)
  /-- FDIV (R193) -/
  | fdiv (d : VReg) (a : VReg) (b : VReg) (g : PReg)
  /-- FMIN (R195) -/
  | fmin (d : VReg) (a : VReg) (b : VReg) (g : PReg)
  /-- FMAX (R195) -/
  | fmax (d : VReg) (a : VReg) (b : VReg) (g : PReg)
  /-- FMAXZ (R196) -/
  | fmaxz (d : VReg) (a : VReg) (g : PReg)
  /-- FMINZ (R196) -/
  | fminz (d : VReg) (a : VReg) (g : PReg)
  /-- FSET (R198) -/
  | fset (d : PReg) (a : VReg) (b : VReg) (c : BitVec 4) (g : PReg)
  /-- FSETK (R196) -/
  | fsetk (d : VReg) (a : VReg) (c : BitVec 4) (g : PReg)
  /-- FADD_LONG (R193) -/
  | faddLong (r : Rnd) (d : VReg) (a : VReg) (b : VReg) (g : PReg)
  /-- FSUB (R193) -/
  | fsub (r : Rnd) (d : VReg) (a : VReg) (b : VReg) (g : PReg)
  /-- FMUL_LONG (R193) -/
  | fmulLong (r : Rnd) (d : VReg) (a : VReg) (b : VReg) (g : PReg)
  /-- FFMA_LONG (R193) -/
  | ffmaLong (r : Rnd) (d : VReg) (a : VReg) (b : VReg) (c : VReg) (g : PReg)
  /-- FDIV_LONG (R193) -/
  | fdivLong (r : Rnd) (d : VReg) (a : VReg) (b : VReg) (g : PReg)
  /-- FFMS (R193) -/
  | ffms (r : Rnd) (d : VReg) (a : VReg) (b : VReg) (c : VReg) (g : PReg)
  /-- FNMA (R193) -/
  | fnma (r : Rnd) (d : VReg) (a : VReg) (b : VReg) (c : VReg) (g : PReg)
  /-- FMIN_LONG (R195) -/
  | fminLong (r : Rnd) (d : VReg) (a : VReg) (b : VReg) (g : PReg)
  /-- FMAX_LONG (R195) -/
  | fmaxLong (r : Rnd) (d : VReg) (a : VReg) (b : VReg) (g : PReg)
  /-- FSQRT (R199) -/
  | fsqrt (r : Rnd) (d : VReg) (a : VReg) (g : PReg)
  /-- FRSQ (R199) -/
  | frsq (r : Rnd) (d : VReg) (a : VReg) (g : PReg)
  /-- FRCP (R199) -/
  | frcp (r : Rnd) (d : VReg) (a : VReg) (g : PReg)
  /-- FEXP2 (R199) -/
  | fexp2 (r : Rnd) (d : VReg) (a : VReg) (g : PReg)
  /-- FLOG2 (R199) -/
  | flog2 (r : Rnd) (d : VReg) (a : VReg) (g : PReg)
  /-- FSIN (R199) -/
  | fsin (r : Rnd) (d : VReg) (a : VReg) (g : PReg)
  /-- FCOS (R199) -/
  | fcos (r : Rnd) (d : VReg) (a : VReg) (g : PReg)
  /-- FTANH (R199) -/
  | ftanh (r : Rnd) (d : VReg) (a : VReg) (g : PReg)
  /-- FRINT (R199) -/
  | frint (r : Rnd) (d : VReg) (a : VReg) (g : PReg)
  /-- FABS (R199) -/
  | fabs (d : VReg) (a : VReg) (g : PReg)
  /-- FNEG (R199) -/
  | fneg (d : VReg) (a : VReg) (g : PReg)
  /-- FCVT_S32_F32 (R201) -/
  | fcvtS32F32 (r : Rnd) (d : VReg) (a : VReg) (g : PReg)
  /-- FCVT_Z32_F32 (R201) -/
  | fcvtZ32F32 (r : Rnd) (d : VReg) (a : VReg) (g : PReg)
  /-- FCVT_F32_S32 (R201) -/
  | fcvtF32S32 (r : Rnd) (d : VReg) (a : VReg) (g : PReg)
  /-- FCVT_F32_Z32 (R201) -/
  | fcvtF32Z32 (r : Rnd) (d : VReg) (a : VReg) (g : PReg)
  /-- FCVT_BF16_F32 (R201) -/
  | fcvtBf16F32 (r : Rnd) (d : VReg) (a : VReg) (g : PReg)
  /-- FCVT_F16_F32 (R201) -/
  | fcvtF16F32 (r : Rnd) (d : VReg) (a : VReg) (g : PReg)
  /-- FCVT_F32_BF16 (R201) -/
  | fcvtF32Bf16 (r : Rnd) (d : VReg) (a : VReg) (g : PReg)
  /-- FCVT_F32_F16 (R201) -/
  | fcvtF32F16 (r : Rnd) (d : VReg) (a : VReg) (g : PReg)
  /-- FCVT_E4M3_F32 (R201) -/
  | fcvtE4m3F32 (r : Rnd) (d : VReg) (a : VReg) (g : PReg)
  /-- FCVT_E5M2_F32 (R201) -/
  | fcvtE5m2F32 (r : Rnd) (d : VReg) (a : VReg) (g : PReg)
  /-- FCVT_F32_E4M3 (R201) -/
  | fcvtF32E4m3 (r : Rnd) (d : VReg) (a : VReg) (g : PReg)
  /-- FCVT_F32_E5M2 (R201) -/
  | fcvtF32E5m2 (r : Rnd) (d : VReg) (a : VReg) (g : PReg)
  /-- HADD2 (R202) -/
  | hadd2 (bf : Bool) (r : Rnd) (d : VReg) (a : VReg) (b : VReg) (c : VReg) (g : PReg)
  /-- HMUL2 (R202) -/
  | hmul2 (bf : Bool) (r : Rnd) (d : VReg) (a : VReg) (b : VReg) (c : VReg) (g : PReg)
  /-- HFMA2 (R202) -/
  | hfma2 (bf : Bool) (r : Rnd) (d : VReg) (a : VReg) (b : VReg) (c : VReg) (g : PReg)
  /-- HMIN2 (R202) -/
  | hmin2 (bf : Bool) (r : Rnd) (d : VReg) (a : VReg) (b : VReg) (c : VReg) (g : PReg)
  /-- HMAX2 (R202) -/
  | hmax2 (bf : Bool) (r : Rnd) (d : VReg) (a : VReg) (b : VReg) (c : VReg) (g : PReg)
  /-- FFMA (R103) -/
  | ffma (k : BitVec 3) (d : VReg) (a : VReg) (b : VReg) (g : PReg)
  /-- LD (R215) -/
  | ld (d : VReg) (a : VReg) (b : BufSel) (g : PReg)
  /-- LD_LONG (R214) -/
  | ldLong (d : VReg) (a : VReg) (b : BufSel) (t : TypeCode) (pol : BitVec 8) (g : PReg)
  /-- ST (R215) -/
  | st (d : VReg) (a : VReg) (b : BufSel) (g : PReg)
  /-- ST_LONG (R214) -/
  | stLong (d : VReg) (a : VReg) (b : BufSel) (t : TypeCode) (pol : BitVec 8) (g : PReg)
  /-- LDP (R217) -/
  | ldp (d : VReg) (a : VReg) (t : TypeCode) (g : PReg)
  /-- STP (R217) -/
  | stp (d : VReg) (a : VReg) (t : TypeCode) (g : PReg)
  /-- LDS (R217) -/
  | lds (d : VReg) (a : VReg) (t : TypeCode) (g : PReg)
  /-- STS (R217) -/
  | sts (d : VReg) (a : VReg) (t : TypeCode) (g : PReg)
  /-- LOOKUP (R220) -/
  | lookup (d : VReg) (a : VReg) (g : PReg)
  /-- TAGSET (R220) -/
  | tagset (d : VReg) (a : VReg) (g : PReg)
  /-- TAGINV (R220) -/
  | taginv (d : VReg) (a : VReg) (g : PReg)
  /-- ATOM (R222) -/
  | atom (d : VReg) (a : VReg) (b : BufSel) (c : VReg) (op : BitVec 5) (w : Bool) (g : PReg)
  /-- ATOMS (R222) -/
  | atoms (a : VReg) (b : BufSel) (c : VReg) (op : BitVec 5) (w : Bool) (g : PReg)
  /-- CAS (R222) -/
  | cas (d : VReg) (a : VReg) (b : BufSel) (c : VReg) (e : VReg) (w : BitVec 2) (g : PReg)
  /-- RLK (R226) -/
  | rlk (a : VReg) (b : BufSel) (g : PReg)
  /-- RUNL (R226) -/
  | runl (a : VReg) (b : BufSel) (g : PReg)
  /-- WLK (R226) -/
  | wlk (a : VReg) (b : BufSel) (g : PReg)
  /-- WUNL (R226) -/
  | wunl (a : VReg) (b : BufSel) (g : PReg)
  /-- FENCE_AR (R227) -/
  | fenceAr (sc : BitVec 3) (g : PReg)
  /-- FENCE_ACQ (R227) -/
  | fenceAcq (sc : BitVec 3) (g : PReg)
  /-- FENCE_REL (R227) -/
  | fenceRel (sc : BitVec 3) (g : PReg)
  /-- WAITW (R228) -/
  | waitw (d : VReg) (a : VReg) (b : BufSel) (g : PReg)
  /-- PREF (R229) -/
  | pref (a : VReg) (b : BufSel) (g : PReg)
  /-- HPUSH (R230) -/
  | hpush (h : HReg) (a : VReg) (g : PReg)
  /-- HPOP (R230) -/
  | hpop (d : VReg) (h : HReg) (g : PReg)
  /-- ARRV (R233) -/
  | arrv (a : SReg) (sc : BitVec 3) (g : PReg)
  /-- BARW (R233) -/
  | barw (a : SReg) (sc : BitVec 3) (g : PReg)
  /-- BARC (R234) -/
  | barc (g : PReg)
  /-- PUTP (R219) -/
  | putp (d : VReg) (a : VReg) (t : TypeCode) (g : PReg)
  /-- CPY (R244) -/
  | cpy (d : SReg) (a : SReg) (b : BufSel) (g : PReg)
  /-- CPYS (R244) -/
  | cpys (d : SReg) (a : SReg) (b : BufSel) (g : PReg)
  /-- GATH (R246) -/
  | gath (d : SReg) (a : VReg) (b : BufSel) (g : PReg)
  /-- SCAT (R246) -/
  | scat (d : SReg) (a : VReg) (b : BufSel) (g : PReg)
  /-- CPYB (R247) -/
  | cpyb (d : SReg) (g : PReg)
  /-- WAITB (R247) -/
  | waitb (a : SReg) (g : PReg)
  /-- PUT (R250) -/
  | put (d : SReg) (a : SReg) (b : BufSel) (g : PReg)
  /-- GET (R250) -/
  | get (d : SReg) (a : SReg) (b : BufSel) (g : PReg)
  /-- RATOM (R252) -/
  | ratom (d : VReg) (a : VReg) (b : BufSel) (c : VReg) (op : BitVec 5) (w : Bool) (g : PReg)
  /-- CTRADD (R243) -/
  | ctradd (d : SReg) (a : SReg) (g : PReg)
  /-- CTRSET (R243) -/
  | ctrset (d : SReg) (a : SReg) (g : PReg)
  /-- CTRWAIT (R243) -/
  | ctrwait (d : SReg) (a : SReg) (g : PReg)
  /-- CTRRD (R243) -/
  | ctrrd (d : SReg) (a : SReg) (g : PReg)
  /-- TRIG (R248) -/
  | trig (d : SReg) (a : SReg) (b : BufSel) (c : BitVec 8) (g : PReg)
  /-- TRIGX (R248) -/
  | trigx (d : SReg) (a : SReg) (b : BufSel) (c : BitVec 8) (g : PReg)
  /-- FENCEX (R253) -/
  | fencex (a : SReg) (g : PReg)
  /-- COLL (R256) -/
  | coll (d : SReg) (a : SReg) (b : BufSel) (kind : BitVec 4) (op : BitVec 4) (log : Bool) (g : PReg)
  /-- RGNREG (R255) -/
  | rgnreg (d : SReg) (a : SReg) (g : PReg)
  /-- RGNREV (R255) -/
  | rgnrev (d : SReg) (a : SReg) (g : PReg)
  /-- TCFG (R259) -/
  | tcfg (a : SReg) (g : PReg)
  /-- TREL (R260) -/
  | trel (a : SReg) (g : PReg)
  /-- TREL_DISCARD (R260) -/
  | trelDiscard (a : SReg) (g : PReg)
  /-- MLD (R262) -/
  | mld (d : TReg) (a : VReg) (b : BufSel) (g : PReg)
  /-- MST (R262) -/
  | mst (d : TReg) (a : VReg) (b : BufSel) (g : PReg)
  /-- ACCZ (R263) -/
  | accz (d : AReg) (g : PReg)
  /-- ACCRD (R263) -/
  | accrd (d : VReg) (a : AReg) (b : SReg) (g : PReg)
  /-- ACCWR (R263) -/
  | accwr (d : AReg) (a : VReg) (b : SReg) (g : PReg)
  /-- MMA (R267) -/
  | mma (d : AReg) (a : TReg) (b : VReg) (fb : SReg) (k2 : Bool) (g : PReg)
  /-- MMA_SGN (R267) -/
  | mmaSgn (d : AReg) (a : TReg) (b : VReg) (fb : SReg) (k2 : Bool) (st : TReg) (g : PReg)
  /-- MTRN (R270) -/
  | mtrn (d : TReg) (a : TReg) (g : PReg)
  /-- MPRM (R270) -/
  | mprm (d : TReg) (a : TReg) (b : VReg) (g : PReg)
  /-- MRSUM (R270) -/
  | mrsum (d : AReg) (a : TReg) (g : PReg)
  /-- RUN_START (R279) -/
  | runStart (core : Nat)
  /-- ROSTER_BUFFERED_APPLY (R448) -/
  | rosterBufferedApply (vi : Nat)
  /-- DECODE_FAULT (R76) -/
  | decodeFault (c : Imm8)
  /-- ISSUE_CYCLE (R277) -/
  | issueCycle (core : Nat)
  /-- PIPE_WRITEBACK (R137) -/
  | pipeWriteback (role : Nat)
  /-- LOAD_RETURN (R71) -/
  | loadReturn (op : Nat) (ext : Bytes)
  /-- STORE_RETIRE (R71) -/
  | storeRetire (op : Nat)
  /-- PAGE_WALK_COMPLETE (R212) -/
  | pageWalkComplete (role : Nat)
  /-- GLOBAL_VERDICT_RECEIVE (R212) -/
  | globalVerdictReceive (role : Nat) (refused : Option Nat)
  /-- HASH_COMPLETE (R170) -/
  | hashComplete (core : Nat)
  /-- SIGN_COMPLETE (R170) -/
  | signComplete (core : Nat)
  /-- MATRIX_QUEUE_START (R318) -/
  | matrixQueueStart (op : Nat)
  /-- MATRIX_COMPLETE (R268) -/
  | matrixComplete (op : Nat)
  /-- FRAME_GRANT (R33) -/
  | frameGrant (core : Nat)
  /-- GLEANER_SPILL (R37) -/
  | gleanerSpill (core : Nat)
  /-- SPILL_STORE_ACK (R38) -/
  | spillStoreAck (core : Nat)
  /-- HARROW_SWEEP_COMPLETE (R43) -/
  | harrowSweepComplete (core : Nat)
  /-- CLAIM_PULL (R273) -/
  | claimPull (core : Nat) (plot : Nat)
  /-- COOP_CLAIM_PULL (R275) -/
  | coopClaimPull (cluster : Nat) (plot : Nat)
  /-- LOCALITY_DECAY (R281) -/
  | localityDecay (core : Nat)
  /-- PARK_WAKE (R283) -/
  | parkWake (role : Nat) (ext : Bytes)
  /-- CONTEXT_SWITCH_OUT (R284) -/
  | contextSwitchOut (core : Nat) (plot : Nat)
  /-- TEAM_SWITCH_OUT (R285) -/
  | teamSwitchOut (role : Nat)
  /-- STALL_SWITCH_OUT (R285) -/
  | stallSwitchOut (role : Nat)
  /-- STALL_HINT_SET (R339) -/
  | stallHintSet (dest : FabricDest)
  /-- STALL_HINT_CLEAR (R339) -/
  | stallHintClear (dest : FabricDest)
  /-- ENGINE_STOP_ACK (R401) -/
  | engineStopAck (core : Nat) (cls : EngineClass)
  /-- HEADLAND_SAVE (R402) -/
  | headlandSave (core : Nat)
  /-- HEADLAND_SAVE_DONE (R402) -/
  | headlandSaveDone (core : Nat)
  /-- CONTEXT_RESUME (R404) -/
  | contextResume (core : Nat) (ctx : Nat)
  /-- ENGINE_CHUNK_DONE (R245): of chunk k one atom is written, or all that is left -/
  | engineChunkDone (cmd : Nat) (k : Portion Nat) (ext : Bytes)
  /-- ENGINE_SOURCE_DONE (R240) -/
  | engineSourceDone (cmd : Nat)
  /-- ENGINE_COMMAND_COMPLETE (R245) -/
  | engineCommandComplete (cmd : Nat)
  /-- PACKET_ARRIVE (R331): of its bytes one atom is written, or all that are left (R307, R334) -/
  | packetArrive (p : Portion Packet)
  /-- PACKET_ACK_RECEIVE (R352): of a GET's data one atom is written, or all that is left -/
  | packetAckReceive (pkt : Nat) (ack : Portion PacketAck)
  /-- PACKET_RETRANSMIT_TIMEOUT (R335) -/
  | packetRetransmitTimeout (pkt : Nat)
  /-- FENCE_ARRIVE (R253) -/
  | fenceArrive (f : FenceId) (n : Nat)
  /-- FENCE_VERDICT_TIMEOUT (R337) -/
  | fenceVerdictTimeout (f : FenceId)
  /-- FENCE_VERDICT_RECEIVE (R253) -/
  | fenceVerdictReceive (cmd : Nat) (placed : Nat)
  /-- FENCE_ABORT_RECEIVE (R408) -/
  | fenceAbortReceive (f : FenceId)
  /-- COLL_CONTRIBUTION_ARRIVE (R359) -/
  | collContributionArrive (c : Contribution)
  /-- COLL_CHUNK_COMMIT (R343): of its destination one atom is written, or all that is left, and it commits -/
  | collChunkCommit (coll : Nat) (k : Portion Nat)
  /-- COLL_RESEND (R344) -/
  | collResend (coll : Nat)
  /-- DOORBELL_WRITE (R368) -/
  | doorbellWrite (vi : Nat) (q : Nat) (v : BitVec 64) (trusted : Bool)
  /-- QUEUE_CFG_WRITE (R367) -/
  | queueCfgWrite (vi : Nat) (q : Nat) (v : BitVec 64) (trusted : Bool)
  /-- QUEUE_CTL_RESUME (R367) -/
  | queueCtlResume (vi : Nat) (q : Nat) (trusted : Bool)
  /-- QUEUE_CTL_SKIP (R372) -/
  | queueCtlSkip (vi : Nat) (q : Nat) (trusted : Bool)
  /-- QUEUE_ENTRY_NOP (R369) -/
  | queueEntryNop (q : Nat) (ext : Bytes)
  /-- QUEUE_ENTRY_LAUNCH (R372) -/
  | queueEntryLaunch (q : Nat) (ext : Bytes)
  /-- QUEUE_ENTRY_WAIT (R369) -/
  | queueEntryWait (q : Nat) (ext : Bytes)
  /-- QUEUE_WAIT_RELEASE (R369) -/
  | queueWaitRelease (q : Nat)
  /-- QUEUE_ENTRY_SIGNAL (R369) -/
  | queueEntrySignal (q : Nat) (ext : Bytes)
  /-- SIGNAL_FIRE (R369) -/
  | signalFire (q : Nat)
  /-- PLOT_END (R373) -/
  | plotEnd (plot : Nat)
  /-- INVCMD_PAGES (R380) -/
  | invcmdPages (vi : Nat) (v : BitVec 64) (trusted : Bool)
  /-- INVCMD_ASID (R380) -/
  | invcmdAsid (vi : Nat) (v : BitVec 64) (trusted : Bool)
  /-- INVCMD_ALL (R380) -/
  | invcmdAll (vi : Nat) (v : BitVec 64) (trusted : Bool)
  /-- INVALIDATION_COMPLETE (R381) -/
  | invalidationComplete (vi : Nat)
  /-- FAULTTAIL_WRITE (R378) -/
  | faulttailWrite (vi : Nat) (v : BitVec 64) (trusted : Bool)
  /-- FAULTDONE_RETRY (R378) -/
  | faultdoneRetry (vi : Nat) (v : BitVec 64) (trusted : Bool)
  /-- FAULTDONE_FAIL (R378) -/
  | faultdoneFail (vi : Nat) (v : BitVec 64) (trusted : Bool)
  /-- FAULTDONE_MIGRATE (R384) -/
  | faultdoneMigrate (vi : Nat) (v : BitVec 64) (trusted : Bool)
  /-- FAULTDONE_RESUME (R392) -/
  | faultdoneResume (vi : Nat) (v : BitVec 64) (trusted : Bool)
  /-- FAULTDONE_KILL (R392) -/
  | faultdoneKill (vi : Nat) (v : BitVec 64) (trusted : Bool)
  /-- MIGCMD_GO (R385) -/
  | migcmdGo (vi : Nat) (v : BitVec 64) (trusted : Bool)
  /-- MIGRATION_COMPLETE (R384) -/
  | migrationComplete (vi : Nat) (token : Nat) (ext : Bytes)
  /-- BAR4_READ (R379) -/
  | bar4Read (vi : Nat) (off : Nat) (n : Nat) (trusted : Bool)
  /-- BAR4_WRITE (R379) -/
  | bar4Write (vi : Nat) (off : Nat) (data : Bytes) (trusted : Bool)
  /-- BAR4_ATOMIC (R379) -/
  | bar4Atomic (vi : Nat) (off : Nat) (a : HostAtomic) (trusted : Bool)
  /-- ATS_TRANSLATION_COMPLETION (R382) -/
  | atsTranslationCompletion (who : Nat) (ok : Bool)
  /-- PRI_PAGE_RESPONSE (R382) -/
  | priPageResponse (who : Nat) (ok : Bool)
  /-- ATS_INVALIDATE_REQUEST (R383) -/
  | atsInvalidateRequest (vi : Nat) (lo : Nat) (hi : Nat)
  /-- ATS_INVALIDATE_COMPLETE (R383) -/
  | atsInvalidateComplete (vi : Nat)
  /-- PCIE_COMPLETION_TIMEOUT (R383) -/
  | pcieCompletionTimeout (cmd : Nat)
  /-- VIENTRY_WRITE (R365) -/
  | vientryWrite (vi : Nat) (i : Nat) (v : BitVec 64)
  /-- FUNCTION_LEVEL_RESET (R365) -/
  | functionLevelReset (vi : Nat)
  /-- SAVEPOOL_WRITE (R394) -/
  | savepoolWrite (vi : Nat) (size : Bool) (v : BitVec 64)
  /-- CTXCMD_PREEMPT (R400) -/
  | ctxcmdPreempt (v : BitVec 64)
  /-- CTXCMD_RESUME (R400) -/
  | ctxcmdResume (v : BitVec 64)
  /-- CTXCMD_KILL (R407) -/
  | ctxcmdKill (v : BitVec 64)
  /-- REGISTER_WRITE (R363) -/
  | registerWrite (r : HostReg) (v : BitVec 64) (trusted : Bool)
  /-- WORLDREQ (R412) -/
  | worldreq (v : BitVec 64)
  /-- HANDOVER_COMPLETE (R413) -/
  | handoverComplete
  /-- SEALED_RANGE_WRITE (R419) -/
  | sealedRangeWrite (vi : Nat) (i : Nat) (v : BitVec 64)
  /-- MEAS_EXTEND (R424) -/
  | measExtend (i : BitVec 32)
  /-- LOCKBOOT_WRITE (R424) -/
  | lockbootWrite (v : BitVec 32)
  /-- DOE_REQUEST_ARRIVE (R426) -/
  | doeRequestArrive (fn : Nat) (typ : Nat) (data : Bytes)
  /-- RSPLEN_WRITE (R426) -/
  | rsplenWrite (fn : Nat) (v : BitVec 32)
  /-- DOE_ABORT (R426) -/
  | doeAbort (fn : Nat)
  /-- GET_VERSION (R428) -/
  | getVersion (fn : Nat) (msg : Bytes)
  /-- GET_CAPABILITIES (R428) -/
  | getCapabilities (fn : Nat) (msg : Bytes)
  /-- NEGOTIATE_ALGORITHMS (R428) -/
  | negotiateAlgorithms (fn : Nat) (msg : Bytes)
  /-- GET_DIGESTS (R428) -/
  | getDigests (fn : Nat) (msg : Bytes)
  /-- GET_CERTIFICATE (R428) -/
  | getCertificate (fn : Nat) (msg : Bytes)
  /-- CHALLENGE (R443) -/
  | challenge (fn : Nat) (msg : Bytes)
  /-- GET_MEASUREMENTS (R429) -/
  | getMeasurements (fn : Nat) (msg : Bytes)
  /-- KEY_EXCHANGE (R428) -/
  | keyExchange (fn : Nat) (msg : Bytes)
  /-- SET_OBSERVATION (R430) -/
  | setObservation (fn : Nat) (secured : Bool) (msg : Bytes)
  /-- GET_TDISP_VERSION (R431) -/
  | getTdispVersion (vi : Nat) (pfSession : Bool)
  /-- GET_TDISP_CAPABILITIES (R431) -/
  | getTdispCapabilities (vi : Nat) (pfSession : Bool)
  /-- LOCK_INTERFACE_REQUEST (R433) -/
  | lockInterfaceRequest (vi : Nat) (pfSession : Bool)
  /-- GET_DEVICE_INTERFACE_REPORT (R435) -/
  | getDeviceInterfaceReport (vi : Nat) (pfSession : Bool)
  /-- GET_DEVICE_INTERFACE_STATE (R432) -/
  | getDeviceInterfaceState (vi : Nat) (pfSession : Bool)
  /-- START_INTERFACE_REQUEST (R432) -/
  | startInterfaceRequest (vi : Nat) (pfSession : Bool) (nonce : BitVec 256)
  /-- STOP_INTERFACE_REQUEST (R434) -/
  | stopInterfaceRequest (vi : Nat) (pfSession : Bool)
  /-- IDE_STREAM_INSECURE (R432) -/
  | ideStreamInsecure (vi : Nat)
  /-- TELDATA_READ (R438) -/
  | teldataRead (requester : BitVec 16)
  /-- SETRANK (R445) -/
  | setrank (secured : Bool) (tag : BitVec 16) (msg : Bytes)
  /-- SETPOD (R445) -/
  | setpod (secured : Bool) (tag : BitVec 16) (msg : Bytes)
  /-- SETPATH (R445) -/
  | setpath (secured : Bool) (tag : BitVec 16) (msg : Bytes)
  /-- SETCAM (R445) -/
  | setcam (secured : Bool) (tag : BitVec 16) (msg : Bytes)
  /-- SETMEMBER (R445) -/
  | setmember (secured : Bool) (tag : BitVec 16) (msg : Bytes)
  /-- JOBSET (R446) -/
  | jobset (secured : Bool) (tag : BitVec 16) (msg : Bytes)
  /-- ROSTER (R448) -/
  | roster (secured : Bool) (tag : BitVec 16) (msg : Bytes)
  /-- LOGTAIL (R445) -/
  | logtail (secured : Bool) (tag : BitVec 16) (msg : Bytes)
  /-- LOGINFO (R445) -/
  | loginfo (secured : Bool) (tag : BitVec 16) (msg : Bytes)
  /-- GET_LIFETIME_BLOCK (R455) -/
  | getLifetimeBlock (block : Nat) (off : Nat)
  /-- LIFETIME_FLUSH (R454) -/
  | lifetimeFlush
  /-- ORDERLY_POWER_DOWN (R454) -/
  | orderlyPowerDown
  /-- PACKAGE_RESET (R425) -/
  | packageReset
  /-- THERMAL_THROTTLE (R456) -/
  | thermalThrottle
  /-- THERMAL_TRIP (R456) -/
  | thermalTrip
  /-- INVSTAT_READ (R363) -/
  | invstatRead (vi : Nat) (trusted : Bool)
  /-- FAULTCFG_WRITE (R378) -/
  | faultcfgWrite (vi : Nat) (v : BitVec 64) (trusted : Bool)
  /-- POWER_LOSS (R461) -/
  | powerLoss
  /-- LINK_RETRAIN (R454) -/
  | linkRetrain (link : Nat)
  /-- THROTTLE_END (R456) -/
  | throttleEnd
  /-- STATE_BLOCK_REWRITE_DONE (R417) -/
  | stateBlockRewriteDone (world : Nat)
  /-- IDE_KM_REQUEST (R361) -/
  | ideKmRequest (vi : Nat)
  deriving DecidableEq, Repr

/-- Whether the row is a machine event: it has no words, and no program holds it. -/
def Instr.isEvent : Instr → Bool
  | .runStart _ => true
  | .pipeWriteback _ => true
  | .loadReturn _ _ => true
  | .storeRetire _ => true
  | .pageWalkComplete _ => true
  | .globalVerdictReceive _ _ => true
  | .hashComplete _ => true
  | .signComplete _ => true
  | .matrixQueueStart _ => true
  | .matrixComplete _ => true
  | .frameGrant _ => true
  | .gleanerSpill _ => true
  | .spillStoreAck _ => true
  | .harrowSweepComplete _ => true
  | .claimPull _ _ => true
  | .coopClaimPull _ _ => true
  | .localityDecay _ => true
  | .parkWake _ _ => true
  | .contextSwitchOut _ _ => true
  | .teamSwitchOut _ => true
  | .stallSwitchOut _ => true
  | .stallHintSet _ => true
  | .stallHintClear _ => true
  | .engineStopAck _ _ => true
  | .headlandSave _ => true
  | .headlandSaveDone _ => true
  | .contextResume _ _ => true
  | .engineChunkDone _ _ _ => true
  | .engineSourceDone _ => true
  | .engineCommandComplete _ => true
  | .packetArrive _ => true
  | .packetAckReceive _ _ => true
  | .packetRetransmitTimeout _ => true
  | .fenceArrive _ _ => true
  | .fenceVerdictTimeout _ => true
  | .fenceVerdictReceive _ _ => true
  | .fenceAbortReceive _ => true
  | .collContributionArrive _ => true
  | .collChunkCommit _ _ => true
  | .collResend _ => true
  | .doorbellWrite _ _ _ _ => true
  | .queueCfgWrite _ _ _ _ => true
  | .queueCtlResume _ _ _ => true
  | .queueCtlSkip _ _ _ => true
  | .queueEntryNop _ _ => true
  | .queueEntryLaunch _ _ => true
  | .queueEntryWait _ _ => true
  | .queueWaitRelease _ => true
  | .queueEntrySignal _ _ => true
  | .signalFire _ => true
  | .plotEnd _ => true
  | .invcmdPages _ _ _ => true
  | .invcmdAsid _ _ _ => true
  | .invcmdAll _ _ _ => true
  | .invalidationComplete _ => true
  | .faulttailWrite _ _ _ => true
  | .faultdoneRetry _ _ _ => true
  | .faultdoneFail _ _ _ => true
  | .faultdoneMigrate _ _ _ => true
  | .faultdoneResume _ _ _ => true
  | .faultdoneKill _ _ _ => true
  | .migcmdGo _ _ _ => true
  | .migrationComplete _ _ _ => true
  | .bar4Read _ _ _ _ => true
  | .bar4Write _ _ _ _ => true
  | .bar4Atomic _ _ _ _ => true
  | .atsTranslationCompletion _ _ => true
  | .priPageResponse _ _ => true
  | .atsInvalidateRequest _ _ _ => true
  | .atsInvalidateComplete _ => true
  | .pcieCompletionTimeout _ => true
  | .vientryWrite _ _ _ => true
  | .functionLevelReset _ => true
  | .savepoolWrite _ _ _ => true
  | .ctxcmdPreempt _ => true
  | .ctxcmdResume _ => true
  | .ctxcmdKill _ => true
  | .registerWrite _ _ _ => true
  | .worldreq _ => true
  | .handoverComplete => true
  | .sealedRangeWrite _ _ _ => true
  | .measExtend _ => true
  | .lockbootWrite _ => true
  | .doeRequestArrive _ _ _ => true
  | .rsplenWrite _ _ => true
  | .doeAbort _ => true
  | .getVersion _ _ => true
  | .getCapabilities _ _ => true
  | .negotiateAlgorithms _ _ => true
  | .getDigests _ _ => true
  | .getCertificate _ _ => true
  | .challenge _ _ => true
  | .getMeasurements _ _ => true
  | .keyExchange _ _ => true
  | .setObservation _ _ _ => true
  | .getTdispVersion _ _ => true
  | .getTdispCapabilities _ _ => true
  | .lockInterfaceRequest _ _ => true
  | .getDeviceInterfaceReport _ _ => true
  | .getDeviceInterfaceState _ _ => true
  | .startInterfaceRequest _ _ _ => true
  | .stopInterfaceRequest _ _ => true
  | .ideStreamInsecure _ => true
  | .teldataRead _ => true
  | .setrank _ _ _ => true
  | .setpod _ _ _ => true
  | .setpath _ _ _ => true
  | .setcam _ _ _ => true
  | .setmember _ _ _ => true
  | .jobset _ _ _ => true
  | .roster _ _ _ => true
  | .rosterBufferedApply _ => true
  | .logtail _ _ _ => true
  | .loginfo _ _ _ => true
  | .getLifetimeBlock _ _ => true
  | .lifetimeFlush => true
  | .orderlyPowerDown => true
  | .packageReset => true
  | .thermalThrottle => true
  | .thermalTrip => true
  | .decodeFault _ => true
  | .issueCycle _ => true
  | .invstatRead _ _ => true
  | .faultcfgWrite _ _ _ => true
  | .powerLoss => true
  | .linkRetrain _ => true
  | .throttleEnd => true
  | .stateBlockRewriteDone _ => true
  | .ideKmRequest _ => true
  | _ => false

end Sys2Proof
end

