-- ==== Sys2Proof/WellFormed.lean ====
section
/-! DEFINITION. When a term of Instr is one that some words encode: the limits on fields that the types of Syntax do
not already carry (R91 to R113). A machine event is always well formed: it has no words. -/

namespace Sys2Proof

/-- Frame demand within range: VG from 2 to 64 and SG from 2 to 16 (R148). -/
def Demand.legal (x : Demand) : Bool :=
  let vg := (x.extractLsb' 0 7).toNat
  let sg := (x.extractLsb' 7 5).toNat
  2 ≤ vg && vg ≤ 64 && 2 ≤ sg && sg ≤ 16

/-- The cause codes TRAP may name: those of R115 other than 0x17, 0x1A and 0x1B (R106). -/
def trapCauseLegal (c : Imm7) : Bool :=
  let n := c.toNat
  (1 ≤ n && n ≤ 5) || (8 ≤ n && n ≤ 0x16) || n == 0x18 || n == 0x19

/-- The system registers RDSR reads (R107). -/
def sysRegListed (n : Imm7) : Bool := n.toNat ≤ 0x17

/-- The system registers WRSR writes (R107). -/
def sysRegWritable (n : Imm7) : Bool := n.toNat == 0x0A || n.toNat == 0x0B

/-- A cache policy without reserved bits or codes (R206). -/
def policyLegal (p : BitVec 8) : Bool :=
  p.extractLsb' 5 3 == 0#3 && p.extractLsb' 2 2 != 3#2 && p.extractLsb' 0 2 != 3#2

/-- A field that must name a multiple of 4 (R93, R111). -/
def mult4 {n : Nat} (x : BitVec n) : Bool := x.toNat % 4 == 0
/-- A field that must be even (R23, R104). -/
def even {n : Nat} (x : BitVec n) : Bool := x.toNat % 2 == 0

/-- A load's type code with its destination (R111). -/
def loadTypeLegal (t : TypeCode) (d : VReg) : Bool :=
  t.toNat ≤ 6 && (t.toNat != 5 || even d) && (t.toNat != 6 || mult4 d)

/-- A store's type code with its data register (R111): codes 1 and 3 are not stores'. -/
def storeTypeLegal (t : TypeCode) (d : VReg) : Bool :=
  t.toNat != 1 && t.toNat != 3 && loadTypeLegal t d

/-- An atomic operation with its width (R104, R112): fadd is 32 bits wide. -/
def atomOpLegal (op : BitVec 5) (w : Bool) : Bool := op.toNat ≤ 11 && !(op.toNat == 9 && w)

/-- Whether an instruction is one that words encode. -/
def Instr.wf : Instr → Bool
  | .callf _ dem _ => dem.legal
  | .callx _ dem _ => dem.legal
  | .trap c _ => trapCauseLegal c
  | .rdsr _ n _ => sysRegListed n
  | .wrsr _ n _ => sysRegWritable n
  | .hash d _ _ => mult4 d
  | .sign d a _ _ => mult4 d && mult4 a
  | .drdv d _ _ | .dwrv d _ _ | .drds d _ _ | .dwrs d _ _ | .drdt d _ _ | .dwrt d _ _
  | .drda d _ _ | .dwra d _ _ | .drdg d _ _ | .dwrg d _ _ | .genrd d _ _ => even d
  | .bfx _ _ _ len _ _ => 1 ≤ len.toNat && len.toNat ≤ 32
  | .bfi _ _ _ len _ => 1 ≤ len.toNat && len.toNat ≤ 32
  | .icmpV _ _ _ c _ => c.toNat ≤ 9
  | .icmpS _ _ _ c _ => c.toNat ≤ 9
  | .fset _ _ _ c _ => c.toNat ≤ 7
  | .fsetk _ _ c _ => c.toNat ≤ 7
  | .ldLong d _ _ t p _ => loadTypeLegal t d && policyLegal p
  | .stLong d _ _ t p _ => storeTypeLegal t d && policyLegal p
  | .ldp d _ t _ => loadTypeLegal t d
  | .lds d _ t _ => loadTypeLegal t d
  | .stp d _ t _ => storeTypeLegal t d
  | .sts d _ t _ => storeTypeLegal t d
  | .putp d _ t _ => storeTypeLegal t d
  | .atom d _ _ c op w _ => atomOpLegal op w && (!w || (even d && even c))
  | .ratom d _ _ c op w _ => atomOpLegal op w && (!w || (even d && even c))
  | .atoms _ _ c op w _ => atomOpLegal op w && (!w || even c)
  | .cas d _ _ c e w _ =>
      w.toNat ≤ 2 && (w.toNat != 1 || (even d && even c && even e))
        && (w.toNat != 2 || (mult4 d && mult4 c && mult4 e))
  | .fenceAr sc _ => sc.toNat ≤ 6
  | .fenceAcq sc _ => sc.toNat ≤ 6
  | .fenceRel sc _ => sc.toNat ≤ 6
  | .arrv _ sc _ => 1 ≤ sc.toNat && sc.toNat ≤ 3
  | .barw _ sc _ => 1 ≤ sc.toNat && sc.toNat ≤ 3
  | .cpy d a _ _ => mult4 d && mult4 a
  | .cpys _ a _ _ => mult4 a
  | .gath d _ _ _ => mult4 d
  | .scat d _ _ _ => mult4 d
  | .put d a _ _ => mult4 d && mult4 a
  | .get d a _ _ => mult4 d && mult4 a
  | .trig d a _ _ _ => mult4 d && mult4 a
  | .trigx d a _ _ _ => mult4 d && mult4 a
  | .coll d a _ kind op _ _ =>
      mult4 d && mult4 a && kind.toNat ≤ 5 && op.toNat ≤ 3 && (kind.toNat < 3 || op.toNat == 0)
  | .rgnreg d _ _ => even d
  | .mma _ _ _ fb _ _ => even fb
  | .mmaSgn _ _ _ fb _ _ _ => even fb
  | _ => true

end Sys2Proof
end

