-- ==== Sys2Proof/Decode.lean ====
section
/-! DEFINITION. From words to an instruction, or to the trap cause that R76 gives, and back. `decode` takes the words
of a run from an instruction position to the run's end. The checks stand in the order of R76 and R92: class of the
word, unassigned major or minor code, literals past the run, class of each literal, contents of the literals, field
kinds. `encode` is written from the same tables (R56, R91 to R113). -/

namespace Sys2Proof

/-! ## Trap causes (R115) -/

def causeIllop : Imm8 := 0x01
def causeNothdr : Imm8 := 0x02
def causeBadhdr : Imm8 := 0x03
def causeStraylit : Imm8 := 0x04
def causeRegfield : Imm8 := 0x05
def causePage : Imm8 := 0x08
def causePerm : Imm8 := 0x09
def causeBounds : Imm8 := 0x0A
def causeRkey : Imm8 := 0x0B
def causeRangelock : Imm8 := 0x0C
def causeTilebusy : Imm8 := 0x0D
def causeHandoff : Imm8 := 0x0E
def causeTagread : Imm8 := 0x0F
def causeRegloss : Imm8 := 0x10
def causeFpe : Imm8 := 0x11
def causeMmagroup : Imm8 := 0x12
def causeCountmismatch : Imm8 := 0x13
def causeAlign : Imm8 := 0x14
def causeFramelimit : Imm8 := 0x15
def causeOperr : Imm8 := 0x16
def causeSvc : Imm8 := 0x18
def causeBkpt : Imm8 := 0x19
def causeKilled : Imm8 := 0x1A

/-! ## Fields of an instruction word (R56) -/

def fClass (w : Word) : BitVec 1 := w.extractLsb' 31 1
def fMajor (w : Word) : BitVec 7 := w.extractLsb' 24 7
def fD (w : Word) : BitVec 7 := w.extractLsb' 17 7
def fA (w : Word) : BitVec 7 := w.extractLsb' 10 7
def fB (w : Word) : BitVec 7 := w.extractLsb' 3 7
def fG (w : Word) : PReg := w.extractLsb' 0 3
/-- The class bits of any code word (R54). -/
def fTop (w : Word) : BitVec 2 := w.extractLsb' 30 2
/-- The payload of a literal word (R61). -/
def fPay (w : Word) : BitVec 30 := w.extractLsb' 0 30
/-- Whether a word is a literal word (R54). -/
def isLit (w : Word) : Bool := fTop w == 2#2
/-- Whether a word is a clause header (R54). -/
def isHdr (w : Word) : Bool := fTop w == 3#2

/-! ## Clause headers (R63) -/

def hdrWait (w : Word) : BitVec 12 := w.extractLsb' 18 12
def hdrSetA (w : Word) : BitVec 4 := w.extractLsb' 14 4
def hdrSetB (w : Word) : BitVec 4 := w.extractLsb' 10 4
def hdrLen (w : Word) : Nat := (w.extractLsb' 5 5).toNat
def hdrYield (w : Word) : Bool := w.getLsbD 4

/-- A set-flag field R63 accepts: 0 to 11, or 15 for none. -/
def setFlagLegal (x : BitVec 4) : Bool := x.toNat ≤ 11 || x == 15#4

/-- What R76 says of a word in header position: none when it is a well-formed header. -/
def headerFault (w : Word) : Option Imm8 :=
  if !isHdr w then some causeNothdr
  else if setFlagLegal (hdrSetA w) && setFlagLegal (hdrSetB w) && 1 ≤ hdrLen w && hdrLen w ≤ 24
      && w.extractLsb' 0 4 == 0#4 then none
  else some causeBadhdr

/-- A clause header with these fields (R63). -/
def mkHeader (wait : BitVec 12) (seta setb : BitVec 4) (len : BitVec 5) (yield : Bool) : Word :=
  3#2 ++ wait ++ seta ++ setb ++ len ++ BitVec.ofBool yield ++ 0#4

/-! ## Literal counts and minor codes (R91, R106 to R113) -/

/-- The literal count of an instruction word, or none when its major or minor code is unassigned (R91, R95 to R113). -/
def litCount (w : Word) : Option Nat :=
  let b := (fB w).toNat
  let ok (c : Bool) (n : Nat) : Option Nat := if c then some n else none
  match (fMajor w).toNat with
  | 0x00 => some 0 | 0x01 => some 1 | 0x02 => ok (b ≤ 2) 1 | 0x03 => some 0
  | 0x04 => some 2 | 0x05 => some 1 | 0x06 => some 0 | 0x07 => some 0
  | 0x08 => some 0 | 0x09 => some 1 | 0x0A => some 1 | 0x0B => some 0
  | 0x0C => some 1 | 0x0D => some 0 | 0x0E => some 0 | 0x0F => some 1
  | 0x10 => some 0 | 0x11 => some 1 | 0x12 => some 0 | 0x13 => ok (trapCauseLegal (fB w)) 0
  | 0x14 => some 1 | 0x15 => some 0 | 0x16 => some 0 | 0x17 => some 1
  | 0x18 => ok (sysRegListed (fB w)) 0 | 0x19 => ok (sysRegWritable (fB w)) 0
  | 0x1A => some 0 | 0x1B => ok (b ≤ 2) 0 | 0x1C => some 0 | 0x1D => some 0
  | 0x1E => ok (b ≤ 11) 0 | 0x1F => none
  | 0x20 => some 0 | 0x21 => some 0 | 0x22 => some 0 | 0x23 => some 0
  | 0x24 => some 0 | 0x25 => some 0 | 0x26 => some 0 | 0x27 => some 0
  | 0x28 => some 0 | 0x29 => some 1 | 0x2A => some 1 | 0x2B => some 1
  | 0x2C => some 1 | 0x2D => ok (b ≤ 9) 0 | 0x2E => some 0 | 0x2F => some 0
  | 0x30 => some 0 | 0x31 => some 0 | 0x32 => some 2 | 0x33 => some 1
  | 0x34 => some 1 | 0x35 => some 1 | 0x36 => some 1 | 0x37 => ok (b ≤ 2) 0
  | 0x38 => some 0 | 0x39 => some 1 | 0x3A => ok (b ≤ 10) 0 | 0x3B => some 0
  | 0x3C => some 1 | 0x3D => some 1 | 0x3E => some 0 | 0x3F => some 0
  | 0x40 => some 0 | 0x41 => some 0 | 0x42 => some 0 | 0x43 => some 0
  | 0x44 => some 0 | 0x45 => some 1 | 0x46 => some 1 | 0x47 => some 1
  | 0x48 => ok (b < 36 || b == 36 || b == 40) 0 | 0x49 => ok (b < 48) 0
  | 0x4A => some 1 | 0x4B => none
  | 0x4C => some 0 | 0x4D => some 1 | 0x4E => some 0 | 0x4F => some 1
  | 0x50 => ok (b ≤ 6) 0 | 0x51 => ok (b ≤ 6 && b != 1 && b != 3) 0
  | 0x52 => ok (b ≤ 6) 0 | 0x53 => ok (b ≤ 6 && b != 1 && b != 3) 0
  | 0x54 => ok (b ≤ 2) 0 | 0x55 => some 1 | 0x56 => some 1 | 0x57 => some 1
  | 0x58 => some 1
  | 0x59 => ok (b < 24 && b % 8 != 7) 0
  | 0x5A => some 0 | 0x5B => some 0 | 0x5C => some 0 | 0x5D => some 0
  | 0x5E => ok (b < 32 && ((b % 4 ≤ 1 && 1 ≤ b / 4 && b / 4 ≤ 3) || (b % 4 == 2 && b / 4 == 3))) 0
  | 0x5F => ok (b ≤ 6 && b != 1 && b != 3) 0
  | 0x60 => some 0 | 0x61 => some 0 | 0x62 => some 0 | 0x63 => some 0
  | 0x64 => some 0 | 0x65 => some 0 | 0x66 => some 0 | 0x67 => some 0
  | 0x68 => some 1 | 0x69 => ok (b ≤ 3) 0 | 0x6A => some 1 | 0x6B => some 0
  | 0x6C => some 1 | 0x6D => ok (b ≤ 1) 0 | 0x6E => ok (b ≤ 2) 0 | 0x6F => some 0
  | 0x70 => some 0 | 0x71 => some 0 | 0x72 => some 0 | 0x73 => some 0
  | 0x74 => some 1 | 0x75 => some 1 | 0x76 => none | 0x77 => none
  | _ => some 0

/-! ## Field kinds (R57) -/

/-- A reason to reject a word, in the order of R76: the literal row before the field row. -/
abbrev Dec (α : Type) := Except Imm8 α

/-- A field of kind S. -/
def kS (f : BitVec 7) : Dec SReg := if f.toNat < 64 then .ok (f.setWidth 6) else .error causeRegfield
/-- A field of kind P. -/
def kP (f : BitVec 7) : Dec PReg := if f.toNat < 8 then .ok (f.setWidth 3) else .error causeRegfield
/-- A field of kind T. -/
def kT (f : BitVec 7) : Dec TReg := if f.toNat < 16 then .ok (f.setWidth 4) else .error causeRegfield
/-- A field of kind C. -/
def kC (f : BitVec 7) : Dec AReg := if f.toNat < 8 then .ok (f.setWidth 3) else .error causeRegfield
/-- A field of kind H. -/
def kH (f : BitVec 7) : Dec HReg := if f.toNat < 16 then .ok (f.setWidth 4) else .error causeRegfield
/-- A field of kind Z. -/
def kZ (f : BitVec 7) : Dec Unit := if f = 0#7 then .ok () else .error causeRegfield
/-- A check of the literal row (R92). -/
def ill (c : Bool) : Dec Unit := if c then .ok () else .error causeIllop
/-- A check of the field row (R57, R93, R104). -/
def reg (c : Bool) : Dec Unit := if c then .ok () else .error causeRegfield

/-! ## Instructions with a format of their own -/

/-- A vector long-form operation (R108, R180); codes above 11 have no vector long form. -/
def buildLongV (op : Nat) (d a b : VReg) (g : PReg) : Dec Instr :=
  match op with
  | 0 => .ok (.imulhV true d a b g) | 1 => .ok (.imulhV false d a b g)
  | 2 => .ok (.idivV true d a b g) | 3 => .ok (.idivV false d a b g)
  | 4 => .ok (.iremV true d a b g) | 5 => .ok (.iremV false d a b g)
  | 6 => .ok (.iminV true d a b g) | 7 => .ok (.iminV false d a b g)
  | 8 => .ok (.imaxV true d a b g) | 9 => .ok (.imaxV false d a b g)
  | 10 => .ok (.shrS32V d a b g) | 11 => .ok (.rotlV d a b g)
  | _ => .error causeIllop

/-- A scalar long-form operation (R108, R180). -/
def buildLongS (op : Nat) (d a b : SReg) (g : PReg) : Dec Instr :=
  match op with
  | 0 => .ok (.imulhS true d a b g) | 1 => .ok (.imulhS false d a b g)
  | 2 => .ok (.idivS true d a b g) | 3 => .ok (.idivS false d a b g)
  | 4 => .ok (.iremS true d a b g) | 5 => .ok (.iremS false d a b g)
  | 6 => .ok (.iminS true d a b g) | 7 => .ok (.iminS false d a b g)
  | 8 => .ok (.imaxS true d a b g) | 9 => .ok (.imaxS false d a b g)
  | 10 => .ok (.shrS32S d a b g) | 11 => .ok (.rotlS d a b g)
  | 12 => .ok (.andS d a b g) | 13 => .ok (.orS d a b g) | 14 => .ok (.xorS d a b g)
  | 15 => .ok (.shlS d a b g) | 16 => .ok (.shrZ32S d a b g)
  | _ => .error causeIllop

/-- An integer unary operation (R108, R184): field a of LANEID is of kind Z. -/
def buildUnary (op : Nat) (d a : VReg) (g : PReg) : Dec Instr :=
  match op with
  | 0 => .ok (.mov d a g) | 1 => .ok (.not d a g) | 2 => .ok (.neg d a g)
  | 3 => .ok (.iabs d a g) | 4 => .ok (.popc d a g) | 5 => .ok (.clz d a g)
  | 6 => .ok (.brev d a g) | 7 => .ok (.sext8 d a g) | 8 => .ok (.sext16 d a g)
  | _ => if a = 0#7 then .ok (.laneid d g) else .error causeRegfield

/-- A group reduction (R110, R190). -/
def buildGred (op : Nat) (d a : VReg) (g : PReg) : Dec Instr :=
  match op with
  | 0 => .ok (.gredIadd d a g) | 1 => .ok (.gredIminS32 d a g) | 2 => .ok (.gredIminZ32 d a g)
  | 3 => .ok (.gredImaxS32 d a g) | 4 => .ok (.gredImaxZ32 d a g) | 5 => .ok (.gredAnd d a g)
  | 6 => .ok (.gredOr d a g) | 7 => .ok (.gredXor d a g) | 8 => .ok (.gredFadd d a g)
  | 9 => .ok (.gredFmin d a g) | _ => .ok (.gredFmax d a g)

/-- A floating-point long form (R104, R193): only the fused operations have an addend. -/
def buildFpLong (op : Nat) (r : Rnd) (c : VReg) (d a b : VReg) (g : PReg) : Dec Instr := do
  ill (op ≤ 8)
  ill (op == 3 || op == 5 || op == 6 || c == 0#7)
  match op with
  | 0 => .ok (.faddLong r d a b g) | 1 => .ok (.fsub r d a b g) | 2 => .ok (.fmulLong r d a b g)
  | 3 => .ok (.ffmaLong r d a b c g) | 4 => .ok (.fdivLong r d a b g)
  | 5 => .ok (.ffms r d a b c g) | 6 => .ok (.fnma r d a b c g)
  | 7 => .ok (.fminLong r d a b g) | _ => .ok (.fmaxLong r d a b g)

/-- A floating-point unary operation (R110, R199). -/
def buildFpUnary (op : Nat) (r : Rnd) (d a : VReg) (g : PReg) : Dec Instr :=
  match op with
  | 0 => .ok (.fsqrt r d a g) | 1 => .ok (.frsq r d a g) | 2 => .ok (.frcp r d a g)
  | 3 => .ok (.fexp2 r d a g) | 4 => .ok (.flog2 r d a g) | 5 => .ok (.fsin r d a g)
  | 6 => .ok (.fcos r d a g) | 7 => .ok (.ftanh r d a g) | 8 => .ok (.frint r d a g)
  | 9 => .ok (.fabs d a g) | _ => .ok (.fneg d a g)

/-- A conversion (R110, R201). -/
def buildFcvt (op : Nat) (r : Rnd) (d a : VReg) (g : PReg) : Dec Instr :=
  match op with
  | 0 => .ok (.fcvtS32F32 r d a g) | 1 => .ok (.fcvtZ32F32 r d a g) | 2 => .ok (.fcvtF32S32 r d a g)
  | 3 => .ok (.fcvtF32Z32 r d a g) | 4 => .ok (.fcvtBf16F32 r d a g) | 5 => .ok (.fcvtF16F32 r d a g)
  | 6 => .ok (.fcvtF32Bf16 r d a g) | 7 => .ok (.fcvtF32F16 r d a g) | 8 => .ok (.fcvtE4m3F32 r d a g)
  | 9 => .ok (.fcvtE5m2F32 r d a g) | 10 => .ok (.fcvtF32E4m3 r d a g) | _ => .ok (.fcvtF32E5m2 r d a g)

/-- A packed 16-bit operation (R104, R202). -/
def buildPacked (p : BitVec 30) (d a b : VReg) (g : PReg) : Dec Instr := do
  ill (p.extractLsb' 15 15 == 0#15)
  ill (p.extractLsb' 13 2 == 0#2 || p.extractLsb' 13 2 == 1#2)
  let bf := p.extractLsb' 13 2 == 1#2
  let r : Rnd := p.extractLsb' 4 2
  let c : VReg := p.extractLsb' 6 7
  match (p.extractLsb' 0 4).toNat with
  | 0 => .ok (.hadd2 bf r d a b c g) | 1 => .ok (.hmul2 bf r d a b c g) | 2 => .ok (.hfma2 bf r d a b c g)
  | 3 => .ok (.hmin2 bf r d a b c g) | 4 => .ok (.hmax2 bf r d a b c g)
  | _ => .error causeIllop

/-- A debug operation (R96, R106, R171): field d is even but under GENCERT, which ignores it. -/
def buildDbg (op : Nat) (d a : SReg) (g : PReg) : Dec Instr := do
  reg (op == 11 || even d)
  match op with
  | 0 => .ok (.drdv d a g) | 1 => .ok (.dwrv d a g) | 2 => .ok (.drds d a g) | 3 => .ok (.dwrs d a g)
  | 4 => .ok (.drdt d a g) | 5 => .ok (.dwrt d a g) | 6 => .ok (.drda d a g) | 7 => .ok (.dwra d a g)
  | 8 => .ok (.drdg d a g) | 9 => .ok (.dwrg d a g) | 10 => .ok (.genrd d a g) | _ => .ok (.gencert d a g)

/-- A load's or store's register group (R111, R214). -/
def typeRegs (t : TypeCode) (d : VReg) : Dec Unit :=
  reg ((t.toNat != 5 || even d) && (t.toNat != 6 || mult4 d))

/-- The atomic literal (R104): value register, operation and width. -/
def atomLit (p : BitVec 30) : Dec Unit := do
  ill (p.extractLsb' 14 16 == 0#16)
  ill (p.extractLsb' 12 2 == 0#2 || p.extractLsb' 12 2 == 1#2)
  ill (atomOpLegal (p.extractLsb' 7 5) (p.extractLsb' 12 2 == 1#2))

/-- An instruction from its word and its literals' payloads (R95 to R113), the majors 0x00 to 0x33. -/
def buildLow (m : Nat) (w : Word) (p q : BitVec 30) : Dec Instr :=
  let d := fD w; let a := fA w; let b := fB w; let g := fG w
  match m with
  | 0x00 => do kZ d; kZ a; kZ b; .ok (.nop g)
  | 0x01 => do kZ d; kZ a; kZ b; .ok (.bra p g)
  | 0x02 => do
      kZ d; kZ a
      match b.toNat with
      | 0 => .ok (.brcAny p g) | 1 => .ok (.brcAll p g) | _ => .ok (.brcNone p g)
  | 0x03 => do kZ d; kZ b; let a ← kS a; .ok (.brx a g)
  | 0x04 => do
      ill (q.extractLsb' 12 18 == 0#18); ill (Demand.legal (q.setWidth 12))
      kZ d; kZ a; kZ b; .ok (.callf p (q.setWidth 12) g)
  | 0x05 => do
      ill (p.extractLsb' 12 18 == 0#18); ill (Demand.legal (p.setWidth 12))
      kZ d; kZ b; let a ← kS a; .ok (.callx a (p.setWidth 12) g)
  | 0x06 => do kZ d; kZ a; kZ b; .ok (.retf g)
  | 0x07 => do kZ d; kZ a; .ok (.unwind b g)
  | 0x08 => do kZ d; kZ a; .ok (.winb b g)
  | 0x09 => do kZ d; kZ b; let a ← kP a; .ok (.ifp a p g)
  | 0x0A => do kZ d; kZ a; kZ b; reg (g == 0#3); .ok (.elsep p)
  | 0x0B => do kZ d; kZ a; kZ b; reg (g == 0#3); .ok .endif
  | 0x0C => do kZ d; kZ a; kZ b; reg (g == 0#3); .ok (.loop p)
  | 0x0D => do kZ d; kZ b; let a ← kP a; .ok (.brk a g)
  | 0x0E => do kZ d; kZ b; let a ← kP a; .ok (.cont a g)
  | 0x0F => do kZ d; kZ a; kZ b; reg (g == 0#3); .ok (.endl p)
  | 0x10 => do kZ d; kZ a; kZ b; reg (g == 0#3); .ok .serb
  | 0x11 => do kZ d; kZ a; kZ b; reg (g == 0#3); .ok (.sere p)
  | 0x12 => do kZ d; kZ a; kZ b; .ok (.exit g)
  | 0x13 => do kZ d; kZ a; .ok (.trap b g)
  | 0x14 => do kZ d; kZ a; kZ b; .ok (.svc p g)
  | 0x15 => do kZ d; kZ a; kZ b; .ok (.bkpt g)
  | 0x16 => do kZ d; kZ a; kZ b; .ok (.yield g)
  | 0x17 => do ill (p.extractLsb' 12 18 == 0#18); kZ d; kZ a; kZ b; .ok (.waitf (p.setWidth 12) g)
  | 0x18 => do kZ a; let d ← kS d; .ok (.rdsr d b g)
  | 0x19 => do kZ d; let a ← kS a; .ok (.wrsr a b g)
  | 0x1A => do kZ a; kZ b; let d ← kS d; .ok (.clock d g)
  | 0x1B => do
      kZ d; let a ← kS a
      match b.toNat with
      | 0 => .ok (.cacheIinv a g) | 1 => .ok (.cacheIinvall a g) | _ => .ok (.cacheL1inv a g)
  | 0x1C => do kZ a; let d ← kS d; reg (mult4 d); .ok (.hash d b g)
  | 0x1D => do let d ← kS d; let a ← kS a; reg (mult4 d && mult4 a); .ok (.sign d a b g)
  | 0x1E => do let d ← kS d; let a ← kS a; buildDbg b.toNat d a g
  | 0x20 => .ok (.iaddV d a b g)
  | 0x21 => .ok (.isubV d a b g)
  | 0x22 => .ok (.imulV d a b g)
  | 0x23 => .ok (.iaddiV d a b g)
  | 0x24 => .ok (.andV d a b g)
  | 0x25 => .ok (.orV d a b g)
  | 0x26 => .ok (.xorV d a b g)
  | 0x27 => .ok (.shlV d a b g)
  | 0x28 => .ok (.shrZ32V d a b g)
  | 0x29 => do ill (p.extractLsb' 6 24 == 0#24); buildLongV (p.extractLsb' 0 6).toNat d a b g
  | 0x2A => do kZ a; kZ b; .ok (.movlV d p g)
  | 0x2B => do
      ill (p.extractLsb' 12 18 == 0#18)
      ill (1 ≤ (p.extractLsb' 5 6).toNat && (p.extractLsb' 5 6).toNat ≤ 32)
      kZ b; .ok (.bfx d a (p.extractLsb' 0 5) (p.extractLsb' 5 6) (p.getLsbD 11) g)
  | 0x2C => do
      ill (p.extractLsb' 11 19 == 0#19)
      ill (1 ≤ (p.extractLsb' 5 6).toNat && (p.extractLsb' 5 6).toNat ≤ 32)
      kZ b; .ok (.bfi d a (p.extractLsb' 0 5) (p.extractLsb' 5 6) g)
  | 0x2D => buildUnary b.toNat d a g
  | 0x2E => do let d ← kS d; let a ← kS a; let b ← kS b; .ok (.iaddS d a b g)
  | 0x2F => do let d ← kS d; let a ← kS a; let b ← kS b; .ok (.isubS d a b g)
  | 0x30 => do let d ← kS d; let a ← kS a; .ok (.iaddiS d a b g)
  | 0x31 => do let d ← kS d; let a ← kS a; let b ← kS b; .ok (.imulS d a b g)
  | 0x32 => do kZ a; kZ b; let d ← kS d; .ok (.movlS d (q ++ p) g)
  | 0x33 => do
      ill (p.extractLsb' 6 24 == 0#24); ill ((p.extractLsb' 0 6).toNat ≤ 16)
      let d ← kS d; let a ← kS a; let b ← kS b; buildLongS (p.extractLsb' 0 6).toNat d a b g
  | _ => .error causeIllop

/-- The same for the majors 0x34 to 0x5F. -/
def buildMid (m : Nat) (w : Word) (p : BitVec 30) : Dec Instr :=
  let d := fD w; let a := fA w; let b := fB w; let g := fG w
  match m with
  | 0x34 => do
      ill (p.extractLsb' 4 26 == 0#26); ill ((p.extractLsb' 0 4).toNat ≤ 9)
      let d ← kP d; .ok (.icmpV d a b (p.extractLsb' 0 4) g)
  | 0x35 => do
      ill (p.extractLsb' 4 26 == 0#26); ill ((p.extractLsb' 0 4).toNat ≤ 9)
      let d ← kP d; let a ← kS a; let b ← kS b; .ok (.icmpS d a b (p.extractLsb' 0 4) g)
  | 0x36 => do
      ill (p.extractLsb' 4 26 == 0#26)
      let d ← kP d; let a ← kP a; let b ← kP b; .ok (.plog d a b (p.extractLsb' 0 4) g)
  | 0x37 => do
      let d ← kS d; let a ← kP a
      match b.toNat with
      | 0 => .ok (.voteAny d a g) | 1 => .ok (.voteAll d a g) | _ => .ok (.voteCount d a g)
  | 0x38 => do kZ b; let a ← kP a; .ok (.ballot d a g)
  | 0x39 => do
      ill (p.extractLsb' 2 28 == 0#28)
      match (p.extractLsb' 0 2).toNat with
      | 0 => .ok (.shfl d a b g) | 1 => .ok (.shflu d a b g) | 2 => .ok (.shfld d a b g)
      | _ => .ok (.shflx d a b g)
  | 0x3A => buildGred b.toNat d a g
  | 0x3B => do kZ b; let a ← kS a; .ok (.movs d a g)
  | 0x3C => do ill (p.extractLsb' 10 20 == 0#20); kZ b; let d ← kS d; .ok (.rdln d a (p.extractLsb' 0 10) g)
  | 0x3D => do ill (p.extractLsb' 3 27 == 0#27); .ok (.sel d a b (p.extractLsb' 0 3) g)
  | 0x3E => .ok (.fadd d a b g)
  | 0x3F => .ok (.fmul d a b g)
  | 0x40 => .ok (.fdiv d a b g)
  | 0x41 => .ok (.fmin d a b g)
  | 0x42 => .ok (.fmax d a b g)
  | 0x43 => do kZ b; .ok (.fmaxz d a g)
  | 0x44 => do kZ b; .ok (.fminz d a g)
  | 0x45 => do
      ill (p.extractLsb' 4 26 == 0#26); ill ((p.extractLsb' 0 4).toNat ≤ 7)
      let d ← kP d; .ok (.fset d a b (p.extractLsb' 0 4) g)
  | 0x46 => do
      ill (p.extractLsb' 4 26 == 0#26); ill ((p.extractLsb' 0 4).toNat ≤ 7)
      kZ b; .ok (.fsetk d a (p.extractLsb' 0 4) g)
  | 0x47 => do
      ill (p.extractLsb' 14 16 == 0#16)
      buildFpLong (p.extractLsb' 0 5).toNat (p.extractLsb' 5 2) (p.extractLsb' 7 7) d a b g
  | 0x48 => buildFpUnary (b.toNat / 4) (b.setWidth 2) d a g
  | 0x49 => buildFcvt (b.toNat / 4) (b.setWidth 2) d a g
  | 0x4A => buildPacked p d a b g
  | 0x4C => .ok (.ld d a b g)
  | 0x4D => do
      ill (p.extractLsb' 12 18 == 0#18); ill ((p.extractLsb' 0 4).toNat ≤ 6)
      ill (policyLegal (p.extractLsb' 4 8))
      typeRegs (p.extractLsb' 0 4) d; .ok (.ldLong d a b (p.extractLsb' 0 4) (p.extractLsb' 4 8) g)
  | 0x4E => .ok (.st d a b g)
  | 0x4F => do
      let t := p.extractLsb' 0 4
      ill (p.extractLsb' 12 18 == 0#18); ill (t.toNat ≤ 6 && t.toNat != 1 && t.toNat != 3)
      ill (policyLegal (p.extractLsb' 4 8))
      typeRegs t d; .ok (.stLong d a b t (p.extractLsb' 4 8) g)
  | 0x50 => do typeRegs (b.setWidth 4) d; .ok (.ldp d a (b.setWidth 4) g)
  | 0x51 => do typeRegs (b.setWidth 4) d; .ok (.stp d a (b.setWidth 4) g)
  | 0x52 => do typeRegs (b.setWidth 4) d; .ok (.lds d a (b.setWidth 4) g)
  | 0x53 => do typeRegs (b.setWidth 4) d; .ok (.sts d a (b.setWidth 4) g)
  | 0x54 => match b.toNat with
      | 0 => .ok (.lookup d a g) | 1 => .ok (.tagset d a g) | _ => .ok (.taginv d a g)
  | 0x55 => do
      atomLit p
      reg (p.extractLsb' 12 2 == 0#2 || (even d && even (p.extractLsb' 0 7)))
      .ok (.atom d a b (p.extractLsb' 0 7) (p.extractLsb' 7 5) (p.extractLsb' 12 2 == 1#2) g)
  | 0x56 => do
      atomLit p
      reg (p.extractLsb' 12 2 == 0#2 || even (p.extractLsb' 0 7)); kZ d
      .ok (.atoms a b (p.extractLsb' 0 7) (p.extractLsb' 7 5) (p.extractLsb' 12 2 == 1#2) g)
  | 0x57 => do
      let c := p.extractLsb' 0 7; let e := p.extractLsb' 7 7; let wd := p.extractLsb' 14 2
      ill (p.extractLsb' 16 14 == 0#14); ill (wd.toNat ≤ 2)
      reg (wd.toNat != 1 || (even d && even c && even e))
      reg (wd.toNat != 2 || (mult4 d && mult4 c && mult4 e))
      .ok (.cas d a b c e wd g)
  | 0x58 => do
      ill (p.extractLsb' 2 28 == 0#28); kZ d
      match (p.extractLsb' 0 2).toNat with
      | 0 => .ok (.rlk a b g) | 1 => .ok (.runl a b g) | 2 => .ok (.wlk a b g) | _ => .ok (.wunl a b g)
  | 0x59 => do
      kZ d; kZ a
      match b.toNat / 8 with
      | 0 => .ok (.fenceAr (b.setWidth 3) g) | 1 => .ok (.fenceAcq (b.setWidth 3) g)
      | _ => .ok (.fenceRel (b.setWidth 3) g)
  | 0x5A => .ok (.waitw d a b g)
  | 0x5B => do kZ d; .ok (.pref a b g)
  | 0x5C => do kZ b; let d ← kH d; .ok (.hpush d a g)
  | 0x5D => do kZ b; let a ← kH a; .ok (.hpop d a g)
  | 0x5E => do
      kZ d
      match b.toNat % 4 with
      | 0 => do let a ← kS a; .ok (.arrv a (b.extractLsb' 2 3) g)
      | 1 => do let a ← kS a; .ok (.barw a (b.extractLsb' 2 3) g)
      | _ => do kZ a; .ok (.barc g)
  | 0x5F => do typeRegs (b.setWidth 4) d; .ok (.putp d a (b.setWidth 4) g)
  | _ => .error causeIllop

/-- The same for the majors 0x60 to 0x7F. -/
def buildHigh (m : Nat) (w : Word) (p : BitVec 30) : Dec Instr :=
  let d := fD w; let a := fA w; let b := fB w; let g := fG w
  match m with
  | 0x60 => do let d ← kS d; let a ← kS a; reg (mult4 d && mult4 a); .ok (.cpy d a b g)
  | 0x61 => do let d ← kS d; let a ← kS a; reg (mult4 a); .ok (.cpys d a b g)
  | 0x62 => do let d ← kS d; reg (mult4 d); .ok (.gath d a b g)
  | 0x63 => do let d ← kS d; reg (mult4 d); .ok (.scat d a b g)
  | 0x64 => do kZ a; kZ b; let d ← kS d; .ok (.cpyb d g)
  | 0x65 => do kZ d; kZ b; let a ← kS a; .ok (.waitb a g)
  | 0x66 => do let d ← kS d; let a ← kS a; reg (mult4 d && mult4 a); .ok (.put d a b g)
  | 0x67 => do let d ← kS d; let a ← kS a; reg (mult4 d && mult4 a); .ok (.get d a b g)
  | 0x68 => do
      atomLit p
      reg (p.extractLsb' 12 2 == 0#2 || (even d && even (p.extractLsb' 0 7)))
      .ok (.ratom d a b (p.extractLsb' 0 7) (p.extractLsb' 7 5) (p.extractLsb' 12 2 == 1#2) g)
  | 0x69 => do
      let d ← kS d; let a ← kS a
      match b.toNat with
      | 0 => .ok (.ctradd d a g) | 1 => .ok (.ctrset d a g) | 2 => .ok (.ctrwait d a g)
      | _ => .ok (.ctrrd d a g)
  | 0x6A => do
      ill (p.extractLsb' 9 21 == 0#21)
      let d ← kS d; let a ← kS a; reg (mult4 d && mult4 a)
      if p.getLsbD 8 then .ok (.trigx d a b (p.extractLsb' 0 8) g)
      else .ok (.trig d a b (p.extractLsb' 0 8) g)
  | 0x6B => do kZ d; kZ b; let a ← kS a; .ok (.fencex a g)
  | 0x6C => do
      let k := p.extractLsb' 0 4; let o := p.extractLsb' 4 4
      ill (p.extractLsb' 9 21 == 0#21); ill (k.toNat ≤ 5 && o.toNat ≤ 3)
      ill (k.toNat < 3 || o.toNat == 0)
      let d ← kS d; let a ← kS a; reg (mult4 d && mult4 a); .ok (.coll d a b k o (p.getLsbD 8) g)
  | 0x6D => do
      let d ← kS d; let a ← kS a
      match b.toNat with
      | 0 => do reg (even d); .ok (.rgnreg d a g)
      | _ => .ok (.rgnrev d a g)
  | 0x6E => do
      kZ d; let a ← kS a
      match b.toNat with
      | 0 => .ok (.tcfg a g) | 1 => .ok (.trel a g) | _ => .ok (.trelDiscard a g)
  | 0x6F => do let d ← kT d; .ok (.mld d a b g)
  | 0x70 => do let d ← kT d; .ok (.mst d a b g)
  | 0x71 => do kZ a; kZ b; let d ← kC d; .ok (.accz d g)
  | 0x72 => do let a ← kC a; let b ← kS b; .ok (.accrd d a b g)
  | 0x73 => do let d ← kC d; let b ← kS b; .ok (.accwr d a b g)
  | 0x74 => do
      ill (p.extractLsb' 12 18 == 0#18); ill (p.getLsbD 6 || p.extractLsb' 8 4 == 0#4)
      let d ← kC d; let a ← kT a; reg (even (p.extractLsb' 0 6))
      if p.getLsbD 6 then .ok (.mmaSgn d a b (p.extractLsb' 0 6) (p.getLsbD 7) (p.extractLsb' 8 4) g)
      else .ok (.mma d a b (p.extractLsb' 0 6) (p.getLsbD 7) g)
  | 0x75 => do
      ill (p.extractLsb' 2 28 == 0#28); ill ((p.extractLsb' 0 2).toNat ≤ 2)
      let a ← kT a
      match (p.extractLsb' 0 2).toNat with
      | 0 => do kZ b; let d ← kT d; .ok (.mtrn d a g)
      | 1 => do let d ← kT d; .ok (.mprm d a b g)
      | _ => do kZ b; let d ← kC d; .ok (.mrsum d a g)
  | _ => if 0x78 ≤ m then .ok (.ffma (w.extractLsb' 24 3) d a b g) else .error causeIllop

/-- An instruction from its word and its literals' payloads. -/
def build (w : Word) (p q : BitVec 30) : Dec Instr :=
  let m := (fMajor w).toNat
  if m < 0x34 then buildLow m w p q else if m < 0x60 then buildMid m w p else buildHigh m w p

/-- The instruction at the head of the words of a run, with the number of words it takes, or the cause of R76. The
list ends where the run ends; an empty list stands for no word at all and decodes to nothing. -/
def decode : List Word → Dec (Instr × Nat)
  | [] => .error causeBadhdr
  | w :: rest =>
    if isLit w then .error causeStraylit
    else if isHdr w then .error causeBadhdr
    else match litCount w with
      | none => .error causeIllop
      | some 0 => (build w 0 0).map (·, 1)
      | some 1 => match rest with
        | l :: _ => if isLit l then (build w (fPay l) 0).map (·, 2) else .error causeIllop
        | [] => .error causeBadhdr
      | some _ => match rest with
        | l :: l2 :: _ =>
          if isLit l && isLit l2 then (build w (fPay l) (fPay l2)).map (·, 3) else .error causeIllop
        | _ => .error causeBadhdr

/-! ## The encoder (R56, R91 to R113) -/

/-- An instruction word of these fields (R56). -/
def mkW (m : BitVec 7) (d a b : BitVec 7) (g : PReg) : Word := 0#1 ++ m ++ d ++ a ++ b ++ g
/-- A literal word of this payload (R61). -/
def mkL (p : BitVec 30) : Word := 2#2 ++ p
/-- A scalar name in a 7-bit field. -/
def eS (x : SReg) : BitVec 7 := x.setWidth 7
/-- A predicate or accumulator name in a 7-bit field. -/
def e3 (x : BitVec 3) : BitVec 7 := x.setWidth 7
/-- A tile or handoff name in a 7-bit field. -/
def e4 (x : BitVec 4) : BitVec 7 := x.setWidth 7

/-- The words of an instruction; a machine event has none. -/
def encode : Instr → List Word
  | .nop g => [mkW 0x00 0 0 0 g]
  | .bra t g => [mkW 0x01 0 0 0 g, mkL t]
  | .brcAny t g => [mkW 0x02 0 0 0 g, mkL t]
  | .brcAll t g => [mkW 0x02 0 0 1 g, mkL t]
  | .brcNone t g => [mkW 0x02 0 0 2 g, mkL t]
  | .brx a g => [mkW 0x03 0 (eS a) 0 g]
  | .callf t dem g => [mkW 0x04 0 0 0 g, mkL t, mkL (dem.setWidth 30)]
  | .callx a dem g => [mkW 0x05 0 (eS a) 0 g, mkL (dem.setWidth 30)]
  | .retf g => [mkW 0x06 0 0 0 g]
  | .unwind n g => [mkW 0x07 0 0 n g]
  | .winb w g => [mkW 0x08 0 0 w g]
  | .ifp a t g => [mkW 0x09 0 (e3 a) 0 g, mkL t]
  | .elsep t => [mkW 0x0A 0 0 0 0, mkL t]
  | .endif => [mkW 0x0B 0 0 0 0]
  | .loop t => [mkW 0x0C 0 0 0 0, mkL t]
  | .brk a g => [mkW 0x0D 0 (e3 a) 0 g]
  | .cont a g => [mkW 0x0E 0 (e3 a) 0 g]
  | .endl t => [mkW 0x0F 0 0 0 0, mkL t]
  | .serb => [mkW 0x10 0 0 0 0]
  | .sere t => [mkW 0x11 0 0 0 0, mkL t]
  | .exit g => [mkW 0x12 0 0 0 g]
  | .trap c g => [mkW 0x13 0 0 c g]
  | .svc n g => [mkW 0x14 0 0 0 g, mkL n]
  | .bkpt g => [mkW 0x15 0 0 0 g]
  | .yield g => [mkW 0x16 0 0 0 g]
  | .waitf m g => [mkW 0x17 0 0 0 g, mkL (m.setWidth 30)]
  | .rdsr d n g => [mkW 0x18 (eS d) 0 n g]
  | .wrsr a n g => [mkW 0x19 0 (eS a) n g]
  | .clock d g => [mkW 0x1A (eS d) 0 0 g]
  | .cacheIinv a g => [mkW 0x1B 0 (eS a) 0 g]
  | .cacheIinvall a g => [mkW 0x1B 0 (eS a) 1 g]
  | .cacheL1inv a g => [mkW 0x1B 0 (eS a) 2 g]
  | .hash d b g => [mkW 0x1C (eS d) 0 b g]
  | .sign d a b g => [mkW 0x1D (eS d) (eS a) b g]
  | .drdv d a g => [mkW 0x1E (eS d) (eS a) 0 g]
  | .dwrv d a g => [mkW 0x1E (eS d) (eS a) 1 g]
  | .drds d a g => [mkW 0x1E (eS d) (eS a) 2 g]
  | .dwrs d a g => [mkW 0x1E (eS d) (eS a) 3 g]
  | .drdt d a g => [mkW 0x1E (eS d) (eS a) 4 g]
  | .dwrt d a g => [mkW 0x1E (eS d) (eS a) 5 g]
  | .drda d a g => [mkW 0x1E (eS d) (eS a) 6 g]
  | .dwra d a g => [mkW 0x1E (eS d) (eS a) 7 g]
  | .drdg d a g => [mkW 0x1E (eS d) (eS a) 8 g]
  | .dwrg d a g => [mkW 0x1E (eS d) (eS a) 9 g]
  | .genrd d a g => [mkW 0x1E (eS d) (eS a) 10 g]
  | .gencert d a g => [mkW 0x1E (eS d) (eS a) 11 g]
  | .iaddV d a b g => [mkW 0x20 d a b g]
  | .isubV d a b g => [mkW 0x21 d a b g]
  | .imulV d a b g => [mkW 0x22 d a b g]
  | .iaddiV d a i g => [mkW 0x23 d a i g]
  | .andV d a b g => [mkW 0x24 d a b g]
  | .orV d a b g => [mkW 0x25 d a b g]
  | .xorV d a b g => [mkW 0x26 d a b g]
  | .shlV d a b g => [mkW 0x27 d a b g]
  | .shrZ32V d a b g => [mkW 0x28 d a b g]
  | .imulhV sg d a b g => [mkW 0x29 d a b g, mkL (bif sg then 0 else 1)]
  | .idivV sg d a b g => [mkW 0x29 d a b g, mkL (bif sg then 2 else 3)]
  | .iremV sg d a b g => [mkW 0x29 d a b g, mkL (bif sg then 4 else 5)]
  | .iminV sg d a b g => [mkW 0x29 d a b g, mkL (bif sg then 6 else 7)]
  | .imaxV sg d a b g => [mkW 0x29 d a b g, mkL (bif sg then 8 else 9)]
  | .shrS32V d a b g => [mkW 0x29 d a b g, mkL 10]
  | .rotlV d a b g => [mkW 0x29 d a b g, mkL 11]
  | .movlV d v g => [mkW 0x2A d 0 0 g, mkL v]
  | .bfx d a pos len sg g => [mkW 0x2B d a 0 g, mkL (0#18 ++ BitVec.ofBool sg ++ len ++ pos)]
  | .bfi d a pos len g => [mkW 0x2C d a 0 g, mkL (0#19 ++ len ++ pos)]
  | .mov d a g => [mkW 0x2D d a 0 g]
  | .not d a g => [mkW 0x2D d a 1 g]
  | .neg d a g => [mkW 0x2D d a 2 g]
  | .iabs d a g => [mkW 0x2D d a 3 g]
  | .popc d a g => [mkW 0x2D d a 4 g]
  | .clz d a g => [mkW 0x2D d a 5 g]
  | .brev d a g => [mkW 0x2D d a 6 g]
  | .sext8 d a g => [mkW 0x2D d a 7 g]
  | .sext16 d a g => [mkW 0x2D d a 8 g]
  | .laneid d g => [mkW 0x2D d 0 9 g]
  | .iaddS d a b g => [mkW 0x2E (eS d) (eS a) (eS b) g]
  | .isubS d a b g => [mkW 0x2F (eS d) (eS a) (eS b) g]
  | .iaddiS d a i g => [mkW 0x30 (eS d) (eS a) i g]
  | .imulS d a b g => [mkW 0x31 (eS d) (eS a) (eS b) g]
  | .movlS d v g => [mkW 0x32 (eS d) 0 0 g, mkL (v.extractLsb' 0 30), mkL (v.extractLsb' 30 30)]
  | .imulhS sg d a b g => [mkW 0x33 (eS d) (eS a) (eS b) g, mkL (bif sg then 0 else 1)]
  | .idivS sg d a b g => [mkW 0x33 (eS d) (eS a) (eS b) g, mkL (bif sg then 2 else 3)]
  | .iremS sg d a b g => [mkW 0x33 (eS d) (eS a) (eS b) g, mkL (bif sg then 4 else 5)]
  | .iminS sg d a b g => [mkW 0x33 (eS d) (eS a) (eS b) g, mkL (bif sg then 6 else 7)]
  | .imaxS sg d a b g => [mkW 0x33 (eS d) (eS a) (eS b) g, mkL (bif sg then 8 else 9)]
  | .shrS32S d a b g => [mkW 0x33 (eS d) (eS a) (eS b) g, mkL 10]
  | .rotlS d a b g => [mkW 0x33 (eS d) (eS a) (eS b) g, mkL 11]
  | .andS d a b g => [mkW 0x33 (eS d) (eS a) (eS b) g, mkL 12]
  | .orS d a b g => [mkW 0x33 (eS d) (eS a) (eS b) g, mkL 13]
  | .xorS d a b g => [mkW 0x33 (eS d) (eS a) (eS b) g, mkL 14]
  | .shlS d a b g => [mkW 0x33 (eS d) (eS a) (eS b) g, mkL 15]
  | .shrZ32S d a b g => [mkW 0x33 (eS d) (eS a) (eS b) g, mkL 16]
  | .icmpV d a b c g => [mkW 0x34 (e3 d) a b g, mkL (c.setWidth 30)]
  | .icmpS d a b c g => [mkW 0x35 (e3 d) (eS a) (eS b) g, mkL (c.setWidth 30)]
  | .plog d a b tt g => [mkW 0x36 (e3 d) (e3 a) (e3 b) g, mkL (tt.setWidth 30)]
  | .voteAny d a g => [mkW 0x37 (eS d) (e3 a) 0 g]
  | .voteAll d a g => [mkW 0x37 (eS d) (e3 a) 1 g]
  | .voteCount d a g => [mkW 0x37 (eS d) (e3 a) 2 g]
  | .ballot d a g => [mkW 0x38 d (e3 a) 0 g]
  | .shfl d a b g => [mkW 0x39 d a b g, mkL 0]
  | .shflu d a b g => [mkW 0x39 d a b g, mkL 1]
  | .shfld d a b g => [mkW 0x39 d a b g, mkL 2]
  | .shflx d a b g => [mkW 0x39 d a b g, mkL 3]
  | .gredIadd d a g => [mkW 0x3A d a 0 g]
  | .gredIminS32 d a g => [mkW 0x3A d a 1 g]
  | .gredIminZ32 d a g => [mkW 0x3A d a 2 g]
  | .gredImaxS32 d a g => [mkW 0x3A d a 3 g]
  | .gredImaxZ32 d a g => [mkW 0x3A d a 4 g]
  | .gredAnd d a g => [mkW 0x3A d a 5 g]
  | .gredOr d a g => [mkW 0x3A d a 6 g]
  | .gredXor d a g => [mkW 0x3A d a 7 g]
  | .gredFadd d a g => [mkW 0x3A d a 8 g]
  | .gredFmin d a g => [mkW 0x3A d a 9 g]
  | .gredFmax d a g => [mkW 0x3A d a 10 g]
  | .movs d a g => [mkW 0x3B d (eS a) 0 g]
  | .rdln d a n g => [mkW 0x3C (eS d) a 0 g, mkL (n.setWidth 30)]
  | .sel d a b p g => [mkW 0x3D d a b g, mkL (p.setWidth 30)]
  | .fadd d a b g => [mkW 0x3E d a b g]
  | .fmul d a b g => [mkW 0x3F d a b g]
  | .fdiv d a b g => [mkW 0x40 d a b g]
  | .fmin d a b g => [mkW 0x41 d a b g]
  | .fmax d a b g => [mkW 0x42 d a b g]
  | .fmaxz d a g => [mkW 0x43 d a 0 g]
  | .fminz d a g => [mkW 0x44 d a 0 g]
  | .fset d a b c g => [mkW 0x45 (e3 d) a b g, mkL (c.setWidth 30)]
  | .fsetk d a c g => [mkW 0x46 d a 0 g, mkL (c.setWidth 30)]
  | .faddLong r d a b g => [mkW 0x47 d a b g, mkL (0#23 ++ r ++ 0#5)]
  | .fsub r d a b g => [mkW 0x47 d a b g, mkL (0#23 ++ r ++ 1#5)]
  | .fmulLong r d a b g => [mkW 0x47 d a b g, mkL (0#23 ++ r ++ 2#5)]
  | .ffmaLong r d a b c g => [mkW 0x47 d a b g, mkL (0#16 ++ c ++ r ++ 3#5)]
  | .fdivLong r d a b g => [mkW 0x47 d a b g, mkL (0#23 ++ r ++ 4#5)]
  | .ffms r d a b c g => [mkW 0x47 d a b g, mkL (0#16 ++ c ++ r ++ 5#5)]
  | .fnma r d a b c g => [mkW 0x47 d a b g, mkL (0#16 ++ c ++ r ++ 6#5)]
  | .fminLong r d a b g => [mkW 0x47 d a b g, mkL (0#23 ++ r ++ 7#5)]
  | .fmaxLong r d a b g => [mkW 0x47 d a b g, mkL (0#23 ++ r ++ 8#5)]
  | .fsqrt r d a g => [mkW 0x48 d a (0#5 ++ r) g]
  | .frsq r d a g => [mkW 0x48 d a (1#5 ++ r) g]
  | .frcp r d a g => [mkW 0x48 d a (2#5 ++ r) g]
  | .fexp2 r d a g => [mkW 0x48 d a (3#5 ++ r) g]
  | .flog2 r d a g => [mkW 0x48 d a (4#5 ++ r) g]
  | .fsin r d a g => [mkW 0x48 d a (5#5 ++ r) g]
  | .fcos r d a g => [mkW 0x48 d a (6#5 ++ r) g]
  | .ftanh r d a g => [mkW 0x48 d a (7#5 ++ r) g]
  | .frint r d a g => [mkW 0x48 d a (8#5 ++ r) g]
  | .fabs d a g => [mkW 0x48 d a 36 g]
  | .fneg d a g => [mkW 0x48 d a 40 g]
  | .fcvtS32F32 r d a g => [mkW 0x49 d a (0#5 ++ r) g]
  | .fcvtZ32F32 r d a g => [mkW 0x49 d a (1#5 ++ r) g]
  | .fcvtF32S32 r d a g => [mkW 0x49 d a (2#5 ++ r) g]
  | .fcvtF32Z32 r d a g => [mkW 0x49 d a (3#5 ++ r) g]
  | .fcvtBf16F32 r d a g => [mkW 0x49 d a (4#5 ++ r) g]
  | .fcvtF16F32 r d a g => [mkW 0x49 d a (5#5 ++ r) g]
  | .fcvtF32Bf16 r d a g => [mkW 0x49 d a (6#5 ++ r) g]
  | .fcvtF32F16 r d a g => [mkW 0x49 d a (7#5 ++ r) g]
  | .fcvtE4m3F32 r d a g => [mkW 0x49 d a (8#5 ++ r) g]
  | .fcvtE5m2F32 r d a g => [mkW 0x49 d a (9#5 ++ r) g]
  | .fcvtF32E4m3 r d a g => [mkW 0x49 d a (10#5 ++ r) g]
  | .fcvtF32E5m2 r d a g => [mkW 0x49 d a (11#5 ++ r) g]
  | .hadd2 bf r d a b c g => [mkW 0x4A d a b g, mkL (0#16 ++ BitVec.ofBool bf ++ c ++ r ++ 0#4)]
  | .hmul2 bf r d a b c g => [mkW 0x4A d a b g, mkL (0#16 ++ BitVec.ofBool bf ++ c ++ r ++ 1#4)]
  | .hfma2 bf r d a b c g => [mkW 0x4A d a b g, mkL (0#16 ++ BitVec.ofBool bf ++ c ++ r ++ 2#4)]
  | .hmin2 bf r d a b c g => [mkW 0x4A d a b g, mkL (0#16 ++ BitVec.ofBool bf ++ c ++ r ++ 3#4)]
  | .hmax2 bf r d a b c g => [mkW 0x4A d a b g, mkL (0#16 ++ BitVec.ofBool bf ++ c ++ r ++ 4#4)]
  | .ffma k d a b g => [mkW (0xF#4 ++ k) d a b g]
  | .ld d a b g => [mkW 0x4C d a b g]
  | .ldLong d a b t pol g => [mkW 0x4D d a b g, mkL (0#18 ++ pol ++ t)]
  | .st d a b g => [mkW 0x4E d a b g]
  | .stLong d a b t pol g => [mkW 0x4F d a b g, mkL (0#18 ++ pol ++ t)]
  | .ldp d a t g => [mkW 0x50 d a (e4 t) g]
  | .stp d a t g => [mkW 0x51 d a (e4 t) g]
  | .lds d a t g => [mkW 0x52 d a (e4 t) g]
  | .sts d a t g => [mkW 0x53 d a (e4 t) g]
  | .lookup d a g => [mkW 0x54 d a 0 g]
  | .tagset d a g => [mkW 0x54 d a 1 g]
  | .taginv d a g => [mkW 0x54 d a 2 g]
  | .atom d a b c op w g => [mkW 0x55 d a b g, mkL (0#17 ++ BitVec.ofBool w ++ op ++ c)]
  | .atoms a b c op w g => [mkW 0x56 0 a b g, mkL (0#17 ++ BitVec.ofBool w ++ op ++ c)]
  | .cas d a b c e w g => [mkW 0x57 d a b g, mkL (0#14 ++ w ++ e ++ c)]
  | .rlk a b g => [mkW 0x58 0 a b g, mkL 0]
  | .runl a b g => [mkW 0x58 0 a b g, mkL 1]
  | .wlk a b g => [mkW 0x58 0 a b g, mkL 2]
  | .wunl a b g => [mkW 0x58 0 a b g, mkL 3]
  | .fenceAr sc g => [mkW 0x59 0 0 (0#4 ++ sc) g]
  | .fenceAcq sc g => [mkW 0x59 0 0 (1#4 ++ sc) g]
  | .fenceRel sc g => [mkW 0x59 0 0 (2#4 ++ sc) g]
  | .waitw d a b g => [mkW 0x5A d a b g]
  | .pref a b g => [mkW 0x5B 0 a b g]
  | .hpush h a g => [mkW 0x5C (e4 h) a 0 g]
  | .hpop d h g => [mkW 0x5D d (e4 h) 0 g]
  | .arrv a sc g => [mkW 0x5E 0 (eS a) (0#2 ++ sc ++ 0#2) g]
  | .barw a sc g => [mkW 0x5E 0 (eS a) (0#2 ++ sc ++ 1#2) g]
  | .barc g => [mkW 0x5E 0 0 14 g]
  | .putp d a t g => [mkW 0x5F d a (e4 t) g]
  | .cpy d a b g => [mkW 0x60 (eS d) (eS a) b g]
  | .cpys d a b g => [mkW 0x61 (eS d) (eS a) b g]
  | .gath d a b g => [mkW 0x62 (eS d) a b g]
  | .scat d a b g => [mkW 0x63 (eS d) a b g]
  | .cpyb d g => [mkW 0x64 (eS d) 0 0 g]
  | .waitb a g => [mkW 0x65 0 (eS a) 0 g]
  | .put d a b g => [mkW 0x66 (eS d) (eS a) b g]
  | .get d a b g => [mkW 0x67 (eS d) (eS a) b g]
  | .ratom d a b c op w g => [mkW 0x68 d a b g, mkL (0#17 ++ BitVec.ofBool w ++ op ++ c)]
  | .ctradd d a g => [mkW 0x69 (eS d) (eS a) 0 g]
  | .ctrset d a g => [mkW 0x69 (eS d) (eS a) 1 g]
  | .ctrwait d a g => [mkW 0x69 (eS d) (eS a) 2 g]
  | .ctrrd d a g => [mkW 0x69 (eS d) (eS a) 3 g]
  | .trig d a b c g => [mkW 0x6A (eS d) (eS a) b g, mkL (0#22 ++ c)]
  | .trigx d a b c g => [mkW 0x6A (eS d) (eS a) b g, mkL (0#21 ++ 1#1 ++ c)]
  | .fencex a g => [mkW 0x6B 0 (eS a) 0 g]
  | .coll d a b kind op log g => [mkW 0x6C (eS d) (eS a) b g, mkL (0#21 ++ BitVec.ofBool log ++ op ++ kind)]
  | .rgnreg d a g => [mkW 0x6D (eS d) (eS a) 0 g]
  | .rgnrev d a g => [mkW 0x6D (eS d) (eS a) 1 g]
  | .tcfg a g => [mkW 0x6E 0 (eS a) 0 g]
  | .trel a g => [mkW 0x6E 0 (eS a) 1 g]
  | .trelDiscard a g => [mkW 0x6E 0 (eS a) 2 g]
  | .mld d a b g => [mkW 0x6F (e4 d) a b g]
  | .mst d a b g => [mkW 0x70 (e4 d) a b g]
  | .accz d g => [mkW 0x71 (e3 d) 0 0 g]
  | .accrd d a b g => [mkW 0x72 d (e3 a) (eS b) g]
  | .accwr d a b g => [mkW 0x73 (e3 d) a (eS b) g]
  | .mma d a b fb k2 g => [mkW 0x74 (e3 d) (e4 a) b g, mkL (0#22 ++ BitVec.ofBool k2 ++ 0#1 ++ fb)]
  | .mmaSgn d a b fb k2 st g => [mkW 0x74 (e3 d) (e4 a) b g, mkL (0#18 ++ st ++ BitVec.ofBool k2 ++ 1#1 ++ fb)]
  | .mtrn d a g => [mkW 0x75 (e4 d) (e4 a) 0 g, mkL 0]
  | .mprm d a b g => [mkW 0x75 (e4 d) (e4 a) b g, mkL 1]
  | .mrsum d a g => [mkW 0x75 (e3 d) (e4 a) 0 g, mkL 2]
  | _ => []

/-! ## The host's reading of a table word -/

/-- The three words of a number whose bit 0 is the least significant bit of the first word (R7, R8): the table's
`nbits` bits, then zeros up to the longest instruction. -/
def tableWords (nbits w : Nat) : List Word :=
  let v := w % 2 ^ nbits
  [BitVec.ofNat 32 v, BitVec.ofNat 32 (v / 2 ^ 32), BitVec.ofNat 32 (v / 2 ^ 64)]

/-- The instruction the decoder reads from the bits of a table row. A zero word is no literal word (R54), so an
instruction that takes literals is refused unless `nbits` covers them. -/
def decodeTableWord (nbits w : Nat) : Option Instr :=
  match decode (tableWords nbits w) with
  | .ok (i, _) => some i
  | .error _ => none

end Sys2Proof
end

