-- ==== Sys2Proof/Machine/State.lean ====
section
/-! DEFINITION. Everything the spec gives the package to remember, as plain data. Numbered things (roles, plots, cores,
queues, interfaces, commands) are held in lists of key and value with rising keys; a key that is not listed stands for
the value such a thing has at reset. The log entries named in the docstrings say where a reset value or a layout is the
model's choice. -/

namespace Sys2Proof.Machine

/-- A finite map: keys strictly rising, each at most once. -/
abbrev AMap (α : Type) := List (Nat × α)
/-- Memory: (address, byte) pairs, addresses strictly rising, no byte equal to what an unlisted address reads as (0). -/
abbrev Mem := List Host.Cell
/-- One bit per lane of a team: bit 32g + l is lane l of group g (R154). -/
abbrev Mask := BitVec 1024
/-- A row of 32 lanes of 32 bits, lane n in bytes 4n to 4n + 3 (R9). -/
abbrev Lanes := BitVec 1024

/-! ## Registers and frames (R16 to R53) -/

/-- A vector row: its generation tag, its contents, and whether a parity bit of it disagrees with them, which nothing
has found yet (R21, R41, R48). -/
structure Row where
  tag : BitVec 16
  data : Lanes
  flaw : Bool
  deriving DecidableEq, Repr

/-- A scalar granule: four registers under one tag, and whether a parity bit of it disagrees (R21, R48). -/
structure Gran where
  tag : BitVec 16
  data : BitVec 256
  flaw : Bool
  deriving DecidableEq, Repr

/-- A frame link record (R396). -/
structure Link where
  ret : BitVec 64
  callerGen : BitVec 16
  callerW : Nat
  maskBase : Nat
  root : Bool
  depth : Nat
  deriving DecidableEq, Repr

/-- A frame (R26, R28). A row or granule that is not listed has not been written since the frame was made: its tag and
contents are those of free storage (R32). Row (x, g) has key 32x + g. -/
structure Frame where
  v : Nat
  sc : Nat
  w : Nat
  gen : BitVec 16
  rows : AMap Row
  grans : AMap Gran
  /-- p1 to p7 in places 1 to 7; place 0 is p0's, all true and never written (R22) -/
  preds : List Mask
  link : Link
  /-- tag of the hidden row of each group, by group, and of the hidden granule, under 32: one that is not listed carries
  the frame's generation (R21, R32) -/
  hidden : AMap (BitVec 16)
  /-- the hidden units in which a parity bit disagrees -/
  hiddenFlaws : List Nat
  /-- the private word of its spill record, when it is spilled (R39) -/
  spilled : Option Nat
  /-- whether its incoming block is charged to it (the root's, and one whose caller is spilled, R357); of a spilled
  frame, whether its outgoing block was passed back to it (R358) -/
  ownsIn : Bool
  deriving DecidableEq, Repr

/-- The kinds of a mask-stack entry (R154). -/
inductive MaskKind where
  | ifK | loopK | serK
  deriving DecidableEq, Repr

/-- A mask-stack entry (R154). -/
structure MaskEntry where
  kind : MaskKind
  saved : Mask
  pend : Mask
  elsed : Bool
  deriving DecidableEq, Repr

/-- An open online instruction (R138), with what the furrow block holds of it (R142). -/
structure Stage where
  word : Word
  lit : BitVec 30
  addr : BitVec 64
  /-- the stage, counted from the oldest open one, whose stream feeds each source -/
  feeds : List (Option Nat)
  /-- whether it belongs to the role's furrow of more than one member -/
  joined : Bool
  /-- the frame register it writes -/
  dest : Nat
  lanes : Mask
  cancelled : Mask
  /-- digits emitted per group pair when a stop finds it open: progress only (R142, R143) -/
  cursor : List Nat
  /-- sources a, b and addend as captured, one row per group -/
  residual : List (List Lanes)
  deriving DecidableEq, Repr

/-! ## What a role does and waits for (R65, R282) -/

/-- The request kinds of the parked frame requests (R33). -/
inductive FrameReq where
  /-- a call: its demand, its checked target and its return point -/
  | call (v sc : Nat) (target ret : BitVec 64)
  | refill
  | handoff
  | tcfg (word : BitVec 64)
  deriving DecidableEq, Repr

/-- Where one lane's access goes, after translation. -/
inductive Place where
  | dropped
  | ram (a : Nat)
  /-- host memory, by I/O virtual address -/
  | host (a : Nat)
  /-- another rank's memory, by Prery address -/
  | remote (a : Nat)
  /-- the core's scratchpad -/
  | scratch (a : Nat)
  /-- exchange area of a core: half, offset -/
  | xch (core : Nat) (half : Bool) (a : Nat)
  /-- Hyaluo's map (R422) -/
  | hy (a : Nat)
  deriving DecidableEq, Repr

/-- Why a role is parked (R282). -/
inductive WaitOn where
  | flags (m : BitVec 12)
  | counter (i : BitVec 8) (v : BitVec 48)
  | batch (n : BitVec 64)
  /-- a barrier word, the phase of the role's arrival, and the scope of BARW -/
  | barrier (addr : BitVec 32) (phase : BitVec 16) (scope : Nat)
  | barc
  /-- a lock word, the operation's number (R225), and its scope -/
  | lock (p : Place) (op scope : Nat)
  /-- a word, the value it is compared with, the destination, its lanes, and the scope of an acquire -/
  | word (p : Place) (v : BitVec 32) (dest : Nat) (lanes : Mask) (acq : Option Nat)
  /-- a handoff register, the source or destination, and its lanes -/
  | push (h : HReg) (x : Nat) (lanes : Mask)
  | pop (h : HReg) (x : Nat) (lanes : Mask)
  | frame (r : FrameReq)
  | stall (d : FabricDest)
  /-- fault service: the interface, the ASID relative to it, and the 64 KiB page (R378); or a host page (R382) -/
  | fault (vi asid page : Nat)
  | hostFault
  /-- a role saved while it was held at ACCRD or ACCWR: their entry -/
  | accMove (op : Nat)
  deriving DecidableEq, Repr

/-- Why a role is held (R65, R282). -/
inductive HoldOn where
  | start
  /-- an address whose walk is to be made, a host address, the kind of access as fault records code it (R378) -/
  | tlb (va : BitVec 64) (host : Bool) (access : Nat)
  | verdict
  | hash
  | sign
  /-- a fence: its kind, its scope, and the operations issued before it (R227) -/
  | fence (kind : Nat) (scope : Nat) (upto : Nat)
  | pendingRegs
  /-- the range-lock entries a command needs, and whether it needs a trigger entry -/
  | engineFull (locks : Nat) (trig : Bool)
  | matrixFull
  /-- ACCRD and ACCWR: their entry among the unfinished matrix work (R263) -/
  | accMove (op : Nat)
  /-- GENCERT: the number of the sweep that must have completed (R174) -/
  | sweep (n : Nat)
  | barwArrv
  /-- RETF or UNWIND to a frame whose spill is in progress: its generation (R53) -/
  | spill (gen : BitVec 16)
  deriving DecidableEq, Repr

/-- What a role is doing. -/
inductive Status where
  | ready
  | running
  | held (h : HoldOn)
  | parked (w : WaitOn)
  | stopped
  /-- in its blocks, with what it waited for when it left the core -/
  | saved (w : Option WaitOn)
  deriving DecidableEq, Repr

/-- A deferred cause (R389) with what its trap record will hold. -/
structure Deferred where
  cause : Imm8
  batch : BitVec 64
  addr : BitVec 64
  detail : Bytes
  deriving DecidableEq, Repr

/-- A fence interval of a role toward one rank (R253, R337). -/
structure FenceInt where
  num : BitVec 16
  count : Nat
  /-- destination ranges: first Prery address and length, at most eight -/
  ranges : List (Nat × Nat)
  deriving DecidableEq, Repr

/-- An operand-error log entry (R269, R390). -/
structure OpErr where
  addr : BitVec 64
  operand : Nat
  subp : Nat
  row : Nat
  col : Nat
  deriving DecidableEq, Repr

/-- A role of a yoke: a team of its own for issue, parking and frames (R19). -/
structure Role where
  /-- none for Hyaluo's team (R422) -/
  plot : Option Nat
  team : Nat
  core : Nat
  slot : Nat
  roleId : Nat
  teamIdx : Nat
  gridSize : Nat
  relocs : Nat
  args : List (BitVec 64)
  priv : Bool
  tagTrap : Bool
  operrEn : Bool
  fpTrapEn : BitVec 5
  groups : Nat
  budget : Option Nat
  entry : BitVec 64
  privBase : BitVec 64
  escapeOff : Nat
  escapeRes : Nat
  status : Status
  /-- the clause context (R79): header address, header word, word offset of the next word to issue from the header -/
  hdr : BitVec 64
  hdrWord : Word
  off : Nat
  /-- the words of the run that were fetched (R55), from offset 1 on -/
  words : List Word
  /-- counts the role's runs, so that an operation knows whether its own run has ended (R72) -/
  runNo : Nat
  yielded : Bool
  /-- when it last became ready, and whether it could start when the arbiter last looked (R279, R280) -/
  readyAt : Nat
  able : Bool
  /-- the page at which the fetch of its run's words found no translation (R55) -/
  fetchEnd : Option Nat
  startedAt : Nat
  presence : BitVec 32
  mask : Mask
  /-- newest entry first -/
  stack : List MaskEntry
  /-- current frame first; the root frame last -/
  frames : List Frame
  flags : List Nat
  fpflags : BitVec 5
  opflags : BitVec 2
  /-- address and phase of the arrival record (R232) -/
  arrival : Option (BitVec 32 × BitVec 16)
  /-- the operation that makes the arrival, until it retires (R233) -/
  arrivalOp : Option Nat
  /-- the lock word at which this role is counted in WWAIT (R226) -/
  counted : Option Place
  barcArrived : Bool
  stages : List Stage
  batchOpen : BitVec 64
  deferred : List Deferred
  fences : AMap FenceInt
  /-- the verdict that has come back for the access about to be issued again (R212): the lowest refused lane, if any -/
  verdict : Option (Option Nat)
  /-- the outcome of a walk that failed, waiting for the access to be issued again: whether the page is a host page,
  the page, and the cause (R212, R378) -/
  walkFault : Option (Bool × Nat × Imm8)
  /-- the address of the RETF or UNWIND whose return still waits for its refill (R37) -/
  retAt : Option Nat
  /-- device physical address of the role block (R394) -/
  block : Option Nat
  /-- the token of the unanswered trap record (R391) -/
  trapToken : Option Nat
  /-- the address whose fault the role waits for, and whether a store of the Gleaner met it (R38, R378) -/
  faultVa : Option Nat
  spilling : Bool
  /-- pages of its escape reserve that it waits for before its first run (R39) -/
  reserve : List Nat
  preempted : Bool
  deriving DecidableEq, Repr

/-! ## Teams (R16 to R25, R220, R259) -/

/-- A tile, accumulator or scale granule that has been written since its configuration was made: its tag and its
bytes; an accumulator's element e lies in bytes 4e to 4e + 3. -/
structure TileUnit where
  tag : BitVec 16
  data : Mem
  /-- the bytes that hold an uncorrectable error, until they are written (R269) -/
  bad : List Nat
  deriving DecidableEq, Repr

/-- A tile configuration (R259). Unit keys: sub-partition times 16 plus tile number, times 8 plus accumulator number,
times 32 plus scale granule number. -/
structure Tcfg where
  word : BitVec 64
  gen : BitVec 16
  tiles : AMap TileUnit
  accs : AMap TileUnit
  scales : AMap TileUnit
  /-- device physical address of the tile block, and its size (R394) -/
  block : Option (Nat × Nat)
  deriving DecidableEq, Repr

/-- An entry of a handoff register: one row per group index (R230). -/
abbrev HandoffEntry := List Lanes

/-- A yoke: what its roles share (R19). -/
structure Team where
  plot : Option Nat
  core : Nat
  teamIdx : Nat
  /-- keys of the roles that have not exited -/
  live : List Nat
  roleCount : Nat
  gmax : Nat
  gen : BitVec 16
  scratchBase : Nat
  scratchSize : Nat
  tagBase : Nat
  tagSlots : Nat
  handoffHeld : Bool
  /-- by handoff register, oldest entry first -/
  handoff : AMap (List HandoffEntry)
  /-- (register, role id) of every producer, and those of them whose role has exited (R230) -/
  producers : List (Nat × Nat)
  tcfg : Option Tcfg
  /-- the operand-error log: four entries, and the replacements beyond them (R269, R324) -/
  opErrs : List OpErr
  opErrMore : Nat
  set : Option Nat
  block : Option Nat
  /-- every live role of it is saved, and what they share stands in its block (R398) -/
  out : Bool
  deriving DecidableEq, Repr

/-! ## Outstanding operations (R70, R71, R298) -/

/-- How far a write has got (R298). -/
inductive WriteLevel where
  | core | egress | home
  deriving DecidableEq, Repr

/-- What an outstanding operation does when it is performed. -/
inductive OpKind where
  | load (sext : Bool) (size : Nat)
  | store (size : Nat)
  | atomic (op : BitVec 5) (size : Nat) (returns : Bool)
  | cas (size : Nat)
  | lookup
  | tagset
  | taginv
  | ctradd (i : BitVec 8) (v : BitVec 48)
  | ctrset (i : BitVec 8) (v : BitVec 48)
  | ctrrd (i : BitVec 8)
  | arrv (addr : BitVec 32)
  deriving DecidableEq, Repr

/-- A lane's access, or a piece of one (R211): lane number, byte offset of the piece in the lane's value, bytes, place,
generation, and the values the lane carries. -/
structure OpLane where
  lane : Nat
  off : Nat
  len : Nat
  place : Place
  /-- the generation under which it reaches a scratchpad granule (R44, R210) -/
  gen : BitVec 16
  value : BitVec 128
  value2 : BitVec 128
  deriving DecidableEq, Repr

/-- An outstanding thread operation, in issue order. -/
structure MemOp where
  id : Nat
  role : Nat
  team : Nat
  core : Nat
  runNo : Nat
  /-- the flag it adds to, if any -/
  flag : Option Nat
  kind : OpKind
  /-- destination frame registers, or scalar frame register, that are pending (R73) -/
  dests : List Nat
  sdest : Option Nat
  /-- by destination, the lanes a later instruction has written, which this result no longer writes (R72) -/
  won : AMap (BitVec 1024)
  lanes : List OpLane
  ord : Bool
  scope : Nat
  /-- the remote key it carries (R207) -/
  key : BitVec 32
  /-- L1: none, normal, by policy (R206); set when the access goes through L1 -/
  l1 : Bool
  alloc : Bool
  /-- whether a replica may serve it (R206, R294) -/
  rep : Bool
  /-- whether it is of local, private or global kind, as memory-active teams are counted (R281) -/
  counted : Bool
  level : WriteLevel
  deriving DecidableEq, Repr

/-! ## Engines (R236 to R271) -/

/-- The engine command kinds (R236). -/
inductive CmdKind where
  | cpy | cpys | gath | scat | put | get | ratom (op : BitVec 5) (wide : Bool) (dest : VReg) | fencex
  | coll (kind op : BitVec 4) (log : Bool) | rgnrev | mld (t : TReg) | mst (t : TReg)
  deriving DecidableEq, Repr

/-- An accepted engine command, with its captured operands (R236). -/
structure Cmd where
  id : Nat
  role : Nat
  core : Nat
  plot : Option Nat
  team : Nat
  teamIdx : Nat
  roleId : Nat
  kind : CmdKind
  src : BitVec 256
  dst : BitVec 256
  desc : BitVec 256
  bsel : BufSel
  /-- per-lane indices, addresses or values: lane, index, value -/
  lanes : List (Nat × BitVec 64 × BitVec 64)
  batch : BitVec 64
  /-- writes of the team that must be performed first (ORD = 1, R241): the operation ids below this -/
  after : Option Nat
  /-- chunks or packets written, and the atoms written of the others: (chunk, atom) (R306, R307) -/
  done : List Nat
  part : List (Nat × Nat)
  srcDone : Bool
  failed : Bool
  fence : Option FenceId
  /-- destination registers of a RATOM, the lanes of them that later instructions have written, and the run it issued
  in (R72, R252) -/
  dests : List Nat
  won : AMap (BitVec 1024)
  runNo : Nat
  /-- the exchange half that was current when the command issued -/
  half : Bool
  /-- of a FENCEX, the sends of its fence until it is acknowledged, and the entropy path of the last (R335) -/
  sends : Nat
  path : Option Nat
  deriving DecidableEq, Repr

/-- The space of a range-lock entry (R240). -/
inductive LockSpace where
  | local (asid : Nat) | scratch (asid : Nat)
  deriving DecidableEq, Repr

/-- A range-lock entry (R213, R240): bytes lo to hi, a source or a destination, of a command. -/
structure RangeLock where
  cmd : Nat
  space : LockSpace
  lo : Nat
  hi : Nat
  isDst : Bool
  deriving DecidableEq, Repr

/-- An armed trigger entry (R248). -/
structure Trigger where
  cmd : Cmd
  counter : BitVec 8
  threshold : BitVec 48
  sub : Bool
  deriving DecidableEq, Repr

/-- A matrix instruction of the queue (R318), with its captured operands. -/
inductive MatKind where
  | mma (acc : AReg) (tile : TReg) (fa fb : BitVec 64) (blocks : Nat) (sgn : Option TReg)
  | mtrn (d a : TReg)
  | mprm (d a : TReg)
  | mrsum (d : AReg) (a : TReg)
  /-- no queue entry: an ACCZ whose accumulator is in use (R261) -/
  | accz (d : AReg)
  /-- no queue entries: ACCRD and ACCWR, whose role is held until they are done (R263): the accumulator, the first slice,
  the lanes moved, and the destination register or the values -/
  | accrd (a : AReg) (i0 : BitVec 64) (m : Mask) (x : Nat)
  | accwr (a : AReg) (i0 : BitVec 64) (m : Mask) (rows : List Lanes)
  deriving DecidableEq, Repr

/-- An unfinished matrix instruction (R261). B is captured as the registers of each owned sub-partition's group (R268). -/
structure MatOp where
  id : Nat
  team : Nat
  role : Nat
  roleId : Nat
  core : Nat
  kind : MatKind
  subp : List Nat
  b : List (List Lanes)
  addr : BitVec 64
  started : Bool
  /-- blocks already folded (R268) -/
  folded : Nat
  deriving DecidableEq, Repr

/-! ## Cores -/

/-- A leaf translation as a TLB holds it (R375). -/
structure Leaf where
  vi : Nat
  asid : Nat
  /-- 64 KiB page of the virtual address -/
  page : Nat
  /-- physical address of that page, or I/O virtual address of a host-owned one -/
  base : Nat
  r : Bool
  w : Bool
  x : Bool
  deriving DecidableEq, Repr

/-- A replica of a 128-byte line in an L2 slice, made by a REP load of a plot (R294). -/
structure Replica where
  plot : Nat
  /-- the compute die whose slices hold it -/
  die : Nat
  line : Nat
  data : BitVec 1024
  deriving DecidableEq, Repr

/-- An L1 line (R293, R281): its bytes as filled and the plot slot that allocated it. -/
structure L1Line where
  data : BitVec 1024
  plotSlot : Nat
  deriving DecidableEq, Repr

/-- A HASH or SIGN request (R168 to R170) as it issued: its role and destination, whether it signs, HASH's mode and prior
length, the chaining state or digest of its registers, a fused key, and the bytes its loads are to read. -/
structure CryptoReq where
  role : Nat
  dst : SReg
  sign : Bool
  mode : Nat
  prior : Nat
  regs : List (BitVec 64)
  key : Option Nat
  spans : List (Place × Nat)
  /-- whether its lines stay in L1, its order and scope, and the operations issued before it -/
  alloc : Bool
  ord : Bool
  scope : Nat
  upto : Nat
  deriving DecidableEq, Repr

/-- A context the headland collector is stopping (R402). -/
structure Headland where
  plot : Nat
  /-- keys of the roles named -/
  roles : List Nat
  whole : Bool
  preempt : Bool
  acks : List EngineClass
  saving : Bool
  deriving DecidableEq, Repr

/-- A spill in progress (R38): the victim role, the frame by its depth, the private word of its record. -/
structure Spill where
  role : Nat
  depth : Nat
  /-- the generation of the frame whose record is being stored -/
  gen : BitVec 16
  word : Nat
  deriving DecidableEq, Repr

/-- A core (R2). -/
structure Core where
  genCounter : BitVec 16
  genLive : List (BitVec 16)
  /-- retired before, and during, the sweep in progress (R43) -/
  genSweeping : List (BitVec 16)
  genRetired : List (BitVec 16)
  sweeps : Nat
  rowsUsed : List Nat
  gransUsed : Nat
  /-- tiles, accumulators and scale granules in use, per sub-partition -/
  tilesUsed : List Nat
  accsUsed : List Nat
  scalesUsed : List Nat
  frameReqs : List Nat
  /-- the role whose frames the Gleaner is spilling, and for which request (R37) -/
  victim : Option (Nat × Nat)
  spill : Option Spill
  scratch : Mem
  /-- tag of every scratchpad granule that is not void -/
  scratchTags : AMap (BitVec 16)
  xch0 : Mem
  xch1 : Mem
  xchTags0 : AMap (BitVec 16)
  xchTags1 : AMap (BitVec 16)
  xchCur : Bool
  /-- key of every valid tag-table slot (R220) -/
  tagTable : AMap (BitVec 32)
  /-- instruction-cache lines by virtual line number (with the ASID), R55 -/
  icache : AMap (BitVec 1024)
  l1 : AMap L1Line
  victims : List (Nat × Nat)
  tlb : List Leaf
  counters : AMap (BitVec 48)
  triggers : List Trigger
  locks : List RangeLock
  cmds : List Cmd
  /-- plot of each plot slot, and role of each team slot -/
  plotSlots : AMap Nat
  slots : AMap Nat
  /-- physical address of the context block of each plot slot (R394) -/
  plotBlocks : AMap Nat
  pointer : Nat
  credit : AMap Int
  lost : AMap Nat
  running : Option Nat
  lent : Bool
  hashQ : List CryptoReq
  signQ : List CryptoReq
  /-- the context being stopped, and those that wait to be -/
  headland : List Headland
  deriving DecidableEq, Repr

/-! ## Plots, queues and interfaces (R272, R364 to R387) -/

/-- A plot: its launch record as read (R370, R371) and its progress. -/
structure Plot where
  vi : Nat
  queue : Nat
  entryIdx : Nat
  asid : Nat
  weight : Nat
  priv : Bool
  tagTrap : Bool
  coop : Bool
  operr : Bool
  irq : Bool
  fpTrap : BitVec 5
  thresh : Nat
  dieMask : BitVec 8
  args : List (BitVec 64)
  claim : Nat
  grid : Nat
  privBase : Nat
  privSize : Nat
  compl : BitVec 64
  entries : List (BitVec 64)
  shapes : List (BitVec 64)
  counters : BitVec 256
  regions : BitVec 64
  escRes : Nat
  tagSlots : Nat
  scratch : Nat
  work : Nat
  /-- physical address of the plot block, and the plot trap records written to it (R393) -/
  block : Nat
  traps : Nat
  killed : Bool
  stopping : Bool
  ended : Bool
  deriving DecidableEq, Repr

/-- A cooperative set (R275): its plot, cluster and generation. -/
structure CoopSet where
  plot : Nat
  cluster : Nat
  gen : BitVec 16
  /-- its teams are saved, and the cluster is free (R289) -/
  out : Bool
  deriving DecidableEq, Repr

/-- A saved context, or saved single teams (R284, R285): the roles, and what the context block holds. -/
structure SavedCtx where
  plot : Nat
  core : Nat
  roles : List Nat
  whole : Bool
  triggers : List Trigger
  cmds : List Cmd
  locks : List RangeLock
  /-- scratchpad base of each team when it was saved, by team: its commands' ranges move with it -/
  bases : AMap Nat
  /-- tags of the exchange halves, current half first, of a cooperative set -/
  xtags : Option (AMap (BitVec 16) × AMap (BitVec 16))
  /-- the context block (R399); none for single teams -/
  block : Option Nat
  /-- the cooperative set its teams are of -/
  set : Option Nat
  deriving DecidableEq, Repr

/-- A SIGNAL entry that has been read (R369): its words, and the launches before it that have not ended. -/
structure Signal where
  value : BitVec 64
  compl : BitVec 64
  irq : Bool
  after : List Nat
  deriving DecidableEq, Repr

/-- A write of a completion record or a SIGVAL that is still to be made (R369, R373): the number under which it asks for
host translations, where it goes, and what follows it. -/
structure PendRec where
  who : Nat
  vi : Nat
  queue : Nat
  asid : Nat
  compl : BitVec 64
  data : Bytes
  irq : Bool
  /-- the plot whose end it reports -/
  plot : Option Nat
  deriving DecidableEq, Repr

/-- A work queue (R367). -/
structure Queue where
  base : BitVec 64
  cfg : BitVec 64
  head : BitVec 32
  tail : BitVec 32
  headWb : BitVec 64
  status : BitVec 64
  /-- plots launched and not ended -/
  launches : List Nat
  signals : List Signal
  /-- the launches that the WAIT entry at HEAD waits for -/
  waiting : Option (List Nat)
  /-- the words of the entry last refused; none when it could not be read -/
  refused : List (BitVec 64)
  deriving DecidableEq, Repr

/-- An unanswered fault record (R378). -/
structure FaultRec where
  token : Nat
  asid : Nat
  page : Nat
  reason : Nat
  /-- the role a trap record is of (R391) -/
  role : Option Nat
  /-- the engine commands whose chunks wait for it, each with its address (R239) -/
  cmds : List (Nat × Nat)
  deriving DecidableEq, Repr

/-- A migration in progress (R310, R384, R385). -/
structure Migration where
  token : Nat
  asid : Nat
  page : Nat
  toHost : Bool
  /-- physical device page and host I/O virtual address -/
  dev : Nat
  host : Nat
  /-- the leaf as it was when the migration began, and where it stands (R386) -/
  pte : BitVec 64
  pteAt : Nat
  deriving DecidableEq, Repr

/-- An invalidation command (R380): the relative ASID, or every one, the pages lo to hi - 1 that it covers, and once its
entries have been dropped the number below which operations may have used them (R381). -/
structure InvCmd where
  asid : Option Nat
  lo : Nat
  hi : Nat
  upto : Option Nat
  deriving DecidableEq, Repr

/-- The states of a TDI (R432). -/
inductive TdiState where
  | unlocked | locked | run | error
  deriving DecidableEq, Repr

/-- Telemetry terms (R430). -/
structure Terms where
  allow : BitVec 16
  log2 : Nat
  logOff : Nat
  deriving DecidableEq, Repr

/-- The newest record of an observation log (R439). -/
structure ObsRec where
  clock : Nat
  sel : BitVec 32
  requester : BitVec 16
  count : Nat
  deriving DecidableEq, Repr

/-- A roster (R341): the version and, per communicator, the ranks it lists with their join sequences. -/
structure Roster where
  version : BitVec 32
  comms : AMap (AMap Nat)
  /-- every rank that has ever been a member, with its join sequence (R459) -/
  ever : AMap (AMap Nat)
  deriving DecidableEq, Repr

/-- A job bound to an interface (R446). -/
structure Job where
  id : BitVec 32
  ring : Nat
  slots : Nat
  roster : Roster
  /-- ROSTER commands buffered, by version (R448), in arrival order: their entries and their requesters' tags -/
  buffered : AMap (List (Bytes × BitVec 16))
  /-- the chain hash of entry TAIL - 1, which its slot may have lost (R445, R349) -/
  tailHash : Bytes
  deriving DecidableEq, Repr

/-- A virtual interface (R363, R364). -/
structure Iface where
  /-- its table entry as sixteen 64-bit words (R364) -/
  entry : List (BitVec 64)
  roots : AMap (BitVec 64)
  invAddr : BitVec 64
  invQ : List InvCmd
  invDone : BitVec 32
  invOvf : Bool
  faultBase : BitVec 64
  faultCfg : BitVec 64
  faultHead : BitVec 32
  faultTail : BitVec 32
  /-- records waiting for a place in the ring, oldest first (R378) -/
  faultWait : List Bytes
  faults : List FaultRec
  migDst : BitVec 64
  migVa : BitVec 64
  migIova : BitVec 64
  migBusy : Bool
  migs : List Migration
  winBase : BitVec 64
  saveBase : BitVec 64
  saveSize : BitVec 64
  /-- reserved spans of the save pool: physical offset and size (R394) -/
  pool : List (Nat × Nat)
  sealedR : List (BitVec 64)
  tdi : TdiState
  nonce : BitVec 256
  terms : Option Terms
  obsHead : Nat
  obsNew : Option ObsRec
  ideSecure : Bool
  /-- address-translation cache of host translations (R382), by 4 KiB page -/
  atc : List Nat
  /-- host pages asked for by commands and record writes, and those that were denied: who asked, and the page -/
  atsReqs : List (Nat × Nat)
  atsFailed : List (Nat × Nat)
  /-- ATS invalidations not yet completed: the pages lo to hi, and the number below which operations may have used the
  old translations (R383) -/
  atsInv : List (Nat × Nat × Nat)
  /-- a reset, or a STOP, that waits for migrations to complete (R387, R440) -/
  resetDue : Bool
  stopDue : Bool
  job : Option Job
  /-- the fragments of a JOBSET in progress (R446) -/
  jobFrags : List Bytes
  deriving DecidableEq, Repr

/-! ## Fabric (R325 to R351) -/

/-- An exception-CAM entry (R328). -/
structure CamEntry where
  valid : Bool
  rank : BitVec 18
  value : BitVec 160
  deriving DecidableEq, Repr

/-- A registered region (R255). -/
structure Region where
  plot : Nat
  core : Nat
  vi : Nat
  asid : Nat
  base : Nat
  extent : Nat
  key : BitVec 32
  wr : Bool
  rd : Bool
  at' : Bool
  deriving DecidableEq, Repr

/-- A packet that waits at the port (R458), with the region that admitted it, and its atoms that are written. -/
structure WaitPkt where
  region : Region
  packet : Packet
  landed : List Nat
  deriving DecidableEq, Repr

/-- A packet this device has sent and that is not acknowledged (R330, R335): its command, or the thread operation it is of,
its index, its sends. -/
structure OutPkt where
  cmd : Nat
  core : Nat
  idx : Nat
  /-- the place of its first byte within the command's packet -/
  off : Nat
  packet : Packet
  sends : Nat
  /-- the entropy path of its last send, over Ultra Ethernet (R335) -/
  path : Option Nat
  /-- whether the target has asked for it again later (R337, R458) -/
  later : Bool
  /-- an answer that could not be taken yet (R252, R310) -/
  got : Option PacketAck
  deriving DecidableEq, Repr

/-- A target's interval entry (R337). -/
structure FenceEntry where
  id : FenceId
  /-- the plot that registered the range of its first packet -/
  plot : Option Nat
  count : Nat
  fence : Option Nat
  /-- its verdict has been given: packets of the interval are refused -/
  closed : Bool
  deriving DecidableEq, Repr

/-- What a chunk's commit gives this member: contributions folded, saturation, and what it writes, by destination
offset. -/
structure CollResult where
  contrib : Nat
  sat : Bool
  writes : List (Nat × Bytes)
  deriving DecidableEq, Repr

/-- A chunk of a collective (R343): contributions staged and folded by rank, ranks rejected, and whether it has
committed. -/
structure CollChunk where
  staged : AMap Contribution
  folded : AMap Bytes
  rejected : List Nat
  /-- once its commit test has passed: the result that is being written, and the roster version (R343) -/
  result : Option (CollResult × Nat)
  committed : Bool
  deriving DecidableEq, Repr

/-- A contribution of this device, to one member, that is not acknowledged (R335, R359). -/
structure OutContrib where
  seq : Nat
  coll : Nat
  dst : BitVec 18
  sends : Nat
  path : Option Nat
  body : Contribution
  deriving DecidableEq, Repr

/-- A collective in progress on this device (R256). -/
structure Coll where
  cmd : Cmd
  vi : Nat
  job : BitVec 32
  group : BitVec 32
  seq : BitVec 32
  /-- the slot list (R459) -/
  slots : List Nat
  /-- the member set at its issue on this device (R348) -/
  first : List Nat
  chunks : AMap CollChunk
  deriving DecidableEq, Repr

/-! ## Trust and fleet (R410 to R457) -/

/-- The connection states of an SPDM responder (R428). -/
inductive SpdmState where
  | init | afterVersion | afterCaps | negotiated
  deriving DecidableEq, Repr

/-- A function's responder and mailbox (R426, R428, R442). -/
structure Responder where
  state : SpdmState
  transcript : Bytes
  a : Nat
  sessions : Nat
  reqLen : BitVec 32
  rspLen : BitVec 32
  aborted : Bool
  deriving DecidableEq, Repr

/-- What leaves the package. -/
inductive OutMsg where
  /-- an MSI-X message: function (0 the physical function, v + 1 interface v) and vector -/
  | msix (fn vec : Nat)
  /-- the completion of a host read -/
  | readData (fn : Nat) (data : Bytes)
  /-- a request the device completes with Unsupported Request (R436) -/
  | unsupported (fn : Nat)
  | doe (fn : Nat) (data : Bytes)
  /-- the DOE Error and Busy bits -/
  | doeError (fn : Nat)
  | doeBusy (fn : Nat)
  | spdm (fn : Nat) (data : Bytes)
  | tdisp (vi : Nat) (ok : Bool) (data : Bytes)
  | mctp (data : Bytes)
  | pldm (code : Nat) (data : Bytes)
  /-- a packet, with its entropy path over Ultra Ethernet: it leaves by the port of die (path mod 8) (R335) -/
  | packet (p : Packet) (path : Option Nat)
  | packetAck (dst : BitVec 18) (seq : Nat) (ack : PacketAck)
  | fence (id : FenceId) (target : BitVec 18) (n : Nat) (path : Option Nat)
  | fenceVerdict (id : FenceId) (placed : Nat)
  | fenceAbort (id : FenceId) (target : BitVec 18)
  | contribution (seq : Nat) (dst : BitVec 18) (c : Contribution) (path : Option Nat)
  | translationRequest (vi : Nat) (a : Nat)
  | pageRequest (vi : Nat) (a : Nat)
  | atsInvalidateDone (vi : Nat)
  | linkRetrained (l : Nat)
  /-- a zero-length read that flushes an interface's posted writes to the host (R301, R383) -/
  | flushRead (vi : Nat)
  deriving DecidableEq, Repr

/-- A lifetime block's counts, by index, and the counts not yet stored (R454). -/
structure Lifetime where
  stored : AMap Nat
  live : AMap Nat
  deriving DecidableEq, Repr

/-- The whole package. -/
structure State where
  /-- which agent or outside input moves next; when it lists nothing, the core `turn` does (log entry 18) -/
  agenda : List Instr
  /-- the role whose instruction issues -/
  cur : Nat
  /-- the core whose turn it is; core 384 is Hyaluo's -/
  turn : Nat
  /-- counts the uses of free values: the model's own field -/
  free : Nat
  /-- numbers the model gives to operations, commands, roles, packets: the model's own field -/
  next : Nat
  clock : Nat
  roles : AMap Role
  teams : AMap Team
  cores : AMap Core
  plots : AMap Plot
  sets : AMap CoopSet
  saved : AMap SavedCtx
  ops : List MemOp
  mats : List MatOp
  /-- the atoms that a role switched out in RLK, WLK or WAITW keeps watching, until the next write to them (R283) -/
  watch : List (Nat × Nat × Nat)
  ram : Mem
  hostMem : Mem
  /-- Hyaluo's own map: ROM, SRAM, flash, mailbox windows (R422) -/
  hy : Mem
  /-- poisoned 32-byte atoms of device memory (R292) -/
  poison : List Nat
  /-- read-only replicas in the L2 slices (R294) -/
  replicas : List Replica
  tlb2 : List Leaf
  ifaces : AMap Iface
  queues : AMap Queue
  recs : List PendRec
  vierr : BitVec 64
  ctxPlot : BitVec 64
  ctxTeams : BitVec 64
  ctxBusy : Bool
  ctxPartial : Bool
  ctxNotFound : Bool
  ctxDone : BitVec 32
  cam : AMap CamEntry
  pods : AMap (BitVec 128)
  paths : AMap (BitVec 16)
  regions : AMap Region
  outPkts : List OutPkt
  /-- packets placed here, by source rank and number, with what was answered (R352) -/
  placed : List (Nat × Nat × Bytes)
  /-- packets that have passed the checks of R331 and wait at the port, or are written in part (R307, R458) -/
  waitPkts : List WaitPkt
  fenceTab : List FenceEntry
  colls : AMap Coll
  /-- contributions to collectives that this device has not issued (R258), oldest first -/
  contribs : List Contribution
  outContribs : List OutContrib
  stall : List FabricDest
  rank : BitVec 18
  /-- world of each cluster; a cluster not listed is in world 0 (R410) -/
  worldMap : AMap Nat
  worldBusy : Option (Nat × Nat)
  worldRefused : Bool
  worldDone : BitVec 32
  epochs : AMap Nat
  rekeying : List Nat
  bootStat : BitVec 8
  meas : List (BitVec 256)
  digest : BitVec 256
  lockboot : Bool
  mstat : Bool
  responders : AMap Responder
  telSel : BitVec 64
  telData : BitVec 64
  telStat : BitVec 8
  life : Lifetime
  throttled : Bool
  /-- core rails removed, or power lost: no agent of the compute dies moves (R456, R461) -/
  lost : Bool
  out : List OutMsg
  deriving DecidableEq, Repr

/-- Why the machine stops instead of going on. No instruction of the table ends so on every state. -/
inductive Fault where
  /-- raised by no meaning: the package has lost its power or its rails and nothing moves until a reset (R456, R461);
  raised by the step for a core's turn then. Safe: the package does nothing there. -/
  | powerOff
  deriving DecidableEq, Repr

/-- Why the machine has no next state for an instruction. -/
inductive Refusal where
  /-- raised only by an arm of `exec` whose instruction has no meaning yet; safe. -/
  | notModelled (mnemonic : String)
  deriving DecidableEq, Repr

/-! ## Reset (R422, R425, R457) -/

/-- A core at package reset (R42, R43). -/
def Core.reset : Core where
  genCounter := 1; genLive := []; genSweeping := []; genRetired := []; sweeps := 0
  rowsUsed := [0, 0, 0, 0]; gransUsed := 0
  tilesUsed := [0, 0, 0, 0]; accsUsed := [0, 0, 0, 0]; scalesUsed := [0, 0, 0, 0]
  frameReqs := []; victim := none; spill := none
  scratch := []; scratchTags := []; xch0 := []; xch1 := []; xchTags0 := []; xchTags1 := []; xchCur := false
  tagTable := []; icache := []; l1 := []; victims := []; tlb := []; counters := []; triggers := []
  locks := []; cmds := []; plotSlots := []; slots := []; plotBlocks := []; pointer := 0; credit := []; lost := []
  running := none; lent := false; hashQ := []; signQ := []; headland := []

/-- A virtual interface at package reset: nothing enabled. -/
def Iface.reset : Iface where
  entry := List.replicate 16 0; roots := []; invAddr := 0; invQ := []; invDone := 0; invOvf := false
  faultBase := 0; faultCfg := 0; faultHead := 0; faultTail := 0; faultWait := []; faults := []
  migDst := 0; migVa := 0; migIova := 0; migBusy := false; migs := []; winBase := 0
  saveBase := 0; saveSize := 0; pool := []; sealedR := List.replicate 8 0
  tdi := .unlocked; nonce := 0; terms := none; obsHead := 0; obsNew := none; ideSecure := false
  atc := []; atsReqs := []; atsFailed := []; atsInv := []; resetDue := false; stopDue := false; job := none; jobFrags := []

/-- A queue at package reset: disabled. -/
def Queue.reset : Queue where
  base := 0; cfg := 0; head := 0; tail := 0; headWb := 0; status := 0; launches := []; signals := []
  waiting := none; refused := []

/-- A responder at package reset (R428). -/
def Responder.reset : Responder where
  state := .init; transcript := []; a := 0; sessions := 0; reqLen := 0; rspLen := 0; aborted := false

/-- The number of Hyaluo's core, after the 384 compute cores. -/
def hyCore : Nat := 384

/-- A root frame without contents (R30). -/
def Frame.root (v sc : Nat) (gen : BitVec 16) : Frame where
  v := v; sc := sc; w := 0; gen := gen; rows := []; grans := []
  preds := List.replicate 8 0
  link := ⟨0, 0, 0, 0, true, 1⟩
  hidden := []; hiddenFlaws := []
  spilled := none; ownsIn := true

/-- The mask of a team of `n` groups at its start (R17). -/
def fullMask (n : Nat) : Mask := BitVec.ofNat 1024 (2 ^ (32 * n) - 1)

/-- Hyaluo's team at package reset (R422): privileged, one group, V = 128, S = 64, at ROM address 0. -/
def Role.hyaluo : Role where
  plot := none; team := 0; core := hyCore; slot := 0; roleId := 0; teamIdx := 0; gridSize := 1; relocs := 0
  args := List.replicate 8 0; priv := true; tagTrap := false; operrEn := false; fpTrapEn := 0
  groups := 1; budget := none; entry := 0; privBase := 0x1_0070_0000; escapeOff := 0; escapeRes := 0
  status := .ready; hdr := 0; hdrWord := 0; off := 0; words := []; runNo := 0; yielded := false
  readyAt := 0; able := true; fetchEnd := none; startedAt := 0
  presence := 1; mask := fullMask 1; stack := []; frames := [Frame.root 128 64 2]
  flags := List.replicate 12 0; fpflags := 0; opflags := 0; arrival := none; arrivalOp := none
  counted := none; barcArrived := false
  stages := []; batchOpen := 1; deferred := []; fences := []
  verdict := none; walkFault := none; retAt := none; block := none; trapToken := none; faultVa := none; spilling := false
  reserve := []; preempted := false

/-- What Hyaluo's role shares: 64 KiB of scratchpad under generation 3 (R422, R31, R42). -/
def Team.hyaluo : Team where
  plot := none; core := hyCore; teamIdx := 0; live := [0]; roleCount := 1; gmax := 1; gen := 3
  scratchBase := 0; scratchSize := 65536; tagBase := 0; tagSlots := 0; handoffHeld := false
  handoff := []; producers := []; tcfg := none; opErrs := []; opErrMore := 0; set := none; block := none; out := false

/-- The package right after reset: Hyaluo's team about to start its first run at ROM address 0, generation counters at
0x0001 (R42) but on Hyaluo's core, whose counter has issued its team's two generations; every register with no stated
reset value is zero (log entry 1). -/
def State.reset : State where
  agenda := []; cur := 0; turn := hyCore; free := 0; next := 1; clock := 0
  roles := [(0, Role.hyaluo)]; teams := [(0, Team.hyaluo)]
  cores := [(hyCore, { Core.reset with
    genCounter := 3, genLive := [3, 2], rowsUsed := [129, 0, 0, 0], gransUsed := 17, slots := [(0, 0)] })]
  plots := []; sets := []; saved := []; ops := []; mats := []; watch := []; ram := []; hostMem := []; hy := []
  poison := []; replicas := []
  tlb2 := []; ifaces := []; queues := []; recs := []; vierr := 0
  ctxPlot := 0; ctxTeams := 0; ctxBusy := false; ctxPartial := false; ctxNotFound := false; ctxDone := 0
  cam := []; pods := []; paths := []; regions := []; outPkts := []; placed := []; waitPkts := []; fenceTab := []
  colls := []; contribs := []; outContribs := []; stall := []; rank := 0
  worldMap := []; worldBusy := none; worldRefused := false; worldDone := 0; epochs := []; rekeying := []
  bootStat := 0; meas := List.replicate 16 0; digest := 0; lockboot := false; mstat := false; responders := []
  telSel := 0; telData := 0; telStat := 0; life := ⟨[], []⟩; throttled := false; lost := false; out := []

end Sys2Proof.Machine
end

