-- ==== Sys2Proof/Machine/Bits.lean ====
section
/-! DEFINITION. Bit-field, lane, sign-extension and byte-order helpers (R7 to R9, R13, R154). -/

namespace Sys2Proof.Machine

/-- Lane l of a row (R9). -/
def lane (x : Lanes) (l : Nat) : BitVec 32 := x.extractLsb' (32 * l) 32

/-- The number whose n fields of w bits, the lowest first, are f 0, f 1, … -/
def packNat (w : Nat) (f : Nat → Nat) : Nat → Nat
  | 0 => 0
  | n + 1 => packNat w f n + (f n % 2 ^ w) * 2 ^ (w * n)

/-- The row whose lane l is f l. -/
def lanesOf (f : Nat → BitVec 32) : Lanes := BitVec.ofNat 1024 (packNat 32 (fun l => (f l).toNat) 32)

/-- The lane mask of group g (R17). -/
def groupMask (m : Mask) (g : Nat) : BitVec 32 := m.extractLsb' (32 * g) 32

/-- The team mask whose bit for lane l of group g is f g l. -/
def maskOf (f : Nat → Nat → Bool) : Mask :=
  BitVec.ofNat 1024 (packNat 1 (fun i => (f (i / 32) (i % 32)).toNat) 1024)

/-- The team mask of these lane masks, group 0 first. -/
def maskOfGroups : List (BitVec 32) → Mask
  | [] => 0
  | m :: ms => m.setWidth 1024 ||| (maskOfGroups ms <<< 32)

/-- A row with the lanes of m taken from y and the others from x. -/
def blend (m : BitVec 32) (x y : Lanes) : Lanes := lanesOf fun l => if m.getLsbD l then lane y l else lane x l

/-- The numbers 32g + l of the set bits of a mask, lowest first. -/
def laneList (m : Mask) : List Nat := (List.range 1024).filter fun i => m.getLsbD i

/-- The lowest set bit of a mask (R158, R225). -/
def lowestLane (m : Mask) : Option Nat := (List.range 1024).find? fun i => m.getLsbD i

/-- Field [hi:lo] of a number (R7). -/
def fieldOf (x : Nat) (hi lo : Nat) : Nat := (x / 2 ^ lo) % 2 ^ (hi + 1 - lo)

/-- The n-bit value x, sign-extended (R13). -/
def sext (x : Nat) (n : Nat) : Int :=
  let y := x % 2 ^ n
  if y < 2 ^ (n - 1) then y else (y : Int) - 2 ^ n

/-- An integer modulo 2^n. -/
def wrap (n : Nat) (x : Int) : Nat := (x % (2 ^ n : Nat)).toNat

/-- The number of these bytes, the lowest address first (R8). -/
def leNat : Bytes → Nat
  | [] => 0
  | b :: bs => b.toNat + 256 * leNat bs

/-- The n bytes of a number, lowest address first (R8). -/
def leBytes : Nat → Nat → Bytes
  | 0, _ => []
  | n + 1, x => BitVec.ofNat 8 x :: leBytes n (x / 256)

/-- The n bytes of a number, most significant first. -/
def beBytes (n x : Nat) : Bytes := (leBytes n x).reverse

/-- The number of these bytes, most significant first. -/
def beNat (bs : Bytes) : Nat := leNat bs.reverse

/-- x rounded up to a multiple of n. -/
def roundUp (x n : Nat) : Nat := (x + n - 1) / n * n

/-- The quotient rounded up. -/
def ceilDiv (x n : Nat) : Nat := (x + n - 1) / n

/-- A span of bytes cut at every multiple of a size: start and length of each part. -/
def spansOf (size a n : Nat) : List (Nat × Nat) :=
  if n = 0 then []
  else (List.range ((a + n - 1) / size - a / size + 1)).map fun i =>
    let lo := max a (size * (a / size + i))
    (lo, min (a + n) (size * (a / size + i + 1)) - lo)

/-- A span of bytes cut into its lines of 128 bytes. -/
def lineSpans (a n : Nat) : List (Nat × Nat) := spansOf 128 a n

/-- Bit i of a list of flags held as a number. -/
def bit (x : Nat) (i : Nat) : Bool := x.testBit i

/-- Element i of a list, or a default. -/
def nth {α : Type} (xs : List α) (i : Nat) (d : α) : α := xs.getD i d

/-- A list with element i replaced by its image. -/
def updAt {α : Type} (f : α → α) : List α → Nat → List α
  | [], _ => []
  | x :: xs, 0 => f x :: xs
  | x :: xs, i + 1 => x :: updAt f xs i

end Sys2Proof.Machine
end

