-- ==== Sys2Proof/Machine/Crypto.lean ====
section
/-! DEFINITION. SM3 and the SM2 signature (R168, R169): the hash over byte strings, the keyed hash, the deterministic
nonce of RFC 6979 with SM3, and signing on the recommended 256-bit curve. -/

namespace Sys2Proof.Machine

/-! ## SM3 -/

/-- The SM3 initial value. -/
def sm3Iv : List (BitVec 32) :=
  [0x7380166f, 0x4914b2b9, 0x172442d7, 0xda8a0600, 0xa96f30bc, 0x163138aa, 0xe38dee4d, 0xb0fb0e4e]

/-- The next words of the message schedule: the newest word stands first. -/
def sm3Expand : Nat → List (BitVec 32) → List (BitVec 32)
  | 0, w => w
  | n + 1, w =>
    let at' (k : Nat) := w.getD (k - 1) 0
    let x := at' 16 ^^^ at' 9 ^^^ (at' 3).rotateLeft 15
    let p1 := x ^^^ x.rotateLeft 15 ^^^ x.rotateLeft 23
    sm3Expand n ((p1 ^^^ (at' 13).rotateLeft 7 ^^^ at' 6) :: w)

/-- The working registers A to H. -/
structure Sm3Regs where
  a : BitVec 32
  b : BitVec 32
  c : BitVec 32
  d : BitVec 32
  e : BitVec 32
  f : BitVec 32
  g : BitVec 32
  h : BitVec 32
  deriving DecidableEq, Repr

/-- One round with its schedule words. -/
def sm3Round (j : Nat) (w w' : BitVec 32) (x : Sm3Regs) : Sm3Regs :=
  let t : BitVec 32 := if j < 16 then 0x79cc4519 else 0x7a879d8a
  let ss1 := (x.a.rotateLeft 12 + x.e + t.rotateLeft (j % 32)).rotateLeft 7
  let ss2 := ss1 ^^^ x.a.rotateLeft 12
  let ff := if j < 16 then x.a ^^^ x.b ^^^ x.c else (x.a &&& x.b) ||| (x.a &&& x.c) ||| (x.b &&& x.c)
  let gg := if j < 16 then x.e ^^^ x.f ^^^ x.g else (x.e &&& x.f) ||| (~~~x.e &&& x.g)
  let tt1 := ff + x.d + ss2 + w'
  let tt2 := gg + x.h + ss1 + w
  ⟨tt1, x.a, x.b.rotateLeft 9, x.c, tt2 ^^^ tt2.rotateLeft 9 ^^^ tt2.rotateLeft 17, x.e, x.f.rotateLeft 19, x.g⟩

/-- The rounds from number j on: the schedule's oldest word stands first. -/
def sm3Rounds : Nat → Nat → List (BitVec 32) → Sm3Regs → Sm3Regs
  | 0, _, _, x => x
  | n + 1, j, w, x => sm3Rounds n (j + 1) w.tail (sm3Round j (w.getD 0 0) (w.getD 0 0 ^^^ w.getD 4 0) x)

/-- The n big-endian 32-bit words of bytes. -/
def beWords : Nat → Bytes → List (BitVec 32)
  | 0, _ => []
  | n + 1, bs => BitVec.ofNat 32 (beNat (bs.take 4)) :: beWords n (bs.drop 4)

/-- The compression of one 64-byte block. -/
def sm3Block (v : List (BitVec 32)) (block : Bytes) : List (BitVec 32) :=
  let w := (sm3Expand 52 (beWords 16 block).reverse).reverse
  let g (i : Nat) := v.getD i 0
  let x := sm3Rounds 64 0 w ⟨g 0, g 1, g 2, g 3, g 4, g 5, g 6, g 7⟩
  List.zipWith (· ^^^ ·) [x.a, x.b, x.c, x.d, x.e, x.f, x.g, x.h] v

/-- The compression of n whole blocks. -/
def sm3Blocks : Nat → List (BitVec 32) → Bytes → List (BitVec 32)
  | 0, v, _ => v
  | n + 1, v, bs => sm3Blocks n (sm3Block v (bs.take 64)) (bs.drop 64)

/-- Standard padding of a final part, for a total length in bytes. -/
def sm3Pad (bs : Bytes) (total : Nat) : Bytes :=
  let zeros := (119 - bs.length % 64) % 64
  bs ++ [0x80] ++ List.replicate zeros 0 ++ beBytes 8 (8 * total)

/-- The bytes of a state. -/
def sm3Bytes (v : List (BitVec 32)) : Bytes := v.flatMap fun w => beBytes 4 w.toNat
/-- The state of 32 bytes. -/
def sm3State (bs : Bytes) : List (BitVec 32) := beWords 8 bs

/-- SM3 from a state over bytes, finished for a total length when asked (R168). -/
def sm3From (v : List (BitVec 32)) (bs : Bytes) (finish : Option Nat) : Bytes :=
  let data := match finish with
    | some total => sm3Pad bs total
    | none => bs
  sm3Bytes (sm3Blocks (data.length / 64) v data)

/-- The SM3 digest of a byte string. -/
def sm3 (bs : Bytes) : Bytes := sm3From sm3Iv bs (some bs.length)

/-- The keyed hash with SM3, for keys of at most 64 bytes. -/
def hmacSm3 (key msg : Bytes) : Bytes :=
  let k := key ++ List.replicate (64 - key.length) 0
  sm3 (k.map (· ^^^ 0x5C) ++ sm3 (k.map (· ^^^ 0x36) ++ msg))

/-! ## The recommended curve (GB/T 32918.5) -/

def sm2P : Nat := 0xFFFFFFFEFFFFFFFFFFFFFFFFFFFFFFFFFFFFFFFF00000000FFFFFFFFFFFFFFFF
def sm2N : Nat := 0xFFFFFFFEFFFFFFFFFFFFFFFFFFFFFFFF7203DF6B21C6052B53BBF40939D54123
def sm2Gx : Nat := 0x32C4AE2C1F1981195F9904466A39C9948FE30BBFF2660BE1715A4589334C74C7
def sm2Gy : Nat := 0xBC3736A2F4F6779C59BDCEE36B692153D0A9877CC62A474002DF32E52139F0A0

/-- x^e modulo m, over the low n bits of e from the highest. -/
def powMod (x e m : Nat) : Nat → Nat → Nat
  | 0, acc => acc
  | n + 1, acc =>
    let sq := acc * acc % m
    powMod x e m n (if e.testBit n then sq * x % m else sq)

/-- The inverse modulo a prime. -/
def invMod (x m : Nat) : Nat := powMod (x % m) (m - 2) m 256 1

def subMod (a b m : Nat) : Nat := (a + (m - b % m)) % m

/-- A point in Jacobian coordinates; z = 0 is the point at infinity. -/
structure EcPoint where
  x : Nat
  y : Nat
  z : Nat
  deriving DecidableEq, Repr

/-- Doubling on a curve with a = −3. -/
def EcPoint.dbl (p : EcPoint) : EcPoint :=
  if p.z = 0 then p
  else
    let m := sm2P
    let d := p.z * p.z % m
    let g := p.y * p.y % m
    let b := p.x * g % m
    let a := 3 * (subMod p.x d m * (p.x + d)) % m
    let x3 := subMod (a * a) (8 * b) m
    let z3 := 2 * p.y * p.z % m
    ⟨x3, subMod (a * subMod (4 * b) x3 m) (8 * g * g) m, z3⟩

/-- Addition of two points. -/
def EcPoint.add (p q : EcPoint) : EcPoint :=
  if p.z = 0 then q else if q.z = 0 then p
  else
    let m := sm2P
    let z1 := p.z * p.z % m
    let z2 := q.z * q.z % m
    let u1 := p.x * z2 % m
    let u2 := q.x * z1 % m
    let s1 := p.y * z2 * q.z % m
    let s2 := q.y * z1 * p.z % m
    if u1 = u2 then (if s1 = s2 then p.dbl else ⟨1, 1, 0⟩)
    else
      let h := subMod u2 u1 m
      let r := subMod s2 s1 m
      let h2 := h * h % m
      let h3 := h2 * h % m
      let v := u1 * h2 % m
      let x3 := subMod (subMod (r * r) h3 m) (2 * v) m
      ⟨x3, subMod (r * subMod v x3 m) (s1 * h3) m, h * p.z * q.z % m⟩

/-- The multiple of a point by the low n bits of a number. -/
def ecMul (k : Nat) (p : EcPoint) : Nat → EcPoint → EcPoint
  | 0, acc => acc
  | n + 1, acc =>
    let d := acc.dbl
    ecMul k p n (if k.testBit n then d.add p else d)

/-- The x coordinate of k times the base point. -/
def sm2MulX (k : Nat) : Nat :=
  let p := ecMul k ⟨sm2Gx, sm2Gy, 1⟩ 256 ⟨1, 1, 0⟩
  p.x * powMod (invMod p.z sm2P) 2 sm2P 2 1 % sm2P

/-! ## Signing (R169) -/

/-- The signature for a nonce, when SM2 accepts it. -/
def sm2Try (d e k : Nat) : Option (Nat × Nat) :=
  let r := (e + sm2MulX k) % sm2N
  if r = 0 || r + k = sm2N then none
  else
    let s := invMod (1 + d) sm2N * subMod k (r * d) sm2N % sm2N
    if s = 0 then none else some (r, s)

/-- The candidates of the deterministic nonce procedure, one after another. -/
def sm2Candidates (d e : Nat) : Nat → Bytes → Bytes → Nat × Nat
  | 0, _, _ => (0, 0)
  | n + 1, key, v =>
    let v := hmacSm3 key v
    let k := beNat v
    match (if 1 ≤ k && k < sm2N then sm2Try d e k else none) with
    | some rs => rs
    | none =>
      let key := hmacSm3 key (v ++ [0])
      sm2Candidates d e n key (hmacSm3 key v)

/-- The SM2 signature of digest e under private key d: (0, 0) for a key outside 1 to n − 2 (R169). -/
def sm2Sign (d : Nat) (digest : Bytes) : Nat × Nat :=
  if d = 0 || sm2N - 1 ≤ d then (0, 0)
  else
    let e := beNat digest
    let seedBytes := beBytes 32 d ++ beBytes 32 (e % sm2N)
    let v0 : Bytes := List.replicate 32 1
    let k1 := hmacSm3 (List.replicate 32 0) (v0 ++ [0] ++ seedBytes)
    let v1 := hmacSm3 k1 v0
    let k2 := hmacSm3 k1 (v1 ++ [1] ++ seedBytes)
    sm2Candidates d e 64 k2 (hmacSm3 k2 v1)

end Sys2Proof.Machine
end

