-- ==== Sys2Proof/Config.lean ====
section
/-! DEFINITION. What the spec leaves open and the machine goes on from: free values. Each is an opaque constant with no
body, so no proof can use a value of it; the machine applies it to the plain counter `free` of State, which every use
advances, or to the operands it depends on. The assumption log names each. -/

namespace Sys2Proof.Config

/-- The raw tag of a unit of storage that its owner has not written (R32, R42), by use and unit: log entry 2. -/
opaque freshTag : Nat → Nat → BitVec 16
/-- The raw contents of such a unit, which only the debug path can read (R47): log entry 2. -/
opaque freshData : Nat → Nat → BitVec 1024
/-- Which eligible lanes a device cancels (R141): log entry 9. -/
opaque cancelled : Nat → BitVec 1024
/-- The digits of a stage that a group pair will have emitted when a stop finds it open (R142), which report progress only:
the use, the pair; log entry 8. -/
opaque digits : Nat → Nat → Nat
/-- Reference periods that pass beyond the one a step takes (R166): log entry 10. -/
opaque clockTicks : Nat → Nat
/-- Where the choice of a packet's entropy path begins (R335): log entry 131. -/
opaque spray : Nat → Nat
/-- Whether a cached line or translation is kept when a cache evicts (R281, R293, R374): log entry 6. -/
opaque keepLine : Nat → Nat → Bool
/-- Which of a plot's replicas of a line serves a REP load; a number past the last one serves it from the home slice and
makes another replica (R294): log entry 11. -/
opaque replica : Nat → Nat → Nat
/-- Whether a parity bit of a live unit comes to disagree: the use, the role, the frame counted from the current one, and
the unit (R48): log entry 4. -/
opaque flawed : Nat → Nat → Nat → Nat → Bool
/-- Whether a row whose parity is found wrong has a copy with good parity (R48, R49): the use, the role, and the row: log
entry 4. -/
opaque copied : Nat → Nat → Nat → Bool
/-- The 32-byte atoms of device memory that are found to hold an uncorrectable error (R292, R416): log entry 4. -/
opaque badAtoms : Nat → List Nat
/-- The bytes of a tile or scale granule of a team that come to hold an uncorrectable error (R269): the use, the team, the
unit (log entry 4). -/
opaque badBytes : Nat → Nat → Nat → List Nat
/-- The lifetime counts that rise with time, temperature, supply and memory errors: blocks and indices (R454): log entry
120. -/
opaque lifeEvents : Nat → List (Nat × Nat)
/-- Where the search for the token of a fault record begins (R378): log entry 14. -/
opaque token : Nat → Nat
/-- The fresh bits of the n-th read of Hyaluo's entropy word (R422, R441): log entry 17. -/
opaque entropy : Nat → BitVec 32
/-- The fresh 32-byte nonce of a TDISP LOCK response (R432): log entry 17. -/
opaque nonce : Nat → BitVec 256
/-- A byte of a saved engine command or armed trigger in a context block, whose layout R399 does not give: log entry
22. -/
opaque contextByte : Nat → Nat → BitVec 8
/-- What a chunk still reads from outside the package when its plot is killed (R407): the use of the value, and the byte;
log entry 136. -/
opaque lastByte : Nat → Nat → BitVec 8
/-- A byte read from an atom that holds an uncorrectable error (R292): the use of the value, and the address; log
entry 21. -/
opaque poisonByte : Nat → Nat → BitVec 8
/-- The 256-bit fused secret of the package (R423): log entry 16. -/
opaque seed : BitVec 256
/-- The reading of a telemetry item, of no stated value: log entry 19. -/
opaque telemetry : Nat → BitVec 32 → BitVec 64
/-- Whether the device has a telemetry item: log entry 19. -/
opaque hasItem : BitVec 32 → Bool
/-- The world in which an error event of a telemetry item fell (R438): log entry 19. -/
opaque eventWorld : BitVec 32 → Nat
/-- The digest of a TDI's interface report, of which the spec gives the device-specific part only: log entry 23. -/
opaque reportDigest : Bytes → BitVec 256
/-- A byte of the certificate chain of slot 0 (R427), after the four that give its length: log entry 20. -/
opaque chainByte : Nat → BitVec 8
/-- The part of an SPDM response whose bytes the SPDM specification, not this one, gives: log entry 20. -/
opaque spdmBody : Nat → Bytes

end Sys2Proof.Config
end

