-- ==== Sys2Proof/Machine/Float.lean ====
section
/-! DEFINITION. Floating-point numbers (R116, R117), rounding and flags (R123 to R126), and the per-element results
of the floating-point instructions (R193 to R202). Every result is computed exactly, or, for the functions that no
exact number holds, to several hundred bits, and then rounded once. -/

namespace Sys2Proof.Machine

/-- The floating-point element formats (R116). -/
inductive Fmt where
  | f32 | bf16 | f16 | e4m3 | e5m2
  deriving DecidableEq, Repr

/-- Width of the mantissa field. -/
def Fmt.mbits : Fmt → Nat
  | .f32 => 23 | .bf16 => 7 | .f16 => 10 | .e4m3 => 3 | .e5m2 => 2
/-- Width of the exponent field. -/
def Fmt.ebits : Fmt → Nat
  | .f32 => 8 | .bf16 => 8 | .f16 => 5 | .e4m3 => 4 | .e5m2 => 5
/-- The exponent bias. -/
def Fmt.bias : Fmt → Nat
  | .f32 => 127 | .bf16 => 127 | .f16 => 15 | .e4m3 => 7 | .e5m2 => 15
/-- Width of an element. -/
def Fmt.width (f : Fmt) : Nat := 1 + f.ebits + f.mbits
/-- The encoding of the largest finite magnitude. -/
def Fmt.maxEnc (f : Fmt) : Nat :=
  match f with
  | .e4m3 => 0x7E
  | _ => (2 ^ f.ebits - 1) * 2 ^ f.mbits - 1
/-- The canonical NaN (R117). -/
def Fmt.nan (f : Fmt) : Nat :=
  match f with
  | .e4m3 => 0x7F
  | _ => (2 ^ f.ebits - 1) * 2 ^ f.mbits + 2 ^ (f.mbits - 1)

/-- A decoded value: (−1)^neg × m × 2^e when finite. -/
inductive FVal where
  | nan (signalling : Bool)
  | inf (neg : Bool)
  | fin (neg : Bool) (m : Nat) (e : Int)
  deriving DecidableEq, Repr

/-- The value of an encoding (R116, R117). -/
def Fmt.decode (f : Fmt) (x : Nat) : FVal :=
  let neg := x.testBit (f.width - 1)
  let e := (x / 2 ^ f.mbits) % 2 ^ f.ebits
  let m := x % 2 ^ f.mbits
  let special := match f with
    | .e4m3 => e == 15 && m == 7
    | _ => e == 2 ^ f.ebits - 1
  if special then
    match f with
    | .e4m3 => .nan false
    | _ => if m = 0 then .inf neg else .nan (!m.testBit (f.mbits - 1))
  else if e = 0 then .fin neg m (1 - f.bias - f.mbits : Int)
  else .fin neg (2 ^ f.mbits + m) ((e : Int) - f.bias - f.mbits)

/-- FPFLAGS bits (R124). -/
abbrev FFlags := BitVec 5
def fInvalid : FFlags := 1
def fDivZero : FFlags := 2
def fOverflow : FFlags := 4
def fUnderflow : FFlags := 8
def fInexact : FFlags := 16

/-- An element's bits, with the conditions it meets. -/
abbrev FRes := Nat × FFlags

/-- The encoding with a sign. -/
def Fmt.signed (f : Fmt) (neg : Bool) (x : Nat) : Nat := x + if neg then 2 ^ (f.width - 1) else 0
def Fmt.zero (f : Fmt) (neg : Bool) : Nat := f.signed neg 0
/-- Infinity, or the largest finite magnitude where the format has none (R126). -/
def Fmt.inf (f : Fmt) (neg : Bool) : Nat := f.signed neg (f.maxEnc + if f = .e4m3 then 0 else 1)

/-- Number of bits of a number. -/
def bitLen (m : Nat) : Nat := if m = 0 then 0 else m.log2 + 1

/-- 2^e as a natural factor, 1 when the exponent is negative. -/
def shl (m : Nat) (e : Int) : Nat := m * 2 ^ e.toNat

/-- Whether a magnitude kept with this remainder is increased (R123): rounding field, sign, odd last bit, remainder
compared with half (0 zero, 1 below, 2 half, 3 above). -/
def roundUpBy (rnd : Nat) (neg odd : Bool) (rem : Nat) : Bool :=
  match rnd with
  | 0 => rem == 3 || (rem == 2 && odd)
  | 1 => false
  | 2 => rem != 0 && !neg
  | _ => rem != 0 && neg

/-- m × 2^e plus a tail below one unit of m when sticky, rounded to a multiple of 2^q: the multiple, and whether it
differs. A caller with a tail gives at least two bits below q. -/
def roundAt (rnd : Nat) (neg : Bool) (m : Nat) (e q : Int) (sticky : Bool) : Nat × Bool :=
  if q ≤ e then (shl m (e - q), sticky)
  else
    let d := 2 ^ (q - e).toNat
    let keep := m / d
    let r := m % d
    let rem := if r = 0 then (if sticky then 1 else 0)
      else if 2 * r < d then 1 else if 2 * r = d then (if sticky then 3 else 2) else 3
    (keep + (if roundUpBy rnd neg (keep % 2 == 1) rem then 1 else 0), rem != 0)

/-- One rounding of a nonzero magnitude to a format, with the flags it meets (R123, R124, R126). -/
def Fmt.round (f : Fmt) (rnd : Nat) (neg : Bool) (m : Nat) (e : Int) (sticky : Bool) : FRes :=
  let p : Int := f.mbits + 1
  let emin : Int := 1 - f.bias
  let top : Int := e + bitLen m - 1
  let qu := top - (p - 1)
  let q := max qu (emin - (p - 1))
  let (k, inex) := roundAt rnd neg m e q sticky
  let enc := ((q + (p - 1) + f.bias - 1).toNat) * 2 ^ f.mbits + k
  if enc > f.maxEnc then
    let big := match f with
      | .e4m3 => f.maxEnc
      | _ => if rnd = 0 || (rnd = 2 && !neg) || (rnd = 3 && neg) then f.maxEnc + 1 else f.maxEnc
    (f.signed neg big, fOverflow ||| fInexact)
  else
    let (ku, _) := roundAt rnd neg m e qu sticky
    let tiny := qu < emin - (p - 1) && !(qu + 1 == emin - (p - 1) && ku == 2 ^ (f.mbits + 1))
    (f.signed neg enc, (if tiny && inex then fUnderflow else 0) ||| (if inex then fInexact else 0))

/-- The exact number n × 2^e rounded; `zneg` is the sign of an exact zero. -/
def Fmt.roundInt (f : Fmt) (rnd : Nat) (zneg : Bool) (n e : Int) : FRes :=
  if n = 0 then (f.zero zneg, 0) else f.round rnd (n < 0) n.natAbs e false

/-- The canonical NaN, with invalid when told. -/
def Fmt.nanRes (f : Fmt) (invalid : Bool) : FRes := (f.nan, if invalid then fInvalid else 0)

def FVal.isNan : FVal → Bool
  | .nan _ => true
  | _ => false
def FVal.isSig : FVal → Bool
  | .nan s => s
  | _ => false
def FVal.neg : FVal → FVal
  | .nan s => .nan s
  | .inf n => .inf (!n)
  | .fin n m e => .fin (!n) m e

/-- The signed numerator of a finite value scaled to 2^q, where q is at most its exponent. -/
def scaled (neg : Bool) (m : Nat) (e q : Int) : Int := (if neg then -1 else 1) * (shl m (e - q) : Int)

/-- a + b, rounded once (R193). -/
def Fmt.add (f : Fmt) (rnd : Nat) (a b : FVal) : FRes :=
  match a, b with
  | .nan s, y => f.nanRes (s || y.isSig)
  | _, .nan s => f.nanRes s
  | .inf n, .inf n' => if n = n' then (f.inf n, 0) else f.nanRes true
  | .inf n, .fin _ _ _ => (f.inf n, 0)
  | .fin _ _ _, .inf n => (f.inf n, 0)
  | .fin n m e, .fin n' m' e' =>
    let q := min e e'
    f.roundInt rnd (if n = n' then n else rnd == 3) (scaled n m e q + scaled n' m' e' q) q

/-- The exact product of two values; none when it is invalid. -/
def FVal.mul : FVal → FVal → Option FVal
  | .nan s, y => some (.nan (s || y.isSig))
  | _, .nan s => some (.nan s)
  | .inf n, .inf n' => some (.inf (n != n'))
  | .inf n, .fin n' m _ => if m = 0 then none else some (.inf (n != n'))
  | .fin n' m _, .inf n => if m = 0 then none else some (.inf (n != n'))
  | .fin n m e, .fin n' m' e' => some (.fin (n != n') (m * m') (e + e'))

/-- A value rounded to a format (R126): a special one as it converts between floating-point formats. -/
def Fmt.ofVal (f : Fmt) (rnd : Nat) : FVal → FRes
  | .nan s => f.nanRes s
  | .inf n => (f.inf n, if f = .e4m3 then fOverflow ||| fInexact else 0)
  | .fin n m e => if m = 0 then (f.zero n, 0) else f.round rnd n m e false

/-- a × b, rounded once (R193). -/
def Fmt.mul (f : Fmt) (rnd : Nat) (a b : FVal) : FRes :=
  match a.mul b with
  | none => f.nanRes true
  | some (.inf n) => (f.inf n, 0)
  | some v => f.ofVal rnd v

/-- a × b + c, rounded once (R193): 0 × ∞ is invalid even beside a quiet NaN addend. -/
def Fmt.fma (f : Fmt) (rnd : Nat) (a b c : FVal) : FRes :=
  match a.mul b with
  | none => f.nanRes true
  | some p =>
    match p with
    | .nan s => f.nanRes (s || c.isSig)
    | p => f.add rnd p c

/-- Bits of quotient or root computed before rounding. -/
def guardBits : Nat := 80

/-- a ÷ b, rounded once (R193). -/
def Fmt.div (f : Fmt) (rnd : Nat) (a b : FVal) : FRes :=
  match a, b with
  | .nan s, y => f.nanRes (s || y.isSig)
  | _, .nan s => f.nanRes s
  | .inf _, .inf _ => f.nanRes true
  | .inf n, .fin n' _ _ => (f.inf (n != n'), 0)
  | .fin n _ _, .inf n' => (f.zero (n != n'), 0)
  | .fin n m e, .fin n' m' e' =>
    if m' = 0 then (if m = 0 then f.nanRes true else (f.inf (n != n'), fDivZero))
    else if m = 0 then (f.zero (n != n'), 0)
    else
      let num := m * 2 ^ guardBits
      f.round rnd (n != n') (num / m') (e - e' - guardBits) (num % m' != 0)

/-- Integer square root, bit by bit. -/
def isqrt (n : Nat) : Nat :=
  (List.range (bitLen n / 2 + 1)).foldr (fun i r =>
    let t := r + 2 ^ i
    if t * t ≤ n then t else r) 0

/-- √x (R199, R200). -/
def Fmt.sqrt (f : Fmt) (rnd : Nat) : FVal → FRes
  | .nan s => f.nanRes s
  | .inf n => if n then f.nanRes true else (f.inf false, 0)
  | .fin n m e =>
    if m = 0 then (f.zero n, 0) else if n then f.nanRes true
    else
      let odd := e % 2 != 0
      let x := (if odd then 2 * m else m) * 2 ^ (2 * guardBits)
      let e' := (if odd then e - 1 else e) / 2 - guardBits
      let r := isqrt x
      f.round rnd false r e' (r * r != x)

/-- 1 ÷ √x (R199, R200). -/
def Fmt.rsqrt (f : Fmt) (rnd : Nat) : FVal → FRes
  | .nan s => f.nanRes s
  | .inf n => if n then f.nanRes true else (f.zero false, 0)
  | .fin n m e =>
    if m = 0 then (f.inf n, fDivZero) else if n then f.nanRes true
    else
      let odd := e % 2 != 0
      let x := if odd then 2 * m else m
      let num := 2 ^ (2 * (guardBits + 40))
      let r := isqrt (num / x)
      f.round rnd false r (-((if odd then e - 1 else e) / 2) - (guardBits + 40)) (r * r * x != num)

/-- Whether the smaller of two values is the first, −0 being below +0 (R195). -/
def FVal.le : FVal → FVal → Bool
  | .inf n, y => n || (match y with | .inf n' => !n' | _ => false)
  | .fin _ _ _, .inf n => !n
  | .fin n m e, .fin n' m' e' =>
    let q := min e e'
    let x := scaled n m e q
    let y := scaled n' m' e' q
    x < y || (x == y && (n || !n'))
  | _, _ => true

/-- FMIN or FMAX (R195). -/
def Fmt.minMax (f : Fmt) (isMax : Bool) (x y : Nat) : FRes :=
  let a := f.decode x
  let b := f.decode y
  if a.isNan || b.isNan then f.nanRes (a.isSig || b.isSig)
  else (if a.le b != isMax then x else y, 0)

/-- The order of two values: none unordered, else −1, 0 or 1; −0 equals +0 (R198). -/
def FVal.cmp : FVal → FVal → Option Int
  | .nan _, _ => none
  | _, .nan _ => none
  | .inf n, .inf n' => some (if n = n' then 0 else if n then -1 else 1)
  | .inf n, .fin _ _ _ => some (if n then -1 else 1)
  | .fin _ _ _, .inf n => some (if n then 1 else -1)
  | .fin n m e, .fin n' m' e' =>
    let q := min e e'
    let d := scaled n m e q - scaled n' m' e' q
    some (if d = 0 then 0 else if d < 0 then -1 else 1)

/-- The truth of a comparison under a condition code of R109 (R198). -/
def fcond (c : Nat) (o : Option Int) : Bool :=
  match c, o with
  | 0, some d => d == 0
  | 1, some d => d != 0
  | 1, none => true
  | 2, some d => d < 0
  | 3, some d => d ≤ 0
  | 4, some d => d > 0
  | 5, some d => d ≥ 0
  | 6, none => true
  | 7, some _ => true
  | _, _ => false

/-- The clamps of R196: x where it compares true with +0 under the condition, +0 elsewhere; a NaN kept is canonical. -/
def clamp (c : Nat) (x : Nat) : FRes :=
  let v := Fmt.f32.decode x
  let fl := if v.isSig then fInvalid else 0
  if fcond c (v.cmp (.fin false 0 0)) then ((if v.isNan then Fmt.f32.nan else x), fl) else (0, fl)

/-- The nearest integral value in a direction (R199, R201): magnitude and whether it differs. -/
def toIntegral (rnd : Nat) (neg : Bool) (m : Nat) (e : Int) : Nat × Bool := roundAt rnd neg m e 0 false

/-- FRINT (R199, R200). -/
def frint (rnd : Nat) (x : Nat) : FRes :=
  match Fmt.f32.decode x with
  | .nan s => Fmt.f32.nanRes s
  | .inf n => (Fmt.f32.inf n, 0)
  | .fin n m e =>
    let k := (toIntegral rnd n m e).1
    if k = 0 then (Fmt.f32.zero n, 0) else ((Fmt.f32.round 1 n k 0 false).1, 0)

/-- FABS and FNEG (R199, R200). -/
def fabsNeg (isNeg : Bool) (x : Nat) : FRes :=
  match Fmt.f32.decode x with
  | .nan s => Fmt.f32.nanRes s
  | _ => (if isNeg then (if x.testBit 31 then x % 2 ^ 31 else x + 2 ^ 31) else x % 2 ^ 31, 0)

/-- Conversion of an FP32 value to a signed or unsigned 32-bit integer (R126, R201). -/
def toInt32 (signed : Bool) (rnd : Nat) (v : FVal) : FRes :=
  let lo : Int := if signed then -(2 ^ 31) else 0
  let hi : Int := if signed then 2 ^ 31 - 1 else 2 ^ 32 - 1
  match v with
  | .nan _ => (0, fInvalid)
  | .inf n => (wrap 32 (if n then lo else hi), fInvalid)
  | .fin n m e =>
    let (k, inex) := toIntegral rnd n m e
    let i : Int := if n then -(k : Int) else k
    if i < lo then (wrap 32 lo, fInvalid)
    else if hi < i then (wrap 32 hi, fInvalid)
    else (wrap 32 i, if inex then fInexact else 0)

/-- The exact sum of finite terms over 2^q with the special cases of GRED fadd (R190). -/
def sumVals (vs : List FVal) : FRes :=
  let f := Fmt.f32
  let sig := vs.any FVal.isSig
  let pinf := vs.any (· == .inf false)
  let ninf := vs.any (· == .inf true)
  if vs.any FVal.isNan then f.nanRes (sig || (pinf && ninf))
  else if pinf && ninf then f.nanRes true
  else if pinf then (f.inf false, 0)
  else if ninf then (f.inf true, 0)
  else
    let q : Int := -149
    let n := vs.foldl (fun acc v => match v with | .fin s m e => acc + scaled s m e q | _ => acc) (0 : Int)
    f.roundInt 0 (vs.all fun v => match v with | .fin s m _ => s && m == 0 | _ => false) n q

/-! ## Functions that no exact number holds (R199, R200) -/

/-- π/2 × 2^512, rounded down. -/
def halfPi : Nat := 
  0x1921fb54442d18469898cc51701b839a252049c1114cf98e804177d4c76273644a29410f31c6809bbdf2a33679a748636605614dbe4be286e9fc26adadaa3848b

/-- ln 2 × 2^512, rounded down. -/
def ln2 : Nat := 
  0xb17217f7d1cf79abc9e3b39803f2f6af40f343267298b62d8a0d175b8baafa2be7b876206debac98559552fb4afa1b10ed2eae35c138214427573b291169b825

/-- Fraction bits of the fixed-point numbers below. -/
def fx : Nat := 512
/-- 1 in fixed point. -/
def fxOne : Nat := 2 ^ fx

/-- A power series in fixed point: each term is made from the one before it and its number. -/
def series (next : Nat → Nat → Nat) (neg : Nat → Bool) : Nat → Nat → Nat → Int → Int
  | 0, _, _, acc => acc
  | n + 1, k, t, acc =>
    series next neg n (k + 1) (next k t) (acc + if neg k then -(t : Int) else t)

/-- e^r for 0 ≤ r < 1, in fixed point. -/
def fxExp (r : Nat) : Nat := (series (fun k t => t * r / fxOne / (k + 1)) (fun _ => false) 90 0 fxOne 0).toNat
/-- sin r for 0 ≤ r < 2. -/
def fxSin (r : Nat) : Nat :=
  let r2 := r * r / fxOne
  (series (fun k t => t * r2 / fxOne / ((2 * k + 2) * (2 * k + 3))) (fun k => k % 2 == 1) 60 0 r 0).toNat
/-- cos r for 0 ≤ r < 2. -/
def fxCos (r : Nat) : Nat :=
  let r2 := r * r / fxOne
  (series (fun k t => t * r2 / fxOne / ((2 * k + 1) * (2 * k + 2))) (fun k => k % 2 == 1) 60 0 fxOne 0).toNat
/-- atanh z × 2 for 0 ≤ z ≤ 1/3. -/
def fxLn (z : Nat) : Nat :=
  let z2 := z * z / fxOne
  2 * lnSum z2 160 0 z 0
where
  lnSum (z2 : Nat) : Nat → Nat → Nat → Nat → Nat
    | 0, _, _, acc => acc
    | n + 1, k, t, acc => lnSum z2 n (k + 1) (t * z2 / fxOne) (acc + t / (2 * k + 1))

/-- One part in 2^100 below m × 2^e, with a tail: a value just below it. -/
def justBelow (f : Fmt) (rnd : Nat) (neg : Bool) (m : Nat) (e : Int) : FRes :=
  f.round rnd neg (m * 2 ^ 100 - 1) (e - 100) true

/-- A fixed-point magnitude with a tail, rounded. -/
def ofFx (rnd : Nat) (neg : Bool) (x : Nat) : FRes := Fmt.f32.round rnd neg x (-(fx : Int)) true

/-- 2^x (R199, R200). -/
def fexp2 (rnd : Nat) (v : FVal) : FRes :=
  let f := Fmt.f32
  match v with
  | .nan s => f.nanRes s
  | .inf n => if n then (f.zero false, 0) else (f.inf false, 0)
  | .fin n m e =>
    if m = 0 then f.round rnd false 1 0 false
    else if 0 ≤ e + bitLen m - 10 then
      -- magnitude at least 512: far beyond the range of the format
      f.round rnd false 1 (if n then -1000 else 1000) true
    else if e + bitLen m ≤ -80 then
      if n then justBelow f rnd false 1 0 else f.round rnd false (2 ^ 60) (-60) true
    else
      let x : Nat := if 0 ≤ e + fx then m * 2 ^ (e + fx).toNat else 0
      let y : Int := if n then -(x : Int) else x
      let k : Int := y / (fxOne : Int)
      let r : Nat := (y % (fxOne : Int)).toNat
      if r = 0 then f.round rnd false 1 k false
      else f.round rnd false (fxExp (r * ln2 / fxOne)) (k - fx) true

/-- log₂ x (R199, R200). -/
def flog2 (rnd : Nat) (v : FVal) : FRes :=
  let f := Fmt.f32
  match v with
  | .nan s => f.nanRes s
  | .inf n => if n then f.nanRes true else (f.inf false, 0)
  | .fin n m e =>
    if m = 0 then (f.inf true, fDivZero)
    else if n then f.nanRes true
    else
      let l := bitLen m
      let k : Int := e + l - 1
      let y := m * 2 ^ (fx - (l - 1))
      if y = fxOne then f.roundInt rnd false k 0
      else
        let z := (y - fxOne) * fxOne / (y + fxOne)
        let t : Int := k * fxOne + (fxLn z * fxOne / ln2 : Nat)
        -- a negative number's magnitude is rounded down too, so that its tail lies above it
        if t < 0 then ofFx rnd true (t.natAbs - 1) else ofFx rnd false t.toNat

/-- sin x or cos x of x radians (R199, R200). -/
def fsincos (isCos : Bool) (rnd : Nat) (v : FVal) : FRes :=
  let f := Fmt.f32
  match v with
  | .nan s => f.nanRes s
  | .inf _ => f.nanRes true
  | .fin n m e =>
    if m = 0 then (if isCos then f.round rnd false 1 0 false else (f.zero n, 0))
    else if e + bitLen m ≤ -80 then
      if isCos then justBelow f rnd false 1 0 else justBelow f rnd n m e
    else
      let x := m * 2 ^ (e + fx).toNat
      let q := x / halfPi
      let r := x % halfPi
      let quad := (q + if isCos then 1 else 0) % 4
      let mag := if quad % 2 = 0 then fxSin r else fxCos r
      ofFx rnd ((quad ≥ 2) != (n && !isCos)) mag

/-- tanh x (R199, R200). -/
def ftanh (rnd : Nat) (v : FVal) : FRes :=
  let f := Fmt.f32
  match v with
  | .nan s => f.nanRes s
  | .inf n => f.round rnd n 1 0 false
  | .fin n m e =>
    if m = 0 then (f.zero n, 0)
    else if e + bitLen m ≤ -80 then justBelow f rnd n m e
    else if 7 ≤ e + bitLen m then justBelow f rnd n 1 0
    else
      let x := m * 2 ^ (e + 1 + fx).toNat
      let k := x / ln2
      let big := fxExp (x % ln2) * 2 ^ k
      ofFx rnd n ((big - fxOne) * fxOne / (big + fxOne))

end Sys2Proof.Machine
end

