-- ==== Sys2Proof/Machine/AMap.lean ====
section
/-! DEFINITION. Operations on finite maps held as lists with strictly rising keys, and on memory, the finite map of
bytes in which no listed byte is zero: an unlisted address reads as zero (log entry 13). -/

namespace Sys2Proof.Machine

/-- The value at a key, if it is listed. -/
def mget {α : Type} : AMap α → Nat → Option α
  | [], _ => none
  | (k, v) :: m, i => if i = k then some v else if i < k then none else mget m i

/-- The map with a value at a key. -/
def mset {α : Type} : AMap α → Nat → α → AMap α
  | [], i, x => [(i, x)]
  | (k, v) :: m, i, x =>
    if i = k then (i, x) :: m else if i < k then (i, x) :: (k, v) :: m else (k, v) :: mset m i x

/-- The map without a key. -/
def mdel {α : Type} (m : AMap α) (i : Nat) : AMap α := m.filter fun p => p.1 != i

/-- The map with a value, or without one. -/
def mput {α : Type} (m : AMap α) (i : Nat) : Option α → AMap α
  | some x => mset m i x
  | none => mdel m i

/-- The map with every value replaced. -/
def mmap {α β : Type} (f : Nat → α → β) (m : AMap α) : AMap β := m.map fun p => (p.1, f p.1 p.2)

/-- The map's entries that a test keeps. -/
def mfilter {α : Type} (f : Nat → α → Bool) (m : AMap α) : AMap α := m.filter fun p => f p.1 p.2

/-- Keys are strictly rising, and the first exceeds `lo` when one is given. -/
def sortedFrom {α : Type} : Option Nat → AMap α → Bool
  | _, [] => true
  | none, (k, _) :: m => sortedFrom (some k) m
  | some lo, (k, _) :: m => lo < k && sortedFrom (some k) m

/-- The canonical form of memory: addresses strictly rising, no byte zero. -/
def Mem.wf (m : Mem) : Bool := sortedFrom none m && m.all fun c => c.2 != 0#8

/-- The byte at an address. -/
def rdByte (m : Mem) (a : Nat) : Byte := (mget m a).getD 0

/-- Memory with a byte written: writing zero removes the entry. -/
def wrByte (m : Mem) (a : Nat) (b : Byte) : Mem := if b = 0#8 then mdel m a else mset m a b

/-- n bytes from an address, lowest first. -/
def rdBytes (m : Mem) (a : Nat) : Nat → Bytes
  | 0 => []
  | n + 1 => rdByte m a :: rdBytes m (a + 1) n

/-- Memory with these bytes written from an address on. -/
def wrBytes (m : Mem) (a : Nat) : Bytes → Mem
  | [] => m
  | b :: bs => wrBytes (wrByte m a b) (a + 1) bs

/-- A little-endian number of n bytes (R8). -/
def rdLE (m : Mem) (a n : Nat) : Nat := leNat (rdBytes m a n)

/-- Memory with a little-endian number of n bytes written (R8). -/
def wrLE (m : Mem) (a n x : Nat) : Mem := wrBytes m a (leBytes n x)

/-- Memory with every byte of a range zero: its entries are dropped. -/
def zeroRange (m : Mem) (a n : Nat) : Mem := m.filter fun c => !(a ≤ c.1 && c.1 < a + n)

end Sys2Proof.Machine
end

