-- ==== Sys2Proof/Machine/Operands.lean ====
section
/-! DEFINITION. Naming, reading and writing registers: windowed names (R26, R27), the tagged units of a frame (R44,
R45), predicates (R22), and the lanes in which an instruction takes effect (R17, R60). -/

namespace Sys2Proof.Machine

/-- What a trap reports (R388, R390): its cause, and the fields of the trap record the cause fills. -/
structure Trap where
  cause : Imm8
  /-- 32g + l of the lane that decided the outcome -/
  lane : Option Nat := none
  addr : Option Nat := none
  info : Nat := 0
  /-- word offset at which the role resumes, when it is not the faulting word's -/
  resume : Option Nat := none
  /-- address of the faulting word, when it is not the one the clause context names -/
  source : Option Nat := none
  deferred : Bool := false
  more : Bool := false
  detail : Bytes := []
  deriving DecidableEq, Repr

/-- A part of an instruction that can end in a trap. -/
abbrev Res (α : Type) := Except Trap α

/-- The poison tag (R41). -/
def poisonTag : BitVec 16 := 0xFFFF
/-- The void tag (R41). -/
def voidTag : BitVec 16 := 0

/-! ## Lanes that take effect (R17, R60) -/

/-- A mask made group by group. -/
def maskG (n : Nat) (f : Nat → BitVec 32) : Mask :=
  BitVec.ofNat 1024 (packNat 32 (fun g => (f g).toNat) n)

/-- The lanes of the groups that are present. -/
def Role.presentMask (r : Role) : Mask := maskG r.groups fun g => if r.presence.getLsbD g then 0xFFFFFFFF else 0

/-- The active lanes of a role (R17). -/
def Role.active (r : Role) : Mask := r.mask &&& r.presentMask

/-- The role with another current mask: a group is present exactly when its lane mask is nonzero (R154). -/
def Role.setMask (r : Role) (m : Mask) : Role :=
  { r with mask := m
           presence := BitVec.ofNat 32 (packNat 1 (fun g => (groupMask m g != 0).toNat) r.groups) }

/-- The current frame. -/
def Role.frame (r : Role) : Frame := r.frames.headD (Frame.root 16 8 0)

/-- The role with its current frame replaced. -/
def Role.setFrame (r : Role) (f : Frame) : Role := { r with frames := f :: r.frames.tail }

/-- The truth of a predicate register in every lane (R22). -/
def Frame.pred (f : Frame) (p : PReg) : Mask := if p = 0#3 then BitVec.allOnes 1024 else f.preds.getD p.toNat 0

/-- The participating lanes: active, with the guard true (R176). -/
def Role.part (r : Role) (g : PReg) : Mask := r.active &&& r.frame.pred g

/-- A predicate register written in some lanes; p0 ignores writes (R22). -/
def Frame.setPred (f : Frame) (p : PReg) (m v : Mask) : Frame :=
  if p = 0#3 then f else { f with preds := f.preds.set p.toNat ((f.pred p &&& ~~~m) ||| (v &&& m)) }

/-! ## Names (R26, R27) -/

def regfield : Trap := { cause := causeRegfield }

/-- The frame register a vector name addresses (R26), REGFIELD outside the window (R27). Frame registers 0 to 7 have no
name while W > 0; the row of R203 that speaks of one, an FFMA long form whose addend lies in the incoming block while
W > 0, is taken as R27's check alone: no name of any instruction reaches below W (log entry 123). -/
def Frame.vname (f : Frame) (n : VReg) : Res Nat :=
  if 120 ≤ n.toNat then .ok (f.v + n.toNat - 128)
  else if f.w + n.toNat < f.v - 8 then .ok (f.w + n.toNat) else .error regfield

/-- The scalar register a name addresses, REGFIELD beyond the frame's count (R27). -/
def Frame.sname (f : Frame) (n : Nat) : Res Nat := if n < f.sc then .ok n else .error regfield

/-- Every name of a list. -/
def Frame.vnames (f : Frame) : List VReg → Res (List Nat)
  | [] => .ok []
  | n :: ns => do
    let x ← f.vname n
    let xs ← f.vnames ns
    .ok (x :: xs)

/-- The record base of a buffer selector: its last scalar must lie in the frame (R57, R59). -/
def Frame.bname (f : Frame) (b : BufSel) : Res Nat := do
  let base := 4 * (b.extractLsb' 0 4).toNat
  let _ ← f.sname (base + 3)
  .ok base

/-! ## Vector rows (R44, R45) -/

/-- The key of register x of group g. -/
def rowKey (x g : Nat) : Nat := 32 * x + g

/-- The lowest set bit of a group's lane mask. -/
def lowBit (m : BitVec 32) : Nat := ((List.range 32).find? fun l => m.getLsbD l).getD 0

/-- What an instruction reads of a row (R44): need holds the lanes it reads as active. The trap names a lane. -/
def Frame.readRow (f : Frame) (tagTrap : Bool) (x g : Nat) (need : BitVec 32) : Res Lanes :=
  let other : Res Lanes :=
    if tagTrap && need != 0 then .error { cause := causeTagread, lane := some (32 * g + lowBit need) } else .ok 0
  match mget f.rows (rowKey x g) with
  | none => other
  | some r =>
    if r.tag = f.gen then .ok r.data
    else if r.tag = poisonTag then
      if need = 0 then .ok 0 else .error { cause := causeRegloss, lane := some (32 * g + lowBit need) }
    else other

/-- Whether a write of these lanes finds a poison unit it does not cover (R45). -/
def Frame.rowLost (f : Frame) (x g : Nat) (m : BitVec 32) : Bool :=
  match mget f.rows (rowKey x g) with
  | none => false
  | some r => m != 0 && r.tag != f.gen && r.tag == poisonTag && m != BitVec.allOnes 32

/-- A row with lanes written (R45), the poison check being done: a poison unit not covered keeps its tag. -/
def Frame.writeRow (f : Frame) (x g : Nat) (m : BitVec 32) (v : Lanes) : Frame :=
  if m = 0 then f
  else
    let new : Row :=
      if m = BitVec.allOnes 32 then ⟨f.gen, v, false⟩
      else match mget f.rows (rowKey x g) with
        | none => ⟨f.gen, blend m 0 v, false⟩
        | some r =>
          if r.tag = f.gen then ⟨f.gen, blend m r.data v, r.flaw⟩
          else if r.tag = poisonTag then ⟨poisonTag, blend m r.data v, r.flaw⟩
          else ⟨f.gen, blend m 0 v, false⟩
    { f with rows := mset f.rows (rowKey x g) new }

/-- The rows of one register for every group, each checked for its lanes of the mask. -/
def Role.readReg (r : Role) (x : Nat) (m : Mask) : Res (List Lanes) := go (List.range r.groups)
where
  go : List Nat → Res (List Lanes)
    | [] => .ok []
    | g :: gs => do
      let row ← r.frame.readRow r.tagTrap x g (groupMask m g)
      let rest ← go gs
      .ok (row :: rest)

/-- The rows of several registers. -/
def Role.readRegs (r : Role) (m : Mask) : List Nat → Res (List (List Lanes))
  | [] => .ok []
  | x :: xs => do
    let rows ← r.readReg x m
    let rest ← r.readRegs m xs
    .ok (rows :: rest)

/-- The destination check of R45 over every group: REGLOSS for a partial write to a poison unit. -/
def Role.checkReg (r : Role) (x : Nat) (m : Mask) : Res Unit :=
  match (List.range r.groups).find? fun g => r.frame.rowLost x g (groupMask m g) with
  | none => .ok ()
  | some g => .error { cause := causeRegloss, lane := some (32 * g + lowBit (groupMask m g)) }

/-- The destination check for several registers. -/
def Role.checkRegs (r : Role) (m : Mask) : List Nat → Res Unit
  | [] => .ok ()
  | x :: xs => do
    r.checkReg x m
    r.checkRegs m xs

/-- One register written, group by group (R45). -/
def Frame.writeReg (f : Frame) (x : Nat) (m : Mask) (rows : List Lanes) : Frame :=
  (List.range rows.length).foldl (fun f g => f.writeRow x g (groupMask m g) (rows.getD g 0)) f

def Role.writeReg (r : Role) (x : Nat) (m : Mask) (rows : List Lanes) : Role :=
  r.setFrame (r.frame.writeReg x m rows)

/-! ## Scalar granules (R21, R44, R45) -/

/-- Register i of a granule's contents. -/
def granReg (x : BitVec 256) (i : Nat) : BitVec 64 := x.extractLsb' (64 * i) 64

/-- A granule's contents from its four registers. -/
def mkGran (f : Nat → BitVec 64) : BitVec 256 := BitVec.ofNat 256 (packNat 64 (fun i => (f i).toNat) 4)

/-- A scalar register as an instruction reads it (R44). -/
def Frame.readS (f : Frame) (tagTrap : Bool) (n : Nat) : Res (BitVec 64) :=
  let other : Res (BitVec 64) := if tagTrap then .error { cause := causeTagread } else .ok 0
  match mget f.grans (n / 4) with
  | none => other
  | some r =>
    if r.tag = f.gen then .ok (granReg r.data (n % 4))
    else if r.tag = poisonTag then .error { cause := causeRegloss }
    else other

/-- Consecutive scalar registers, checked unit by unit. -/
def Frame.readSs (f : Frame) (tagTrap : Bool) (n : Nat) : Nat → Res (List (BitVec 64))
  | 0 => .ok []
  | k + 1 => do
    let x ← f.readS tagTrap n
    let xs ← f.readSs tagTrap (n + 1) k
    .ok (x :: xs)

/-- The values written to a granule: by register of the granule. -/
def granWrites (n : Nat) (vs : List (BitVec 64)) (gi : Nat) (i : Nat) : Option (BitVec 64) :=
  let k := 4 * gi + i
  if n ≤ k then vs[k - n]? else none

/-- The granules that a write of k registers from n touches. -/
def granSpan (n k : Nat) : List Nat := (List.range (if k = 0 then 0 else (n + k - 1) / 4 - n / 4 + 1)).map (n / 4 + ·)

/-- The destination check of R45 for scalar registers. -/
def Frame.checkS (f : Frame) (n : Nat) (k : Nat) : Res Unit :=
  if (granSpan n k).any fun gi =>
      match mget f.grans gi with
      | none => false
      | some r => r.tag != f.gen && r.tag == poisonTag && !(n ≤ 4 * gi && 4 * gi + 4 ≤ n + k)
  then .error { cause := causeRegloss } else .ok ()

/-- Consecutive scalar registers written (R45), the poison check being done. -/
def Frame.writeSs (f : Frame) (n : Nat) (vs : List (BitVec 64)) : Frame :=
  (granSpan n vs.length).foldl (fun f gi =>
    let full := n ≤ 4 * gi && 4 * gi + 4 ≤ n + vs.length
    let old := mget f.grans gi
    let tag := match old with
      | none => f.gen
      | some r => if !full && r.tag != f.gen && r.tag == poisonTag then poisonTag else f.gen
    let base : BitVec 256 := match old with
      | none => 0
      | some r => if r.tag = f.gen || tag = poisonTag then r.data else 0
    let flaw := match old with
      | none => false
      | some r => !full && (r.tag == f.gen || tag == poisonTag) && r.flaw
    let new : Gran := ⟨tag, mkGran (fun i => (granWrites n vs gi i).getD (granReg base i)), flaw⟩
    { f with grans := mset f.grans gi new }) f

/-- One scalar register written. -/
def Frame.writeS (f : Frame) (n : Nat) (v : BitVec 64) : Frame := f.writeSs n [v]

end Sys2Proof.Machine
end

