-- ==== Sys2Proof/Machine/Furrow.lean ====
section
/-! DEFINITION. Online instructions and furrows (R136 to R144): an open instruction keeps its captured operands and
writes its destination when it lands; its result is always computed from what it captured and from the stages that
feed it. -/

namespace Sys2Proof.Machine

/-- An online instruction's result in a lane from its source values (R193, R195, R196, R199). -/
def onlineFn (i : Instr) (x : List Nat) : FRes :=
  let f := Fmt.f32
  let bits (k : Nat) := x.getD k 0
  let v (k : Nat) := f.decode (bits k)
  match i with
  | .fadd _ _ _ _ => f.add 0 (v 0) (v 1)
  | .fmul _ _ _ _ => f.mul 0 (v 0) (v 1)
  | .fdiv _ _ _ _ => f.div 0 (v 0) (v 1)
  | .ffma _ _ _ _ _ => f.fma 0 (v 0) (v 1) (v 2)
  | .fmin _ _ _ _ => f.minMax false (bits 0) (bits 1)
  | .fmax _ _ _ _ => f.minMax true (bits 0) (bits 1)
  | .fmaxz _ _ _ => clamp 4 (bits 0)
  | .fminz _ _ _ => clamp 2 (bits 0)
  | .fsetk _ _ c _ => clamp c.toNat (bits 0)
  | .faddLong r _ _ _ _ => f.add r.toNat (v 0) (v 1)
  | .fsub r _ _ _ _ => f.add r.toNat (v 0) (v 1).neg
  | .fmulLong r _ _ _ _ => f.mul r.toNat (v 0) (v 1)
  | .ffmaLong r _ _ _ _ _ => f.fma r.toNat (v 0) (v 1) (v 2)
  | .fdivLong r _ _ _ _ => f.div r.toNat (v 0) (v 1)
  | .ffms r _ _ _ _ _ => f.fma r.toNat (v 0) (v 1) (v 2).neg
  | .fnma r _ _ _ _ _ => f.fma r.toNat (v 0).neg (v 1) (v 2)
  | .fminLong _ _ _ _ _ => f.minMax false (bits 0) (bits 1)
  | .fmaxLong _ _ _ _ _ => f.minMax true (bits 0) (bits 1)
  | .fsqrt r _ _ _ => f.sqrt r.toNat (v 0)
  | .frcp r _ _ _ => f.div r.toNat (.fin false 1 0) (v 0)
  | _ => (0, 0)

/-- The instruction of a stage, from the word and literal it recorded (R142). -/
def Stage.instr (st : Stage) : Instr :=
  match decode [st.word, 2#2 ++ st.lit] with
  | .ok (i, _) => i
  | .error _ => .nop 0

/-- Results of a per-lane function in the lanes of a mask, and the conditions met there. -/
def laneResults (m : BitVec 32) (fn : Nat → FRes) : Lanes × FFlags :=
  (lanesOf fun l => if m.getLsbD l then BitVec.ofNat 32 (fn l).1 else 0,
   (List.range 32).foldl (fun acc l => if m.getLsbD l then acc ||| (fn l).2 else acc) 0)

/-- The source values of a lane from captured rows: rows by source, then group. -/
def laneSrc (rows : List (List Lanes)) (g l : Nat) : List Nat := rows.map fun r => (lane (r.getD g 0) l).toNat

/-- A stage's results, row by row. -/
def Stage.results (st : Stage) (groups : Nat) : List Lanes :=
  (List.range groups).map fun g =>
    (laneResults (groupMask st.lanes g) fun l => onlineFn st.instr (laneSrc st.residual g l)).1

/-- The conditions a stage contributes: a lane it was cancelled in gives no inexact flag, and nothing else differs
(R141). -/
def Stage.flags (st : Stage) (groups : Nat) : FFlags :=
  (List.range groups).foldl (fun acc g =>
    acc ||| (laneResults (groupMask st.lanes g) fun l =>
      let x := onlineFn st.instr (laneSrc st.residual g l)
      (0, if (groupMask st.cancelled g).getLsbD l then x.2 &&& ~~~fInexact else x.2)).2) 0

/-- The value of a source, in the lanes its feeding stage writes, replaced by that stage's result. -/
def feedRows (m : Mask) (res old : List Lanes) : List Lanes :=
  (List.range old.length).map fun g => blend (groupMask m g) (old.getD g 0) (res.getD g 0)

/-- A stage after the oldest one has landed with these results. -/
def Stage.fed (st : Stage) (m : Mask) (res : List Lanes) : Stage :=
  { st with
    residual := (List.range st.residual.length).map fun j =>
      if st.feeds.getD j none = some 0 then feedRows m res (st.residual.getD j []) else st.residual.getD j []
    feeds := st.feeds.map fun x => match x with
      | some (k + 1) => some k
      | _ => none }

/-- What a row keeps in lanes that a write does not change (R45). -/
def Frame.oldRow (f : Frame) (x g : Nat) : Lanes :=
  match mget f.rows (rowKey x g) with
  | some r => if r.tag = f.gen || r.tag = poisonTag then r.data else 0
  | none => 0

/-- A stage's write: it covers the lanes the stage takes effect in (R144), and leaves those it was cancelled in as they
are (R141). -/
def Role.landRows (r : Role) (st : Stage) (res : List Lanes) : Role :=
  r.writeReg st.dest st.lanes ((List.range res.length).map fun g =>
    blend (groupMask st.cancelled g) (res.getD g 0) (r.frame.oldRow st.dest g))

/-- The oldest open instruction writes its destination (R137, R140): lanes, then flags. -/
def Role.landOldest (r : Role) : Role :=
  match r.stages with
  | [] => r
  | st :: rest =>
    let res := st.results r.groups
    let r' := r.landRows st res
    { r' with stages := rest.map (·.fed st.lanes res), fpflags := r.fpflags ||| st.flags r.groups }

/-- The n oldest open instructions write their destinations, oldest first (R140). -/
def Role.settleTo (r : Role) : Nat → Role
  | 0 => r
  | n + 1 => r.landOldest.settleTo n

/-- Every open instruction writes its destination (R144). -/
def Role.settle (r : Role) : Role := r.settleTo r.stages.length

/-- The newest open stage that writes a register, by its place in the list. -/
def newestWriter (stages : List Stage) (x : Nat) : Option Nat :=
  ((List.range stages.length).filter fun i => (stages[i]?.map (·.dest)) = some x).getLast?

/-- How many of the open stages must have written before the registers named hold the values program order gives them:
those up to the newest that writes one of them. -/
def openUpTo (stages : List Stage) (regs : List Nat) : Nat :=
  (regs.filterMap (newestWriter stages)).foldl (fun n i => max n (i + 1)) 0

/-- An instruction that is not online waits until the open instructions whose destinations it names have written; those
issued after them stay open (R139, R140, log entry 8). -/
def Role.settleFor (r : Role) (regs : List Nat) : Role := r.settleTo (openUpTo r.stages regs)

/-- The open stages with every source in place: where a stage feeds one, that stage's results. `past` holds the lanes and
results of the stages before them. -/
def resolved (groups : Nat) : List (Mask × List Lanes) → List Stage → List Stage
  | _, [] => []
  | past, st :: rest =>
    let src (j : Nat) : List Lanes :=
      let own := st.residual.getD j []
      match (st.feeds.getD j none).bind (past[·]?) with
      | some p => feedRows p.1 p.2 own
      | none => own
    let st1 : Stage := { st with residual := (List.range st.residual.length).map src }
    st1 :: resolved groups (past ++ [(st1.lanes, st1.results groups)]) rest

/-- Stage number n of the list lands out of turn, when no other open stage is fed by it or names its register: a lone
stage (R142). -/
def Role.landAt (r : Role) (n : Nat) : Role :=
  match r.stages[n]? with
  | none => r
  | some st =>
    let res := st.results r.groups
    let r' := r.landRows st res
    { r' with
      stages := (r.stages.eraseIdx n).map fun t => { t with feeds := t.feeds.map fun x => match x with
        | some k => if n < k then some (k - 1) else some k
        | none => none }
      fpflags := r.fpflags ||| st.flags r.groups }

/-- At a stop, every lone open instruction completes, oldest first; the stages of the furrow stay (R142). -/
def Role.landLone (r : Role) : Role := go r 0 r.stages.length
where
  go (r : Role) (i : Nat) : Nat → Role
    | 0 => r
    | n + 1 => if (r.stages[i]?.map (·.joined)) = some false then go (r.landAt i) i n else go r (i + 1) n

end Sys2Proof.Machine
end

