-- ==== Sys2Proof/Machine/Ops.lean ====
section
/-! DEFINITION. The named operations over the package's state: its parts by number, how a run goes on, ends, parks and
is held (R66 to R79), the fault ring (R378), taking a trap (R388 to R391), deferred causes (R389, R393), and the
return to a clause context (R392, R395). -/

namespace Sys2Proof.Machine

/-- What every meaning answers. -/
abbrev Out := Host.Outcome State Fault Refusal

/-! ## Parts of the state by number -/

def State.role (s : State) (k : Nat) : Role := (mget s.roles k).getD Role.hyaluo
def State.team (s : State) (k : Nat) : Team := (mget s.teams k).getD Team.hyaluo
def State.core (s : State) (k : Nat) : Core := (mget s.cores k).getD Core.reset
def State.iface (s : State) (k : Nat) : Iface := (mget s.ifaces k).getD Iface.reset
def State.queue (s : State) (k : Nat) : Queue := (mget s.queues k).getD Queue.reset

def State.setRole (s : State) (k : Nat) (r : Role) : State := { s with roles := mset s.roles k r }
def State.setTeam (s : State) (k : Nat) (t : Team) : State := { s with teams := mset s.teams k t }
def State.setCore (s : State) (k : Nat) (c : Core) : State := { s with cores := mset s.cores k c }
def State.setIface (s : State) (k : Nat) (i : Iface) : State := { s with ifaces := mset s.ifaces k i }
def State.setQueue (s : State) (k : Nat) (q : Queue) : State := { s with queues := mset s.queues k q }
def State.setPlot (s : State) (k : Nat) (p : Plot) : State := { s with plots := mset s.plots k p }

/-- A role or team that is gone stays gone. -/
def State.modRole (s : State) (k : Nat) (f : Role → Role) : State :=
  match mget s.roles k with
  | some r => s.setRole k (f r)
  | none => s
def State.modTeam (s : State) (k : Nat) (f : Team → Team) : State :=
  match mget s.teams k with
  | some t => s.setTeam k (f t)
  | none => s
def State.modCore (s : State) (k : Nat) (f : Core → Core) : State := s.setCore k (f (s.core k))
def State.modIface (s : State) (k : Nat) (f : Iface → Iface) : State := s.setIface k (f (s.iface k))
def State.modQueue (s : State) (k : Nat) (f : Queue → Queue) : State := s.setQueue k (f (s.queue k))
def State.modPlot (s : State) (k : Nat) (f : Plot → Plot) : State :=
  match mget s.plots k with
  | some p => s.setPlot k (f p)
  | none => s

/-- Whether a role is saved. -/
def Status.isSaved : Status → Bool
  | .saved _ => true
  | _ => false

/-- The role whose instruction issues. -/
def State.me (s : State) : Role := s.role s.cur
def State.setMe (s : State) (r : Role) : State := s.setRole s.cur r
def State.modMe (s : State) (f : Role → Role) : State := s.modRole s.cur f
/-- Its team, core and plot. -/
def State.myTeam (s : State) : Team := s.team s.me.team
def State.myCore (s : State) : Core := s.core s.me.core
def State.myPlot (s : State) : Option Plot := s.me.plot.bind (mget s.plots)

/-- A message leaves the package. -/
def State.emit (s : State) (m : OutMsg) : State := { s with out := s.out ++ [m] }
/-- The next use of a free value (R6). -/
def State.used (s : State) : State := { s with free := s.free + 1 }
/-- The next number the model gives. -/
def State.numbered (s : State) : State := { s with next := s.next + 1 }

/-- A lifetime count rises by one: by block and number of its 8-byte counter (R454). -/
def lifeKey (block i : Nat) : Nat := block * 65536 + i
def State.count (s : State) (block i : Nat) : State :=
  let k := lifeKey block i
  { s with life := { s.life with live := mset s.life.live k ((mget s.life.live k).getD 0 + 1) } }

/-! ## Fields of a virtual-interface entry (R364) -/

def Iface.word (i : Iface) (k : Nat) : Nat := (i.entry.getD k 0).toNat
def Iface.en (i : Iface) : Bool := (i.word 0).testBit 63
def Iface.privOk (i : Iface) : Bool := (i.word 0).testBit 62
def Iface.world (i : Iface) : Nat := fieldOf (i.word 0) 57 52
def Iface.acount (i : Iface) : Nat := fieldOf (i.word 0) 48 40
def Iface.abase (i : Iface) : Nat := fieldOf (i.word 0) 39 32
def Iface.qcount (i : Iface) : Nat := fieldOf (i.word 0) 31 21
def Iface.qbase (i : Iface) : Nat := fieldOf (i.word 0) 9 0
def Iface.rotmask (i : Iface) : Nat := i.word 1
def Iface.clusters (i : Iface) : Nat := i.word 2 + i.word 3 * 2 ^ 64
def Iface.counterMask (i : Iface) : Nat := i.word 4 + i.word 5 * 2 ^ 64 + i.word 6 * 2 ^ 128 + i.word 7 * 2 ^ 192
def Iface.regionMask (i : Iface) : Nat := i.word 8
def Iface.physBase (i : Iface) : Nat := i.word 9
def Iface.physSize (i : Iface) : Nat := i.word 10

/-- The interface and the relative ASID of a role's local space; none for Hyaluo (R422). -/
def State.space (s : State) (r : Role) : Option (Nat × Nat) :=
  (r.plot.bind (mget s.plots)).map fun p => (p.vi, p.asid)

/-- The world a role runs in (R410); Hyaluo and plots of no interface are in world 0. -/
def State.worldOf (s : State) (r : Role) : Nat :=
  match s.space r with
  | some (vi, _) => (s.iface vi).world
  | none => 0

/-! ## Memory behind the caches (R291, R292) -/

/-- The 32-byte atom of an address. -/
def atomOf (a : Nat) : Nat := a / 32

/-- The atoms a range touches. -/
def atomsOf (a n : Nat) : List Nat :=
  if n = 0 then [] else (List.range ((a + n - 1) / 32 - a / 32 + 1)).map (a / 32 + ·)

/-- Whether a range touches a poisoned atom. -/
def State.poisoned (s : State) (a n : Nat) : Bool := (atomsOf a n).any s.poison.contains

/-- The watches that stand after a write of n bytes at an address of a space: those of its atoms are over (R283). -/
def watchAfter (w : List (Nat × Nat × Nat)) (space a n : Nat) : List (Nat × Nat × Nat) :=
  w.filter fun x => !(x.2.1 == space && (atomsOf a n).contains x.2.2)
def State.touch (s : State) (space a n : Nat) : State := { s with watch := watchAfter s.watch space a n }

/-- A device write of bytes at the controller (R292): an atom wholly replaced loses its poison; a poisoned atom
partly covered keeps its bytes. -/
def State.ramWrite (s : State) (a : Nat) (bs : Bytes) : State :=
  if s.poison = [] then { s with ram := wrBytes s.ram a bs, watch := watchAfter s.watch 0 a bs.length }
  else
    let full (x : Nat) : Bool := a ≤ 32 * x && 32 * x + 32 ≤ a + bs.length
    let lost := s.poison.filter fun x => !full x
    let put := (List.range bs.length).foldl (fun m i =>
      if lost.contains (atomOf (a + i)) then m else wrByte m (a + i) (bs.getD i 0)) s.ram
    { s with ram := put, poison := lost, watch := watchAfter s.watch 0 a bs.length }

/-- Bytes of device memory; a poisoned atom's are free values (R292, log entry 21). -/
def State.ramRead (s : State) (a n : Nat) : Bytes :=
  if s.poison = [] then rdBytes s.ram a n
  else (List.range n).map fun i =>
    if s.poison.contains (atomOf (a + i)) then Config.poisonByte s.free (a + i) else rdByte s.ram (a + i)
def State.ramLE (s : State) (a n : Nat) : Nat := leNat (s.ramRead a n)
/-- A device write to host memory, by I/O virtual address. -/
def State.hostWrite (s : State) (a : Nat) (bs : Bytes) : State := { s with hostMem := wrBytes s.hostMem a bs }
/-- A range of device memory set to zero (R309). -/
def State.ramZero (s : State) (a n : Nat) : State :=
  { s with ram := zeroRange s.ram a n, poison := s.poison.filter fun x => !(atomsOf a n).contains x }

/-- Bytes of a unit written; their errors are gone. -/
def TileUnit.write (u : TileUnit) (off : Nat) (bs : Bytes) : TileUnit :=
  { u with data := wrBytes u.data off bs, bad := u.bad.filter fun i => decide (i < off) || decide (off + bs.length ≤ i) }

/-- Every byte memory of the package is in its canonical form. -/
def State.memOk (s : State) : Bool := s.ram.wf && s.hostMem.wf && s.hy.wf

/-! ## The fault ring (R378) -/

/-- Whether interface v's ring has a place: enabled, and not full. A TDI in ERROR writes nothing (R432). -/
def Iface.faultRoom (i : Iface) : Bool :=
  i.tdi != .error && i.faultCfg.getLsbD 63
    && decide ((i.faultHead - i.faultTail).toNat < 2 ^ ((i.faultCfg.extractLsb' 32 4).toNat + 6))

/-- A record is written at the ring's head with the time of its writing, and vector 0 is raised. -/
def State.putFault (s : State) (v : Nat) (rec : Bytes) : State :=
  let i := s.iface v
  let size := 2 ^ ((i.faultCfg.extractLsb' 32 4).toNat + 6)
  let a := i.faultBase.toNat + 32 * (i.faultHead.toNat % size)
  ((s.hostWrite a (rec ++ leBytes 8 s.clock)).setIface v { i with faultHead := i.faultHead + 1 }).emit
    (.msix (v + 1) 0)

/-- A record without its clock enters the ring, or waits for a place behind those that wait (R378). -/
def State.pushFault (s : State) (v : Nat) (rec : Bytes) : State :=
  let i := s.iface v
  if i.faultWait = [] && i.faultRoom then s.putFault v rec
  else s.setIface v { i with faultWait := i.faultWait ++ [rec] }

/-- The records that wait are written while the ring has places (R378). -/
def State.drainFaults (s : State) (v : Nat) : State := go s (s.iface v).faultWait.length
where
  go (s : State) : Nat → State
    | 0 => s
    | n + 1 =>
      match (s.iface v).faultWait with
      | [] => s
      | rec :: rest =>
        if (s.iface v).faultRoom then go ((s.modIface v fun i => { i with faultWait := rest }).putFault v rec) n
        else s

/-- The first 24 bytes of a fault record (R378, R391). -/
def faultBytes (va tok asid reason access addr : Nat) : Bytes :=
  leBytes 8 va ++ leBytes 2 tok ++ leBytes 3 (asid + 256 * reason + 65536 * access) ++ leBytes 3 0 ++ leBytes 8 addr

/-- The first token from t on, modulo 65,536, that is not in use; n more are tried. -/
def tokenFrom (inUse : List Nat) (t : Nat) : Nat → Nat
  | 0 => t % 65536
  | n + 1 => if inUse.contains (t % 65536) then tokenFrom inUse (t + 1) n else t % 65536

/-- A fresh token of interface v: any one that no unanswered record has (R378, log entry 14). -/
def State.newToken (s : State) (v : Nat) : Nat × State :=
  let inUse := (s.iface v).faults.map (·.token)
  (tokenFrom inUse (Config.token s.free) inUse.length, s.used)

/-- The word that names a plot: queue number and LAUNCH entry index (R391). -/
def Plot.name (p : Plot) : Nat := p.queue * 2 ^ 32 + p.entryIdx % 2 ^ 32

/-! ## The clause context (R79, R395) -/

/-- Address of the word at the role's position. -/
def Role.pc (r : Role) : BitVec 64 := r.hdr + BitVec.ofNat 64 (4 * r.off)

/-- The bytes of a mask. -/
def maskBytes (m : Mask) : Bytes := leBytes 128 m.toNat

def maskKindCode : MaskKind → Nat
  | .ifK => 0 | .loopK => 1 | .serK => 2

/-- A mask-stack entry as saved (R395). -/
def MaskEntry.bytes (e : MaskEntry) : Bytes :=
  leBytes 16 (maskKindCode e.kind + 256 * e.elsed.toNat) ++ maskBytes e.saved ++ maskBytes e.pend

/-- A furrow stage as saved: pieces by offset (R142, R395). -/
def Stage.pieces (st : Stage) (groups : Nat) : List (Nat × Bytes) :=
  let lit := if litCount st.word = some 1 then 0x80000000 + st.lit.toNat else 0
  let feed (j : Nat) : Nat := match st.feeds.getD j none with
    | some k => k
    | none => 255
  let gs := List.range groups
  [(0, leBytes 4 st.word.toNat ++ leBytes 4 lit ++ leBytes 8 st.addr.toNat
      ++ leBytes 4 (feed 0 + 256 * feed 1 + 65536 * feed 2 + 2 ^ 24 * groups)),
   (0x40, gs.flatMap fun g =>
      leBytes 4 (groupMask st.lanes g).toNat ++ leBytes 4 (groupMask st.cancelled g).toNat),
   (0x140, st.cursor.flatMap fun c => leBytes 1 c)]
  ++ (List.range st.residual.length).map fun j =>
      (0x200 + 0x1000 * j, (st.residual.getD j []).flatMap fun row => leBytes 128 row.toNat)

/-- The deferred causes pending, bit c for cause code c. -/
def Role.deferredBits (r : Role) : Nat := r.deferred.foldl (fun acc d => acc ||| 2 ^ d.cause.toNat) 0

/-- The clause context, mask stack and furrow block of a role block: pieces by offset (R395). -/
def Role.blockPieces (r : Role) (stopped : Bool) : List (Nat × Bytes) :=
  let (aAddr, aPhase) := match r.arrival with
    | some (a, p) => (a.toNat, p.toNat)
    | none => (0xFFFFFFFF, 0)
  [(0x100, leBytes 8 r.hdr.toNat ++ leBytes 1 r.off ++ leBytes 3 (stopped.toNat + 2 * r.preempted.toNat)
      ++ r.flags.flatMap (leBytes 1 ·) ++ leBytes 1 r.fpflags.toNat ++ leBytes 1 r.opflags.toNat
      ++ leBytes 2 aPhase ++ leBytes 4 aAddr ++ leBytes 8 r.batchOpen.toNat ++ leBytes 4 r.deferredBits
      ++ leBytes 1 r.frames.length ++ leBytes 1 (r.frame.w / 8) ++ leBytes 1 r.yielded.toNat),
   (0x200, leBytes 1 r.stack.length), (0x210, maskBytes r.mask)]
  ++ (List.range r.stack.length).map (fun j =>
      (0x300 + 0x110 * j, ((r.stack.reverse)[j]?.map MaskEntry.bytes).getD []))
  ++ [(0x2600, leBytes 1 r.stages.length)]
  ++ (List.range r.stages.length).flatMap fun k =>
      ((r.stages[k]?.map (·.pieces r.groups)).getD []).map fun p => (0x2800 + 0x3200 * k + p.1, p.2)

/-- Pieces written to device memory from a base. -/
def State.writePieces (s : State) (base : Nat) (ps : List (Nat × Bytes)) : State :=
  ps.foldl (fun s p => s.ramWrite (base + p.1) p.2) s

/-- A role block written from its clause context on: the places no piece fills are zero (R395). -/
def State.writeBlock (s : State) (base : Nat) (r : Role) (stopped : Bool) : State :=
  (s.ramZero (base + 0x100) 0xFF00).writePieces base (r.blockPieces stopped)

/-! ## The trap record (R390) -/

/-- The bytes of a trap record. -/
def trapBytes (source : Nat) (t : Trap) (sourceKind clock teamIdx roleId : Nat) : Bytes :=
  let flags := t.deferred.toNat + 2 * t.lane.isSome.toNat + 4 * t.addr.isSome.toNat + 8 * t.more.toNat
  leBytes 8 source ++ leBytes 4 (t.cause.toNat + 256 * flags) ++ leBytes 4 (t.lane.getD 0)
    ++ leBytes 8 (t.addr.getD 0) ++ leBytes 8 t.info ++ leBytes 8 clock ++ leBytes 4 teamIdx
    ++ leBytes 20 (roleId + 256 * sourceKind) ++ t.detail ++ List.replicate (192 - t.detail.length) 0

/-! ## Ending runs (R64 to R68, R79) -/

/-- The issue stage of a core is free of a role. -/
def Core.release (c : Core) (k : Nat) : Core :=
  if c.running = some k then { c with running := none, lent := false } else c

/-- A role's run is over: the role stands at an offset of a header with a new status, newly ready; the YIELD bit of the
run's header is its hint (R75, R280). -/
def State.endRun (s : State) (k : Nat) (hdr : BitVec 64) (off : Nat) (st : Status) : State :=
  let r := s.role k
  ((s.setRole k { r with hdr := hdr, off := off, words := [], runNo := r.runNo + 1, status := st, readyAt := s.next
                         able := st == .ready, fetchEnd := none
                         yielded := r.yielded || (r.status == .running && hdrYield r.hdrWord) }).modCore
    r.core (·.release k)).numbered

/-- The word after a run: its header position (R64, R67). -/
def Role.fallThrough (r : Role) : BitVec 64 := r.hdr + BitVec.ofNat 64 (4 * (hdrLen r.hdrWord + 1))

/-- A role stands at offset `off` of its run, which ends there when that is past its last word (R66, R68). -/
def State.goOn (s : State) (k : Nat) (off : Nat) : State :=
  let r := s.role k
  if hdrLen r.hdrWord < off then s.endRun k r.fallThrough 0 .ready
  else s.setRole k { r with off := off, words := r.words.drop (off - r.off) }

/-- An instruction with `lits` literals has issued: its outcome of a walk or verdict is used up, and the run goes on
at the next word (R64). -/
def State.advance (s : State) (k lits : Nat) : State :=
  (s.modRole k fun r => { r with verdict := none, walkFault := none }).goOn k ((s.role k).off + 1 + lits)

/-- A taken transfer ends its run (R67). -/
def State.transfer (s : State) (k : Nat) (target : BitVec 64) : State :=
  (s.modRole k fun r => { r with verdict := none, walkFault := none }).endRun k target 0 .ready

/-- The role parks (R282): its run ends, and lone open instructions complete (R142). It stays at its instruction, past
which its waking takes it where the instruction is not issued again. -/
def State.park (s : State) (k : Nat) (w : WaitOn) : State :=
  let r := (s.role k).landLone
  let r := { r with verdict := none, walkFault := none, faultVa := none, spilling := false }
  (s.setRole k r).endRun k r.hdr r.off (.parked w)

/-- A role that takes no issue stands n words further on, past its run's end in header position (R67, R79). -/
def Role.stepPast (r : Role) (n : Nat) : Role :=
  if hdrLen r.hdrWord < r.off + n then { r with hdr := r.fallThrough, off := 0 } else { r with off := r.off + n }

/-- A role becomes ready, n words further on (R280, R283). -/
def State.wake (s : State) (k n : Nat) : State :=
  (s.modRole k fun r => { r.stepPast n with status := .ready, readyAt := s.next, able := true }).numbered

/-- The role is held (R65): its run ends, and it resumes `next` words on. -/
def State.hold (s : State) (k next : Nat) (h : HoldOn) : State :=
  let r := s.role k
  let off := r.off + next
  if next ≠ 0 && hdrLen r.hdrWord < off then s.endRun k r.fallThrough 0 (.held h)
  else s.endRun k r.hdr off (.held h)

/-! ## Taking a trap (R77, R388, R391) -/

/-- A notification record of interface v for a role's trap, under a fresh token (R391). -/
def State.notifyTrap (s : State) (k : Nat) (p : Plot) (block : Nat) : State :=
  let (tok, s1) := s.newToken p.vi
  let s2 := s1.modRole k fun r => { r with trapToken := some tok }
  let s3 := s2.modIface p.vi fun i => { i with faults := i.faults ++ [⟨tok, p.asid, 0, 5, some k, []⟩] }
  s3.pushFault p.vi (faultBytes (block - (s.iface p.vi).physBase) tok p.asid 5 0 p.name)

/-- Taking a trap, the one way a role stops: lone open instructions complete and furrow stages are kept (R142), the
run ends, the trap record and the clause context go to the role block and a notification to the fault ring. A role
with no role block (Hyaluo's, R394) only stops. -/
def takeTrap (s : State) (k : Nat) (t : Trap) : State :=
  let r0 := (s.role k).landLone
  let source := t.source.getD (if t.deferred then r0.hdr.toNat else r0.pc.toNat)
  let r1 := { r0 with off := t.resume.getD r0.off, verdict := none, walkFault := none }
  let s1 := (s.setRole k r1).endRun k r1.hdr r1.off .stopped
  match r1.block, r1.plot.bind (mget s.plots) with
  | some b, some p =>
    let s2 := (s1.ramWrite b (trapBytes source t 0 s.clock r1.teamIdx r1.roleId)).writeBlock b (s1.role k) true
    s2.notifyTrap k p b
  | _, _ => s1

/-! ## How a meaning answers -/

/-- An instruction with `lits` literals: on success the run goes on, on a trap the role stops. -/
def done (lits : Nat) (s : State) (r : Res State) : Out :=
  .next (match r with
    | .ok s' => s'.advance s'.cur lits
    | .error t => takeTrap s s.cur t)

/-- An instruction that says itself where its run goes. -/
def flow (s : State) (r : Res State) : Out :=
  .next (match r with
    | .ok s' => s'
    | .error t => takeTrap s s.cur t)

/-! ## Deferred causes and plot trap records (R389, R393) -/

/-- A plot trap record in the ring of 15 of the plot whose block is named, and its notification. -/
def State.plotTrap (s : State) (p : Plot) (rec : Bytes) : State :=
  let n := ((s.plots.find? fun x => x.2.block == p.block).map (·.2.traps)).getD 0
  let slot := p.block + 256 * (n % 15 + 1)
  let s1 := (s.ramWrite slot rec).ramWrite p.block (leBytes 1 (n + 1))
  let s2 : State := { s1 with plots := mmap (fun _ (q : Plot) => if q.block = p.block then { q with traps := n + 1 } else q) s1.plots }
  s2.pushFault p.vi (faultBytes (slot - (s.iface p.vi).physBase) 0 p.asid 6 0 p.name)

/-- The trap a deferred cause raises. -/
def Deferred.trap (d : Deferred) (more : Bool) : Trap :=
  { cause := d.cause, deferred := true, more := more, detail := d.detail
    addr := if d.cause = causePage || d.cause = causePerm then some d.addr.toNat else none }

/-- The deferred cause delivered first: the lowest code, the oldest of it (R389). -/
def firstDeferred : List Deferred → Option Deferred
  | [] => none
  | d :: ds =>
    match firstDeferred ds with
    | none => some d
    | some e => if d.cause.toNat ≤ e.cause.toNat then some d else some e

/-- A deferred cause becomes pending at a role, or is a plot trap record when the role has exited (R389, R393). -/
def State.defer (s : State) (k : Nat) (plot : Option Nat) (teamIdx roleId : Nat) (d : Deferred) : State :=
  match mget s.roles k with
  | some r => s.setRole k { r with deferred := r.deferred ++ [d] }
  | none =>
    match plot.bind (mget s.plots) with
    | some p => s.plotTrap p (trapBytes 0 (d.trap false) 1 s.clock teamIdx roleId)
    | none => s

/-! ## Returning from a trap (R392, R395) -/

/-- A mask-stack entry read back. -/
def MaskEntry.ofBytes (s : State) (a : Nat) : MaskEntry where
  kind := match s.ramLE a 1 with
    | 0 => .ifK
    | 1 => .loopK
    | _ => .serK
  elsed := s.ramLE (a + 1) 1 != 0
  saved := BitVec.ofNat 1024 (s.ramLE (a + 16) 128)
  pend := BitVec.ofNat 1024 (s.ramLE (a + 144) 128)

/-- A furrow stage with the operands the block holds for it (R144). -/
def Stage.reread (st : Stage) (s : State) (a groups : Nat) : Stage :=
  { st with residual := (List.range st.residual.length).map fun j =>
      (List.range groups).map fun g => BitVec.ofNat 1024 (s.ramLE (a + 0x200 + 0x1000 * j + 128 * g) 128) }

/-- The clause context as the role block holds it now; `whole` also takes what a saved role's counts are (R395). -/
def State.reread (s : State) (k : Nat) (whole : Bool) : State :=
  let r := s.role k
  match r.block with
  | none => s
  | some b =>
    let w := s.ramLE (b + 0x12D) 1
    let f := r.frame
    let r1 : Role := { r with
      hdr := BitVec.ofNat 64 (s.ramLE (b + 0x100) 8)
      off := s.ramLE (b + 0x108) 1
      fpflags := BitVec.ofNat 5 (s.ramLE (b + 0x118) 1)
      opflags := BitVec.ofNat 2 (s.ramLE (b + 0x119) 1)
      stack := ((List.range (min 32 (s.ramLE (b + 0x200) 1))).map fun j =>
        MaskEntry.ofBytes s (b + 0x300 + 0x110 * j)).reverse
      stages := (List.range r.stages.length).map fun n =>
        (r.stages.getD n ⟨0, 0, 0, [], false, 0, 0, 0, [], []⟩).reread s (b + 0x2800 + 0x3200 * n) r.groups
      frames := { f with w := 8 * w } :: r.frames.tail }
    let r1 := r1.setMask (BitVec.ofNat 1024 (s.ramLE (b + 0x210) 128))
    let r2 : Role := if whole then
        { r1 with
          flags := (List.range 12).map fun i => s.ramLE (b + 0x10C + i) 1
          batchOpen := BitVec.ofNat 64 (s.ramLE (b + 0x120) 8)
          yielded := s.ramLE (b + 0x12E) 1 % 2 == 1
          arrival := if s.ramLE (b + 0x11C) 4 = 0xFFFFFFFF then none
            else some (BitVec.ofNat 32 (s.ramLE (b + 0x11C) 4), BitVec.ofNat 16 (s.ramLE (b + 0x11A) 2)) }
      else r1
    s.setRole k r2

/-- A stopped role goes on from its clause context, as its block now holds it (R392). -/
def State.resumeRole (s : State) (k : Nat) : State :=
  let s1 := s.reread k false
  (s1.modRole k fun r => { r with
    status := match r.status with
      | .saved w => .saved w
      | _ => .ready
    trapToken := none
    readyAt := s.next
    able := true }).numbered

end Sys2Proof.Machine
end

