-- ==== Sys2Proof/Machine/Parity.lean ====
section
/-! DEFINITION. Parity of the register files (R48, R49): which units of a frame carry a mismatch, what finding one does,
and the predicates' hidden row as a tagged unit (R21, R44). -/

namespace Sys2Proof.Machine

/-- The units of a frame by number: a row by its key, then granules, then the hidden row of each group and the hidden
granule (R28). -/
def granUnit (i : Nat) : Nat := 0x10000 + i
def hiddenUnit (i : Nat) : Nat := 0x20000 + i
/-- The hidden granule's number among the hidden units. -/
def linkUnit : Nat := 32

/-- The tag of a hidden unit. -/
def Frame.hiddenTag (f : Frame) (i : Nat) : BitVec 16 := (mget f.hidden i).getD f.gen

/-- Whether no unit of a frame carries a mismatch. -/
def Frame.flawless (f : Frame) : Bool :=
  f.rows.all (fun x => !x.2.flaw) && f.grans.all (fun x => !x.2.flaw) && f.hiddenFlaws == []

/-- Whether a unit carries the frame's generation and a mismatch: no other unit is checked (R49). -/
def Frame.mismatch (f : Frame) (u : Nat) : Bool :=
  if u < 0x10000 then ((mget f.rows u).map fun x => x.flaw && x.tag == f.gen).getD false
  else if u < 0x20000 then ((mget f.grans (u - 0x10000)).map fun x => x.flaw && x.tag == f.gen).getD false
  else f.hiddenFlaws.contains (u - 0x20000) && f.hiddenTag (u - 0x20000) == f.gen

/-- Whether the unit is a row, of which the device may hold a copy: granules have none (R48). -/
def isRowUnit (u : Nat) : Bool := u < 0x10000 || (0x20000 ≤ u && u < hiddenUnit linkUnit)

/-- A frame whose unit is made good from its copy (R49). -/
def Frame.repaired (f : Frame) (u : Nat) : Frame :=
  if u < 0x10000 then { f with rows := mmap (fun k (x : Row) => if k = u then { x with flaw := false } else x) f.rows }
  else { f with hiddenFlaws := f.hiddenFlaws.filter (· != u - 0x20000) }

/-- The predicates of a frame with a group's lanes replaced by what the group's hidden row holds (R21). -/
def Frame.withHidden (f : Frame) (g : Nat) (row : BitVec 1024) : List Mask :=
  f.preds.zipIdx.map fun x =>
    (x.1 &&& ~~~((BitVec.allOnes 32).setWidth 1024 <<< (32 * g)))
      ||| ((row.extractLsb' (32 * x.2) 32).setWidth 1024 <<< (32 * g))

/-- A frame whose unit is poison; its contents are lost (R49). A lost hidden row takes its group's predicates with it,
which a refill may show again, since a spill record has no poison bits for it (R39, log entry 124). -/
def Frame.lose (f : Frame) (use u : Nat) : Frame :=
  if u < 0x10000 then { f with rows := mset f.rows u ⟨poisonTag, Config.freshData use u, false⟩ }
  else if u < 0x20000 then
    { f with grans := mset f.grans (u - 0x10000) ⟨poisonTag, (Config.freshData use u).setWidth 256, false⟩ }
  else { f with
    preds := f.withHidden (u - 0x20000) (Config.freshData use u)
    hidden := mset f.hidden (u - 0x20000) poisonTag, hiddenFlaws := f.hiddenFlaws.filter (· != u - 0x20000) }

/-- The sub-partition of a unit, counted within the core (R16). -/
def unitSub (u : Nat) : Nat := if u < 0x10000 then u % 4 else if u < 0x20000 then 0 else (u - 0x20000) % 4

/-- One unit is checked: the frame after it, and what is counted: the sub-partition, and whether the unit is lost. -/
def Frame.check (f : Frame) (use : Nat) (copied : Nat → Bool) (u : Nat) : Frame × List (Nat × Bool) :=
  if !f.mismatch u then (f, [])
  else if isRowUnit u && copied u then (f.repaired u, [(unitSub u, false)])
  else (f.lose use u, [(unitSub u, true)])

/-- Units are checked one after the other. -/
def Frame.checkAll (f : Frame) (use : Nat) (copied : Nat → Bool) : List Nat → Frame × List (Nat × Bool)
  | [] => (f, [])
  | u :: us =>
    let (f1, c) := f.check use copied u
    let (f2, cs) := f1.checkAll use copied us
    (f2, c ++ cs)

/-- The parity of units of a role's frame is checked: mismatches are repaired or poisoned, and counted by sub-partition
(R49, R454). -/
def State.checkUnits (s : State) (k i : Nat) (us : List Nat) : State :=
  let r := s.role k
  match r.frames[i]? with
  | none => s
  | some f =>
    if f.flawless then s
    else
      let (f1, cs) := f.checkAll s.free (Config.copied s.free k) us
      let s1 := (s.modRole k fun r => { r with frames := r.frames.set i f1 }).used
      if r.core < 384 then cs.foldl (fun s x => s.count 3 (2 * (4 * r.core + x.1) + x.2.toNat)) s1 else s1

/-- The rows of a frame that hold something, and its hidden rows; and every unit of it. -/
def Frame.rowUnits (f : Frame) : List Nat := f.rows.map (·.1) ++ (List.range 32).map hiddenUnit
def Frame.allUnits (f : Frame) : List Nat := f.rowUnits ++ f.grans.map (fun x => granUnit x.1) ++ [hiddenUnit linkUnit]

/-- A frame over whose live units mismatches have come: `new` says over which (R48, log entry 4). -/
def Frame.flawed (f : Frame) (new : Nat → Bool) : Frame :=
  if f.spilled.isSome then f
  else { f with
    rows := mmap (fun k (x : Row) => { x with flaw := x.flaw || (x.tag == f.gen && new k) }) f.rows
    grans := mmap (fun k (x : Gran) => { x with flaw := x.flaw || (x.tag == f.gen && new (granUnit k)) }) f.grans
    hiddenFlaws := (List.range 33).filter fun u => f.hiddenFlaws.contains u || new (hiddenUnit u) }

/-! ## Predicates as a tagged unit (R21, R44, R45) -/

/-- REGLOSS for the lowest active lane of a group whose hidden row is poison, or none. -/
def Role.predLoss (r : Role) (ps : List PReg) : Option Trap :=
  if ps.all (· == 0) then none
  else
    ((List.range r.groups).find? fun g => groupMask r.active g != 0 && r.frame.hiddenTag g == poisonTag).map fun g =>
      { cause := causeRegloss, lane := some (32 * g + lowBit (groupMask r.active g)) }

end Sys2Proof.Machine
end

