-- ==== Sys2Proof/Machine/Xlate.lean ====
section
/-! DEFINITION. Translation of local virtual addresses (R374 to R377), Hyaluo's own map (R422), instruction fetch
through the instruction cache (R55), and the check of a transfer target (R145). -/

namespace Sys2Proof.Machine

/-- The kinds of access a walk checks (R376). -/
inductive Acc where
  | rd | wr | at' | ex
  deriving DecidableEq, Repr

/-- Whether permissions allow an access: an atomic needs R and W (R376). -/
def Acc.ok (a : Acc) (r w x : Bool) : Bool :=
  match a with
  | .rd => r
  | .wr => w
  | .at' => r && w
  | .ex => x

/-- The ACCESS bits of a fault record (R378). -/
def Acc.code : Acc → Nat
  | .rd => 1
  | .wr => 2
  | .at' => 3
  | .ex => 4

/-! ## Page tables (R374 to R376) -/

/-- A page-table entry's fields (R375). -/
structure Pte where
  raw : BitVec 64
  deriving DecidableEq, Repr

def Pte.v (e : Pte) : Bool := e.raw.getLsbD 0
def Pte.leaf (e : Pte) : Bool := e.raw.getLsbD 1
def Pte.r (e : Pte) : Bool := e.raw.getLsbD 2
def Pte.w (e : Pte) : Bool := e.raw.getLsbD 3
def Pte.x (e : Pte) : Bool := e.raw.getLsbD 4
def Pte.z (e : Pte) : Bool := e.raw.getLsbD 63
def Pte.loc (e : Pte) : Nat := fieldOf e.raw.toNat 61 60
/-- The address field, bits 51 to 8 in place. -/
def Pte.addr (e : Pte) : Nat := fieldOf e.raw.toNat 51 8 * 256
/-- Whether a reserved bit is set. -/
def Pte.reserved (e : Pte) : Bool :=
  fieldOf e.raw.toNat 7 5 != 0 || fieldOf e.raw.toNat 59 52 != 0 || e.raw.getLsbD 62

/-- Bytes of a leaf at a level: 1 GiB, 2 MiB, 64 KiB. -/
def leafSize : Nat → Nat
  | 0 => 2 ^ 16
  | 1 => 2 ^ 21
  | 2 => 2 ^ 30
  | _ => 2 ^ 39
/-- Bytes of a table at a level. -/
def tableSize : Nat → Nat
  | 0 => 256
  | 1 => 4096
  | 2 => 4096
  | _ => 65536
/-- The index of an address at a level. -/
def levelIndex (level va : Nat) : Nat :=
  match level with
  | 0 => fieldOf va 20 16
  | 1 => fieldOf va 29 21
  | 2 => fieldOf va 38 30
  | _ => fieldOf va 51 39

/-- A malformed entry (R376): physSize bounds every offset of device memory it gives. -/
def Pte.malformed (e : Pte) (level physSize : Nat) : Bool :=
  e.reserved || (e.leaf && level == 3) || (!e.leaf && level == 0)
  || (!e.leaf && (e.z || e.loc != 0 || e.x || e.w || e.r || e.addr % tableSize (level - 1) != 0))
  || (e.leaf && e.addr % leafSize level != 0)
  || e.loc == 1 || (e.z && e.loc != 0) || (e.leaf && 2 ≤ e.loc && level != 0)
  || (e.loc != 3 && physSize ≤ e.addr)

/-- What a walk finds (R376). -/
inductive Walk where
  | notPresent
  | malformed
  | owner (e : Pte) (pteAt : Nat)
  | leaf (e : Pte) (level pteAt : Nat)
  deriving DecidableEq, Repr

/-- The walk from a table at a level down to a leaf (R376). -/
def walkFrom (s : State) (physBase physSize va : Nat) : Nat → Nat → Walk
  | 0, t => step 0 t (fun _ => .malformed)
  | level + 1, t => step (level + 1) t (walkFrom s physBase physSize va level)
where
  step (level t : Nat) (down : Nat → Walk) : Walk :=
    let at' := physBase + t + 8 * levelIndex level va
    let e : Pte := ⟨BitVec.ofNat 64 (s.ramLE at' 8)⟩
    if !e.v then .notPresent
    else if e.malformed level physSize then .malformed
    else if e.leaf then (if e.loc = 3 then .owner e at' else .leaf e level at')
    else down e.addr

/-- The walk of an address in an interface's ASID: an ASID that is not live maps nothing. -/
def State.walk (s : State) (vi asid va : Nat) : Walk :=
  let i := s.iface vi
  let root := (mget i.roots asid).getD 0
  if !root.getLsbD 0 then .notPresent
  else if i.physSize ≤ fieldOf root.toNat 63 16 * 65536 then .malformed
  else walkFrom s i.physBase i.physSize va 3 (fieldOf root.toNat 63 16 * 65536)

/-- The physical address a leaf gives an address. -/
def State.leafPa (s : State) (vi : Nat) (e : Pte) (level va : Nat) : Nat :=
  e.addr + va % leafSize level + (s.iface vi).physBase

/-- The zeroing of a page at its first walk, then Z cleared in its entry (R377, R309). L1 copies and replicas of the page go. -/
def State.zeroPage (s : State) (vi : Nat) (e : Pte) (level pteAt : Nat) : State :=
  let base := e.addr + (s.iface vi).physBase
  let size := leafSize level
  let s1 := s.ramZero base size
  let s2 := s1.ramWrite pteAt (leBytes 8 (e.raw.toNat % 2 ^ 63))
  let keep (line : Nat) : Bool := !(base ≤ line * 128 && line * 128 < base + size)
  { s2 with
    cores := mmap (fun _ c => { c with l1 := mfilter (fun line _ => keep line) c.l1 }) s2.cores
    replicas := s2.replicas.filter fun x => keep x.line }

/-! ## Hyaluo's map (R422) -/

/-- What an access to Hyaluo's map meets. -/
def hyFault (va : Nat) (a : Acc) : Option Imm8 :=
  if va < 0x40000 then (if a = .rd || a = .ex then none else some causePerm)
  else if 0x1_0000_0000 ≤ va && va < 0x1_0080_0000 then none
  else if 0x2_0000_0000 ≤ va && va < 0x2_0400_0000 then (if a = .rd then none else some causePerm)
  else if 0x3_0000_0000 ≤ va && va < 0x3_0000_0100 then some causePerm
  else if 0x4_0000_0000 ≤ va && va < 0x4_0000_0000 + 65 * 0x10000 then (if a = .ex then some causePerm else none)
  else if 0x5_0000_0000 ≤ va && va < 0x5_0000_1000 then (if a = .ex then some causePerm else none)
  else if 0x5_0001_0000 ≤ va && va < 0x5_0001_0004 then (if a = .rd then none else some causePerm)
  else some causePage

/-! ## Translation by the cached leaves (R374, R381) -/

/-- Where an address leads: a physical address, a walk still to be made, or a fault. -/
inductive Tr where
  | pa (a : Nat)
  | miss
  | fault (c : Imm8)
  deriving DecidableEq, Repr

/-- The leaf of an address in a list of cached ones. -/
def leafIn (ls : List Leaf) (vi asid va : Nat) : Option Leaf :=
  ls.find? fun l => l.vi == vi && l.asid == asid && l.page == va / 65536

/-- The cached leaf of an address, in the core's TLB or the device's. -/
def State.findLeaf (s : State) (core vi asid va : Nat) : Option Leaf :=
  leafIn ((s.core core).tlb ++ s.tlb2) vi asid va

/-- The translation of a role's local address. A failed walk waiting for this page is its fault (R378). -/
def State.translate (s : State) (r : Role) (va : Nat) (a : Acc) : Tr :=
  match s.space r with
  | none =>
    match hyFault va a with
    | none => .pa va
    | some c => .fault c
  | some (vi, asid) =>
    if 2 ^ 52 ≤ va then .fault causePage
    else
      match r.walkFault with
      | some (false, page, c) => if page = va / 65536 then .fault c else look vi asid
      | _ => look vi asid
where
  look (vi asid : Nat) : Tr :=
    match leafIn (s.core r.core).tlb vi asid va with
    | none => .miss
    | some l => if a.ok l.r l.w l.x then .pa (l.base + va % 65536) else .fault causePerm

/-! ## Fetch (R55) -/

/-- The key of an instruction-cache line: address space and line number. -/
def lineKey (sp : Option (Nat × Nat)) (va : Nat) : Nat :=
  (match sp with
    | some (vi, asid) => vi * 256 + asid + 1
    | none => 0) * 2 ^ 45 + va / 128

/-- The bytes of a 128-byte line behind the cache: Hyaluo's map or device memory. -/
def State.codeLine (s : State) (r : Role) (pa : Nat) : BitVec 1024 :=
  BitVec.ofNat 1024 (if r.plot.isSome then s.ramLE (pa / 128 * 128) 128 else rdLE s.hy (pa / 128 * 128) 128)

/-- A line enters the instruction cache (R55). -/
def State.fillLine (s : State) (core key : Nat) (line : BitVec 1024) : State :=
  s.modCore core fun c => { c with icache := mset c.icache key line }

/-- What a fetch of one word answers. -/
inductive Fetch where
  | word (w : Word)
  | miss
  | fault (c : Imm8)
  deriving DecidableEq, Repr

/-- A word of a line. -/
def lineWord (line : BitVec 1024) (va : Nat) : Word := line.extractLsb' (va % 128 * 8) 32

/-- One code word through the instruction cache (R55). -/
def State.fetch (s : State) (r : Role) (va : Nat) : Fetch × State :=
  match s.translate r va .ex with
  | .miss => (.miss, s)
  | .fault c => (.fault c, s)
  | .pa pa =>
    let key := lineKey (s.space r) va
    match mget (s.core r.core).icache key with
    | some line => (.word (lineWord line va), s)
    | none =>
      let line := s.codeLine r pa
      (.word (lineWord line va), s.fillLine r.core key line)

/-- Up to n words from an address, with what ended them early: a walk to be made, or a fault. -/
def State.fetchWords (s : State) (r : Role) (va : Nat) : Nat → List Word × Option Fetch × State
  | 0 => ([], none, s)
  | n + 1 =>
    match s.fetch r va with
    | (.word w, s1) =>
      let (ws, e, s2) := s1.fetchWords r (va + 4) n
      (w :: ws, e, s2)
    | (e, s1) => ([], some e, s1)

/-! ## Transfer targets (R145) -/

/-- What the check of a transfer target finds: the first fault, or a walk to be made first. -/
inductive TargetCheck where
  | good
  | walk
  | bad (t : Trap)
  deriving DecidableEq, Repr

/-- The check of R145 on a target address. -/
def State.checkTarget (s : State) (r : Role) (target : Nat) : TargetCheck × State :=
  let trap (c : Imm8) : TargetCheck := .bad { cause := c, addr := some target }
  if target % 4 ≠ 0 then (trap causeAlign, s)
  else
    match s.fetch r target with
    | (.miss, s1) => (.walk, s1)
    | (.fault c, s1) => (trap c, s1)
    | (.word w, s1) =>
      match headerFault w with
      | some c => (trap c, s1)
      | none => (.good, s1)

/-- A transfer that needs its target checked before anything else: the effect follows a good target; a walk to be made
holds the role at its instruction. -/
def withTarget (s : State) (target : Nat) (effect : State → Res State) : Out :=
  match s.checkTarget s.me target with
  | (.good, s1) => flow s1 (effect s1)
  | (.walk, s1) => .next (s1.hold s1.cur 0 (.tlb (BitVec.ofNat 64 target) false Acc.ex.code))
  | (.bad t, s1) => flow s1 (.error t)

end Sys2Proof.Machine
end

