-- ==== Sys2Proof/Machine/Frames.lean ====
section
/-! DEFINITION. Generations (R41 to R43), the charge of frames (R28, R357, R358), frame requests (R33), the save pool
(R394), and the frame parts of calls and returns (R32, R34, R35, R159). -/

namespace Sys2Proof.Machine

/-! ## Generations (R42, R43) -/

/-- Whether the counter may issue a value: not live, and certified. -/
def Core.genFree (c : Core) (g : BitVec 16) : Bool :=
  !(c.genLive.contains g || c.genRetired.contains g || c.genSweeping.contains g)

/-- The next generation of a core, with the core that has issued it; none while every value is live or uncertified. -/
def Core.nextGen (c : Core) : Option (BitVec 16 × Core) := go 65534 c.genCounter.toNat
where
  go : Nat → Nat → Option (BitVec 16 × Core)
    | 0, _ => none
    | n + 1, i =>
      let g : BitVec 16 := BitVec.ofNat 16 (i % 65534 + 1)
      if c.genFree g then some (g, { c with genCounter := g, genLive := g :: c.genLive }) else go n (i + 1)

/-- A generation is retired (R41). -/
def Core.retireGen (c : Core) (g : BitVec 16) : Core :=
  { c with genLive := c.genLive.erase g, genRetired := g :: c.genRetired }

/-! ## Charges (R28) -/

/-- Groups of a team of G groups on a sub-partition: those g with g mod 4 = s. -/
def groupsOn (groups s : Nat) : Nat := ((List.range groups).filter fun g => g % 4 == s).length

/-- What a request asks of a core: vector rows by sub-partition, scalar granules, and tiles, accumulators and scale
granules by sub-partition. -/
structure Need where
  rows : List Nat
  grans : Nat
  tiles : List Nat
  accs : List Nat
  scales : List Nat
  deriving DecidableEq, Repr

def zero4 : List Nat := [0, 0, 0, 0]

/-- n rows for every group, and m granules. -/
def frameNeed (groups n m : Nat) : Need :=
  ⟨(List.range 4).map fun s => groupsOn groups s * n, m, zero4, zero4, zero4⟩

/-- The charge of a root frame and of a frame made by CALLF (R28). -/
def rootNeed (groups v sc : Nat) : Need := frameNeed groups (v + 1) (sc / 4 + 1)
def callNeed (groups v sc : Nat) : Need := frameNeed groups (v - 7) (sc / 4 - 1)

/-- The handoff rows of a yoke: 64 for every group index (R24). -/
def handoffNeed (gmax : Nat) : Need := frameNeed gmax 64 0

/-- The tile configuration word's demand in each owned sub-partition (R259). -/
def tcfgNeed (w : BitVec 64) : Need :=
  let own (x : Nat) := (List.range 4).map fun s => if w.getLsbD (24 + s) then x else 0
  ⟨zero4, 0, own (fieldOf w.toNat 4 0), own (fieldOf w.toNat 11 8), own (fieldOf w.toNat 21 16)⟩

def add4 (a b : List Nat) : List Nat := (List.range 4).map fun s => a.getD s 0 + b.getD s 0
def sub4 (a b : List Nat) : List Nat := (List.range 4).map fun s => a.getD s 0 - b.getD s 0
def le4 (a : List Nat) (n : Nat) : Bool := a.all (· ≤ n)

def Need.add (a b : Need) : Need :=
  ⟨add4 a.rows b.rows, a.grans + b.grans, add4 a.tiles b.tiles, add4 a.accs b.accs, add4 a.scales b.scales⟩

/-- Rows of each sub-partition, granules of the scalar file, and stores of a core (R2, R21, R259): Hyaluo's core has
one sub-partition and no tile store (R422). -/
def rowLimit (core s : Nat) : Nat := if core = hyCore && s != 0 then 0 else 2048

/-- Whether the core can supply a request at once. -/
def Core.fits (c : Core) (core : Nat) (n : Need) : Bool :=
  let rows := add4 c.rowsUsed n.rows
  (List.range 4).all (fun s => rows.getD s 0 ≤ rowLimit core s || n.rows.getD s 0 == 0)
    && (c.gransUsed + n.grans ≤ 2048 || n.grans == 0)
    && le4 (add4 c.tilesUsed n.tiles) 16 && le4 (add4 c.accsUsed n.accs) 8 && le4 (add4 c.scalesUsed n.scales) 32

def Core.take (c : Core) (n : Need) : Core :=
  { c with
    rowsUsed := add4 c.rowsUsed n.rows, gransUsed := c.gransUsed + n.grans
    tilesUsed := add4 c.tilesUsed n.tiles, accsUsed := add4 c.accsUsed n.accs
    scalesUsed := add4 c.scalesUsed n.scales }

def Core.give (c : Core) (n : Need) : Core :=
  { c with
    rowsUsed := sub4 c.rowsUsed n.rows, gransUsed := c.gransUsed - n.grans
    tilesUsed := sub4 c.tilesUsed n.tiles, accsUsed := sub4 c.accsUsed n.accs
    scalesUsed := sub4 c.scalesUsed n.scales }

/-! ## Frame requests (R33) -/

/-- What the refill of the current frame asks for: its outgoing block counts as held when it was passed back, which
`ownsIn` of a spilled frame says (R358). -/
def refillNeed (r : Role) : Need :=
  let f := r.frame
  if f.ownsIn then callNeed r.groups f.v f.sc else rootNeed r.groups f.v f.sc

/-- What a parked role's request asks for. -/
def State.reqNeed (s : State) (k : Nat) : Need :=
  let r := s.role k
  match r.status with
  | .parked (.frame (.call v sc _ _)) => callNeed r.groups v sc
  | .parked (.frame .refill) => refillNeed r
  | .parked (.frame .handoff) => handoffNeed (s.team r.team).gmax
  | .parked (.frame (.tcfg w)) => tcfgNeed w
  | _ => frameNeed 0 0 0

/-- Whether two requests ask for something of one resource: the rows or the stores of a sub-partition, or the scalar
file (R33). -/
def Need.meets (a b : Need) : Bool :=
  let both (x y : List Nat) := (List.range 4).any fun s => x.getD s 0 != 0 && y.getD s 0 != 0
  let store (n : Need) := (List.range 4).map fun s => n.tiles.getD s 0 + n.accs.getD s 0 + n.scales.getD s 0
  both a.rows b.rows || (a.grans != 0 && b.grans != 0) || both (store a) (store b)

/-- Whether a request behind these unmet ones may be met now (R33). -/
def State.mayMeet (s : State) (core : Nat) (older : List Nat) (n : Need) : Bool :=
  (s.core core).fits core n && !(older.any fun k => (s.reqNeed k).meets n)

/-- A role's request leaves its core's list, and the Gleaner's choice made for it goes with it. -/
def Core.dropReq (c : Core) (k : Nat) : Core :=
  { c with frameReqs := c.frameReqs.filter (· != k), victim := c.victim.filter fun x => x.2 != k }

/-- The role parks on a frame request, behind those that wait (R33). -/
def State.parkFrame (s : State) (k : Nat) (q : FrameReq) : State :=
  let s1 := s.park k (.frame q)
  s1.modCore (s.role k).core fun c => { c with frameReqs := c.frameReqs ++ [k] }

/-! ## The save pool (R394) -/

/-- Whether a span is free of the pool's reserved spans. -/
def spanFree (pool : List (Nat × Nat)) (a n : Nat) : Bool := pool.all fun p => a + n ≤ p.1 || p.1 + p.2 ≤ a

/-- The lowest place for a block: the pool's base or the end of a reserved span, a multiple of 4 KiB. -/
def poolPlace (i : Iface) (n : Nat) : Option Nat :=
  let base := i.saveBase.toNat
  let top := base + i.saveSize.toNat
  let cands := (base :: i.pool.map fun p => p.1 + p.2).filter fun a =>
    base ≤ a && a + n ≤ top && spanFree i.pool a n
  cands.foldl (fun best a => match best with
    | none => some a
    | some b => some (min a b)) none

/-- A block of a size, rounded up to 4 KiB: its physical address, when the pool has room. -/
def State.reserve (s : State) (v size : Nat) : Option (Nat × State) :=
  let i := s.iface v
  let n := roundUp size 4096
  (poolPlace i n).map fun a => (i.physBase + a, s.setIface v { i with pool := i.pool ++ [(a, n)] })

/-- A block is freed. -/
def State.unreserve (s : State) (v pa : Nat) : State :=
  s.modIface v fun i => { i with pool := i.pool.filter fun p => i.physBase + p.1 != pa }

/-! ## Passing the argument overlap (R32, R34) -/

/-- A passed row: its contents under the new generation when it carried the old one, void otherwise; poison stays. -/
def passRow (old new : BitVec 16) (r : Row) : Row :=
  if r.tag = old then { r with tag := new } else if r.tag = poisonTag then r else { r with tag := voidTag }
def passGran (old new : BitVec 16) (r : Gran) : Gran :=
  if r.tag = old then { r with tag := new } else if r.tag = poisonTag then r else { r with tag := voidTag }

/-- A row or granule that its frame has not written, once it is set to void: its contents are free (log entry 2). -/
def voidRow (use key : Nat) : Row := ⟨voidTag, Config.freshData use key, false⟩
def voidGran (use i : Nat) : Gran := ⟨voidTag, (Config.freshData use (0x10000 + i)).setWidth 256, false⟩

/-- The argument overlap of one group: eight registers from x passed to eight from y under another generation; every one
of them is tagged (R32, R34). -/
def moveGroup (use g : Nat) (src : AMap Row) (x y : Nat) (old new : BitVec 16) (dst : AMap Row) : AMap Row :=
  (List.range 8).foldl (fun acc i =>
    mset acc (rowKey (y + i) g) (passRow old new ((mget src (rowKey (x + i) g)).getD (voidRow use (rowKey (x + i) g))))) dst
/-- The argument overlap of every group. -/
def moveRows (use groups : Nat) (src : AMap Row) (x y : Nat) (old new : BitVec 16) (dst : AMap Row) : AMap Row :=
  (List.range groups).foldl (fun acc g => moveGroup use g src x y old new acc) dst
/-- Two granules from i moved to j. -/
def moveGrans (use : Nat) (src : AMap Gran) (i j : Nat) (old new : BitVec 16) (dst : AMap Gran) : AMap Gran :=
  (List.range 2).foldl (fun acc k =>
    mset acc (j + k) (passGran old new ((mget src (i + k)).getD (voidGran use (i + k))))) dst

/-- A caller's frame without its outgoing block, which the callee holds. -/
def Frame.withoutOut (f : Frame) : Frame :=
  { f with
    rows := f.rows.filter fun p => !(32 * (f.v - 8) ≤ p.1 && p.1 < 32 * f.v)
    grans := f.grans.filter fun p => !(14 ≤ p.1 && p.1 < 16) }

/-- The frame a call makes (R32): the caller's outgoing block is its incoming one, all else is fresh, p1 to p7 false, and
its hidden units carry its generation. -/
def Frame.callee (f : Frame) (use groups v sc : Nat) (gen : BitVec 16) (ret : BitVec 64) (depth maskBase : Nat) :
    Frame where
  v := v; sc := sc; w := 0; gen := gen
  rows := moveRows use groups f.rows (f.v - 8) 0 f.gen gen []
  grans := moveGrans use f.grans 14 0 f.gen gen []
  preds := List.replicate 8 0
  link := ⟨ret, f.gen, f.w, maskBase, false, depth⟩
  hidden := []; hiddenFlaws := []
  spilled := none; ownsIn := false

/-- A caller's frame with a returning callee's incoming block (R34): one that is spilled takes the block as it stands. -/
def Frame.takeBack (f c : Frame) (use groups : Nat) : Frame :=
  { f with
    rows := moveRows use groups c.rows 0 (f.v - 8) c.gen f.gen (f.withoutOut).rows
    grans := moveGrans use c.grans 0 14 c.gen f.gen (f.withoutOut).grans }

/-- The frame part of a call that has its rows: the new frame is pushed, and the role stands at the target (R32,
R148). -/
def State.pushFrame (s : State) (k v sc : Nat) (gen : BitVec 16) (ret : BitVec 64) : State :=
  (s.modRole k fun r =>
    { r with frames := r.frame.callee s.free r.groups v sc gen ret (r.frames.length + 1) r.stack.length
                        :: r.frame.withoutOut :: r.frames.tail }).used

/-- The sum of V over a role's live frames, spilled ones included (R20). -/
def Role.liveV (r : Role) : Nat := r.frames.foldl (fun acc f => acc + f.v) 0

/-- The mask stack cut back at a return (R159). -/
def Role.cutStack (r : Role) (base : Nat) : Role :=
  if base < r.stack.length then
    match r.stack[r.stack.length - 1 - base]? with
    | some e => { r.setMask e.saved with stack := r.stack.drop (r.stack.length - base) }
    | none => r
  else r

/-- What popping a frame frees: its own charge, and its incoming block when that is charged to it and is not passed back
(R34, R35, R357); of a spilled frame, the outgoing block that was passed back to it (R358). -/
def popNeed (groups : Nat) (f : Frame) (passes : Bool) : Need :=
  match f.spilled with
  | some _ => if f.ownsIn then frameNeed groups 8 2 else frameNeed 0 0 0
  | none =>
    if f.ownsIn && !passes then rootNeed groups f.v f.sc else callNeed groups f.v f.sc

/-- The top n frames popped, the outermost passing its incoming block back (R34, R35). -/
def State.popFrames (s : State) (k n : Nat) : State :=
  let r := s.role k
  let popped := r.frames.take n
  match popped.getLast?, r.frames.drop n with
  | some outer, f :: rest =>
    let need := (List.range n).foldl (fun acc i =>
      match popped[i]? with
      | some fr => acc.add (popNeed r.groups fr (i + 1 == n))
      | none => acc) (frameNeed 0 0 0)
    let back := if outer.spilled.isSome then f.withoutOut
      else { f.takeBack outer s.free r.groups with ownsIn := f.ownsIn || f.spilled.isSome }
    let c := popped.foldl (fun c fr => c.retireGen fr.gen) ((s.core r.core).give need)
    ((s.setCore r.core c).setRole k (({ r with frames := back :: rest }).cutStack outer.link.maskBase)).used
  | _, _ => s

end Sys2Proof.Machine
end

