-- ==== Sys2Proof/Machine/Flags.lean ====
section
/-! DEFINITION. The floating-point flags and their traps (R124, R125), compare conditions (R109), and the one way an
instruction of each shape runs: vector, online, scalar, predicate and lane results over the shared reading and writing
of registers (R60, R176). -/

namespace Sys2Proof.Machine

/-! ## Flags (R124, R125) -/

/-- The conditions met are added to FPFLAGS, or raise FPE when one of them is enabled. -/
def Role.meetFlags (r : Role) (fl : FFlags) : Res Role :=
  if fl &&& r.fpTrapEn ≠ 0 then .error { cause := causeFpe, info := fl.toNat }
  else .ok { r with fpflags := r.fpflags ||| fl }

/-- The truth of an integer comparison under a condition code (R109, R185) of n-bit values. -/
def icond (c n x y : Nat) : Bool :=
  let sx := sext x n
  let sy := sext y n
  match c with
  | 0 => x == y
  | 1 => x != y
  | 2 => sx < sy
  | 3 => sx ≤ sy
  | 4 => sy < sx
  | 5 => sy ≤ sx
  | 6 => x < y
  | 7 => x ≤ y
  | 8 => y < x
  | _ => y ≤ x

/-! ## Writing what earlier loads are still to write (R72, R140) -/

/-- A flag-A operation whose destination a later instruction writes in some lanes. -/
def MemOp.claim (o : MemOp) (k x : Nat) (m : Mask) : MemOp :=
  if o.role = k && o.dests.contains x then { o with won := mset o.won x ((mget o.won x).getD 0 ||| m) } else o

/-- The same for a command that writes registers (R252). -/
def Cmd.claim (d : Cmd) (k x : Nat) (m : Mask) : Cmd :=
  if d.role = k && d.dests.contains x then { d with won := mset d.won x ((mget d.won x).getD 0 ||| m) } else d

/-- A register of a role is written in these lanes by an instruction later than the flag-A operations outstanding:
their results no longer land there. -/
def State.claim (s : State) (k x : Nat) (m : Mask) : State :=
  let s1 : State := { s with ops := s.ops.map (·.claim k x m) }
  if s1.cores.any (fun c => c.2.cmds.any fun d => d.role == k && d.dests.contains x) then
    { s1 with cores := mmap (fun _ c => { c with cmds := c.cmds.map (·.claim k x m) }) s1.cores }
  else s1

/-- The same for a scalar register. -/
def State.claimS (s : State) (k n cnt : Nat) : State :=
  { s with ops := s.ops.map fun o =>
      match o.sdest with
      | some d => if o.role = k && n ≤ d && d < n + cnt then { o with sdest := none } else o
      | none => o }

/-- The issuing role's vector register written (R45), later than every flag-A operation outstanding. -/
def State.putReg (s : State) (x : Nat) (m : Mask) (rows : List Lanes) : State :=
  (s.modMe fun r => r.writeReg x m rows).claim s.cur x m

/-- The same for a role that takes no issue, as its park ends (R228, R230). -/
def State.putRegOf (s : State) (k x : Nat) (m : Mask) (rows : List Lanes) : State :=
  (s.modRole k fun r => r.writeReg x m rows).claim k x m

/-- The issuing role's scalar registers written. -/
def State.putS (s : State) (n : Nat) (vs : List (BitVec 64)) : State :=
  (s.modMe fun r => r.setFrame (r.frame.writeSs n vs)).claimS s.cur n vs.length

/-! ## Shapes of instructions -/

/-- What an instruction does once its names are resolved: REGFIELD before anything else (R27). -/
def named (s : State) (names : Res (List Nat)) (body : State → List Nat → Out) : Out :=
  match names with
  | .error t => flow s (.error t)
  | .ok xs => body s xs

/-- A vector destination from vector sources (R176): fn gives each participating lane its result from the rows read,
group and lane. -/
def vecRows (s : State) (lits : Nat) (d : VReg) (srcs : List VReg) (g : PReg)
    (fn : Mask → List (List Lanes) → Nat → Nat → FRes) : Out :=
  named s (s.me.frame.vnames (d :: srcs)) fun s xs =>
    let s := s.modMe (·.settleFor xs)
    let r := s.me
    let m := r.part g
    done lits s (do
      let rows ← r.readRegs m xs.tail
      r.checkReg (xs.headD 0) m
      let res := (List.range r.groups).map fun grp => laneResults (groupMask m grp) (fn m rows grp)
      let r ← r.meetFlags (res.foldl (fun acc x => acc ||| x.2) 0)
      .ok ((s.setMe r).putReg (xs.headD 0) m (res.map (·.1))))

/-- A vector destination whose lane depends on the same lane of the sources only. -/
def vecOp (s : State) (lits : Nat) (d : VReg) (srcs : List VReg) (g : PReg) (fn : List Nat → FRes) : Out :=
  vecRows s lits d srcs g fun _ rows grp l => fn (laneSrc rows grp l)

/-- The same for an integer function, which meets no flag. -/
def vecInt (s : State) (lits : Nat) (d : VReg) (srcs : List VReg) (g : PReg) (fn : List Nat → Nat) : Out :=
  vecOp s lits d srcs g fun x => (fn x, 0)

/-- A predicate destination from vector sources: fn gives truth and flags in each participating lane (R176). -/
def predOp (s : State) (lits : Nat) (d : PReg) (srcs : List VReg) (g : PReg) (fn : List Nat → Bool × FFlags) : Out :=
  named s (s.me.frame.vnames srcs) fun s xs =>
    let s := s.modMe (·.settleFor xs)
    let r := s.me
    let m := r.part g
    done lits s (do
      let rows ← r.readRegs m xs
      let res := (List.range r.groups).map fun grp =>
        laneResults (groupMask m grp) fun l => ((fn (laneSrc rows grp l)).1.toNat, (fn (laneSrc rows grp l)).2)
      let r ← r.meetFlags (res.foldl (fun acc x => acc ||| x.2) 0)
      let truth := maskG r.groups fun grp =>
        BitVec.ofNat 32 (packNat 1 (fun l => (lane ((res.getD grp (0, 0)).1) l).toNat) 32)
      .ok (s.setMe (r.setFrame (r.frame.setPred d m truth))))

/-- A scalar destination from scalar sources: a uniform effect (R60, R176). -/
def scalOp (s : State) (lits : Nat) (d : SReg) (srcs : List SReg) (g : PReg)
    (fn : List (BitVec 64) → BitVec 64) : Out :=
  let f := s.me.frame
  match (do
      let dx ← f.sname d.toNat
      let xs ← srcs.mapM fun n => f.sname n.toNat
      pure (dx, xs) : Res (Nat × List Nat)) with
  | .error t => flow s (.error t)
  | .ok (dx, xs) =>
    done lits s (if s.me.part g = 0 then .ok s else do
      let vs ← xs.mapM fun n => f.readS s.me.tagTrap n
      f.checkS dx 1
      .ok (s.putS dx [fn vs]))

/-- A scalar destination from what the state gives, a uniform effect: val may wait in place by answering none. -/
def scalGet (s : State) (lits : Nat) (d : SReg) (g : PReg) (val : State → Res (BitVec 64)) : Out :=
  match s.me.frame.sname d.toNat with
  | .error t => flow s (.error t)
  | .ok dx =>
    done lits s (if s.me.part g = 0 then .ok s else do
      s.me.frame.checkS dx 1
      let v ← val s
      .ok (s.putS dx [v]))

/-- A scalar operand read by a uniform instruction whose guard is true somewhere. -/
def withScalar (s : State) (a : SReg) (g : PReg) (lits : Nat) (body : State → BitVec 64 → Out) : Out :=
  match s.me.frame.sname a.toNat with
  | .error t => flow s (.error t)
  | .ok x =>
    if s.me.part g = 0 then done lits s (.ok s)
    else
      match s.me.frame.readS s.me.tagTrap x with
      | .error t => flow s (.error t)
      | .ok v => body s v

/-! ## Online instructions (R138 to R141) -/

/-- Whether an instruction may join the stage at place i (R138): that stage is lone and no furrow of more than one
member is open, or it is the furrow's newest stage with fewer than four open. -/
def mayJoin (stages : List Stage) (i : Nat) : Bool :=
  let joined := (List.range stages.length).filter fun j => (stages[j]?.map (·.joined)) = some true
  if joined = [] then true else joined.getLast? == some i && joined.length < 4

/-- The sign of the producer's result under which a clamp gives +0 whatever its magnitude (R197): whether it is
negative. -/
def clampSign : Instr → Option Bool
  | .fmaxz _ _ _ => some true
  | .fminz _ _ _ => some false
  | .fsetk _ _ c _ =>
    if c = 4 || c = 5 then some true else if c = 2 || c = 3 then some false else none
  | _ => none

/-- Whether a producer's result lets a clamp cancel it (R141, R197): of that sign, and normal after rounding, which a
result that overflows or is tiny is not although what it delivers may look so. -/
def mayCancel (neg : Bool) (x : FRes) : Bool :=
  let e := fieldOf x.1 30 23
  x.1.testBit 31 == neg && 1 ≤ e && e ≤ 254 && x.2 &&& (fOverflow ||| fUnderflow) == 0

/-- The lanes of a producer, its sources in place, that a clamp taking effect in these lanes may cancel (R141, R197). -/
def cancelLanes (i : Instr) (p : Stage) (m : Mask) (groups : Nat) : Mask :=
  match clampSign i with
  | none => 0
  | some neg =>
    maskG groups fun g => BitVec.ofNat 32 (packNat 1 (fun l =>
      ((p.lanes &&& m).getLsbD (32 * g + l)
        && mayCancel neg (onlineFn p.instr (laneSrc p.residual g l))).toNat) 32)

/-- What an online instruction with this destination and these sources waits for (R139, R140): of the open stages that
write a source every one but the newest; that one too when it may not be joined; and when the instruction is to run lone,
the stage of the furrow that writes its destination, behind which it must land (log entry 8). -/
def Role.awaitOpen (r : Role) (dx : Nat) (srcs : List Nat) : Role :=
  let ws := srcs.filterMap (newestWriter r.stages)
  let top := ws.foldl max 0
  let r1 := r.settleTo ((ws.filter (· != top)).foldl (fun n w => max n (w + 1)) 0)
  let r2 := match srcs.findSome? (newestWriter r1.stages) with
    | some w => if mayJoin r1.stages w then r1 else r1.settleTo (w + 1)
    | none => r1
  match srcs.findSome? (newestWriter r2.stages), newestWriter r2.stages dx with
  | none, some w => if (r2.stages[w]?.map (·.joined)) = some true then r2.settleTo (w + 1) else r2
  | _, _ => r2

/-- The stage a joining clamp leaves of its producer: a member of a furrow, and where the clamp reads and writes the
producer's register and no stage between them reads it, cancelled in some of the lanes that it may be (R141). -/
def joinedBy (i : Instr) (use dx w groups : Nat) (srcs : List Nat) (m : Mask) (stages : List Stage) : List Stage :=
  let read := stages.any fun q => q.feeds.contains (some w)
  let exact := (resolved groups [] stages)[w]?
  updAt (fun p =>
    let may := match exact with
      | some x => if srcs.contains p.dest && p.dest == dx && !read then cancelLanes i x m groups else 0
      | none => 0
    { p with joined := true, cancelled := p.cancelled ||| (may &&& Config.cancelled use) }) stages w

/-- An online instruction issues (R138 to R141): it opens as a stage with its captured operands, joining the stage
that streams one of its sources where it may, or writes at once when the plot enables floating-point traps (R125). -/
def onlineOp (s : State) (i : Instr) (lits : Nat) (d : VReg) (srcs : List VReg) (g : PReg) : Out :=
  if s.me.fpTrapEn ≠ 0 then vecOp s lits d srcs g (onlineFn i)
  else named s (s.me.frame.vnames (d :: srcs)) fun s xs =>
    let dx := xs.headD 0
    let s := s.modMe (·.awaitOpen dx xs.tail)
    let r := s.me
    let m := r.part g
    if m = 0 then done lits s (.ok s)
    else
      let view := r.settle
      done lits s (do
        let rows ← view.readRegs m xs.tail
        view.checkReg dx m
        let feeds := xs.tail.map (newestWriter r.stages)
        let join := (feeds.filterMap id).head?
        let residual := (List.range rows.length).map fun j =>
          match (feeds.getD j none).bind (r.stages[·]?) with
          | none => rows.getD j []
          | some p => feedRows p.lanes [] (rows.getD j [])
        let st : Stage :=
          { word := (encode i).headD 0, lit := fPay ((encode i).getD 1 0), addr := r.pc, feeds := feeds
            joined := join.isSome, dest := dx, lanes := m, cancelled := 0
            cursor := (List.range ((r.groups + 1) / 2)).map fun j => Config.digits s.free j % 13
            residual := residual }
        let stages := match join with
          | none => r.stages
          | some w => joinedBy i s.free dx w r.groups xs.tail m r.stages
        .ok ((s.setMe { r with stages := stages ++ [st] }).used.claim s.cur dx m))

end Sys2Proof.Machine
end

