-- ==== Sys2Proof/Machine/Life.lean ====
section
/-! DEFINITION. The end of roles and teams (R160, R24, R31, R234), the release of a tile configuration (R259, R260), and
the refill of a spilled frame (R39, R40, R358). -/

namespace Sys2Proof.Machine

/-! ## Private memory as a device agent reaches it (R38, R211) -/

/-- Address of private word w of lane l of group g (R211). -/
def Role.privAddr (r : Role) (w g l : Nat) : Nat := r.privBase.toNat + 4 * ((w * r.groups + g) * 32 + l)

/-- What a device agent's own translation meets: an address, a fault that can be served, or one that cannot. -/
inductive DevTr where
  | pa (a : Nat)
  | serve (reason : Nat)
  | fail (c : Imm8)
  deriving DecidableEq, Repr

/-- Whether a page is migrating (R310). -/
def State.migrating (s : State) (vi asid page : Nat) : Bool :=
  (s.iface vi).migs.any fun m => m.asid == asid && m.page == page

/-- A device agent's translation of an interface's address by a walk (R376, R377), with the page zeroed if asked, and
the record of a malformed entry (R378). -/
def State.devWalk (s : State) (vi asid va : Nat) (a : Acc) : DevTr × State :=
  if 2 ^ 52 ≤ va then (.fail causePage, s)
  else
    match s.walk vi asid va with
    | .notPresent => (.serve 1, s)
    | .malformed => (.fail causePage, s.pushFault vi (faultBytes va 0 asid 2 (8 + a.code) 0))
    | .owner _ _ => (.serve 3, s)
    | .leaf e level pteAt =>
      if a.ok e.r e.w e.x then (.pa (s.leafPa vi e level va), if e.z then s.zeroPage vi e level pteAt else s)
      else (.fail causePerm, s)

/-- A device agent's translation in an address space: cached leaves serve it like any access (R381). -/
def State.devTrAt (s : State) (core vi asid va : Nat) (a : Acc) : DevTr × State :=
  if s.migrating vi asid (va / 65536) then (.serve 3, s)
  else match s.findLeaf core vi asid va with
  | some l => if a.ok l.r l.w l.x then (.pa (l.base + va % 65536), s) else (.fail causePerm, s)
  | none => s.devWalk vi asid va a

/-- A device agent's translation for a role. -/
def State.devTr (s : State) (r : Role) (va : Nat) (a : Acc) : DevTr × State :=
  match s.space r with
  | none =>
    match hyFault va a with
    | none => (.pa va, s)
    | some c => (.fail c, s)
  | some (vi, asid) => s.devTrAt r.core vi asid va a

/-- Bytes of a role's memory behind the caches: device memory, or Hyaluo's own. -/
def State.homeRead (s : State) (r : Role) (pa n : Nat) : Nat :=
  if r.plot.isSome then s.ramLE pa n else rdLE s.hy pa n

/-- A line with the bytes of a write that overlap it (R293). -/
def patchLine (pa : Nat) (bs : Bytes) (line : Nat) (x : L1Line) : L1Line :=
  if line * 128 < pa + bs.length && pa < line * 128 + 128 then
    let byte (i : Nat) : Byte :=
      if pa ≤ line * 128 + i && line * 128 + i < pa + bs.length then bs.getD (line * 128 + i - pa) 0
      else x.data.extractLsb' (8 * i) 8
    { x with data := BitVec.ofNat 1024 (leNat ((List.range 128).map byte)) }
  else x

/-- A store's bytes also go into a line present in the issuing core's L1 (R293). -/
def Core.patchL1 (c : Core) (pa : Nat) (bs : Bytes) : Core := { c with l1 := mmap (patchLine pa bs) c.l1 }

/-- A write through a core's L1 to the home (R293). -/
def State.homeWrite (s : State) (r : Role) (pa : Nat) (bs : Bytes) : State :=
  if r.plot.isSome then (s.ramWrite pa bs).modCore r.core (·.patchL1 pa bs)
  else { s with hy := wrBytes s.hy pa bs }

/-- Every page a span of private words touches is translated first: the first that fails decides. -/
def State.devSpan (s : State) (r : Role) (a : Acc) (base : Nat) : List Nat → Option (Nat × DevTr) × State
  | [] => (none, s)
  | page :: rest =>
    match s.devTr r (max base (page * 65536)) a with
    | (.pa _, s1) => s1.devSpan r a base rest
    | (d, s1) => (some (max base (page * 65536), d), s1)

/-- The 64 KiB pages of a span of bytes. -/
def pagesOf (a n : Nat) : List Nat :=
  if n = 0 then [] else (List.range ((a + n - 1) / 65536 - a / 65536 + 1)).map (a / 65536 + ·)

/-- The physical address of a private word whose page has been translated. -/
def State.privPa (s : State) (r : Role) (w g l : Nat) : Nat :=
  match (s.devTr r (r.privAddr w g l) .rd).1 with
  | .pa a => a
  | _ => 0

/-- Words of a spill record: 3 + S/4 + V (R39). -/
def Frame.recordWords (f : Frame) : Nat := 3 + f.sc / 4 + f.v

/-! ## Fault service of a parked role (R38, R378) -/

/-- A fault record for a page, shared with an unanswered one of the same page (R378). -/
def State.faultFor (s : State) (vi asid va reason access : Nat) : State :=
  let i := s.iface vi
  if (i.faults.any fun f => f.asid == asid && f.page == va / 65536 && (f.reason == 1 || f.reason == 3)) || s.migrating vi asid (va / 65536) then s
  else
    let (tok, s1) := s.newToken vi
    let s2 := s1.modIface vi fun i => { i with faults := i.faults ++ [⟨tok, asid, va / 65536, reason, none, []⟩] }
    s2.pushFault vi (faultBytes va tok asid reason access 0)

/-- Whether a fault of a page is still to be answered. -/
def State.faultOpen (s : State) (vi asid page : Nat) : Bool :=
  ((s.iface vi).faults.any fun f => f.asid == asid && f.page == page && (f.reason == 1 || f.reason == 3))
    || s.migrating vi asid page

/-- A role whose page has been answered for goes on, or waits for the next page of its escape reserve (R39). -/
def State.pageCame (s : State) (k vi asid : Nat) : State :=
  match (s.role k).reserve.filter (s.faultOpen vi asid) with
  | [] => (s.modRole k fun r => { r with reserve := [] }).wake k 0
  | p :: ps => s.modRole k fun r => { r with
      status := .parked (.fault vi asid p), reserve := p :: ps
      faultVa := some (max (r.privAddr r.escapeOff 0 0) (p * 65536)) }

/-- The role parks on fault service for an address (R212, R378). -/
def State.parkFault (s : State) (k va reason access : Nat) : State :=
  match s.space (s.role k) with
  | none => s
  | some (vi, asid) => 
    ((s.faultFor vi asid va reason access).park k (.fault vi asid (va / 65536))).modRole k fun r => { r with faultVa := some va }

/-! ## Refill (R39, R40, R358) -/

/-- The rows of a spill record's register x. -/
def refillRows (s : State) (r : Role) (f : Frame) (base : Nat) (rows : AMap Row) : AMap Row :=
  (List.range f.v).foldl (fun acc x =>
    (List.range r.groups).foldl (fun acc g =>
      let word (w l : Nat) := s.homeRead r (s.privPa r (base + w) g l) 4
      let valid := (word 1 (x / 32)).testBit (x % 32)
      let pois := (word 1 (16 + x / 32)).testBit (x % 32)
      let data := lanesOf fun l => BitVec.ofNat 32 (word (3 + f.sc / 4 + x) l)
      -- the outgoing block passed back is held already and is not read
      if f.ownsIn && f.v - 8 ≤ x then acc
      else mset acc (rowKey x g) ⟨if pois then poisonTag else if valid then f.gen else voidTag, data, false⟩) acc) rows

/-- The granules of a spill record. -/
def refillGrans (s : State) (r : Role) (f : Frame) (base : Nat) (grans : AMap Gran) : AMap Gran :=
  let bits := s.homeRead r (s.privPa r base 0 12) 4
  (List.range (f.sc / 4)).foldl (fun acc i =>
    let data := BitVec.ofNat 256 (packNat 32 (fun l => s.homeRead r (s.privPa r (base + 3 + i) 0 l) 4) 8)
    if f.ownsIn && 14 ≤ i then acc
    else mset acc i ⟨if bits.testBit (16 + i) then poisonTag else if bits.testBit i then f.gen else voidTag, data, false⟩)
    grans

/-- The predicates of a spill record: word 2 holds p0 to p7 of each lane. -/
def refillPreds (s : State) (r : Role) (base : Nat) : List Mask :=
  (List.range 8).map fun p => maskG r.groups fun g =>
    BitVec.ofNat 32 (packNat 1 (fun l => ((s.homeRead r (s.privPa r (base + 2) g l) 4).testBit p).toNat) 32)

/-- A spilled frame as its record gives it, with the block that was passed back to it (R40, R358). -/
def State.readFrame (s : State) (r : Role) (f : Frame) (base : Nat) : Frame :=
  let link4 := s.homeRead r (s.privPa r base 0 4) 4
  let word0 (l : Nat) := s.homeRead r (s.privPa r base 0 l) 4
  { f with
    rows := refillRows s r f base f.rows
    grans := refillGrans s r f base f.grans
    preds := refillPreds s r base
    w := word0 11
    link := { f.link with
      ret := BitVec.ofNat 64 (word0 0 + word0 1 * 2 ^ 32), callerGen := BitVec.ofNat 16 (word0 2)
      callerW := fieldOf (word0 3) 9 0, maskBase := fieldOf link4 5 0, root := link4.testBit 31 }
    hidden := [], hiddenFlaws := []
    spilled := none
    ownsIn := true }

/-- The current frame refilled from its record, its rows granted (R40). -/
def State.refillNow (s : State) (k base : Nat) : State :=
  let r := s.role k
  (s.modCore r.core (·.take (refillNeed r))).setRole k (r.setFrame (s.readFrame r r.frame base))

/-- A refill that has its rows: its loads are made, or its role parks on fault service, or stops with PAGE at a fault that
cannot be served (R38, R40). A walk that has failed for good is the role's `walkFault`. -/
def State.refillFrom (s : State) (k base : Nat) : State :=
  let r := s.role k
  let a := r.privAddr base 0 0
  let pages := pagesOf a (128 * r.groups * r.frame.recordWords)
  let stop (s : State) (va : Nat) : State := takeTrap s k { cause := causePage, addr := some va, source := r.retAt }
  match r.walkFault.filter fun w => !w.1 && pages.contains w.2.1 with
  | some (_, page, _) => stop s (max a (page * 65536))
  | none =>
    match s.devSpan r .rd a pages with
    | (none, s1) => (s1.refillNow k base).modRole k fun r => { r with retAt := none, walkFault := none }
    | (some (va, .serve reason), s1) => s1.parkFault k va reason 1
    | (some (va, .fail _), s1) => stop s1 va
    | (some (_, .pa _), s1) => s1

/-- The refill a spilled current frame needs before its run starts: made, or asked for as a frame request (R34, R40). -/
def State.tryRefill (s : State) (k : Nat) : State :=
  let r := s.role k
  match r.frame.spilled with
  | none => s
  | some base =>
    if s.mayMeet r.core (s.core r.core).frameReqs (refillNeed r) then s.refillFrom k base else s.parkFrame k .refill

/-! ## Tile configurations (R259, R260) -/

/-- A team's configuration is released: units freed, generation retired, tile block freed (R260, R394). -/
def State.releaseTcfg (s : State) (tk : Nat) : State :=
  let t := s.team tk
  match t.tcfg with
  | none => s
  | some c =>
    let s1 := s.modCore t.core fun co => (if t.out then co else co.give (tcfgNeed c.word)).retireGen c.gen
    let s2 := s1.modTeam tk fun t => { t with tcfg := none }
    match c.block, t.plot.bind (mget s.plots) with
    | some (b, _), some p => s2.unreserve p.vi b
    | _, _ => s2

/-- Whether an engine command moves tiles or scales of a team. -/
def Cmd.isMatrix (c : Cmd) : Bool :=
  match c.kind with
  | .mld _ => true
  | .mst _ => true
  | .cpys => true
  | _ => false

/-- The unfinished commands that move tiles or scales of a team: on its core, and those a switch-out of one of its roles
has taken from there. -/
def State.matrixCmds (s : State) (tk : Nat) : List Cmd :=
  ((s.core (s.team tk).core).cmds ++ s.saved.flatMap fun x => x.2.cmds).filter fun c => c.team == tk && c.isMatrix

/-- Whether matrix work of a team is unfinished (R160, R261). -/
def State.matrixBusy (s : State) (tk : Nat) : Bool := s.mats.any (fun o => o.team == tk) || s.matrixCmds tk != []

/-! ## The end of a team and of a role (R160) -/

/-- What a team of no live role still holds goes once its matrix work has finished (R160). -/
def State.reapTeam (s : State) (tk : Nat) : State :=
  match mget s.teams tk with
  | none => s
  | some t =>
    if t.live ≠ [] || s.matrixBusy tk then s
    else
      let s1 := s.releaseTcfg tk
      { s1 with teams := mdel s1.teams tk }

/-- A cooperative set whose last team has gone ends: its generation retires on the four cores of its cluster (R210). -/
def State.reapSet (s : State) (sk : Nat) : State :=
  match mget s.sets sk with
  | none => s
  | some cs =>
    if s.teams.any (fun t => t.2.set == some sk && t.2.live != []) then s
    else
      let cores := (List.range 4).map (4 * cs.cluster + ·)
      let s1 := cores.foldl (fun s c => s.modCore c (·.retireGen cs.gen)) s
      { s1 with sets := mdel s1.sets sk }

/-- The saved context of a set on a core of its cluster. -/
def SavedCtx.ofSet (x : SavedCtx) (sk core : Nat) : Bool := x.set == some sk && x.core == core && x.xtags.isSome

/-- The halves of a saved context swap in its block (R235, R399). -/
def State.swapSaved (s : State) (key : Nat) (x : SavedCtx) : State :=
  match x.block, x.xtags with
  | some b, some (t0, t1) =>
    let h0 := s.ramRead (b + 0x10000) 32768
    let h1 := s.ramRead (b + 0x18000) 32768
    let s1 := (s.ramWrite (b + 0x10000) h1).ramWrite (b + 0x18000) h0
    { s1 with saved := mset s1.saved key { x with xtags := some (t1, t0) } }
  | _, _ => s

/-- Both halves of every core of a set's cluster swap (R234): in the context block of a core that the set has left. -/
def State.swapHalves (s : State) (sk : Nat) (cs : CoopSet) : State :=
  ((List.range 4).map (4 * cs.cluster + ·)).foldl (fun s c =>
    match s.saved.find? fun x => x.2.ofSet sk c with
    | some x => s.swapSaved x.1 x.2
    | none => if cs.out then s else s.modCore c fun c => { c with xchCur := !c.xchCur }) s

/-- The roles of a set's teams. -/
def State.setRoles (s : State) (sk : Nat) : List Nat :=
  (s.roles.filter fun p => (s.team p.2.team).set == some sk).map (·.1)

/-- A role goes on past its BARC: one that is saved does so in its block, which its resumption reads (R235, R395). -/
def State.passBarc (s : State) (k : Nat) : State :=
  let r := s.role k
  let r1 := { r.stepPast 1 with
    barcArrived := false
    status := match r.status with
      | .parked .barc => .ready
      | .saved _ => .saved none
      | st => st
    readyAt := s.next }
  let s1 := (s.setRole k r1).numbered
  match r.status, r.block with
  | .saved _, some b => s1.ramWrite (b + 0x100) (leBytes 8 r1.hdr.toNat ++ leBytes 1 r1.off)
  | _, _ => s1

/-- BARC completes once every live team of the set has arrived: the halves swap and every team goes on with an acquire
at cluster scope (R234). -/
def State.barcCheck (s : State) (sk : Nat) : State :=
  match mget s.sets sk with
  | none => s
  | some cs =>
    let ks := s.setRoles sk
    if ks ≠ [] && ks.all (fun k => (s.role k).barcArrived) then
      let s1 := ks.foldl (fun s k => s.passBarc k) (s.swapHalves sk cs)
      if cs.out then s1
      else ((List.range 4).map (4 * cs.cluster + ·)).foldl (fun s c => s.modCore c fun c => { c with l1 := [] }) s1
    else s

/-- What the last role of a yoke to exit releases (R160, R24, R31). -/
def State.endTeam (s : State) (tk : Nat) : State :=
  let t := s.team tk
  let s1 := s.modCore t.core fun c =>
    let c := if t.handoffHeld && !t.out then c.give (handoffNeed t.gmax) else c
    if t.scratchSize = 0 then c else c.retireGen t.gen
  let s2 := s1.modTeam tk fun t =>
    { t with handoffHeld := false, handoff := [], scratchSize := 0, tagSlots := 0 }
  let s3 := match t.block, t.plot.bind (mget s.plots) with
    | some b, some p => s2.unreserve p.vi b
    | _, _ => s2
  let s4 := s3.modTeam tk fun t => { t with block := none }
  let s5 := s4.reapTeam tk
  match t.set with
  | some sk => (s5.barcCheck sk).reapSet sk
  | none => s5

/-- The rows and granules of every resident frame of a role (R160). -/
def Role.allNeed (r : Role) : Need :=
  r.frames.foldl (fun acc f => acc.add (popNeed r.groups f false)) (frameNeed 0 0 0)

/-- A role ends (R160): frames freed, generations retired, slot and role block freed; deferred causes still pending are
plot trap records (R393). The record of how it ended is the caller's. -/
def State.endRole (s : State) (k : Nat) : State :=
  match mget s.roles k with
  | none => s
  | some r =>
    let s1 := match r.plot.bind (mget s.plots) with
      | some p => r.deferred.foldl (fun (s : State) (d : Deferred) =>
          s.plotTrap p (trapBytes r.hdr.toNat (d.trap false) 1 s.clock r.teamIdx r.roleId)) s
      | none => s
    let s2 := s1.modCore r.core fun c =>
      let c := r.frames.foldl (fun (c : Core) (f : Frame) => c.retireGen f.gen) (c.give r.allNeed)
      { (c.release k).dropReq k with slots := mfilter (fun _ x => x != k) c.slots }
    let s3 := { s2 with roles := mdel s2.roles k, watch := s2.watch.filter fun x => x.1 != k }
    let s4 := match r.block, r.plot.bind (mget s.plots) with
      | some b, some p => s3.unreserve p.vi b
      | _, _ => s3
    let s5 := s4.modTeam r.team fun t => { t with live := t.live.filter (· != k) }
    if (s5.team r.team).live = [] then s5.endTeam r.team
    else
      match (s5.team r.team).set with
      | some sk => s5.barcCheck sk
      | none => s5

end Sys2Proof.Machine
end

