-- ==== Sys2Proof/Machine/Hyaluo.lean ====
section
/-! DEFINITION. Hyaluo's own memory map as its loads and stores meet it (R422): the measurement block (R424), the DOE
mailbox windows (R426), the entropy word (R441), and the fused keys (R423). -/

namespace Sys2Proof.Machine

def State.responder (s : State) (fn : Nat) : Responder := (mget s.responders fn).getD Responder.reset
def State.modResponder (s : State) (fn : Nat) (f : Responder → Responder) : State :=
  { s with responders := mset s.responders fn (f (s.responder fn)) }

/-! ## Addresses (R422) -/

def measBase : Nat := 0x5_0000_0000
def entropyWord : Nat := 0x5_0001_0000
def mailBase (fn : Nat) : Nat := 0x4_0000_0000 + 0x10000 * fn
/-- The function and offset of a mailbox address. -/
def mailAt (a : Nat) : Option (Nat × Nat) :=
  if mailBase 0 ≤ a && a < mailBase 65 then some ((a - mailBase 0) / 0x10000, (a - mailBase 0) % 0x10000) else none

/-! ## Measurements (R424) -/

/-- A 32-byte register as its bytes. -/
def regBytes (x : BitVec 256) : Bytes := leBytes 32 x.toNat

/-- MEAS(i) := SM3(MEAS(i) ‖ x). -/
def State.extendBy (s : State) (i : Nat) (x : Bytes) : State :=
  { s with meas := updAt (fun m => BitVec.ofNat 256 (leNat (sm3 (regBytes m ++ x)))) s.meas i }

/-- A write of EXTEND (R424). -/
def State.measExtend (s : State) (i : Nat) : State :=
  if 16 ≤ i then s
  else if s.lockboot && i < 8 then { s with mstat := true }
  else s.extendBy i (regBytes s.digest)

/-- A write of LOCKBOOT (R424). -/
def State.lockBoot (s : State) (v : Nat) : State := if v = 1 then { s with lockboot := true } else s

/-! ## Mailboxes (R426) -/

/-- A write of RSPLEN (R426): the response leaves, and REQLEN becomes 0 in the same write (R441). -/
def State.rspLen (s : State) (fn n : Nat) : State :=
  if n % 4 ≠ 0 || n < 8 || 28672 < n then s
  else
    let r := s.responder fn
    if r.aborted then s.modResponder fn fun r => { r with rspLen := BitVec.ofNat 32 n }
    else (s.modResponder fn fun r => { r with rspLen := BitVec.ofNat 32 n, reqLen := 0 }).emit
      (.doe fn (rdBytes s.hy (mailBase fn + 0x8000) n))

/-! ## Loads and stores -/

/-- The bytes of a register word that lie in a range. -/
def regByte (base a x : Nat) : Byte := BitVec.ofNat 8 (x / 2 ^ (8 * (a - base)))

/-- The byte at an address of Hyaluo's map, registers included. -/
def State.hyByte (s : State) (a : Nat) : Byte :=
  match mailAt a with
  | some (fn, o) =>
    let r := s.responder fn
    if 0xF000 ≤ o && o < 0xF004 then regByte 0xF000 o r.reqLen.toNat
    else if 0xF004 ≤ o && o < 0xF008 then regByte 0xF004 o r.rspLen.toNat
    else if 0xF008 ≤ o && o < 0xF00C then regByte 0xF008 o r.aborted.toNat
    else rdByte s.hy a
  | none =>
    if measBase ≤ a && a < measBase + 0x1000 then
      let o := a - measBase
      if o < 0x200 then regByte 0 (o % 32) (s.meas.getD (o / 32) 0).toNat
      else if 0x400 ≤ o && o < 0x420 then regByte 0x400 o s.digest.toNat
      else if 0x428 ≤ o && o < 0x42C then regByte 0x428 o s.lockboot.toNat
      else if 0x42C ≤ o && o < 0x430 then regByte 0x42C o s.mstat.toNat
      else 0
    else rdByte s.hy a

def State.hyBytes (s : State) (a n : Nat) : Bytes := (List.range n).map fun i => s.hyByte (a + i)

/-- Plain bytes of a store: registers take none. -/
def State.hyPut (s : State) (a : Nat) : Bytes → State
  | [] => s
  | b :: bs =>
    let reg : Bool := match mailAt a with
      | some (_, o) => 0xF000 ≤ o
      | none => measBase ≤ a && a < measBase + 0x1000
    let s1 :=
      if reg then
        if measBase + 0x400 ≤ a && a < measBase + 0x420 then
          let k := 8 * (a - measBase - 0x400)
          let d := s.digest.toNat
          { s with digest := BitVec.ofNat 256 (d - fieldOf d (k + 7) k * 2 ^ k + b.toNat * 2 ^ k) }
        else s
      else { s with hy := wrByte s.hy a b }
    s1.hyPut (a + 1) bs

/-- A store of Hyaluo: a write of a register word of 32 bits has that register's effect. -/
def State.hyWrite (s : State) (a : Nat) (bs : Bytes) : State :=
  let s1 := s.hyPut a bs
  if bs.length ≠ 4 then s1
  else if a = measBase + 0x420 then s1.measExtend (leNat bs)
  else if a = measBase + 0x428 then s1.lockBoot (leNat bs)
  else
    match mailAt a with
    | some (fn, 0xF004) => s1.rspLen fn (leNat bs)
    | some (fn, 0xF008) =>
      if leNat bs = 0 then s1.modResponder fn fun r => { r with aborted := false } else s1
    | _ => s1

/-! ## Fused keys (R423) -/

def keyWindow : Nat := 0x3_0000_0000

/-- The private key of fused slot k, when it is usable. -/
def State.fusedKey (s : State) (k : Nat) : Option Nat :=
  let d (bs : Bytes) : Nat := 1 + beNat (sm3 bs) % (sm2N - 2)
  if k = 0 then (if s.lockboot then none else some (d (regBytes Config.seed ++ [0])))
  else if k = 1 then some (d (regBytes Config.seed ++ regBytes (s.meas.getD 0 0) ++ regBytes (s.meas.getD 1 0) ++ [1]))
  else none

end Sys2Proof.Machine
end

