-- ==== Sys2Proof/Machine/Regions.lean ====
section
/-! DEFINITION. Prery addresses (R325), their translation (R327 to R329), and the checks a target makes on an access to
a registered region (R331, R458). -/

namespace Sys2Proof.Machine

/-! ## Prery addresses (R325) -/

def preryRank (a : BitVec 64) : BitVec 18 := a.extractLsb' 46 18
def preryRegion (a : BitVec 64) : Nat := (a.extractLsb' 40 6).toNat
def preryOff (a : BitVec 64) : Nat := (a.extractLsb' 0 40).toNat
/-- Pod index and member index of a rank. -/
def podOf (r : BitVec 18) : BitVec 9 := r.extractLsb' 9 9
def memberOf (r : BitVec 18) : BitVec 9 := r.extractLsb' 0 9

/-! ## From rank to network (R327 to R329) -/

/-- How a rank is reached. -/
inductive Route where
  | self
  | uet (addr : Nat) (paths : Nat)
  | ual (member : Nat) (paths : Nat)
  | unreachable
  deriving DecidableEq, Repr

/-- The valid exception-CAM entry that decides a rank: the one in the lowest slot (R328). -/
def State.camHit (s : State) (r : BitVec 18) : Option CamEntry :=
  (s.cam.find? fun p => p.2.valid && p.2.rank == r).map (·.2)

/-- A path set, and whether it enables a path for Ultra Ethernet or a plane for UALink (R327). -/
def State.pathSet (s : State) (i : Nat) : Nat := ((mget s.paths i).getD 0).toNat
def State.uetOk (s : State) (a p : Nat) : Route := if s.pathSet p = 0 then .unreachable else .uet a p
def State.ualOk (s : State) (m p : Nat) : Route := if s.pathSet p % 256 = 0 then .unreachable else .ual m p

/-- Bytes of a member-table entry as an address: the first byte is the most significant (R327). -/
def State.memberEntry (s : State) (table m : Nat) : Nat := beNat (s.ramRead (table + 16 * m) 16)

/-- The translation of a rank by the tables alone (R329). -/
def State.tableRoute (s : State) (r : BitVec 18) : Route :=
  match s.camHit r with
  | some e =>
    let v := e.value.toNat
    match fieldOf v 27 26 with
    | 1 => s.uetOk (fieldOf v 159 32) (fieldOf v 31 28)
    | 2 => s.ualOk (fieldOf v 40 32) (fieldOf v 31 28)
    | _ => .unreachable
  | none =>
    let p := ((mget s.pods (podOf r).toNat).getD 0).toNat
    let m := (memberOf r).toNat
    match fieldOf p 9 8 with
    | 1 => s.uetOk (fieldOf p 127 64 * 2 ^ 64 + (fieldOf p 63 32 + m * fieldOf p 31 20) % 2 ^ 64) (fieldOf p 19 16)
    | 2 =>
      let a := s.memberEntry (fieldOf p 127 64) m
      if a = 0 then .unreachable else s.uetOk a (fieldOf p 19 16)
    | 3 => s.ualOk m (fieldOf p 19 16)
    | _ => .unreachable

/-- The translation of a rank (R329). -/
def State.route (s : State) (r : BitVec 18) : Route := if r = s.rank then .self else s.tableRoute r

/-- The stall hint that a route meets, if it is set (R339): a pod over Ultra Ethernet, or a member over UALink. -/
def State.stalled (s : State) (r : BitVec 18) : Option FabricDest :=
  let d : Option FabricDest := match s.route r with
    | .uet _ _ => some (.pod (podOf r))
    | .ual m _ => some (.member (BitVec.ofNat 9 m))
    | _ => none
  d.filter s.stall.contains

/-! ## The target's checks (R331, R458) -/

/-- Ranks of a communicator of a roster; communicator 0 is the whole roster (R341). -/
def Roster.has (r : Roster) (comm : Nat) (rank : Nat) : Bool := ((mget r.comms comm).bind (mget · rank)).isSome

/-- Whether a region permits an access. -/
def Region.permits (g : Region) : Acc → Bool
  | .rd => g.rd
  | .wr => g.wr
  | .at' => g.at'
  | .ex => false

/-- The checks of R331 in order: the region that admits an access, if one does. An access of no byte passes check 4
(R251). -/
def State.regionFor (s : State) (src : BitVec 18) (addr : BitVec 64) (len : Nat) (key : BitVec 32) (a : Acc)
    (counter : Option (BitVec 8)) : Option Region :=
  match mget s.regions (preryRegion addr) with
  | none => none
  | some g =>
    let member := match (s.iface g.vi).job with
      | none => true
      | some j => j.roster.has 0 src.toNat
    let granted := match counter with
      | none => true
      | some c => ((mget s.plots g.plot).map fun p => p.counters.getLsbD c.toNat).getD false
    if member && g.key == key && (len == 0 || preryOff addr + len ≤ g.extent) && g.permits a && granted then some g else none

/-- What the target's translation of an admitted access meets (R458): a physical address, a fault to be served, or a
refusal. -/
def State.regionTr (s : State) (g : Region) (addr : BitVec 64) (a : Acc) : DevTr × State :=
  s.devTrAt g.core g.vi g.asid (g.base + preryOff addr) a

end Sys2Proof.Machine
end

