-- ==== Sys2Proof/Machine/Memory.lean ====
section
/-! DEFINITION. Thread accesses to memory: buffer records (R204 to R208), lane addresses (R209 to R211), the checks and
the exact stop (R212, R213), the first-level cache (R293, R281), outstanding operations and when they may be performed
(R298 to R304), and what performing one does (R215, R222). -/

namespace Sys2Proof.Machine

/-! ## Buffer records (R204 to R208) -/

/-- ORD, SCOPE and REC of a buffer selector (R59), the scope as FENCE numbers it. -/
def selOrd (b : BufSel) : Bool := b.getLsbD 6
def selScope (b : BufSel) : Nat := 3 + (b.extractLsb' 4 2).toNat
def selRec (b : BufSel) : Nat := (b.extractLsb' 0 4).toNat

/-- A buffer record as the number of its 256 bits. -/
structure Rec where
  n : Nat
  deriving DecidableEq, Repr

def Rec.base (x : Rec) : Nat := fieldOf x.n 63 0
def Rec.extent (x : Rec) : Nat := fieldOf x.n 103 64
def Rec.stride0 (x : Rec) : Nat := fieldOf x.n 127 104
def Rec.stride1 (x : Rec) : Nat := fieldOf x.n 151 128
def Rec.format (x : Rec) : Nat := fieldOf x.n 155 152
def Rec.bounds (x : Rec) : Nat := fieldOf x.n 157 156
def Rec.kind (x : Rec) : Nat := fieldOf x.n 159 158
def Rec.key (x : Rec) : BitVec 32 := BitVec.ofNat 32 (fieldOf x.n 191 160)
def Rec.counter (x : Rec) : BitVec 8 := BitVec.ofNat 8 (fieldOf x.n 199 192)
def Rec.policy (x : Rec) : Nat := fieldOf x.n 207 200
def Rec.counted (x : Rec) : Bool := x.kind = 0 || x.kind = 1
def Rec.reserved (x : Rec) : Nat := fieldOf x.n 255 208

/-- Four scalars as the 256 bits they hold. -/
def concat4 (vs : List (BitVec 64)) : Nat := packNat 64 (fun i => (vs.getD i 0).toNat) 4

/-- The record whose first register is s(base), read under R44. -/
def Role.readRec (r : Role) (base : Nat) : Res Rec := do
  let vs ← r.frame.readSs r.tagTrap base 4
  .ok ⟨concat4 vs⟩

/-- Check 3 of R212: reserved bits and policy codes, the kind accepted, unchecked mode and privilege. Hyaluo uses
local-kind records only (R422). -/
def Rec.check (x : Rec) (r : Role) (accept : List Nat) (info : Nat) : Res Unit :=
  let p := BitVec.ofNat 8 x.policy
  if x.reserved ≠ 0 || !policyLegal p then .error { cause := causeBounds, info := info }
  else if !accept.contains x.kind || (r.plot.isNone && x.kind ≠ 0) then .error { cause := causePerm, info := info }
  else if x.bounds = 3 && !r.priv then .error { cause := causePerm, info := info }
  else .ok ()

/-! ## Lane addresses (R209 to R211) -/

/-- How an instruction names its addresses. -/
inductive Via where
  | record (x : Rec) (uniform : Bool)
  | priv
  | scratch
  | putp
  deriving DecidableEq, Repr

/-- One thread access, as every lane makes it. -/
structure Access where
  acc : Acc
  size : Nat
  via : Via
  /-- whether range locks exclude it (R213) -/
  locks : Bool := true
  /-- whether it may name the exchange area, which no atomic may (R222) -/
  xch : Bool := acc != .at'
  /-- REC, for the trap record (R390) -/
  info : Nat := 0
  deriving DecidableEq, Repr

/-- A part of a lane's access: byte offset in the lane's value, bytes, place. -/
structure Piece where
  off : Nat
  len : Nat
  place : Place
  deriving DecidableEq, Repr

/-- What the checks find in a lane: nothing to do, where it goes, or why it does not. -/
inductive LaneOut where
  | drop
  | go (ps : List Piece)
  | bad (t : Trap)
  | walk (va : Nat) (host : Bool)
  /-- the target's verdict is needed first -/
  | ask
  /-- a page at the device's own port that a fault record asks for (R458) -/
  | serve (vi asid va reason : Nat)
  deriving DecidableEq, Repr

/-- A lane's offset in its record: none when the lane is dropped (R209). -/
def Rec.offset (x : Rec) (uniform : Bool) (index size : Nat) : Except Nat (Option Nat) :=
  let step := if x.stride0 = 0 then size else x.stride0
  let off := index % 2 ^ 32 * step
  if x.bounds = 2 && x.extent = 0 then .error off
  else
    let off := if x.bounds = 2 then off % x.extent else off
    if x.bounds ≠ 3 && x.extent < off + size then
      (if x.bounds = 1 && !uniform then .ok none else .error off)
    else if x.kind = 1 && (x.base + off) % 2 ^ 64 / 2 ^ 40 ≠ x.base / 2 ^ 40 then .error off
    else .ok (some off)

/-- The place a scratchpad address names (R210): `xch` says whether it may lie in the exchange area. -/
def State.scratchAt (s : State) (r : Role) (xch : Bool) (a size : Nat) : Option Place :=
  let off := fieldOf a 18 0
  let t := s.team r.team
  if 2 ^ 32 ≤ a || fieldOf a 30 21 ≠ 0 || fieldOf a 20 19 ≠ 0 then none
  else if a.testBit 31 then
    if t.set.isSome && off + size ≤ 32768 && xch then some (.xch r.core (s.core r.core).xchCur off) else none
  else if off + size ≤ t.scratchSize then some (.scratch (t.scratchBase + off)) else none

/-- The place a PUTP names: the shadow half of a core of the cluster (R210, R219). -/
def State.putpAt (s : State) (r : Role) (a size : Nat) : Except Imm8 Place :=
  let target := r.core / 4 * 4 + fieldOf a 20 19
  if (s.team r.team).set.isNone then .error causePerm
  else if 2 ^ 32 ≤ a || fieldOf a 30 21 ≠ 0 || !a.testBit 31 || 32768 < fieldOf a 18 0 + size then .error causeBounds
  else .ok (.xch target (!(s.core target).xchCur) (fieldOf a 18 0))

/-- The number of a scratchpad byte as range locks hold it. -/
def scratchNo (half : Bool) (a : Nat) : Nat := 0x100000 + 0x8000 * half.toNat + a

/-- The number of a role's address space, as range-lock entries carry it (R213). -/
def State.asidOf (s : State) (r : Role) : Nat :=
  match s.space r with
  | some (vi, asid) => vi * 256 + asid
  | none => 65536

/-- The spaces of a role's range-lock entries: local addresses, and places in the core's scratchpad (R213). -/
def State.lockSpace (s : State) (r : Role) : LockSpace := .local (s.asidOf r)
def State.scratchSpace (s : State) (r : Role) : LockSpace := .scratch (s.asidOf r)

/-- Check 6 of R212: an entry of the core's range-lock table excludes the access (R213). -/
def Core.excludes (c : Core) (sp : LockSpace) (lo n : Nat) (acc : Acc) : Bool :=
  c.locks.any fun l => l.space == sp && decide (lo ≤ l.hi) && decide (l.lo < lo + n) && (l.isDst || acc != .rd)

/-- A local virtual address as check 7 places it (R212, R422). -/
def State.localPlace (s : State) (r : Role) (acc : Acc) (info va : Nat) : Except LaneOut Place :=
  match s.translate r va acc with
  | .pa a => .ok (if r.plot.isSome then .ram a else .hy a)
  | .miss => .error (.walk va false)
  | .fault c => .error (.bad { cause := c, addr := some va, info := info })

/-- The checks of one lane, in the order of R212. -/
def State.laneOut (s : State) (r : Role) (x : Access) (lane index : Nat) : LaneOut :=
  let bad (c : Imm8) (addr : Option Nat) : LaneOut := .bad { cause := c, lane := some lane, addr := addr, info := x.info }
  let locked (sp : LockSpace) (lo n : Nat) : Bool := x.locks && (s.core r.core).excludes sp lo n x.acc
  let named (o : LaneOut) : LaneOut := match o with
    | .bad t => .bad { t with lane := some lane }
    | o => o
  let localTo (va : Nat) : LaneOut :=
    if va % x.size ≠ 0 then bad causeAlign (some va)
    else if locked (s.lockSpace r) va x.size then bad causeRangelock none
    else match s.localPlace r x.acc x.info va with
      | .ok p => .go [⟨0, x.size, p⟩]
      | .error o => named o
  let scratchTo (p : Place) (a no : Nat) : LaneOut :=
    if a % x.size ≠ 0 then bad causeAlign (some a)
    else if locked (s.scratchSpace r) no x.size then bad causeRangelock none
    else .go [⟨0, x.size, p⟩]
  let scratchBy (a report : Nat) : LaneOut :=
    match s.scratchAt r x.xch a x.size with
    | some (.scratch p) => scratchTo (.scratch p) a p
    | some (.xch c h o) => scratchTo (.xch c h o) a (scratchNo h o)
    | _ => bad causeBounds (some report)
  match x.via with
  | .priv =>
    let n := min x.size 4
    let count := (x.size + 3) / 4
    if 2 ^ 24 ≤ index then bad causeBounds (some index)
    else if index % x.size ≠ 0 then bad causeAlign (some index)
    else
      let va (k : Nat) := r.privAddr (index / 4 + k) (lane / 32) (lane % 32) + index % 4
      if (List.range count).any fun k => locked (s.lockSpace r) (va k) n then bad causeRangelock none
      else
        match (List.range count).mapM fun k =>
          (s.localPlace r x.acc x.info (va k)).map fun p => (⟨4 * k, n, p⟩ : Piece) with
        | .ok ps => .go ps
        | .error o => named o
  | .scratch => scratchBy index index
  | .putp =>
    match s.putpAt r index x.size with
    | .error c => bad c (some index)
    | .ok (.xch c h o) =>
      if index % x.size ≠ 0 then bad causeAlign (some index)
      else if c = r.core && locked (s.scratchSpace r) (scratchNo h o) x.size then bad causeRangelock none
      else .go [⟨0, x.size, .xch c h o⟩]
    | .ok p => .go [⟨0, x.size, p⟩]
  | .record y uniform =>
    match y.offset uniform index x.size with
    | .error off => bad causeBounds (some off)
    | .ok none => .drop
    | .ok (some off) =>
      let a := (y.base + off) % 2 ^ 64
      match y.kind with
      | 0 => localTo a
      | 3 => scratchBy a off
      | 2 =>
        let atc : List Nat := match s.space r with
          | some (vi, _) => (s.iface vi).atc
          | none => []
        if a % x.size ≠ 0 then bad causeAlign (some a)
        else match r.walkFault with
          | some (true, page, c) => if page = a / 4096 then bad c (some a)
            else if atc.contains (a / 4096) then .go [⟨0, x.size, .host a⟩] else .walk a true
          | _ => if atc.contains (a / 4096) then .go [⟨0, x.size, .host a⟩] else .walk a true
      | _ =>
        let pa := BitVec.ofNat 64 a
        if a % x.size ≠ 0 then bad causeAlign (some a)
        else match s.route (preryRank pa), r.verdict with
          | .unreachable, _ => bad causeRkey none
          | _, none => .ask
          | .self, some v =>
            match s.regionFor s.rank pa x.size y.key x.acc none with
            | none => bad causeRkey none
            | some g =>
              match (s.regionTr g pa x.acc).1 with
              | .pa p => .go [⟨0, x.size, .ram p⟩]
              | .fail _ => bad causeRkey none
              | .serve reason =>
                if v = some lane then bad causeRkey none else .serve g.vi g.asid (g.base + preryOff pa) reason
          | _, some v => if v = some lane then bad causeRkey none else .go [⟨0, x.size, .remote a⟩]

/-- What the checks of every lane decide (R212). -/
inductive Checked where
  | ok (lanes : List (Nat × List Piece))
  | bad (t : Trap)
  | walk (va : Nat) (host : Bool)
  | ask
  | serve (vi asid va reason : Nat)
  deriving DecidableEq, Repr

/-- Lane by lane, lowest first: the first that fails decides, once the verdicts of the lanes before it are known. A
dropped lane goes on without a place. -/
def checkLanes (f : Nat → LaneOut) (size : Nat) : List Nat → Bool → Checked
  | [], pend => if pend then .ask else .ok []
  | l :: ls, pend =>
    let keep (ps : List Piece) : Checked := match checkLanes f size ls pend with
      | .ok rest => .ok ((l, ps) :: rest)
      | o => o
    match f l with
    | .drop => keep [⟨0, size, .dropped⟩]
    | .go ps => keep ps
    | .ask => checkLanes f size ls true
    | .bad t => if pend then .ask else .bad t
    | .walk va host => if pend then .ask else .walk va host
    | .serve vi asid va reason => if pend then .ask else .serve vi asid va reason

/-- The index an instruction's lane takes from its address register: rows by group. -/
def indexOf (rows : List Lanes) (l : Nat) : Nat := (lane (rows.getD (l / 32) 0) (l % 32)).toNat

/-- The pages at the device's own ports that the accesses of a global-kind record reach first (R377, R458). -/
def State.touchOwn (s : State) (x : Access) (lanes : List Nat) (idx : Nat → Nat) : State :=
  match x.via with
  | .record y u =>
    if y.kind = 1 && s.route (preryRank (BitVec.ofNat 64 y.base)) = .self then
      lanes.foldl (fun s l => match y.offset u (idx l) x.size with
        | .ok (some off) =>
          let pa := BitVec.ofNat 64 ((y.base + off) % 2 ^ 64)
          match s.regionFor s.rank pa x.size y.key x.acc none with
          | some g => (s.regionTr g pa x.acc).2
          | none => s
        | _ => s) s
    else s
  | _ => s

/-- An access whose checks decide whether it is issued: a fault stops the role, a walk or a verdict holds it, a set
stall hint parks it (R212, R339). -/
def withLanes (s : State) (x : Access) (lanes : List Nat) (idx : Nat → Nat)
    (issue : State → List (Nat × List Piece) → Out) : Out :=
  match checkLanes (fun l => s.laneOut s.me x l (idx l)) x.size lanes false with
  | .ok ps => issue (s.touchOwn x lanes idx) ps
  | .bad t => flow s (.error t)
  | .walk va host =>
    let s1 := if host then s.emit (.translationRequest ((s.space s.me).getD (0, 0)).1 va) else s
    .next (s1.hold s1.cur 0 (.tlb (BitVec.ofNat 64 va) host x.acc.code))
  | .ask =>
    match x.via with
    | .record y _ =>
      match s.stalled (preryRank (BitVec.ofNat 64 y.base)) with
      | some d => .next (s.park s.cur (.stall d))
      | none => .next (s.hold s.cur 0 .verdict)
    | _ => .next (s.hold s.cur 0 .verdict)
  | .serve vi asid va reason =>
    let s1 := s.faultFor vi asid va reason (x.acc.code % 4 + 8)
    .next ((s1.modMe fun r => { r with verdict := none }).hold s1.cur 0 .verdict)

/-! ## Scratchpad granules (R44, R45, R218) -/

/-- Bytes of a granule read under a generation: zero when it carries another. -/
def granBytes (m : Mem) (tags : AMap (BitVec 16)) (gen : BitVec 16) (a n : Nat) : Bytes :=
  if (mget tags (a / 128)).getD voidTag = gen then rdBytes m a n else List.replicate n 0

/-- Bytes written into a granule under a generation; `whole` says that the instruction covers the granule. -/
def granPut (m : Mem) (tags : AMap (BitVec 16)) (gen : BitVec 16) (a : Nat) (bs : Bytes) (whole : Bool) :
    Mem × AMap (BitVec 16) :=
  let tag := (mget tags (a / 128)).getD voidTag
  if tag = gen then (wrBytes m a bs, tags)
  else if tag = poisonTag && !whole then (wrBytes m a bs, tags)
  else (wrBytes (zeroRange m (a / 128 * 128) 128) a bs, mset tags (a / 128) gen)

/-- Scratchpad or exchange bytes of a core under a generation. -/
def Core.scrRead (c : Core) (gen : BitVec 16) (p : Place) (n : Nat) : Bytes :=
  match p with
  | .scratch a => granBytes c.scratch c.scratchTags gen a n
  | .xch _ false a => granBytes c.xch0 c.xchTags0 gen a n
  | .xch _ true a => granBytes c.xch1 c.xchTags1 gen a n
  | _ => []

def Core.scrWrite (c : Core) (gen : BitVec 16) (p : Place) (bs : Bytes) (whole : Bool) : Core :=
  match p with
  | .scratch a =>
    let (m, t) := granPut c.scratch c.scratchTags gen a bs whole
    { c with scratch := m, scratchTags := t }
  | .xch _ false a =>
    let (m, t) := granPut c.xch0 c.xchTags0 gen a bs whole
    { c with xch0 := m, xchTags0 := t }
  | .xch _ true a =>
    let (m, t) := granPut c.xch1 c.xchTags1 gen a bs whole
    { c with xch1 := m, xchTags1 := t }
  | _ => c

/-- The core a scratchpad place is in. -/
def placeCore (core : Nat) : Place → Nat
  | .xch c _ _ => c
  | _ => core

/-- The generation under which a role reaches a place (R210, R218). -/
def State.placeGen (s : State) (r : Role) (p : Place) : BitVec 16 :=
  let t := s.team r.team
  match p with
  | .xch _ _ _ => ((t.set.bind (mget s.sets)).map (·.gen)).getD t.gen
  | _ => t.gen

/-- The tag of the granule of a scratchpad place. -/
def Core.scrTag (c : Core) : Place → BitVec 16
  | .scratch a => (mget c.scratchTags (a / 128)).getD voidTag
  | .xch _ false a => (mget c.xchTags0 (a / 128)).getD voidTag
  | .xch _ true a => (mget c.xchTags1 (a / 128)).getD voidTag
  | _ => voidTag

/-- The granule of a scratchpad place, as a number. -/
def granuleNo : Place → Option Nat
  | .scratch a => some (a / 128)
  | .xch _ h a => some (scratchNo h a / 128)
  | _ => none

/-! ## The first-level cache (R281, R293) -/

/-- The plot slot of a core that holds a plot. -/
def Core.slotOf (c : Core) (plot : Option Nat) : Nat :=
  match plot with
  | none => 0
  | some p => ((c.plotSlots.find? fun x => x.2 == p).map (·.1)).getD 0

/-- Bytes of a line that is present, for an access inside it. -/
def Core.l1Bytes (c : Core) (a n : Nat) : Option Bytes :=
  (mget c.l1 (a / 128)).map fun l => (List.range n).map fun i => l.data.extractLsb' (8 * (a % 128 + i)) 8

/-- A miss that matches an entry of the victim tag array recorded for the same plot counts as lost locality (R281). -/
def Core.noteMiss (c : Core) (slot line : Nat) : Core :=
  if c.victims.contains (line, slot) then
    { c with victims := c.victims.erase (line, slot), lost := mset c.lost slot ((mget c.lost slot).getD 0 + 1) }
  else c

/-- L1 lines evicted to make room, and recorded as victims (R281). -/
def Core.evictL1 (c : Core) (keep : Nat → Bool) : Core :=
  let gone := (c.l1.filter fun p => !keep p.1).map fun p => (p.1, p.2.plotSlot)
  let vs := c.victims ++ gone
  { c with l1 := mfilter (fun k _ => keep k) c.l1, victims := vs.drop (vs.length - 512) }

/-- A line enters L1, which holds 1,024 (R293); when it is full, which others stay is free (R281, log entry 6). -/
def State.fillL1 (s : State) (core slot line : Nat) (data : BitVec 1024) : State :=
  let c := (s.core core).noteMiss slot line
  let c1 := if c.l1.length < 1024 then c else c.evictL1 (Config.keepLine s.free)
  (s.setCore core { c1 with l1 := mset c1.l1 line ⟨data, slot⟩ }).used

/-- Every L1 line of a core dropped: an acquire at cluster scope or wider (R227, R293). -/
def State.dropL1 (s : State) (core : Nat) : State := s.modCore core fun c => { c with l1 := [] }

/-- The scopes as FENCE numbers them (R112). -/
def scopeCl : Nat := 3
def scopeDv : Nat := 4

/-- An acquire at a scope by a core (R302). -/
def State.acquire (s : State) (core scope : Nat) : State := if scopeCl ≤ scope then s.dropL1 core else s

/-! ## Outstanding operations (R69 to R74, R298 to R304) -/

/-- Whether an operation is of kind flag A (R70). -/
def OpKind.isA : OpKind → Bool
  | .load _ _ => true
  | .atomic _ _ ret => ret
  | .cas _ => true
  | .lookup => true
  | .ctrrd _ => true
  | _ => false

/-- Whether an operation reads before its effect as an acquire does, and whether it writes (R302). -/
def OpKind.reads : OpKind → Bool
  | .load _ _ => true
  | .atomic _ _ _ => true
  | .cas _ => true
  | _ => false
def OpKind.writes : OpKind → Bool
  | .store _ => true
  | .atomic _ _ _ => true
  | .cas _ => true
  | .arrv _ => true
  | .tagset => true
  | .taginv => true
  | _ => false

/-- Whether an operation changes a completion counter or reads one: those of one role keep their order (R243). -/
def OpKind.counts : OpKind → Bool
  | .ctradd _ _ => true
  | .ctrset _ _ => true
  | .ctrrd _ => true
  | _ => false

/-- The completion flag an instruction of kind A or B adds to (R63, R69). -/
def Role.kindFlag (r : Role) (isA : Bool) : Option Nat :=
  let f := (if isA then hdrSetA r.hdrWord else hdrSetB r.hdrWord).toNat
  if f < 12 then some f else none

/-- A contribution to a flag is added, or retires (R69, R71). -/
def Role.addFlag (r : Role) : Option Nat → Role
  | some f => { r with flags := updAt (· + 1) r.flags f }
  | none => r
def Role.retireFlag (r : Role) : Option Nat → Role
  | some f => { r with flags := updAt (· - 1) r.flags f }
  | none => r

/-- The lanes of a list. -/
def lanesMask (ls : List Nat) : Mask := ls.foldl (fun m l => m ||| (1#1024 <<< l)) 0

/-- Registers that a new flag-A instruction is to write, later than those outstanding: they no longer land there (R72). -/
def State.claimAll (s : State) (dests : List Nat) (m : Mask) : State :=
  dests.foldl (fun s x => s.claim s.cur x m) s

/-- A new outstanding operation of the issuing role, which adds to its flag. -/
def State.addOp (s : State) (o : MemOp) : State :=
  let r := s.me
  let f := r.kindFlag o.kind.isA
  let s1 := s.claimAll o.dests (lanesMask (o.lanes.map (·.lane)))
  let s2 := match o.sdest with
    | some d => s1.claimS s.cur d 1
    | none => s1
  (({ s2 with ops := s2.ops ++ [{ o with
      id := s.next, role := s.cur, team := r.team, core := r.core, runNo := r.runNo, flag := f }] }).setMe
    (r.addFlag f)).numbered

/-- An operation of no destination and no lanes. -/
def MemOp.plain (k : OpKind) : MemOp where
  id := 0; role := 0; team := 0; core := 0; runNo := 0; flag := none; kind := k; dests := []; sdest := none; won := []
  lanes := []; ord := false; scope := 2; key := 0; l1 := false; alloc := false; rep := false; counted := false; level := .core

/-- The levels as numbers. -/
def WriteLevel.no : WriteLevel → Nat
  | .core => 0 | .egress => 1 | .home => 2

/-- How far a write to a place must get to be performed at a scope (R298). -/
def State.reqLevel (s : State) (scope : Nat) : Place → Nat
  | .ram _ => if scope ≤ 2 then 0 else if scope = 3 then 1 else 2
  | .hy _ => if scope ≤ 2 then 0 else if scope = 3 then 1 else 2
  | .scratch _ => 2
  | .xch _ _ _ => 2
  | .host _ => if scope ≤ 5 then 1 else 2
  | .remote a =>
    match s.route (preryRank (BitVec.ofNat 64 a)) with
    | .ual _ _ => if scope ≤ 4 then 1 else 2
    | _ => if scope ≤ 5 then 1 else 2
  | .dropped => 0

/-- Whether a write is performed at a scope (R298); one that names no place is while it is outstanding at none. -/
def State.performed (s : State) (o : MemOp) (scope : Nat) : Bool :=
  (match o.kind with
    | .tagset => false
    | .taginv => false
    | .ctradd _ _ => false
    | .ctrset _ _ => false
    | _ => true) && o.lanes.all fun l => decide (s.reqLevel scope l.place ≤ o.level.no)

/-- The atom of a place, when two accesses to it must stay in order (R300). -/
def placeAtom (core : Nat) : Place → Option (Nat × Nat)
  | .ram a => some (0, a / 32)
  | .host a => some (1, a / 32)
  | .remote a => some (2, a / 32)
  | .hy a => some (3, a / 32)
  | .scratch a => some (4 + core, a / 32)
  | .xch c h a => some (400 + c, scratchNo h a / 32)
  | .dropped => none

def isScratch : Place → Bool
  | .scratch _ => true
  | .xch _ _ _ => true
  | _ => false

/-- Whether two operations of a core touch one atom. -/
def MemOp.sameAtom (o p : MemOp) : Bool :=
  o.lanes.any fun l => (placeAtom o.core l.place).isSome
    && p.lanes.any fun q => placeAtom o.core l.place == placeAtom p.core q.place

/-- Whether an operation is one of the scratchpad order (R304). -/
def MemOp.inScratch (o : MemOp) : Bool :=
  match o.kind with
  | .lookup => true
  | .tagset => true
  | .taginv => true
  | .arrv _ => true
  | _ => o.lanes.any fun l => isScratch l.place

/-- Whether every earlier operation that a release at a scope waits for is done (R299, R302): writes of the core and of
the role, and loads and returning atomics of the role. -/
def State.released (s : State) (role core upto scope : Nat) : Bool :=
  s.ops.all fun p =>
    decide (upto ≤ p.id)
      || (!(p.kind.writes && (p.core == core || p.role == role) && !s.performed p scope)
        && !(p.role == role && p.kind.isA))

/-- Whether an operation names host memory. -/
def MemOp.inHost (o : MemOp) : Bool := o.lanes.any fun l => match l.place with
  | .host _ => true
  | _ => false

/-- Whether an earlier operation keeps a later one back: coherence of its core's or its role's accesses to one atom
(R300), the scratchpad order (R304), the order of counter operations (R243), an earlier acquire of the role, an earlier
release of it whose own earlier accesses are not yet performed (R302), and a posted host write that an ordered one may not
pass (R301). -/
def State.holdsBack (s : State) (p o : MemOp) : Bool :=
  ((p.core == o.core || p.role == o.role) && p.sameAtom o)
  || (p.role == o.role && ((p.inScratch && o.inScratch)
      || (p.kind.counts && o.kind.counts)
      || (p.ord && p.kind.reads)
      || (p.ord && p.kind.writes && o.kind.writes && !s.released p.role p.core p.id p.scope)))
  || (o.ord && o.level == .egress && p.core == o.core && p.kind.writes && p.inHost && o.inHost)

/-- Whether a write to one of its atoms stands in the egress queue of the operation's cluster, which delivers in order and
carries every later request of the cluster's cores (R298). -/
def State.behindEgress (s : State) (core : Nat) (o : MemOp) : Bool :=
  s.ops.any fun p => p.id != o.id && p.level == .egress && p.core / 4 == core / 4
    && p.lanes.any fun q => match q.place with
      | .ram a => o.lanes.any fun l => placeAtom 0 l.place == some (0, a / 32)
      | _ => false

/-- Whether a line of device memory has a write in the egress queue of a core's cluster, which an engine's access to it
follows (R298, R306). -/
def State.egressLine (s : State) (core line : Nat) : Bool :=
  s.ops.any fun p => p.level == .egress && p.core / 4 == core / 4 && p.lanes.any fun q => match q.place with
    | .ram a => a / 128 == line
    | _ => false

/-- Whether the ordered engine commands that its role issued before a write have what they order first (R302). -/
def State.cmdsReleased (s : State) (o : MemOp) : Bool :=
  let c := s.core o.core
  (c.cmds ++ c.triggers.map (·.cmd)).all fun d =>
    d.role != o.role || match d.after with
      | some n => decide (o.id < n) || s.released o.role o.core n (selScope d.bsel)
      | none => true

/-- Whether an outstanding operation may be performed now, or go one level further: no earlier one keeps it back, no
write of its cluster to its atoms is on its way, and what its own release orders is done (R298 to R304). -/
def State.mayPerform (s : State) (o : MemOp) : Bool :=
  (s.ops.all fun p => decide (o.id ≤ p.id) || !s.holdsBack p o)
  && (o.level != .core || !s.behindEgress o.core o)
  && (!o.kind.writes || s.cmdsReleased o)
  && (!(o.ord && o.kind.writes) || s.released o.role o.core o.id o.scope)

/-- A release at system scope by a role whose core has host-kind writes on their way: the port asks for their flush
(R301). -/
def State.flushHost (s : State) (r : Role) (scope : Nat) : State :=
  if 6 ≤ scope && s.ops.any fun o => o.core == r.core && o.kind.writes && o.inHost then
    match s.space r with
    | some (vi, _) => s.emit (.flushRead vi)
    | none => s
  else s

/-- Whether a flag-A operation of a role is outstanding, or a RATOM, whose destination is pending like one's (R65, R74,
R252). -/
def State.flagAOut (s : State) (k : Nat) : Bool :=
  s.ops.any (fun o => o.role == k && o.kind.isA)
    || (s.core (s.role k).core).cmds.any fun c => c.role == k && c.dests != []

/-- An operation leaves the list. -/
def State.dropOp (s : State) (id : Nat) : State := { s with ops := s.ops.filter fun p => p.id != id }

/-! ## Values (R215, R222) -/

/-- A value of n bytes as it enters registers of 32 bits: extended when it is narrower (R215). -/
def loadRegs (sgn : Bool) (size x : Nat) : List (BitVec 32) :=
  if size < 4 then [BitVec.ofNat 32 (if sgn then wrap 32 (sext x (8 * size)) else x)]
  else (List.range (size / 4)).map fun k => BitVec.ofNat 32 (x / 2 ^ (32 * k))

/-- What an atomic writes over an old value of w bits (R222). -/
def atomNew (op w old c : Nat) : Nat :=
  match op with
  | 0 => (old + c) % 2 ^ w
  | 1 => if sext old w ≤ sext c w then old else c
  | 2 => min old c
  | 3 => if sext old w ≤ sext c w then c else old
  | 4 => max old c
  | 5 => old &&& c
  | 6 => old ||| c
  | 7 => old ^^^ c
  | 8 => c
  | 9 => (Fmt.f32.add 0 (Fmt.f32.decode old) (Fmt.f32.decode c)).1
  | 10 => if c ≤ old then 0 else old + 1
  | _ => if old = 0 || c < old then c else old - 1

/-! ## Reading and writing a place at its point of coherence -/

/-- The bytes a lane's piece reads: `ext` gives what another rank's memory holds, and the host's where the host has
written it. -/
def State.readPlace (s : State) (core : Nat) (gen : BitVec 16) (p : Place) (n : Nat) (ext : Bytes) : Bytes :=
  match p with
  | .ram a => s.ramRead a n
  | .hy a => if a / 4 = entropyWord / 4 then leBytes n (Config.entropy s.free).toNat else s.hyBytes a n
  | .scratch a => (s.core core).scrRead gen (.scratch a) n
  | .xch c h a => (s.core c).scrRead gen (.xch c h a) n
  | .host a => if ext = [] then rdBytes s.hostMem a n else (ext ++ List.replicate n 0).take n
  | .remote _ => (ext ++ List.replicate n 0).take n
  | .dropped => List.replicate n 0

/-- Whether a read's bytes come from outside the package. -/
def isExt : Place → Bool
  | .host _ => true
  | .remote _ => true
  | _ => false

/-- Bytes written to a place. A store's bytes also go into the line of the issuing core's L1 (R293); a store to another
rank has left as a packet. -/
def State.writePlace (s : State) (o : MemOp) (gen : BitVec 16) (p : Place) (bs : Bytes) : State :=
  match p with
  | .ram a => (s.ramWrite a bs).modCore o.core (·.patchL1 a bs)
  | .hy a => s.hyWrite a bs
  | .scratch a => (s.modCore o.core fun c => c.scrWrite gen (.scratch a) bs (whole (.scratch a))).touch (4 + o.core) a bs.length
  | .xch c h a =>
    (s.modCore c fun co => co.scrWrite gen (.xch c h a) bs (whole (.xch c h a))).touch (400 + c) (scratchNo h a) bs.length
  | .host a => s.hostWrite a bs
  | .remote _ => s
  | .dropped => s
where
  -- whether the operation's pieces cover the place's granule
  whole (p : Place) : Bool :=
    match granuleNo p with
    | none => false
    | some g => decide (128 ≤ (o.lanes.filter fun l => granuleNo l.place == some g).foldl (fun n l => n + l.len) 0)

/-- The new value of a lane of an atomic or CAS of w bits. -/
def MemOp.newValue (o : MemOp) (l : OpLane) (old : Nat) : Nat :=
  match o.kind with
  | .atomic op size _ => atomNew op.toNat (8 * size) old (l.value.toNat % 2 ^ (8 * size))
  | .cas size => if old = l.value.toNat % 2 ^ (8 * size) then l.value2.toNat % 2 ^ (8 * size) else old
  | _ => old

/-- The lanes of an atomic, one after the other: each lane's old value, and the state after them (R222). -/
def State.runAtomic (s : State) (o : MemOp) : List OpLane → Bytes → List (Nat × Nat) × State
  | [], _ => ([], s)
  | l :: ls, ext =>
    let old := leNat (s.readPlace o.core l.gen l.place l.len ext)
    let s1 := match l.place with
      | .ram a => (s.ramWrite a (leBytes l.len (o.newValue l old))).modCore o.core fun c =>
          { c with l1 := mdel c.l1 (a / 128) }
      | p => s.writePlace o l.gen p (leBytes l.len (o.newValue l old))
    let (rest, s2) := s1.runAtomic o ls (if isExt l.place then ext.drop l.len else ext)
    ((l.lane, old) :: rest, s2)

/-- A line as its home slice holds it. -/
def State.homeLine (s : State) (line : Nat) : BitVec 1024 := BitVec.ofNat 1024 (s.ramLE (128 * line) 128)

/-- The compute die of a core (R2, R14). -/
def dieOf (core : Nat) : Nat := core / 48

/-- The replica on the requester's die that serves a line of a REP load; none when the home slice does (R294, log entry
11). -/
def State.replicaFor (s : State) (o : MemOp) (line : Nat) : Option (BitVec 1024) :=
  if o.rep then
    ((s.replicas.filter fun x =>
      some x.plot == (s.role o.role).plot && x.die == dieOf o.core && x.line == line)[Config.replica s.free line]?).map
      (·.data)
  else none

/-- Bytes of a line. -/
def lineBytes (d : BitVec 1024) (a n : Nat) : Bytes :=
  (List.range n).map fun i => d.extractLsb' (8 * (a % 128 + i)) 8

/-- What L2 gives a load (R294). -/
def State.l2Read (s : State) (o : MemOp) (a n : Nat) : Bytes :=
  match s.replicaFor o (a / 128) with
  | some d => lineBytes d a n
  | none => s.ramRead a n

/-- The replicas that a REP load makes: of its lines that neither L1 nor a replica served (R294). -/
def State.newReplicas (s : State) (o : MemOp) : List Replica :=
  match o.rep, (s.role o.role).plot with
  | true, some p =>
    (o.lanes.filterMap fun l => match l.place with
      | .ram a =>
        if (o.l1 && (mget (s.core o.core).l1 (a / 128)).isSome) || (s.replicaFor o (a / 128)).isSome then none
        else some ⟨p, dieOf o.core, a / 128, s.homeLine (a / 128)⟩
      | _ => none).eraseDups
  | _, _ => []

/-- A byte from outside the package, by number. -/
def extKey (p : Place) (i : Nat) : Option Nat :=
  match p with
  | .host a => some (2 * (a + i))
  | .remote a => some (2 * (a + i) + 1)
  | _ => none

/-- Bytes from outside the package as one lane reads them: one that an earlier lane of the load has read is the same
(R215). -/
def seenBytes (seen : AMap Byte) (p : Place) (bs : Bytes) : Bytes :=
  bs.zipIdx.map fun x => ((extKey p x.2).bind (mget seen)).getD x.1
def noteBytes (seen : AMap Byte) (p : Place) (bs : Bytes) : AMap Byte :=
  bs.zipIdx.foldl (fun m x => match extKey p x.2 with
    | some k => mset m k x.1
    | none => m) seen

/-- What the lanes of a load read, as L1 stands when it is performed (R215, R293, R305): (lane, part) values in order.
`seen` holds the bytes from outside that the lanes before have read. -/
def State.readLanes (s : State) (o : MemOp) (seen : AMap Byte) : List OpLane → Bytes → List (Nat × Nat)
  | [], _ => []
  | l :: ls, ext =>
    let bs := match l.place with
      | .ram a => if o.l1 then ((s.core o.core).l1Bytes a l.len).getD (s.l2Read o a l.len) else s.l2Read o a l.len
      | p => seenBytes seen p (s.readPlace o.core l.gen p l.len ext)
    (l.lane, leNat bs * 2 ^ (8 * l.off))
      :: s.readLanes o (noteBytes seen l.place bs) ls (if isExt l.place then ext.drop l.len else ext)

/-- Lines of the L2 slices of one compute die (R2). -/
def l2Lines : Nat := 524288

/-- Replicas within the capacity of a die's slices: beyond it, which of the older ones stay is free (R2, log entry 6). -/
def fitReplicas (keep : Nat → Bool) (die : Nat) (xs : List Replica) : List Replica :=
  let n := (xs.filter fun x => x.die == die).length
  if n ≤ l2Lines then xs
  else
    let kept := xs.filter fun x => x.die != die || keep x.line
    let m := (kept.filter fun x => x.die == die).length
    if m ≤ l2Lines then kept else kept.filter fun x => x.die != die

/-- The replicas a load leaves behind; the choice that was made for it is used up (R294). -/
def State.replicate (s : State) (o : MemOp) (new : List Replica) : State :=
  if o.rep then
    ({ s with replicas := fitReplicas (Config.keepLine s.free) (dieOf o.core) (s.replicas ++ new) } : State).used
  else s

/-- The line of a place leaves a core's L1, so that no later load reads a value older than one read past it (R300). -/
def State.dropLine (s : State) (core : Nat) : Place → State
  | .ram a => s.modCore core fun c => { c with l1 := mdel c.l1 (a / 128) }
  | _ => s

/-- The lines a load brings into L1, as their home slices hold them (R293); one that bypasses L1 leaves no older copy of
what it has read there (R300). -/
def State.fillFor (s : State) (o : MemOp) : State :=
  if o.l1 then
    let slot := (s.core o.core).slotOf (s.role o.role).plot
    (o.lanes.foldl (fun (acc : List Nat × State) l =>
      match l.place with
      | .ram a =>
        let line := a / 128
        if acc.1.contains line || (mget (acc.2.core o.core).l1 line).isSome then acc
        else
          let s' := if o.alloc then acc.2.fillL1 o.core slot line (s.homeLine line)
            else acc.2.modCore o.core (·.noteMiss slot line)
          (line :: acc.1, s')
      | _ => acc) ([], s)).2
  else o.lanes.foldl (fun s l => s.dropLine o.core l.place) s

/-- Lane values gathered over their parts: by lane. -/
def gather : List (Nat × Nat) → AMap Nat
  | [] => []
  | (l, v) :: rest => mset (gather rest) l (v + (mget (gather rest) l).getD 0)

/-- Results written to the destination registers of an operation, in the lanes no later instruction has written (R72),
group by group (R45). -/
def State.landResults (s : State) (o : MemOp) (vals : AMap Nat) (regs : Nat → List (BitVec 32)) : State :=
  let m := vals.foldl (fun (m : Mask) p => m ||| (1#1024 <<< p.1)) 0
  (List.range o.dests.length).foldl (fun s k =>
    s.modRole o.role fun r =>
      let x := o.dests.getD k 0
      let rows := (List.range r.groups).map fun g => lanesOf fun l =>
        match mget vals (32 * g + l) with
        | some v => (regs v).getD k 0
        | none => 0
      r.writeReg x (m &&& ~~~((mget o.won x).getD 0)) rows) s

/-- Whether an operation names another rank's memory. -/
def MemOp.leaves (o : MemOp) : Bool := o.lanes.any fun l => match l.place with
  | .remote _ => true
  | _ => false

/-- The requests of an operation to other ranks have all been answered. -/
def State.dropPkts (s : State) (o : MemOp) : State :=
  if o.leaves then { s with outPkts := s.outPkts.filter fun p => p.cmd != o.id } else s

/-- The contribution of an operation retires, and it leaves the list (R71). -/
def State.retire (s : State) (o : MemOp) : State :=
  ((s.modRole o.role (·.retireFlag o.flag)).dropPkts o).dropOp o.id

end Sys2Proof.Machine
end

