-- ==== Sys2Proof/Machine/Target.lean ====
section
/-! DEFINITION. Completion counters and the triggers armed on them (R242, R243, R248, R340), fence intervals at the
source (R253, R337), the requests of thread accesses to other ranks (R334), and what a packet does at its target (R331,
R458, R251, R252). -/

namespace Sys2Proof.Machine

/-! ## Completion counters and triggers -/

def Core.counter (c : Core) (i : Nat) : BitVec 48 := (mget c.counters i).getD 0

/-- Whether a command belongs to a context that is being stopped: its armed entries are frozen (R401). -/
def Headland.names (h : Headland) (c : Cmd) : Bool := h.roles.contains c.role || (h.whole && c.plot == some h.plot)
def Core.frozen (c : Core) (d : Cmd) : Bool := c.headland.any (·.names d)

/-- Armed entries that a change of counter i makes ready fire in arm order: their command enters the queue; TRIGX
subtracts its threshold in the same step (R248). -/
def Core.fire (c : Core) (i : Nat) : Core :=
  c.triggers.foldl (fun c t =>
    if c.frozen t.cmd = false ∧ t.counter.toNat = i ∧ t.threshold.toNat ≤ (c.counter i).toNat then
      { c with
        triggers := c.triggers.filter fun u => u.cmd.id != t.cmd.id
        cmds := c.cmds ++ [t.cmd]
        counters := if t.sub then mset c.counters i (c.counter i - t.threshold) else c.counters }
    else c) c

/-- Armed entries are tested in arm order (R248, R404). -/
def Core.testArmed (c : Core) (ts : List Trigger) : Core := ts.foldl (fun c t => c.fire t.counter.toNat) c

/-- A counter takes a value, and the triggers on it are tested. -/
def Core.changeCounter (c : Core) (i : Nat) (v : BitVec 48) : Core :=
  ({ c with counters := mset c.counters i v }).fire i

/-- A wait that a counter's new value ends: it stays met, whatever the counter does next (R283). -/
def WaitOn.reached (i : Nat) (v : BitVec 48) : WaitOn → WaitOn
  | .counter j t => if j.toNat = i && t.toNat ≤ v.toNat then .counter j 0 else .counter j t
  | w => w
def Status.reached (i : Nat) (v : BitVec 48) : Status → Status
  | .parked w => .parked (w.reached i v)
  | .saved (some w) => .saved (some (w.reached i v))
  | st => st

/-- Whether a plot holds a plot slot of a core. -/
def Core.hosts (c : Core) (plot : Nat) : Bool := c.plotSlots.any fun x => x.2 == plot

/-- The waits of a core's roles that a counter's new value ends: `plot` says which plots the counter is granted to there. -/
def State.noteCounter (s : State) (core i : Nat) (v : BitVec 48) (plot : Nat → Bool) : State :=
  { s with roles := mmap (fun _ (r : Role) =>
      if r.core = core && r.plot.any plot then { r with status := r.status.reached i v } else r) s.roles }

/-- A counter of a core takes a value: roles parked on it are ready once it is there, and then triggers are tested (R248,
R283). -/
def State.setCounter (s : State) (core i : Nat) (v : BitVec 48) : State :=
  (s.noteCounter core i v (s.core core).hosts).modCore core (·.changeCounter i v)

/-- The saved context of a plot on a core. -/
def State.savedCtx (s : State) (core plot : Nat) : Option (Nat × SavedCtx) :=
  s.saved.find? fun x => x.2.whole && x.2.plot == plot && x.2.core == core

/-- The counter of a switched-out context as its block holds it, and its place there (R399). -/
def counterAt (b i : Nat) : Nat := b + 0x800 + 8 * i
def State.savedCounter (s : State) (b i : Nat) : BitVec 48 := BitVec.ofNat 48 (s.ramLE (counterAt b i) 8)

/-- A counter of a plot on a core rises by one: of a switched-out context in its context block (R242, R405). -/
def State.bump (s : State) (core plot i : Nat) : State :=
  if (s.core core).hosts plot then s.setCounter core i ((s.core core).counter i + 1)
  else
    match (s.savedCtx core plot).bind (·.2.block) with
    | some b =>
      let v := s.savedCounter b i + 1
      (s.noteCounter core i v (· == plot)).ramWrite (counterAt b i) (leBytes 8 v.toNat)
    | none => s

/-- Whether a counter index is granted to a role's plot (R242). -/
def State.granted (s : State) (r : Role) (i : Nat) : Bool :=
  ((r.plot.bind (mget s.plots)).map fun p => p.counters.getLsbD i).getD false

/-! ## Fence intervals at the source (R253, R337) -/

/-- The bounding range of n bytes from lo on and of other ranges. -/
def boundingRange (rs : List (Nat × Nat)) (lo n : Nat) : Nat × Nat :=
  let a := rs.foldl (fun m r => min m r.1) lo
  (a, rs.foldl (fun m r => max m (r.1 + r.2)) (lo + n) - a)

/-- A destination range added to at most eight: merged with those it touches; a ninth makes the bounding range of all. -/
def addRange (rs : List (Nat × Nat)) (lo n : Nat) : List (Nat × Nat) :=
  if n = 0 then rs
  else
    let (near, far) := rs.partition fun r => r.1 ≤ lo + n && lo ≤ r.1 + r.2
    if far.length < 8 then far ++ [boundingRange near lo n] else [boundingRange rs lo n]

/-- The job of a role's interface, 0 when none is bound. -/
def State.jobOf (s : State) (plot : Option Nat) : BitVec 32 :=
  match plot.bind (mget s.plots) with
  | some p => ((s.iface p.vi).job.map (·.id)).getD 0
  | none => 0

/-- A role's interval toward a rank. -/
def Role.interval (r : Role) (rank : Nat) : FenceInt := (mget r.fences rank).getD ⟨0, 0, []⟩

/-- A counted write packet of a role leaves for a rank: the identity it carries. A role that has exited has no open
interval. -/
def State.countPacket (s : State) (k : Nat) (addr : BitVec 64) (n : Nat) : Option FenceId × State :=
  match mget s.roles k with
  | none => (none, s)
  | some r =>
    let rank := (preryRank addr).toNat
    let f := r.interval rank
    let f' : FenceInt := { f with count := f.count + 1, ranges := addRange f.ranges addr.toNat n }
    (some ⟨s.rank, s.jobOf r.plot, k, f.num⟩, s.setRole k { r with fences := mset r.fences rank f' })

/-! ## Entropy paths and windows (R335) -/

/-- Packets to a pod on an entropy path that are not acknowledged. -/
def State.window (s : State) (pod : BitVec 9) (path : Nat) : Nat :=
  (s.outPkts.filter fun o => o.path == some path && podOf (preryRank o.packet.addr) == pod && o.got.isNone).length

/-- The enabled entropy paths toward a rank over Ultra Ethernet. -/
def State.pathsTo (s : State) (r : BitVec 18) : List Nat :=
  match s.route r with
  | .uet _ p => (List.range 16).filter (s.pathSet p).testBit
  | _ => []

/-- The first enabled path at or after a number, in turn, whose window has room for a packet to a rank. -/
def State.pathFrom (s : State) (r : BitVec 18) (n : Nat) : Option Nat :=
  let ps := s.pathsTo r
  ((List.range 16).map fun i => (n + i) % 16).find? fun j => ps.contains j && decide (s.window (podOf r) j < 64)

/-- Whether n more packets to a rank find room in the windows. -/
def State.roomTo (s : State) (r : BitVec 18) (n : Nat) : Bool :=
  match s.route r with
  | .uet _ _ => decide (n ≤ ((s.pathsTo r).map fun j => 64 - s.window (podOf r) j).sum)
  | _ => true

/-- A packet that waits for its answer, changed. -/
def State.modOut (s : State) (seq : Nat) (f : OutPkt → OutPkt) : State :=
  { s with outPkts := s.outPkts.map fun o => if o.packet.seq = seq then f o else o }

/-- A packet leaves: over Ultra Ethernet on one of the enabled paths (R335, log entry 131). -/
def State.sendPkt (s : State) (p : Packet) : State :=
  match s.route (preryRank p.addr) with
  | .uet _ _ =>
    let path := s.pathFrom (preryRank p.addr) (Config.spray s.free)
    (s.modOut p.seq fun o => { o with path := path }).used.emit (.packet p path)
  | _ => s.emit (.packet p none)

/-! ## Requests of thread accesses (R253, R333, R334) -/

/-- The bytes and byte enables of a request over lanes of one block. -/
def requestBytes (ls : List (Nat × Bytes)) (lo hi : Nat) : Bytes × List Bool :=
  let byte (a : Nat) : Option Byte := ls.foldl (fun acc l =>
    if l.1 ≤ a && a < l.1 + l.2.length then some (l.2.getD (a - l.1) 0) else acc) none
  let bs := (List.range (hi - lo)).map fun i => byte (lo + i)
  (bs.map (·.getD 0), bs.map (·.isSome))

/-- The lanes of an operation that go to other ranks. -/
def MemOp.remote (o : MemOp) : List (Nat × OpLane) :=
  o.lanes.filterMap fun l => match l.place with
    | .remote a => some (a, l)
    | _ => none

/-- Whether a lane's request is merged over UALink with those of its aligned 256-byte block (R334). -/
def State.merges (s : State) (a : Nat) : Bool :=
  match s.route (preryRank (BitVec.ofNat 64 a)) with
  | .ual _ _ => true
  | _ => false

/-- The lanes of an operation to other ranks, request by request: one lane each, or those of a block over UALink. -/
def State.requests (s : State) (o : MemOp) : List (List (Nat × OpLane)) :=
  (o.remote.foldl (fun (acc : List Nat × List (List (Nat × OpLane))) x =>
    if s.merges x.1 then
      if acc.1.contains (x.1 / 256) then acc
      else (x.1 / 256 :: acc.1, acc.2 ++ [o.remote.filter fun y => y.1 / 256 == x.1 / 256])
    else (acc.1, acc.2 ++ [[x]])) ([], [])).2

/-- First address of a request's lanes, and the end of its last. -/
def requestSpan (ls : List (Nat × OpLane)) : Nat × Nat :=
  (ls.foldl (fun m x => min m x.1) (ls.headD (0, ⟨0, 0, 0, .dropped, 0, 0, 0⟩)).1,
    ls.foldl (fun m x => max m (x.1 + x.2.len)) 0)

/-- What a request over lanes carries. -/
def MemOp.request (o : MemOp) (ls : List (Nat × OpLane)) : PacketOp :=
  let (lo, hi) := requestSpan ls
  match o.kind with
  | .store _ =>
    let (bs, en) := requestBytes (ls.map fun x => (x.1, leBytes x.2.len (x.2.value.toNat / 2 ^ (8 * x.2.off)))) lo hi
    .write bs en
  | .atomic op size _ => .atomic op (size == 8) (ls.map fun x => (x.1 - lo, x.2.value.setWidth 64))
  | .cas size => .cas size (ls.map fun x => (x.1 - lo, x.2.value, x.2.value2))
  | _ => .read (hi - lo)

/-- Request k of an operation leaves; one that writes counts in its role's interval (R253). -/
def State.sendRequest (s : State) (o : MemOp) (k : Nat) (ls : List (Nat × OpLane)) : State :=
  let (lo, hi) := requestSpan ls
  let a := BitVec.ofNat 64 lo
  let (id, s1) := if o.kind.writes then s.countPacket o.role a (hi - lo) else (none, s)
  let p : Packet :=
    { src := s.rank, seq := s1.next, addr := a, key := o.key, op := o.request ls, counter := 0, counts := false, interval := id }
  let s2 := s1.numbered
  -- over UALink the link layer replays it
  (if s.merges lo then s2 else { s2 with outPkts := s2.outPkts ++ [⟨o.id, o.core, k, 0, p, 1, none, false, none⟩] }).sendPkt p

/-- Whether request k of an operation has left. -/
def State.requestSent (s : State) (o : MemOp) (k : Nat) : Bool := s.outPkts.any fun p => p.cmd == o.id && p.idx == k

/-- Request k of an operation leaves if it has not and its window has room (R335). -/
def State.tryRequest (o : MemOp) (s : State) (x : List (Nat × OpLane) × Nat) : State :=
  if s.requestSent o x.2 || !s.roomTo (preryRank (BitVec.ofNat 64 (requestSpan x.1).1)) 1 then s
  else s.sendRequest o x.2 x.1

/-- The requests of an operation to other ranks leave as their windows have room, those over UALink after the others; and
whether all have left (R298, R334, R335). -/
def State.sendOp (s : State) (o : MemOp) : Bool × State :=
  let (ual, uet) := (s.requests o).zipIdx.partition fun x => s.merges (requestSpan x.1).1
  let s1 := uet.foldl (State.tryRequest o) s
  if uet.all fun x => s1.requestSent o x.2 then (true, ual.foldl (fun s x => s.sendRequest o x.2 x.1) s1)
  else (false, s1)

/-! ## A packet at its target (R331, R458) -/

/-- What the target's translation of a span finds: the parts as physical addresses, something to wait for, or a
refusal. -/
inductive SpanTr where
  | ok (parts : List (Nat × Nat))
  | wait
  | fail
  deriving DecidableEq, Repr

/-- The translation of a span of a region, line by line; a fault that can be served writes its record (R458). -/
def State.regionSpan (s : State) (g : Region) (a : Acc) : List (Nat × Nat) → SpanTr × State
  | [] => (.ok [], s)
  | (va, n) :: rest =>
    if s.migrating g.vi g.asid (va / 65536) then (.wait, s)
    else
      match s.devTrAt g.core g.vi g.asid va a with
      | (.pa p, s1) =>
        match s1.regionSpan g a rest with
        | (.ok ps, s2) => (.ok ((p, n) :: ps), s2)
        | o => o
      | (.serve reason, s1) => (.wait, s1.faultFor g.vi g.asid va reason (8 + a.code))
      | (.fail _, s1) => (.fail, s1)

/-- The atom of a packet that holds its byte i, counted from the atom of its first byte (R251). -/
def packetAtom (addr i : Nat) : Nat := (addr % 32 + i) / 32

/-- The byte enables that are left of a packet's: of one atom, or of all that have not been written yet (R307). -/
def leftOf (addr : Nat) (landed : List Nat) (atom : Option Nat) (en : List Bool) : List Bool :=
  en.zipIdx.map fun x =>
    let n := packetAtom addr x.2
    x.1 && !landed.contains n && atom.all (· == n)

/-- Bytes written under byte enables: every run of enabled bytes is one write of the controller (R292). -/
def State.ramPut (s : State) (a : Nat) : Bytes → List Bool → State
  | bs, en => go s a [] bs en
where
  go (s : State) (at' : Nat) (run : Bytes) : Bytes → List Bool → State
    | b :: bs, true :: en => go s (at' + 1) (run ++ [b]) bs en
    | _ :: bs, _ :: en => go (flush s at' run) (at' + 1) [] bs en
    | _, _ => flush s at' run
  flush (s : State) (at' : Nat) (run : Bytes) : State :=
    if run = [] then s else s.ramWrite (at' - run.length) run

/-- Parts of a span written in order. -/
def State.putParts (s : State) : List (Nat × Nat) → Bytes → List Bool → State
  | [], _, _ => s
  | (p, n) :: ps, bs, en => (s.ramPut p (bs.take n) (en.take n)).putParts ps (bs.drop n) (en.drop n)

/-- What the packet's arrival answers. -/
inductive Placed where
  | placed (data : Bytes)
  | refused
  /-- it waits for fault service, or for its other atoms, or is to be sent again for want of an interval entry -/
  | wait (w : WaitPkt)
  | partly (w : WaitPkt)
  | later
  deriving DecidableEq, Repr

/-- First and last enabled byte of a write, as the span the target checks: its end (R251). -/
def enabledEnd (en : List Bool) : Nat :=
  ((List.range en.length).filter fun i => en.getD i false).foldl (fun m i => max m (i + 1)) 0
def enabledStart (en : List Bool) : Nat := ((List.range en.length).find? fun i => en.getD i false).getD 0

/-- Start and end of the bytes a packet touches, from its first byte, and its kind of access. -/
def packetSpan : PacketOp → Nat × Nat × Acc
  | .write _ en => (enabledStart en, enabledEnd en, .wr)
  | .read n => (0, n, .rd)
  | .atomic _ wide ls => (0, ls.foldl (fun m x => max m (x.1 + if wide then 8 else 4)) 0, .at')
  | .cas n ls => (0, ls.foldl (fun m x => max m (x.1 + n)) 0, .at')

/-- The physical address of a byte of a packet's span. -/
def partAddr : List (Nat × Nat) → Nat → Nat
  | [], i => i
  | (p, n) :: ps, i => if i < n then p + i else partAddr ps (i - n)

/-- The lanes of an atomic request, in order: each new value is made of the old one (R222, R223). -/
def State.atomLanes (s : State) (parts : List (Nat × Nat)) (n : Nat) (f : Nat → Nat → Nat) : List (Nat × Nat) → Bytes × State
  | [] => ([], s)
  | (off, v) :: rest =>
    let a := partAddr parts off
    let old := s.ramLE a n
    let (bs, s1) := (s.ramWrite a (leBytes n (f old v))).atomLanes parts n f rest
    (leBytes n old ++ bs, s1)

/-- The effect of an admitted packet at its translated bytes: the data of its answer. A CAS lane carries its two values as
one number. -/
def State.effect (s : State) (op : PacketOp) (parts : List (Nat × Nat)) (lo hi : Nat) : Bytes × State :=
  match op with
  | .write bs en => ([], s.putParts parts ((bs.drop lo).take (hi - lo)) ((en.drop lo).take (hi - lo)))
  | .read _ => (parts.flatMap fun p => s.ramRead p.1 p.2, s)
  | .atomic o wide ls =>
    let n := if wide then 8 else 4
    s.atomLanes parts n (fun old v => atomNew o.toNat (8 * n) old (v % 2 ^ (8 * n))) (ls.map fun x => (x.1, x.2.toNat))
  | .cas n ls =>
    s.atomLanes parts n (fun old v => if old = v % 2 ^ 128 % 2 ^ (8 * n) then v / 2 ^ 128 % 2 ^ (8 * n) else old)
      (ls.map fun x => (x.1, x.2.1.toNat + x.2.2.toNat * 2 ^ 128))

/-- Whether an interval's verdict has been given, and whether an entry can be had for it (R337). -/
def State.fenceClosed (s : State) (id : FenceId) : Bool := s.fenceTab.any fun e => e.id == id && e.closed
def State.fenceRoom (s : State) (id : FenceId) : Bool :=
  s.fenceTab.any (fun e => e.id == id && !e.closed) || decide ((s.fenceTab.filter fun e => !e.closed).length < 4096)

/-- An admitted packet's interval has an entry from its first packet on; the plot of the ranges is that packet's. -/
def State.openInterval (s : State) (id : Option FenceId) (plot : Nat) : State :=
  match id with
  | none => s
  | some f =>
    if s.fenceTab.any fun e => e.id == f then
      { s with fenceTab := s.fenceTab.map fun e => if e.id = f then { e with plot := e.plot.orElse fun _ => some plot } else e }
    else { s with fenceTab := s.fenceTab ++ [⟨f, some plot, 0, none, false⟩] }

/-- A placed packet counts in its interval. -/
def State.countPlaced (s : State) (id : Option FenceId) : State :=
  { s with fenceTab := s.fenceTab.map fun e => if some e.id = id then { e with count := e.count + 1 } else e }

/-- The region that admits a packet by the checks of R331. -/
def State.admitted (s : State) (p : Packet) : Option Region :=
  let (_, hi, acc) := packetSpan p.op
  s.regionFor p.src p.addr hi p.key acc (if p.counts then some p.counter else none)

/-- A packet as what is left of it: of a write, the bytes of one atom, or all that are not written yet. -/
def packetLeft (p : Packet) (landed : List Nat) (atom : Option Nat) : PacketOp :=
  match p.op with
  | .write bs en => .write bs (leftOf p.addr.toNat landed atom en)
  | op => op

/-- Whether an event writes a part of a packet only: an atom of a write (R307). -/
def packetInPart (p : Packet) (atom : Option Nat) : Bool :=
  match p.op with
  | .write _ _ => atom.isSome
  | _ => false

/-- An admitted packet: translated, placed and counted; in part, it stays at the port with that atom written (R307, R334). -/
def State.placeIn (s : State) (w : WaitPkt) (atom : Option Nat) : Placed × State :=
  let g := w.region
  let p := w.packet
  let (lo, hi, acc) := packetSpan p.op
  match s.regionSpan g acc (lineSpans (g.base + preryOff p.addr + lo) (hi - lo)) with
  | (.wait, s1) => (.wait w, s1)
  | (.fail, s1) => (.refused, s1)
  | (.ok parts, s1) =>
    let (data, s2) := s1.effect (packetLeft p w.landed atom) parts lo hi
    if packetInPart p atom then (.partly { w with landed := w.landed ++ atom.toList }, s2)
    else
      let s3 := s2.countPlaced p.interval
      (.placed data, if p.counts then s3.bump g.core g.plot p.counter.toNat else s3)

/-- A packet at this device: the checks of R331, then the interval's entry (R337). -/
def State.place (s : State) (p : Packet) (atom : Option Nat) : Placed × State :=
  match s.admitted p with
  | none => (.refused, s)
  | some g =>
    if p.interval.any s.fenceClosed then (.refused, s)
    else if p.interval.any fun f => !s.fenceRoom f then (.later, s)
    else (s.openInterval p.interval g.plot).placeIn ⟨g, p, []⟩ atom

end Sys2Proof.Machine
end

