-- ==== Sys2Proof/Machine/Mem.lean ====
section
/-! DEFINITION. Loads and stores (R214 to R219), the tag table (R220), atomics (R221 to R224), prefetch (R229), the
return of loads and the retiring of stores (R71, R298), and the return of walks and verdicts (R212). -/

namespace Sys2Proof.Machine

/-! ## The shape of a vector memory instruction (R212) -/

/-- Consecutive vector names. -/
def regGroup (d : VReg) (n : Nat) : List VReg := (List.range n).map fun k => d + BitVec.ofNat 7 k

/-- Bytes and extension of a type code (R111). -/
def typeSize (t : TypeCode) : Nat := match t.toNat with
  | 0 => 1 | 1 => 1 | 2 => 2 | 3 => 2 | 4 => 4 | 5 => 8 | _ => 16
def typeSigned (t : TypeCode) : Bool := t.toNat == 1 || t.toNat == 3
/-- Registers of a type code. -/
def typeCount (t : TypeCode) : Nat := match t.toNat with
  | 5 => 2 | 6 => 4 | _ => 1

/-- The widest scope that the kind of a record reaches (R207). -/
def State.widest (s : State) (x : Rec) : Nat :=
  match x.kind with
  | 0 => 4
  | 1 => match s.route (preryRank (BitVec.ofNat 64 x.base)) with
    | .self => 4
    | .ual _ _ => 5
    | _ => 6
  | 2 => 6
  | _ => 2

/-- The scope of an access through a record: one wider than its kind reaches acts as the widest it reaches (R59, R207). -/
def State.scopeOf (s : State) (b : BufSel) (x : Rec) : Nat := min (selScope b) (s.widest x)

/-- The scope of an atomic: an ordered one of host kind releases and acquires at system scope (R311). -/
def State.atomScope (s : State) (b : BufSel) (x : Rec) : Nat :=
  if selOrd b && x.kind = 2 then 6 else s.scopeOf b x

/-- Names, tags and participating lanes of a memory instruction: REGFIELD first, nothing at all without a participating
lane, then the tags of the record and of the sources and the poison of the destinations (R27, R60, R212). -/
def vecMem (s : State) (lits : Nat) (dests srcs : List VReg) (b : Option BufSel) (g : PReg)
    (body : State → Mask → List Nat → List (List Lanes) → Rec → Out) : Out :=
  match (do
      let base ← match b with
        | some b => s.me.frame.bname b
        | none => .ok 0
      let ds ← s.me.frame.vnames dests
      let xs ← s.me.frame.vnames srcs
      .ok (base, ds, xs) : Res (Nat × List Nat × List Nat)) with
  | .error t => flow s (.error t)
  | .ok (base, ds, xs) =>
    let s := s.modMe (·.settleFor (ds ++ xs))
    let r := s.me
    let m := r.part g
    if m = 0 then done lits s (.ok s)
    else
      match (do
          let rc ← if b.isSome then r.readRec base else .ok ⟨0⟩
          let rows ← r.readRegs m xs
          r.checkRegs m ds
          .ok (rc, rows) : Res (Rec × List (List Lanes))) with
      | .error t => flow s (.error t)
      | .ok (rc, rows) => body s m ds rows rc

/-- Lanes and pieces as an operation holds them, each with its granule's generation and the values it carries. -/
def State.opLanes (s : State) (lanes : List (Nat × List Piece)) (v1 v2 : Nat → Nat) : List OpLane :=
  lanes.flatMap fun p => p.2.map fun q =>
    ⟨p.1, q.off, q.len, q.place, s.placeGen s.me q.place, BitVec.ofNat 128 (v1 p.1), BitVec.ofNat 128 (v2 p.1)⟩

/-- The value of consecutive registers in a lane, the first lowest. -/
def laneVal (rows : List (List Lanes)) (l : Nat) : Nat := packNat 32 (fun k => indexOf (rows.getD k []) l) rows.length

/-- What the scratchpad granules of an access raise at issue (R44, R45): a read of a poison granule, or of another
generation's in tag-trap mode unless a write of the team is on its way there, and a write that covers a poison granule
in part. -/
def State.granFault (s : State) (acc : Acc) (lanes : List OpLane) : Option Trap :=
  let r := s.me
  let c (p : Place) := s.core (placeCore r.core p)
  let coming (p : Place) : Bool := s.ops.any fun o => o.kind.writes && (s.role o.role).team == r.team
    && o.lanes.any fun q => granuleNo q.place == granuleNo p
  let covered (p : Place) : Bool :=
    decide (128 ≤ (lanes.filter fun q => granuleNo q.place == granuleNo p).foldl (fun n q => n + q.len) 0)
  let bad (q : OpLane) : Option Imm8 :=
    if isScratch q.place then
      let tag := (c q.place).scrTag q.place
      if tag = q.gen then none
      else if tag = poisonTag then (if acc = .wr && covered q.place then none else some causeRegloss)
      else if acc ≠ .wr && r.tagTrap && !coming q.place then some causeTagread else none
    else none
  (lanes.find? fun q => (bad q).isSome).bind fun q => (bad q).map fun cz => { cause := cz, lane := some q.lane }

/-- An operation issued over checked lanes: it stands in the list, and the run goes on (R71, R72). -/
def issueOp (s : State) (lits : Nat) (acc : Acc) (lanes : List OpLane) (o : MemOp) : Out :=
  match s.granFault acc lanes with
  | some t => flow s (.error t)
  | none =>
    let s1 := if o.ord && o.kind.writes then s.flushHost s.me o.scope else s
    .next ((s1.addOp { o with lanes := lanes }).advance s.cur lits)

/-! ## Loads and stores (R214 to R218) -/

/-- A load through a record. -/
def loadRec (s : State) (lits : Nat) (d a : VReg) (b : BufSel) (t : TypeCode) (pol : Nat) (g : PReg) : Out :=
  vecMem s lits (regGroup d (typeCount t)) [a] (some b) g fun s m ds rows rc =>
    match rc.check s.me [0, 1, 2, 3] (selRec b) with
    | .error e => flow s (.error e)
    | .ok () =>
      let x : Access := { acc := .rd, size := typeSize t, via := .record rc false, info := selRec b }
      withLanes s x (laneList m) (indexOf (rows.getD 0 [])) fun s lanes =>
        let p := if pol = 0 then rc.policy else pol
        issueOp s lits .rd (s.opLanes lanes (fun _ => 0) (fun _ => 0))
          { MemOp.plain (.load (typeSigned t) (typeSize t)) with
            dests := ds, ord := selOrd b, scope := s.scopeOf b rc, key := rc.key, counted := rc.counted
            l1 := rc.kind == 0 && s.me.plot.isSome && !selOrd b, alloc := p % 4 != 1
            rep := rc.kind == 0 && s.me.plot.isSome && !selOrd b && p.testBit 4 }

def execLd (d a : VReg) (b : BufSel) (g : PReg) (s : State) : Out := loadRec s 0 d a b 4 0 g
def execLdLong (d a : VReg) (b : BufSel) (t : TypeCode) (pol : BitVec 8) (g : PReg) (s : State) : Out :=
  loadRec s 1 d a b t pol.toNat g

/-- A store through a record. -/
def storeRec (s : State) (lits : Nat) (d a : VReg) (b : BufSel) (t : TypeCode) (g : PReg) : Out :=
  vecMem s lits [] (a :: regGroup d (typeCount t)) (some b) g fun s m _ rows rc =>
    match rc.check s.me [0, 1, 2, 3] (selRec b) with
    | .error e => flow s (.error e)
    | .ok () =>
      let x : Access := { acc := .wr, size := typeSize t, via := .record rc false, info := selRec b }
      withLanes s x (laneList m) (indexOf (rows.getD 0 [])) fun s lanes =>
        issueOp s lits .wr (s.opLanes lanes (laneVal rows.tail) (fun _ => 0))
          { MemOp.plain (.store (typeSize t)) with ord := selOrd b, scope := s.scopeOf b rc, key := rc.key, counted := rc.counted }

def execSt (d a : VReg) (b : BufSel) (g : PReg) (s : State) : Out := storeRec s 0 d a b 4 g
def execStLong (d a : VReg) (b : BufSel) (t : TypeCode) (_pol : BitVec 8) (g : PReg) (s : State) : Out :=
  storeRec s 1 d a b t g

/-- A private or scratchpad load (R217). -/
def loadVia (s : State) (v : Via) (d a : VReg) (t : TypeCode) (g : PReg) : Out :=
  vecMem s 0 (regGroup d (typeCount t)) [a] none g fun s m ds rows _ =>
    let x : Access := { acc := .rd, size := typeSize t, via := v }
    withLanes s x (laneList m) (indexOf (rows.getD 0 [])) fun s lanes =>
      issueOp s 0 .rd (s.opLanes lanes (fun _ => 0) (fun _ => 0))
        { MemOp.plain (.load (typeSigned t) (typeSize t)) with
          dests := ds, l1 := v == .priv && s.me.plot.isSome, alloc := true, counted := v == .priv }

/-- A private, scratchpad or peer store, performed at a scope (R217, R219). -/
def storeVia (s : State) (v : Via) (scope : Nat) (d a : VReg) (t : TypeCode) (g : PReg) : Out :=
  vecMem s 0 [] (a :: regGroup d (typeCount t)) none g fun s m _ rows _ =>
    let x : Access := { acc := .wr, size := typeSize t, via := v }
    -- PUTP outside a cooperative set is PERM, whatever its lanes hold (R219)
    if v = .putp && s.myTeam.set.isNone then flow s (.error { cause := causePerm })
    else withLanes s x (laneList m) (indexOf (rows.getD 0 [])) fun s lanes =>
      issueOp s 0 .wr (s.opLanes lanes (laneVal rows.tail) (fun _ => 0))
        { MemOp.plain (.store (typeSize t)) with scope := scope, counted := v == .priv }

def execLdp (d a : VReg) (t : TypeCode) (g : PReg) (s : State) : Out := loadVia s .priv d a t g
def execStp (d a : VReg) (t : TypeCode) (g : PReg) (s : State) : Out := storeVia s .priv 2 d a t g
def execLds (d a : VReg) (t : TypeCode) (g : PReg) (s : State) : Out := loadVia s .scratch d a t g
def execSts (d a : VReg) (t : TypeCode) (g : PReg) (s : State) : Out := storeVia s .scratch 2 d a t g
def execPutp (d a : VReg) (t : TypeCode) (g : PReg) (s : State) : Out := storeVia s .putp 3 d a t g

/-! ## The tag table (R220) -/

/-- Lanes without a place, each with what it carries. -/
def bareLanes (m : Mask) (v1 v2 : Nat → Nat) : List OpLane :=
  (laneList m).map fun l => ⟨l, 0, 4, .dropped, 0, BitVec.ofNat 128 (v1 l), BitVec.ofNat 128 (v2 l)⟩

def execLookup (d a : VReg) (g : PReg) (s : State) : Out :=
  vecMem s 0 [d] [a] none g fun s m ds rows _ =>
    .next ((s.addOp { MemOp.plain .lookup with
      dests := ds, lanes := bareLanes m (indexOf (rows.getD 0 [])) (fun _ => 0) }).advance s.cur 0)

/-- TAGSET and TAGINV: the slot numbers are checked lane by lane (R212). -/
def tagWrite (s : State) (k : OpKind) (d a : VReg) (g : PReg) : Out :=
  vecMem s 0 [] [a, d] none g fun s m _ rows _ =>
    match (laneList m).find? fun l => s.myTeam.tagSlots ≤ indexOf (rows.getD 1 []) l with
    | some l => flow s (.error { cause := causeBounds, lane := some l })
    | none =>
      .next ((s.addOp { MemOp.plain k with
        lanes := bareLanes m (indexOf (rows.getD 0 [])) (indexOf (rows.getD 1 [])) }).advance s.cur 0)

def execTagset (d a : VReg) (g : PReg) (s : State) : Out := tagWrite s .tagset d a g
def execTaginv (d a : VReg) (g : PReg) (s : State) : Out := tagWrite s .taginv d a g

/-- The slot of a team whose valid key equals a value (R220). -/
def tagFind (tab : AMap (BitVec 32)) (base n key : Nat) : Nat :=
  match tab.find? fun p => decide (base ≤ p.1) && decide (p.1 < base + n) && p.2.toNat == key with
  | some p => p.1 - base
  | none => 2 ^ 32 - 1

/-- One lane of TAGSET, and of TAGINV (R220). -/
def tagSet (tab : AMap (BitVec 32)) (base n key slot : Nat) : AMap (BitVec 32) :=
  mset (mfilter (fun k v => !(decide (base ≤ k) && decide (k < base + n) && v.toNat == key)) tab) (base + slot)
    (BitVec.ofNat 32 key)
def tagInv (tab : AMap (BitVec 32)) (base key slot : Nat) : AMap (BitVec 32) :=
  if (mget tab (base + slot)).map (·.toNat) = some key then mdel tab (base + slot) else tab

/-! ## Atomics (R221 to R224) -/

/-- Bytes of an atomic's width bit. -/
def atomSize (w : Bool) : Nat := if w then 8 else 4

def execAtom (d a : VReg) (b : BufSel) (c : VReg) (op : BitVec 5) (w : Bool) (g : PReg) (s : State) : Out :=
  let n := atomSize w / 4
  vecMem s 1 (regGroup d n) (a :: regGroup c n) (some b) g fun s m ds rows rc =>
    match rc.check s.me [0, 1, 2, 3] (selRec b) with
    | .error e => flow s (.error e)
    | .ok () =>
      let x : Access := { acc := .at', size := atomSize w, via := .record rc false, info := selRec b }
      withLanes s x (laneList m) (indexOf (rows.getD 0 [])) fun s lanes =>
        issueOp s 1 .at' (s.opLanes lanes (laneVal rows.tail) (fun _ => 0))
          { MemOp.plain (.atomic op (atomSize w) true) with
            dests := ds, ord := selOrd b, scope := s.atomScope b rc, key := rc.key, counted := rc.counted }

def execAtoms (a : VReg) (b : BufSel) (c : VReg) (op : BitVec 5) (w : Bool) (g : PReg) (s : State) : Out :=
  vecMem s 1 [] (a :: regGroup c (atomSize w / 4)) (some b) g fun s m _ rows rc =>
    match rc.check s.me [0, 1, 2, 3] (selRec b) with
    | .error e => flow s (.error e)
    | .ok () =>
      let x : Access := { acc := .at', size := atomSize w, via := .record rc false, info := selRec b }
      withLanes s x (laneList m) (indexOf (rows.getD 0 [])) fun s lanes =>
        issueOp s 1 .at' (s.opLanes lanes (laneVal rows.tail) (fun _ => 0))
          { MemOp.plain (.atomic op (atomSize w) false) with
            ord := selOrd b, scope := s.atomScope b rc, key := rc.key, counted := rc.counted }

/-- CAS: c is the compare value, e the swap value (R221). -/
def execCas (d a : VReg) (b : BufSel) (c e : VReg) (w : BitVec 2) (g : PReg) (s : State) : Out :=
  let n := 2 ^ w.toNat
  vecMem s 1 (regGroup d n) (a :: (regGroup c n ++ regGroup e n)) (some b) g fun s m ds rows rc =>
    match rc.check s.me [0, 1, 2, 3] (selRec b) with
    | .error t => flow s (.error t)
    | .ok () =>
      let x : Access := { acc := .at', size := 4 * n, via := .record rc false, info := selRec b }
      withLanes s x (laneList m) (indexOf (rows.getD 0 [])) fun s lanes =>
        issueOp s 1 .at' (s.opLanes lanes (laneVal (rows.tail.take n)) (laneVal (rows.tail.drop n)))
          { MemOp.plain (.cas (4 * n)) with
            dests := ds, ord := selOrd b, scope := s.atomScope b rc, key := rc.key, counted := rc.counted }

/-! ## Prefetch (R229) -/

/-- A prefetching lane with the place it names; its page's walk is made without holding the role (log entry 129). -/
def State.prefLane (s : State) (x : Access) (lane index : Nat) : Option OpLane × State :=
  let at' (p : Place) : Option OpLane := some ⟨lane, 0, 1, p, 0, 0, 0⟩
  match s.laneOut s.me x lane index with
  | .go ps => ((ps.head?).bind fun p => at' p.place, s)
  | .walk va false =>
    match s.devTr s.me va .rd with
    | (.pa a, s1) => (at' (.ram a), s1)
    | _ => (none, s)
  | _ => (none, s)

/-- The prefetching lanes of a list that fail no check. -/
def State.prefLanes (s : State) (x : Access) (idx : Nat → Nat) : List Nat → List OpLane × State
  | [] => ([], s)
  | l :: ls =>
    let (o, s1) := s.prefLane x l (idx l)
    let (rest, s2) := s1.prefLanes x idx ls
    (o.toList ++ rest, s2)

/-- PREF raises no trap but for its names: a lane that fails a check is dropped, and the others' lines enter L1. A lane's
access is one byte where the record's step is the access size, of which the spec gives none (log entry 129). -/
def execPref (a : VReg) (b : BufSel) (g : PReg) (s : State) : Out :=
  match (do
      let base ← s.me.frame.bname b
      let x ← s.me.frame.vname a
      .ok (base, x) : Res (Nat × Nat)) with
  | .error t => flow s (.error t)
  | .ok (base, x) =>
    let s := s.modMe (·.settleFor [x])
    let m := s.me.part g
    match s.me.readRec base, s.me.readReg x m with
    | .ok rc, .ok rows =>
      match rc.check s.me [0, 1, 2, 3] (selRec b) with
      | .error _ => done 0 s (.ok s)
      | .ok () =>
        if rc.kind = 0 && s.me.plot.isSome && rc.policy % 4 ≠ 1 then
          let y : Access := { acc := .rd, size := 1, via := .record rc false, locks := false }
          let (lanes, s1) := s.prefLanes y (indexOf rows) (laneList m)
          done 0 s1 (.ok (s1.fillFor { MemOp.plain (.load false 1) with
            role := s1.cur, core := s1.me.core, l1 := true, alloc := true, lanes := lanes }))
        else done 0 s (.ok s)
    | _, _ => done 0 s (.ok s)

/-! ## Returns (R71, R72, R212, R298) -/

/-- Whether the run an operation issued in has ended (R72). -/
def State.runOver (s : State) (o : MemOp) : Bool :=
  match mget s.roles o.role with
  | none => true
  | some r => r.status != .running || r.runNo != o.runNo

/-- A flag-A operation is performed and writes its destination lanes; its contribution retires. -/
def State.loadReturn (s : State) (o : MemOp) (ext : Bytes) : State :=
  match o.kind with
  | .load sgn size =>
    let vals := gather (s.readLanes o [] o.lanes ext)
    let s1 := if o.lanes.any fun l => match l.place with
        | .hy a => a / 4 == entropyWord / 4
        | _ => false
      then s.used else s
    let s2 := ((s1.fillFor o).replicate o (s.newReplicas o)).landResults o vals (loadRegs sgn size)
    (if o.ord then s2.acquire o.core o.scope else s2).retire o
  | .atomic _ size _ =>
    let (vals, s1) := s.runAtomic o o.lanes ext
    let s2 := s1.landResults o (gather vals) (loadRegs false size)
    (if o.ord then s2.acquire o.core o.scope else s2).retire o
  | .cas size =>
    let (vals, s1) := s.runAtomic o o.lanes ext
    let s2 := s1.landResults o (gather vals) (loadRegs false size)
    (if o.ord then s2.acquire o.core o.scope else s2).retire o
  | .lookup =>
    let t := s.team o.team
    let tab := (s.core o.core).tagTable
    let vals := gather (o.lanes.map fun l => (l.lane, tagFind tab t.tagBase t.tagSlots (l.value.toNat % 2 ^ 32)))
    (s.landResults o vals (loadRegs false 4)).retire o
  | .ctrrd i =>
    let v := (s.core o.core).counter i.toNat
    let s1 := match o.sdest with
      | some d => s.modRole o.role fun r => r.setFrame (r.frame.writeS d (v.setWidth 64))
      | none => s
    s1.retire o
  | _ => s

/-- An operation's requests to other ranks leave as the windows have room, and it is one level further when all have
(R298, R335). -/
def State.leaveOp (s : State) (o : MemOp) : State :=
  match s.sendOp o with
  | (true, s1) => { s1 with ops := s1.ops.map fun p => if p.id = o.id then { p with level := .egress } else p }
  | (false, s1) => s1

/-- LOAD_RETURN: nothing happens before the issuing run has ended (R72) and the order admits it (R300 to R304). An
operation on another rank's memory sends its requests first, and a second event brings their answers. -/
def execLoadReturn (op : Nat) (ext : Bytes) (s : State) : Out :=
  .next (match s.ops.find? fun o => o.id == op with
    | some o =>
      if o.kind.isA && s.runOver o && s.mayPerform o then
        (if o.leaves && o.level = .core then s.leaveOp o else s.loadReturn o ext)
      else s
    | none => s)

/-- The barrier word after an arrival, and the phase it arrived in (R233). -/
def arriveWord (w : Nat) : Nat × Nat :=
  let phase := fieldOf w 63 48
  let expect := fieldOf w 47 24
  let left := fieldOf w 23 0
  (if left ≤ 1 then (phase + 1) % 2 ^ 16 * 2 ^ 48 + expect * 2 ^ 24 + expect
    else phase * 2 ^ 48 + expect * 2 ^ 24 + (left - 1), phase)

/-- What performing a flag-B operation at its point of coherence does. -/
def State.performB (s : State) (o : MemOp) : State :=
  match o.kind with
  | .store _ => o.lanes.foldl (fun s l =>
      s.writePlace o l.gen l.place (leBytes l.len (l.value.toNat / 2 ^ (8 * l.off)))) s
  | .atomic _ _ _ =>
    let s1 := (s.runAtomic o o.lanes []).2
    if o.ord then s1.acquire o.core o.scope else s1
  | .tagset =>
    let t := s.team o.team
    o.lanes.foldl (fun s l => s.modCore o.core fun c => { c with
      tagTable := tagSet c.tagTable t.tagBase t.tagSlots (l.value.toNat % 2 ^ 32) (l.value2.toNat % 2 ^ 32) }) s
  | .taginv =>
    let t := s.team o.team
    o.lanes.foldl (fun s l => s.modCore o.core fun c => { c with
      tagTable := tagInv c.tagTable t.tagBase (l.value.toNat % 2 ^ 32) (l.value2.toNat % 2 ^ 32) }) s
  | .arrv addr =>
    o.lanes.foldl (fun s l =>
      let (w, phase) := arriveWord (leNat (s.readPlace o.core l.gen l.place 8 []))
      (s.writePlace o l.gen l.place (leBytes 8 w)).modRole o.role fun r =>
        if r.arrivalOp = some o.id then
          { r with arrival := some (addr, BitVec.ofNat 16 phase), arrivalOp := none }
        else r) s
  | .ctradd i v => s.setCounter o.core i.toNat (((s.core o.core).counter i.toNat) + v)
  | .ctrset i v => s.setCounter o.core i.toNat v
  | _ => s

/-- Whether an operation is performed in one step, with no way through the egress queue. -/
def MemOp.oneStep (o : MemOp) : Bool :=
  o.inScratch || o.lanes.all fun l => match l.place with
    | .hy _ => true
    | .dropped => true
    | _ => false

/-- Whether a lane of an operation still reaches its place: the scratchpad and tag table of a yoke while it lives, an
exchange area while its set does (R160, R210, R220). -/
def State.reaches (s : State) (o : MemOp) (l : OpLane) : Bool :=
  match l.place with
  | .xch c _ _ => s.sets.any fun x => x.2.cluster == c / 4 && !x.2.out && x.2.gen == l.gen
  | .scratch _ => ((mget s.teams o.team).map fun t => t.live != []).getD false
  | .dropped => !o.inScratch || ((mget s.teams o.team).map fun t => t.live != []).getD false
  | _ => true

/-- A write goes one level further (R298): from the core to the egress queue or port, once its requests have found
room in the windows (R335), and on to its point of coherence, where it is performed; its contribution retires once it is performed
at its scope (R71). -/
def State.storeRetire (s : State) (o : MemOp) : State :=
  let flagged (s : State) (o : MemOp) : State :=
    if s.performed o o.scope then
      let s1 := s.modRole o.role (·.retireFlag o.flag)
      { s1 with ops := s1.ops.map fun p => if p.id = o.id then { o with flag := none } else p }
    else { s with ops := s.ops.map fun p => if p.id = o.id then o else p }
  if s.mayPerform o then
    if o.level = .core && !o.oneStep then
      match s.sendOp o with
      | (true, s1) => flagged s1 { o with level := .egress }
      | (false, s1) => flagged s1 o
    else (s.performB { o with lanes := o.lanes.filter (s.reaches o) }).retire o
  else flagged s o

/-- STORE_RETIRE. -/
def execStoreRetire (op : Nat) (s : State) : Out :=
  .next (match s.ops.find? fun o => o.id == op with
    | some o => if o.kind.isA then s else s.storeRetire o
    | none => s)

/-- A translation enters the TLBs in place of one of the same page (R374). -/
def State.fillTlb (s : State) (core : Nat) (l : Leaf) : State :=
  let other (x : Leaf) : Bool := !(x.vi == l.vi && x.asid == l.asid && x.page == l.page)
  let s1 := s.modCore core fun c => { c with tlb := l :: c.tlb.filter other }
  { s1 with tlb2 := l :: s1.tlb2.filter other }

/-- The address of the first word a role's run issues. -/
def Role.firstWord (r : Role) : Nat := r.hdr.toNat + 4 * max r.off 1

/-- Whether an entry permits an access, by its code in fault records (R376, R378). -/
def accOk (access : Nat) (e : Pte) : Bool :=
  (!access.testBit 0 || e.r) && (!access.testBit 1 || e.w) && (!access.testBit 2 || e.x)

/-- PAGE_WALK_COMPLETE: the walk of a role held at a miss completes (R212, R376 to R378). A mapping is cached and the
instruction checked again; a page that can be supplied parks the role on fault service; a malformed entry is PAGE. -/
def execPageWalkComplete (role : Nat) (s : State) : Out :=
  .next (match mget s.roles role with
    | some r =>
      match r.status, s.space r with
      | .held (.tlb va false access), some (vi, asid) =>
        let a := va.toNat
        let ready (s : State) : State := s.wake role 0
        -- a word of the run past the one it stands at: the run may start without it (R55)
        let later := access == Acc.ex.code && r.firstWord / 65536 != a / 65536 && r.hdr.toNat / 65536 != a / 65536
        match leafIn s.tlb2 vi asid a with
        | some l => ready (s.fillTlb r.core l)
        | none =>
          -- a page that can be supplied: fault service, of the word the role stands at
          let serve (reason : Nat) : State :=
            if later then (ready s).modRole role fun r => { r with fetchEnd := some (a / 65536) }
            else s.parkFault role a reason access
          if s.migrating vi asid (a / 65536) then serve 3
          else
            match s.walk vi asid a with
            | .notPresent => serve 1
            | .owner _ _ => serve 3
            | .malformed =>
              if later then (ready s).modRole role fun r => { r with fetchEnd := some (a / 65536) }
              else ready ((s.pushFault vi (faultBytes a 0 asid 2 access 0)).modRole role fun r =>
                { r with walkFault := some (false, a / 65536, causePage) })
            | .leaf e level pteAt =>
              -- a page that does not permit the access is not zeroed, nor cached (R376)
              if e.z && !accOk access e then
                if later then (ready s).modRole role fun r => { r with fetchEnd := some (a / 65536) }
                else (ready s).modRole role fun r => { r with walkFault := some (false, a / 65536, causePerm) }
              else
                let s1 := if e.z then s.zeroPage vi e level pteAt else s
                ready (s1.fillTlb r.core
                  ⟨vi, asid, a / 65536, s.leafPa vi e level a / 65536 * 65536, e.r, e.w, e.x⟩)
      | _, _ => s
    | none => s)

/-- GLOBAL_VERDICT_RECEIVE: the verdicts of a held global-kind access return; the instruction is checked again with
them (R212). -/
def execGlobalVerdictReceive (role : Nat) (refused : Option Nat) (s : State) : Out :=
  .next (match mget s.roles role with
    | some r => match r.status with
      | .held .verdict => (s.modRole role fun r => { r with verdict := some refused }).wake role 0
      | _ => s
    | none => s)

end Sys2Proof.Machine
end

