-- ==== Sys2Proof/Machine/Engine.lean ====
section
/-! DEFINITION. Engine commands as they issue (R236 to R243, R246 to R256): operands captured, the checks of R239, range
locks and order (R240, R241), batches, triggers, counters, remote transfers, fence intervals and regions. The tile moves
stand in Matrix.lean, COLL in Coll.lean. -/

namespace Sys2Proof.Machine

/-! ## Copy descriptors (R237) and the bytes a copy names (R238) -/

/-- A copy descriptor as the number of its 256 bits. -/
structure CopyDesc where
  n : Nat
  deriving DecidableEq, Repr

def CopyDesc.srcOff (x : CopyDesc) : Nat := fieldOf x.n 39 0
def CopyDesc.dstOff (x : CopyDesc) : Nat := fieldOf x.n 103 64
def CopyDesc.rows (x : CopyDesc) : Nat := fieldOf x.n 179 160
def CopyDesc.rowBytes (x : CopyDesc) : Nat := fieldOf x.n 152 128
def CopyDesc.threshold (x : CopyDesc) : Nat := fieldOf x.n 255 208
def CopyDesc.pkt (x : CopyDesc) : Nat := fieldOf x.n 203 200
def CopyDesc.cntS (x : CopyDesc) : Bool := x.n.testBit 193
def CopyDesc.cntD (x : CopyDesc) : Bool := x.n.testBit 192

/-- What raises BOUNDS in a descriptor: `pkts` for the commands that use PKT, `thr` for those that use THRESHOLD. -/
def CopyDesc.bad (x : CopyDesc) (pkts thr : Bool) : Bool :=
  fieldOf x.n 63 40 != 0 || fieldOf x.n 127 104 != 0 || fieldOf x.n 191 180 != 0 || fieldOf x.n 159 153 != 0
  || fieldOf x.n 207 204 != 0 || fieldOf x.n 199 194 != 0
  || x.rows == 0 || x.rowBytes == 0 || decide (2 ^ 24 < x.rowBytes)
  || decide (6 < x.pkt) || (!pkts && x.pkt != 0) || (!thr && x.threshold != 0)

/-- A set of rows within a record: first offset, rows, step, bytes per row. -/
structure Rows where
  off : Nat
  rows : Nat
  step : Nat
  len : Nat
  deriving DecidableEq, Repr

/-- The step of a record's rows (R238). -/
def Rec.rowStep (x : Rec) (len : Nat) : Nat := if x.stride1 = 0 then len else x.stride1
def CopyDesc.srcRows (x : CopyDesc) (r : Rec) : Rows := ⟨x.srcOff, x.rows, r.rowStep x.rowBytes, x.rowBytes⟩
def CopyDesc.dstRows (x : CopyDesc) (r : Rec) : Rows := ⟨x.dstOff, x.rows, r.rowStep x.rowBytes, x.rowBytes⟩

/-- The end of the last row. -/
def Rows.stop (w : Rows) : Nat := w.off + (w.rows - 1) * w.step + w.len

/-- The first offset, in copy order, that lies at EXTENT or above in trap mode. -/
def Rows.firstOut (w : Rows) (ext : Nat) : Nat :=
  let start := if ext < w.off + w.len || w.step = 0 then w.off
    else w.off + ((ext - w.len - w.off) / w.step + 1) * w.step
  max ext start

/-- Bytes first to last that rows name in a record: none when zero-and-drop leaves no byte (R238, R240). -/
def Rec.interval (x : Rec) (w : Rows) : Option (Nat × Nat) :=
  match x.bounds with
  | 1 =>
    if x.extent ≤ w.off then none
    else
      let n := if w.step = 0 then w.rows else min w.rows ((x.extent - 1 - w.off) / w.step + 1)
      some (w.off, min x.extent (w.off + (n - 1) * w.step + w.len) - 1)
  | 2 =>
    let row (r : Nat) : Nat × Nat :=
      let a := (w.off + r * w.step) % x.extent
      if x.extent < a + w.len then (0, x.extent - 1) else (a, a + w.len - 1)
    some ((List.range w.rows).foldl (fun acc r => (min acc.1 (row r).1, max acc.2 (row r).2)) (row 0))
  | _ => some (w.off, w.stop - 1)

/-- Check 4 of R239 on one record, with what it gives for the range locks: the interval's first and last byte in the
address space it is in. A scratchpad interval must lie in the allocation or the current half (R210); a global one
keeps bits [63:40] of its base (R325). -/
def State.rowsCheck (s : State) (r : Role) (x : Rec) (w : Rows) (info : Nat) : Res (Option (LockSpace × Nat × Nat)) :=
  let bounds (off : Nat) : Trap := { cause := causeBounds, addr := some off, info := info }
  if x.bounds = 0 && x.extent < w.stop then .error (bounds (w.firstOut x.extent))
  else if x.bounds = 2 && x.extent = 0 then .error (bounds w.off)
  else
    match x.interval w with
    | none => .ok none
    | some (lo, hi) =>
      match x.kind with
      | 0 => .ok (some (s.lockSpace r, x.base + lo, x.base + hi))
      | 3 =>
        match s.scratchAt r true ((x.base + lo) % 2 ^ 64) (hi - lo + 1) with
        | some (.scratch p) => .ok (some (s.scratchSpace r, p, p + (hi - lo)))
        | some (.xch _ h o) => .ok (some (s.scratchSpace r, scratchNo h o, scratchNo h o + (hi - lo)))
        | _ => .error (bounds lo)
      | 1 => if (x.base + hi) % 2 ^ 64 / 2 ^ 40 = x.base / 2 ^ 40 then .ok none else .error (bounds hi)
      | _ => .ok none

/-- A record's whole extent as a range (R240). -/
def State.extentRange (s : State) (r : Role) (x : Rec) : Option (LockSpace × Nat × Nat) :=
  if x.extent = 0 then none
  else
    match x.kind with
    | 0 => some (s.lockSpace r, x.base, x.base + x.extent - 1)
    | 3 =>
      match s.scratchAt r true (x.base % 2 ^ 64) 1 with
      | some (.scratch p) => some (s.scratchSpace r, p, p + x.extent - 1)
      | some (.xch _ h o) => some (s.scratchSpace r, scratchNo h o, scratchNo h o + x.extent - 1)
      | _ => none
    | _ => none

/-- A range widened to whole atoms, as an entry of the range-lock table (R240). -/
def lockOf (isDst : Bool) (x : LockSpace × Nat × Nat) : RangeLock where
  cmd := 0; space := x.1; lo := x.2.1 / 32 * 32; hi := x.2.2 / 32 * 32 + 31; isDst := isDst

/-- Whether two entries overlap. -/
def RangeLock.meets (a b : RangeLock) : Bool := a.space == b.space && decide (a.lo ≤ b.hi) && decide (b.lo ≤ a.hi)

/-- Check 5 of R239: a command's own source and destination ranges. -/
def ownOverlap (src dst : Option (LockSpace × Nat × Nat)) : Bool :=
  match src, dst with
  | some a, some b => (lockOf false a).meets (lockOf true b)
  | _, _ => false

def locksOf (src dst : Option (LockSpace × Nat × Nat)) : List RangeLock :=
  (src.toList.map (lockOf false)) ++ (dst.toList.map (lockOf true))

/-! ## Acceptance (R239, R240, R241, R247) -/

/-- A command with nothing captured. -/
def Cmd.plain (k : CmdKind) : Cmd where
  id := 0; role := 0; core := 0; plot := none; team := 0; teamIdx := 0; roleId := 0; kind := k; src := 0; dst := 0; desc := 0; bsel := 0
  lanes := []; batch := 0; after := none; done := []; part := []; srcDone := false; failed := false; fence := none
  dests := []; won := []; runNo := 0; half := false; sends := 0; path := none

/-- A command as the issuing role makes it: in its open batch when it joins one, ordered behind its team's earlier
writes when ORD = 1. -/
def State.makeCmd (s : State) (c : Cmd) (joins : Bool) : Cmd :=
  let r := s.me
  { c with
    id := s.next, role := s.cur, core := r.core, plot := r.plot, team := r.team, runNo := r.runNo
    teamIdx := r.teamIdx, roleId := r.roleId
    batch := if joins then r.batchOpen else 0
    after := if selOrd c.bsel then some s.next else none
    half := (s.core r.core).xchCur }

/-- Check 6 of R239. -/
def Core.roomFor (c : Core) (locks : Nat) (trig : Bool) : Bool :=
  c.cmds.length < 256 && c.locks.length + locks ≤ 64 && (!trig || c.triggers.length < 64)

/-- The stall hint a command toward a rank meets parks its role (R339). -/
def State.stallOf (s : State) (ranks : List (BitVec 18)) : Option FabricDest := ranks.findSome? s.stalled

/-- A checked command is accepted, or its role is held until the tables have room (one with a trigger entry: `trig`);
`put` places it in its queue. Its destinations are its own from then on (R72, R252), and one ordered at system scope asks
for the flush of host writes (R301). -/
def accept (s : State) (lits : Nat) (c : Cmd) (ls : List RangeLock) (joins : Bool) (ranks : List (BitVec 18))
    (trig : Bool) (put : Core → Cmd → Core) : Out :=
  match s.stallOf ranks with
  | some d => .next (s.park s.cur (.stall d))
  | none =>
    let co := s.myCore
    if !co.roomFor ls.length trig then .next (s.hold s.cur 0 (.engineFull ls.length trig))
    else
      let c := s.makeCmd c joins
      let ls := ls.map fun l => { l with cmd := c.id }
      let s := s.claimAll c.dests (lanesMask (c.lanes.map (·.1 % 1024)))
      let s := if selOrd c.bsel then s.flushHost s.me (selScope c.bsel) else s
      .next (((s.modCore c.core fun co => put { co with locks := co.locks ++ ls } c).numbered).advance s.cur lits)

/-- The queue of engine commands. -/
def toQueue (co : Core) (c : Cmd) : Core := { co with cmds := co.cmds ++ [c] }

/-- A command joins the queue and the open batch. -/
def acceptQ (s : State) (lits : Nat) (c : Cmd) (ls : List RangeLock) (ranks : List (BitVec 18)) : Out :=
  accept s lits c ls true ranks false toQueue

/-! ## The shape of an engine instruction (R236, R239) -/

/-- Names, then the tags of every register read, for a command with records and descriptors in scalars: fours holds the
first registers of groups of four. Nothing at all happens without a participating lane (R60). -/
def engineOp (s : State) (lits : Nat) (fours : List Nat) (vecs : List VReg) (b : Option BufSel) (g : PReg)
    (body : State → List Rec → List (List Lanes) → Rec → Out) : Out :=
  let f := s.me.frame
  match (do
      let base ← match b with
        | some b => f.bname b
        | none => .ok 0
      let _ ← fours.mapM fun n => f.sname (n + 3)
      let xs ← f.vnames vecs
      .ok (base, xs) : Res (Nat × List Nat)) with
  | .error t => flow s (.error t)
  | .ok (base, xs) =>
    let s := s.modMe (·.settleFor xs)
    let r := s.me
    let m := r.part g
    if m = 0 then done lits s (.ok s)
    else
      match (do
          let rc ← if b.isSome then r.readRec base else .ok ⟨0⟩
          let rs ← fours.mapM fun n => r.readRec n
          let rows ← r.readRegs m xs
          .ok (rc, rs, rows) : Res (Rec × List Rec × List (List Lanes))) with
      | .error t => flow s (.error t)
      | .ok (rc, rs, rows) => body s rs rows rc

/-- The checks of a copy-like command: source and destination records with the kinds each accepts, descriptor, granted
counters (that of a trigger among them, `trig`), bounds and overlap. It answers the range locks. -/
def State.copyChecks (s : State) (src dst : Rec) (sInfo dInfo : Nat) (sKinds dKinds : List Nat) (x : CopyDesc)
    (pkts : Bool) (trig : Option Nat) : Res (List RangeLock) := do
  let r := s.me
  src.check r sKinds sInfo
  dst.check r dKinds dInfo
  if x.bad pkts trig.isSome then .error { cause := causeBounds } else .ok ()
  let here (k : Rec) (on : Bool) : Bool := !on || k.kind = 1 || s.granted r k.counter.toNat
  if here src x.cntS && here dst x.cntD && trig.all (s.granted r) then .ok () else .error { cause := causePerm }
  let a ← s.rowsCheck r src (x.srcRows src) sInfo
  let b ← s.rowsCheck r dst (x.dstRows dst) dInfo
  if ownOverlap a b then .error { cause := causeRangelock, info := sInfo } else .ok (locksOf a b)

/-- The 256 bits of a record or descriptor. -/
def cap (x : Rec) : BitVec 256 := BitVec.ofNat 256 x.n

/-- The rank a global record names. -/
def Rec.rank (x : Rec) : BitVec 18 := preryRank (BitVec.ofNat 64 x.base)

/-- CPY, PUT, GET: two records and a descriptor. -/
def copyCmd (s : State) (k : CmdKind) (d a : SReg) (b : BufSel) (g : PReg) (sKinds dKinds : List Nat) (pkts : Bool) :
    Out :=
  engineOp s 0 [d.toNat, a.toNat] [] (some b) g fun s rs _ src =>
    let dst := rs.getD 0 ⟨0⟩
    let x : CopyDesc := ⟨(rs.getD 1 ⟨0⟩).n⟩
    match s.copyChecks src dst (selRec b) (d.toNat / 4) sKinds dKinds x pkts none with
    | .error t => flow s (.error t)
    | .ok ls =>
      let ranks := (if src.kind = 1 then [src.rank] else []) ++ (if dst.kind = 1 then [dst.rank] else [])
      acceptQ s 0 { Cmd.plain k with src := cap src, dst := cap dst, desc := BitVec.ofNat 256 x.n, bsel := b } ls ranks

def execCpy (d a : SReg) (b : BufSel) (g : PReg) (s : State) : Out :=
  copyCmd s .cpy d a b g [0, 2, 3] [0, 2, 3] false
def execPut (d a : SReg) (b : BufSel) (g : PReg) (s : State) : Out :=
  copyCmd s .put d a b g [0, 2, 3] [1] true
def execGet (d a : SReg) (b : BufSel) (g : PReg) (s : State) : Out :=
  copyCmd s .get d a b g [1] [0, 3] true

/-! ## GATH and SCAT (R246) -/

/-- Element bytes of the contiguous record, and the step of the indexed one. -/
def Rec.element (x : Rec) : Nat := x.stride0
def Rec.elementStep (x : Rec) (e : Nat) : Nat := if x.stride0 = 0 then e else x.stride0

/-- GATH (gather) and SCAT: one element per participating lane. -/
def laneCopy (s : State) (gather : Bool) (d : SReg) (a : VReg) (b : BufSel) (g : PReg) : Out :=
  engineOp s 0 [d.toNat] [a] (some b) g fun s rs rows src =>
    let dst := rs.getD 0 ⟨0⟩
    let m := s.me.part g
    let (cont, idx) := if gather then (dst, src) else (src, dst)
    let (cInfo, iInfo) := if gather then (d.toNat / 4, selRec b) else (selRec b, d.toNat / 4)
    let e := cont.element
    let lanes := (laneList m).map fun l => (l, BitVec.ofNat 64 (indexOf (rows.getD 0 []) l), (0 : BitVec 64))
    match (do
        src.check s.me [0, 2, 3] (selRec b)
        dst.check s.me [0, 2, 3] (d.toNat / 4)
        if e = 0 || 4096 < e then .error { cause := causeBounds, info := cInfo } else .ok ()
        -- every element is checked, lane by lane
        let spans ← lanes.mapM fun x => do
          let c ← s.rowsCheck s.me cont ⟨x.1 * e, 1, e, e⟩ cInfo
          let _ ← s.rowsCheck s.me idx ⟨x.2.1.toNat * idx.elementStep e, 1, e, e⟩ iInfo
          .ok c
        let bound := (spans.filterMap id).foldl (fun acc x => match acc with
          | none => some x
          | some y => some (y.1, min y.2.1 x.2.1, max y.2.2 x.2.2)) none
        let whole := s.extentRange s.me idx
        let (from', to') := if gather then (whole, bound) else (bound, whole)
        if ownOverlap from' to' then .error { cause := causeRangelock, info := selRec b }
        else .ok (locksOf from' to') :
          Res (List RangeLock)) with
    | .error t => flow s (.error t)
    | .ok ls =>
      acceptQ s 0 { Cmd.plain (if gather then .gath else .scat) with
        src := cap src, dst := cap dst, bsel := b, lanes := lanes } ls []

def execGath (d : SReg) (a : VReg) (b : BufSel) (g : PReg) (s : State) : Out := laneCopy s true d a b g
def execScat (d : SReg) (a : VReg) (b : BufSel) (g : PReg) (s : State) : Out := laneCopy s false d a b g

/-! ## Batches (R247) -/

def execCpyb (d : SReg) (g : PReg) (s : State) : Out :=
  match s.me.frame.sname d.toNat with
  | .error t => flow s (.error t)
  | .ok dx =>
    if s.me.part g = 0 then done 0 s (.ok s)
    else
      done 0 s (do
        s.me.frame.checkS dx 1
        let n := s.me.batchOpen
        .ok ((s.putS dx [n]).modMe fun r => { r with batchOpen := r.batchOpen + 1 }))

/-- Whether every batch of a role up to n is complete: no command and no armed send of it is left. -/
def State.batchDone (s : State) (k n : Nat) : Bool :=
  let c := s.core (s.role k).core
  let left (d : Cmd) : Bool := d.role == k && d.batch != 0 && decide (d.batch.toNat ≤ n)
  !(c.cmds.any left || c.triggers.any fun t => left t.cmd)

def execWaitb (a : SReg) (g : PReg) (s : State) : Out :=
  withScalar s a g 0 fun s v =>
    let n := min v.toNat (s.me.batchOpen.toNat - 1)
    if n = 0 then done 0 s (.ok s)
    else if s.batchDone s.cur n then done 0 s (.ok (s.dropL1 s.me.core))
    else .next (s.park s.cur (.batch (BitVec.ofNat 64 n)))

/-! ## RATOM (R252) -/

/-- A lane of a RATOM: its address, none when it is dropped (R209). -/
def ratomAddr (x : Rec) (info size lane index : Nat) : Res (Option Nat) :=
  match x.offset false index size with
  | .error off => .error { cause := causeBounds, lane := some lane, addr := some off, info := info }
  | .ok none => .ok none
  | .ok (some off) =>
    let a := (x.base + off) % 2 ^ 64
    if a % size ≠ 0 then .error { cause := causeAlign, lane := some lane, addr := some a, info := info }
    else .ok (some a)

def execRatom (d : VReg) (a : VReg) (b : BufSel) (c : VReg) (op : BitVec 5) (w : Bool) (g : PReg) (s : State) : Out :=
  let n := atomSize w / 4
  vecMem s 1 (regGroup d n) (a :: regGroup c n) (some b) g fun s m ds rows rc =>
    match (do
        rc.check s.me [1] (selRec b)
        (laneList m).mapM fun l => do
          let at' ← ratomAddr rc (selRec b) (atomSize w) l (indexOf (rows.getD 0 []) l)
          .ok (l, at') : Res (List (Nat × Option Nat))) with
    | .error t => flow s (.error t)
    | .ok xs =>
      let go := xs.filterMap fun x => x.2.map fun at' =>
        (x.1, BitVec.ofNat 64 at', BitVec.ofNat 64 (laneVal rows.tail x.1))
      -- a dropped lane's old value is zero: its lanes are the first to land
      let gone := xs.filterMap fun x => if x.2.isNone then some (x.1, (0 : BitVec 64), (0 : BitVec 64)) else none
      let kept := gone.map (fun x => (x.1 + 1024, x.2)) ++ go
      accept s 1 { Cmd.plain (.ratom op w d) with
        src := cap rc, bsel := b, lanes := kept, dests := ds } [] false (go.map fun x => preryRank x.2.1)
        false toQueue

/-! ## Counters (R243) -/

/-- The index and value operands of a counter instruction, and its grant. -/
def ctrOp (s : State) (d a : SReg) (g : PReg) (readsD : Bool) (body : State → Nat → BitVec 8 → BitVec 48 → Out) : Out :=
  let f := s.me.frame
  match (do
      let dx ← f.sname d.toNat
      let ax ← f.sname a.toNat
      .ok (dx, ax) : Res (Nat × Nat)) with
  | .error t => flow s (.error t)
  | .ok (dx, ax) =>
    if s.me.part g = 0 then done 0 s (.ok s)
    else
      match (do
          let i ← f.readS s.me.tagTrap ax
          let v ← if readsD then f.readS s.me.tagTrap dx else .ok 0
          if readsD then .ok () else f.checkS dx 1
          if s.granted s.me (i.toNat % 256) then .ok (i, v) else .error { cause := causePerm } :
            Res (BitVec 64 × BitVec 64)) with
      | .error t => flow s (.error t)
      | .ok (i, v) => body s dx (i.setWidth 8) (v.setWidth 48)

def execCtradd (d a : SReg) (g : PReg) (s : State) : Out :=
  ctrOp s d a g true fun s _ i v => .next ((s.addOp (MemOp.plain (.ctradd i v))).advance s.cur 0)
def execCtrset (d a : SReg) (g : PReg) (s : State) : Out :=
  ctrOp s d a g true fun s _ i v => .next ((s.addOp (MemOp.plain (.ctrset i v))).advance s.cur 0)
def execCtrrd (d a : SReg) (g : PReg) (s : State) : Out :=
  ctrOp s d a g false fun s dx i _ =>
    .next ((s.addOp { MemOp.plain (.ctrrd i) with sdest := some dx }).advance s.cur 0)

/-- Whether a CTRWAIT of a role goes on: its own earlier counter operations are performed and the counter is there. -/
def State.ctrReady (s : State) (k : Nat) (i : BitVec 8) (v : BitVec 48) : Bool :=
  !(s.ops.any fun o => o.role == k && o.kind.counts)
    && decide (v.toNat ≤ ((s.core (s.role k).core).counter i.toNat).toNat)

def execCtrwait (d a : SReg) (g : PReg) (s : State) : Out :=
  ctrOp s d a g true fun s _ i v =>
    if s.ctrReady s.cur i v then done 0 s (.ok (s.dropL1 s.me.core)) else .next (s.park s.cur (.counter i v))

/-! ## Triggered sends (R248) -/

/-- TRIG and TRIGX: a PUT that is armed. -/
def trigger (s : State) (sub : Bool) (d a : SReg) (b : BufSel) (c : BitVec 8) (g : PReg) : Out :=
  engineOp s 1 [d.toNat, a.toNat] [] (some b) g fun s rs _ src =>
    let dst := rs.getD 0 ⟨0⟩
    let x : CopyDesc := ⟨(rs.getD 1 ⟨0⟩).n⟩
    match s.copyChecks src dst (selRec b) (d.toNat / 4) [0, 2, 3] [1] x true (some c.toNat) with
    | .error t => flow s (.error t)
    | .ok ls =>
      accept s 1 { Cmd.plain .put with src := cap src, dst := cap dst, desc := BitVec.ofNat 256 x.n, bsel := b } ls true
        [dst.rank] true fun co cmd =>
          let t : Trigger := ⟨cmd, c, BitVec.ofNat 48 x.threshold, sub⟩
          { co with triggers := co.triggers ++ [t] }.fire c.toNat

def execTrig (d a : SReg) (b : BufSel) (c : BitVec 8) (g : PReg) (s : State) : Out := trigger s false d a b c g
def execTrigx (d a : SReg) (b : BufSel) (c : BitVec 8) (g : PReg) (s : State) : Out := trigger s true d a b c g

/-! ## FENCEX (R253, R337) -/

/-- A closed interval as a command holds it: n in the descriptor, its ranges as lanes. -/
def execFencex (a : SReg) (g : PReg) (s : State) : Out :=
  withScalar s a g 0 fun s v =>
    let r := s.me
    let rank := preryRank v
    let f := r.interval rank.toNat
    let c : Cmd := { Cmd.plain .fencex with
      dst := v.setWidth 256, desc := BitVec.ofNat 256 f.count
      fence := some ⟨s.rank, s.jobOf r.plot, s.cur, f.num⟩
      lanes := (List.range f.ranges.length).map fun i =>
        let x := f.ranges.getD i (0, 0)
        (i, BitVec.ofNat 64 x.1, BitVec.ofNat 64 x.2) }
    if !s.myCore.roomFor 0 false then .next (s.hold s.cur 0 (.engineFull 0 false))
    else acceptQ (s.modMe fun r => { r with fences := mset r.fences rank.toNat ⟨f.num + 1, 0, []⟩ }) 0 c [] []

/-! ## Regions (R255, R332) -/

/-- A region is revoked: it leaves the tables of every port in one step. -/
def State.revoke (s : State) (n : Nat) : State := { s with regions := mdel s.regions n }

/-- Whether a region is granted to a role's plot. -/
def State.regionGranted (s : State) (r : Role) (n : Nat) : Bool :=
  ((r.plot.bind (mget s.plots)).map fun p => p.regions.getLsbD n).getD false

/-- What RGNREG registers, once its checks pass. -/
def State.regionOf (s : State) (dx ax : Nat) : Res (Nat × Region) := do
  let r := s.me
  let f := r.frame
  let base ← f.readS r.tagTrap dx
  let ext ← f.readS r.tagTrap (dx + 1)
  let w ← f.readS r.tagTrap ax
  let c := w.toNat
  if fieldOf c 63 51 ≠ 0 || fieldOf c 47 40 ≠ 0 || fieldOf c 7 6 ≠ 0 || base.toNat % 65536 ≠ 0
      || ext.toNat = 0 || 2 ^ 40 < ext.toNat then .error { cause := causeBounds } else .ok ()
  if s.regionGranted r (c % 64) then .ok () else .error { cause := causePerm }
  match s.space r, r.plot with
  | some (vi, asid), some plot =>
    .ok (c % 64, {
      plot := plot, core := r.core, vi := vi, asid := asid, base := base.toNat, extent := ext.toNat
      key := BitVec.ofNat 32 (fieldOf c 39 8), wr := c.testBit 48, rd := c.testBit 49, at' := c.testBit 50 })
  | _, _ => .error { cause := causePerm }

/-- RGNREG: the registration is in force at every port at its acceptance (R353); a full command queue holds the role. -/
def execRgnreg (d a : SReg) (g : PReg) (s : State) : Out :=
  let f := s.me.frame
  match (do
      let dx ← f.sname d.toNat
      let _ ← f.sname (d.toNat + 1)
      let ax ← f.sname a.toNat
      .ok (dx, ax) : Res (Nat × Nat)) with
  | .error t => flow s (.error t)
  | .ok (dx, ax) =>
    if s.me.part g = 0 then done 0 s (.ok s)
    else
      match s.regionOf dx ax with
      | .error t => flow s (.error t)
      | .ok (n, x) =>
        if !s.myCore.roomFor 0 false then .next (s.hold s.cur 0 (.engineFull 0 false))
        else done 0 s (.ok { s with regions := mset s.regions n x })

def execRgnrev (_d a : SReg) (g : PReg) (s : State) : Out :=
  withScalar s a g 0 fun s v =>
    let n := v.toNat % 64
    if !s.regionGranted s.me n then flow s (.error { cause := causePerm })
    else if !s.myCore.roomFor 0 false then .next (s.hold s.cur 0 (.engineFull 0 false))
    else accept (s.revoke n) 0 { Cmd.plain .rgnrev with desc := BitVec.ofNat 256 n } [] true [] false toQueue

end Sys2Proof.Machine
end

