-- ==== Sys2Proof/Machine/EngineIo.lean ====
section
/-! DEFINITION. How an engine command reads and writes memory (R238, R239, R306, R310), when it may run (R241, R261), and
how it fails (R239, R254). -/

namespace Sys2Proof.Machine

/-! ## The bytes a command names (R238, R251) -/

/-- The parts of a byte range of a record under wrap: offsets modulo EXTENT. -/
def wrapPieces (ext : Nat) : Nat → Nat → Nat → List (Option Nat × Nat)
  | 0, _, _ => []
  | fuel + 1, off, len =>
    if len = 0 then []
    else
      let o := off % ext
      let n := min len (ext - o)
      (some o, n) :: wrapPieces ext fuel (off + n) (len - n)

/-- The parts of a byte range of a record: in range with an offset, or dropped (R208, R238). -/
def Rec.pieces (x : Rec) (off len : Nat) : List (Option Nat × Nat) :=
  match x.bounds with
  | 1 =>
    let n := min len (x.extent - off)
    (if n = 0 then [] else [(some off, n)]) ++ (if n < len then [(none, len - n)] else [])
  | 2 => wrapPieces x.extent len off len
  | _ => if len = 0 then [] else [(some off, len)]

/-- A range of a set of rows, numbered row after row, as byte ranges of the record. -/
def Rows.cut (w : Rows) : Nat → Nat → Nat → List (Nat × Nat)
  | 0, _, _ => []
  | fuel + 1, i, n =>
    if n = 0 || w.len = 0 then []
    else
      let m := min n (w.len - i % w.len)
      (w.off + i / w.len * w.step + i % w.len, m) :: w.cut fuel (i + m) (n - m)

/-- The parts of such a range in a record, lines apart: an address and a length, or bytes that are dropped. -/
def Rec.parts (x : Rec) (w : Rows) (i n : Nat) : List (Option Nat × Nat) :=
  ((w.cut n i n).flatMap fun p => x.pieces p.1 p.2).flatMap fun p =>
    match p.1 with
    | none => [(none, p.2)]
    | some off => (lineSpans (x.base + off) p.2).map fun q => (some (q.1 % 2 ^ 64), q.2)

/-! ## Places (R239, R306) -/

/-- What an engine's access meets. -/
inductive Io (α : Type) where
  | ok (x : α)
  /-- a fault is being served, or the page migrates: the chunk waits -/
  | wait
  | fail (c : Imm8) (addr : Nat)
  deriving DecidableEq, Repr

/-- The commands whose chunks wait for a page's fault service (R239, R378). -/
def State.waitFor (s : State) (vi asid va reason access cmd : Nat) : State :=
  (s.faultFor vi asid va reason access).modIface vi fun i => { i with faults := i.faults.map fun f =>
    if f.asid = asid && f.page == va / 65536 && (f.reason == 1 || f.reason == 3) && !(f.cmds.any fun c => c.1 == cmd) then
      { f with cmds := f.cmds ++ [(cmd, va)] }
    else f }

/-- A host translation for who asks (R382): at hand, asked for, or denied. A TDI in ERROR makes no DMA (R432). -/
def State.hostTr (s : State) (vi who a : Nat) : Io Unit × State :=
  let i := s.iface vi
  let page := a / 4096
  if i.tdi = .error || i.atsFailed.contains (who, page) then (.fail causePage a, s)
  else if i.atc.contains page then (.ok (), s)
  else if i.atsReqs.contains (who, page) then (.wait, s)
  else
    (.wait, (s.setIface vi { i with atsReqs := i.atsReqs ++ [(who, page)] }).emit (.translationRequest vi (4096 * page)))

/-- The place of an address of a command's record, with the state after any page zeroing or fault record. A line with a
write in the cluster's egress queue, and the scratchpad of a team that is switched out, are waited for; the scratchpad of
a team that has gone is no place. -/
def State.cmdPlace (s : State) (c : Cmd) (kind : Nat) (acc : Acc) (a : Nat) : Io Place × State :=
  match kind with
  | 0 =>
    match c.plot.bind (mget s.plots) with
    | none => (.fail causePage a, s)
    | some p =>
      if s.migrating p.vi p.asid (a / 65536) then (.wait, s)
      else
        match s.devTrAt c.core p.vi p.asid a acc with
        | (.pa q, s1) => (if s1.egressLine c.core (q / 128) then .wait else .ok (.ram q), s1)
        | (.serve reason, s1) => (.wait, s1.waitFor p.vi p.asid a reason (8 + acc.code) c.id)
        | (.fail cause, s1) => (.fail cause a, s1)
  | 2 =>
    match c.plot.bind (mget s.plots) with
    | none => (.fail causePage a, s)
    | some p =>
      match s.hostTr p.vi c.id a with
      | (.ok (), s1) => (.ok (.host a), s1)
      | (.wait, s1) => (.wait, s1)
      | (.fail cause x, s1) => (.fail cause x, s1)
  | 3 =>
    match mget s.teams c.team with
    | none => (.ok .dropped, s)
    | some t =>
      if t.out then (.wait, s)
      else if a.testBit 31 then
        (.ok (if t.set.isSome && t.live != [] then .xch c.core c.half (fieldOf a 18 0) else .dropped), s)
      else (.ok (if fieldOf a 18 0 < t.scratchSize then .scratch (t.scratchBase + fieldOf a 18 0) else .dropped), s)
  | _ => (.ok .dropped, s)

/-- The generation under which a command reaches its team's scratchpad, or its set's exchange area. -/
def State.cmdGen (s : State) (c : Cmd) (p : Place) : BitVec 16 :=
  let t := s.team c.team
  match p with
  | .xch _ _ _ => ((t.set.bind (mget s.sets)).map (·.gen)).getD t.gen
  | _ => t.gen

/-- Bytes read, and which of them, by place in the list, came from poisoned memory. -/
abbrev ReadBytes := Bytes × List Nat

/-- A command reads the parts of a range; what comes from outside the package is in `ext`, in order. -/
def State.cmdRead (s : State) (c : Cmd) (kind at' : Nat) : List (Option Nat × Nat) → Bytes → Io ReadBytes × State
  | [], _ => (.ok ([], []), s)
  | (o, n) :: rest, ext =>
    let more (s : State) (bs : Bytes) (bad : List Nat) (ext : Bytes) : Io ReadBytes × State :=
      match s.cmdRead c kind (at' + n) rest ext with
      | (.ok (bs', bad'), s') => (.ok (bs ++ bs', bad ++ bad'), s')
      | x => x
    match o with
    | none => more s (List.replicate n 0) [] ext
    | some a =>
      match s.cmdPlace c kind .rd a with
      | (.ok p, s1) =>
        let bad := match p with
          | .ram q => ((List.range n).filter fun i => s1.poison.contains (atomOf (q + i))).map (at' + ·)
          | _ => []
        more s1 (s1.readPlace c.core (s1.cmdGen c p) p n ext) bad (if isExt p then ext.drop n else ext)
      | (.wait, s1) => (.wait, s1)
      | (.fail cause x, s1) => (.fail cause x, s1)

/-- Bytes of one line written at a place, past every L1. -/
def State.cmdPut (s : State) (c : Cmd) (p : Place) (bs : Bytes) : State :=
  match p with
  | .ram a => s.ramWrite a bs
  | .host a => s.hostWrite a bs
  | .scratch a =>
    (s.modCore c.core fun co => co.scrWrite (s.cmdGen c p) p bs (bs.length == 128)).touch (4 + c.core) a bs.length
  | .xch k h a =>
    (s.modCore k fun co => co.scrWrite (s.cmdGen c p) p bs (bs.length == 128)).touch (400 + k) (scratchNo h a) bs.length
  | _ => s

/-- The pieces in which a command writes: 32-byte atoms of memory, granules of the scratchpad (R306, R45). -/
def enginePieces (kind : Nat) (parts : List (Option Nat × Nat)) : List (Option Nat × Nat) :=
  parts.flatMap fun p => match p.1 with
    | none => [p]
    | some a => (spansOf (if kind = 3 then 128 else 32) a p.2).map fun q => (some q.1, q.2)

/-- A command writes those pieces of a range that `pick` names, by number from i on: what is dropped is not written. It
answers the numbers of those written. -/
def State.cmdWrite (s : State) (c : Cmd) (kind : Nat) (pick : Nat → Bool) (i : Nat) :
    List (Option Nat × Nat) → Bytes → Io Unit × List Nat × State
  | [], _ => (.ok (), [], s)
  | (o, n) :: rest, bs =>
    match o, pick i with
    | some a, true =>
      match s.cmdPlace c kind .wr a with
      | (.ok p, s1) =>
        let (r, ws, s2) := (s1.cmdPut c p (bs.take n)).cmdWrite c kind pick (i + 1) rest (bs.drop n)
        (r, i :: ws, s2)
      | (.wait, s1) => (.wait, [], s1)
      | (.fail cause x, s1) => (.fail cause x, [], s1)
    | _, _ => s.cmdWrite c kind pick (i + 1) rest (bs.drop n)

/-! ## Commands by number -/

/-- The unfinished command of a number on the core where it is, and wherever it is: a saved context's too. -/
def State.cmd (s : State) (id : Nat) : Option Cmd :=
  s.cores.findSome? fun c => c.2.cmds.find? fun d => d.id == id
def State.cmdAny (s : State) (id : Nat) : Option Cmd :=
  (s.cmd id).orElse fun _ => s.saved.findSome? fun x => x.2.cmds.find? fun d => d.id == id

/-- A command changed, removed, or without its ranges. -/
def State.modCmd (s : State) (c : Cmd) (f : Cmd → Cmd) : State :=
  let on (cs : List Cmd) : List Cmd := cs.map fun d => if d.id = c.id then f d else d
  if (s.cmd c.id).isSome then s.modCore c.core fun co => { co with cmds := on co.cmds }
  else { s with saved := mmap (fun _ (x : SavedCtx) => { x with cmds := on x.cmds }) s.saved }
def State.setCmd (s : State) (c : Cmd) : State := s.modCmd c fun _ => c
def State.dropLocks (s : State) (c : Cmd) : State :=
  let off (ls : List RangeLock) : List RangeLock := ls.filter fun l => l.cmd != c.id
  let s1 := s.modCore c.core fun co => { co with locks := off co.locks }
  { s1 with saved := mmap (fun _ (x : SavedCtx) => { x with locks := off x.locks }) s1.saved }
def State.dropCmd (s : State) (c : Cmd) : State :=
  let off (cs : List Cmd) : List Cmd := cs.filter fun d => d.id != c.id
  let s1 := (s.dropLocks c).modCore c.core fun co => { co with cmds := off co.cmds }
  State.reapTeam { s1 with
    saved := mmap (fun _ (x : SavedCtx) => { x with cmds := off x.cmds }) s1.saved
    colls := mdel s1.colls c.id, outContribs := s1.outContribs.filter fun o => o.coll != c.id } c.team

/-- Pieces of chunk k are written: the one the event names, or all that are left; whether that finishes the chunk. What
has been written stays written while the rest waits (R306). -/
def State.cmdStore (s : State) (c : Cmd) (k first kind : Nat) (atom : Option Nat) (parts : List (Option Nat × Nat))
    (bs : Bytes) : Io Bool × State :=
  let written := ((s.cmdAny c.id).getD c).part
  let (r, ws, s1) := s.cmdWrite c kind (fun i => !written.contains (k, i) && atom.all (· == i)) first
    (enginePieces kind parts) bs
  let s2 := s1.modCmd c fun d => { d with part := d.part ++ ws.map fun i => (k, i) }
  (match r with
    | .ok () => .ok atom.isNone
    | .wait => .wait
    | .fail cause a => .fail cause a, s2)

/-- A chunk or packet of a command is done. -/
def State.chunkDone (s : State) (c : Cmd) (k : Nat) : State :=
  s.modCmd c fun d => { d with done := d.done ++ [k], part := d.part.filter fun x => x.1 != k }

/-! ## Records and rows of a command -/

def Cmd.srcRec (c : Cmd) : Rec := ⟨c.src.toNat⟩
def Cmd.dstRec (c : Cmd) : Rec := ⟨c.dst.toNat⟩
def Cmd.copy (c : Cmd) : CopyDesc := ⟨c.desc.toNat⟩

/-- Bytes of one packet of a transfer, packets of a row (R251), and the packets of the transfer. -/
def CopyDesc.payload (x : CopyDesc) : Nat := 64 * 2 ^ x.pkt
def CopyDesc.perRow (x : CopyDesc) : Nat := ceilDiv x.rowBytes x.payload
def CopyDesc.packets (x : CopyDesc) : Nat := x.rows * x.perRow
/-- Row, first byte in the row and length of packet k. -/
def CopyDesc.packet (x : CopyDesc) (k : Nat) : Nat × Nat × Nat :=
  let j := k % x.perRow * x.payload
  (k / x.perRow, j, min x.payload (x.rowBytes - j))

/-! ## Units of a tile configuration (R259, R261) -/

/-- The sub-partitions a configuration owns. -/
def ownedOf (w : BitVec 64) : List Nat := (List.range 4).filter fun s => w.getLsbD (24 + s)

/-- The numbers of tiles, accumulators and scale granules of a sub-partition, as units. -/
def tileUnit (sub t : Nat) : Nat := 64 * sub + t
def accUnit (sub a : Nat) : Nat := 64 * sub + 16 + a
def scaleUnit (sub g : Nat) : Nat := 64 * sub + 32 + g

/-- Scale granules of a byte range. -/
def scaleSpan (off n : Nat) : List Nat :=
  if n = 0 then [] else (List.range ((off + n - 1) / 256 - off / 256 + 1)).map (off / 256 + ·)

/-- CPYS's destination word: the sub-partitions it names, and the byte offset (R244). -/
def cpysSubs (w : Nat) : List Nat := (List.range 4).filter fun s => w.testBit (16 + s)
def cpysOff (w : Nat) : Nat := fieldOf w 12 0

/-- The owned sub-partitions of a team's configuration. -/
def State.owned (s : State) (tk : Nat) : List Nat := ((s.team tk).tcfg.map fun c => ownedOf c.word).getD []

/-- The units a command names. -/
def State.cmdUnits (s : State) (c : Cmd) : List Nat :=
  match c.kind with
  | .mld t => (s.owned c.team).map fun u => tileUnit u t.toNat
  | .mst t => (s.owned c.team).map fun u => tileUnit u t.toNat
  | .cpys =>
    let w := c.dst.toNat
    (cpysSubs w).flatMap fun u => (scaleSpan (cpysOff w) (c.copy.rows * c.copy.rowBytes)).map (scaleUnit u)
  | _ => []

/-- Bytes of an element of the formats that A takes: two, four, or one (R205, R266). -/
def fmtBytes (f : Nat) : Nat :=
  match f with
  | 6 => 2 | 7 => 2 | 8 => 4 | _ => 1

/-- Fields of a format-block operand (R264). -/
def fbFmt (x : BitVec 64) : Nat := fieldOf x.toNat 3 0
def fbLen (x : BitVec 64) : Nat := 16 * 2 ^ fieldOf x.toNat 7 4
def fbOff (x : BitVec 64) : Nat := fieldOf x.toNat 28 16
def fbScaled (x : BitVec 64) : Bool := x.getLsbD 31

/-- Tiles that A takes (R266). -/
def aTiles (fa : BitVec 64) (blocks : Nat) : Nat := ceilDiv (128 * (blocks * fbLen fa) * fmtBytes (fbFmt fa)) 8192

/-- The units a queued matrix instruction names. -/
def MatOp.units (o : MatOp) : List Nat :=
  o.subp.flatMap fun u =>
    match o.kind with
    | .mma acc tile fa fb blocks sgn =>
      (List.range (aTiles fa blocks)).map (fun i => tileUnit u (tile.toNat + i))
      ++ (match sgn with
        | some t => [tileUnit u t.toNat]
        | none => [])
      ++ [accUnit u acc.toNat]
      ++ (if fbScaled fa then (scaleSpan (fbOff fa) (256 * blocks)).map (scaleUnit u) else [])
      ++ (if fbScaled fb then (scaleSpan (fbOff fb) (128 * blocks)).map (scaleUnit u) else [])
    | .mtrn d a => [tileUnit u d.toNat, tileUnit u a.toNat]
    | .mprm d a => [tileUnit u d.toNat, tileUnit u a.toNat]
    | .mrsum d a => [accUnit u d.toNat, tileUnit u a.toNat]
    | .accz d => [accUnit u d.toNat]
    | .accrd a _ _ _ => [accUnit u a.toNat]
    | .accwr a _ _ _ => [accUnit u a.toNat]

/-- Whether matrix work of a team issued before `id` names one of these units and is unfinished (R261). -/
def State.unitsBusy (s : State) (tk id : Nat) (units : List Nat) : Bool :=
  (s.mats.any fun o => o.team == tk && decide (o.id < id) && o.units.any units.contains)
  || (s.matrixCmds tk).any fun c => decide (c.id < id) && (s.cmdUnits c).any units.contains

/-! ## When a command runs (R241, R261) -/

/-- Whether an earlier command's range keeps a command waiting. -/
def Core.rangeWaits (co : Core) (id : Nat) : Bool :=
  co.locks.any fun l => l.cmd == id
    && co.locks.any fun e => decide (e.cmd < id) && l.meets e && (l.isDst || e.isDst)

/-- The engine class of a command (R401). -/
def Cmd.cls (c : Cmd) : EngineClass :=
  match c.kind with
  | .put => .fabric
  | .get => .fabric
  | .ratom _ _ _ => .fabric
  | .fencex => .fabric
  | .rgnrev => .fabric
  | .coll _ _ _ => .collective
  | _ => .copy

/-- Whether a command's engine has stopped its context (R401). -/
def Core.stopped (co : Core) (c : Cmd) : Bool := co.headland.any fun h => h.names c && h.acks.contains c.cls

/-- Whether a command may read and write now. -/
def State.cmdRuns (s : State) (c : Cmd) : Bool :=
  (match c.after with
    | none => true
    | some upto => s.released c.role c.core upto (selScope c.bsel))
  && !(s.core c.core).rangeWaits c.id
  && !(s.core c.core).stopped c
  && !(c.isMatrix && s.unitsBusy c.team c.id (s.cmdUnits c))

/-! ## Scales, tiles and failure (R244, R261, R269) -/

/-- A unit of a configuration brought under its generation: another one's bytes become zero (R45). -/
def claimUnit (units : AMap TileUnit) (key : Nat) (gen : BitVec 16) : TileUnit :=
  match mget units key with
  | some u => if u.tag = gen then u else ⟨gen, [], []⟩
  | none => ⟨gen, [], []⟩

/-- Bytes of a unit as its configuration reads them (R44). -/
def unitBytes (units : AMap TileUnit) (key : Nat) (gen : BitVec 16) (off n : Nat) : Bytes :=
  match mget units key with
  | some u => if u.tag = gen then rdBytes u.data off n else List.replicate n 0
  | none => List.replicate n 0

/-- Bytes written into a unit, which is then the configuration's. -/
def putUnit (units : AMap TileUnit) (key : Nat) (gen : BitVec 16) (off : Nat) (bs : Bytes) : AMap TileUnit :=
  let u := claimUnit units key gen
  mset units key (u.write off bs)

/-- A team's tile configuration changed. -/
def State.modTcfg (s : State) (tk : Nat) (f : Tcfg → Tcfg) : State :=
  s.modTeam tk fun t => { t with tcfg := t.tcfg.map f }

/-- Bytes from an offset of the scale allocation written into a sub-partition's granules. -/
def Tcfg.putScales (c : Tcfg) (sub off : Nat) (bs : Bytes) : Tcfg :=
  { c with scales := (scaleSpan off bs.length).foldl (fun m g =>
      let lo := max off (256 * g)
      let hi := min (off + bs.length) (256 * (g + 1))
      putUnit m (32 * sub + g) c.gen (lo - 256 * g) ((bs.drop (lo - off)).take (hi - lo))) c.scales }

/-- A failed CPYS leaves every granule it was to write under the configuration's generation (R261). -/
def State.tagScales (s : State) (c : Cmd) : State :=
  match c.kind with
  | .cpys =>
    let w := c.dst.toNat
    s.modTcfg c.team fun t => (cpysSubs w).foldl (fun t u =>
      (scaleSpan (cpysOff w) (c.copy.rows * c.copy.rowBytes)).foldl (fun t g =>
        { t with scales := mset t.scales (32 * u + g) (claimUnit t.scales (32 * u + g) t.gen) }) t) t
  | _ => s

/-- The deferred cause of a failed command (R239, R390). -/
def Cmd.deferred (c : Cmd) (cause : Imm8) (addr : Nat) : Deferred where
  cause := cause; batch := c.batch; addr := BitVec.ofNat 64 addr
  detail := if cause = causeBounds then [] else leBytes 8 c.batch.toNat ++ leBytes 8 addr

def State.deferFor (s : State) (c : Cmd) (d : Deferred) : State := s.defer c.role c.plot c.teamIdx c.roleId d

/-- A command completes as failed: what is written stays, its ranges are released, nothing is counted (R239). -/
def State.failCmd (s : State) (c : Cmd) (cause : Imm8) (addr : Nat) : State :=
  let s1 := (s.tagScales c).dropCmd c
  ({ s1 with outPkts := s1.outPkts.filter fun o => o.cmd != c.id }).deferFor c (c.deferred cause addr)

end Sys2Proof.Machine
end

