-- ==== Sys2Proof/Machine/Fabric.lean ====
section
/-! DEFINITION. Packets and fences between ranks: sending and retransmission (R251, R330, R335), arrival and
acknowledgement (R254, R331, R352, R458), fence intervals at the target and their verdicts (R253, R337, R408), and
stall hints (R339). -/

namespace Sys2Proof.Machine

/-! ## Fence intervals at the target (R337) -/

/-- The detail of a COUNTMISMATCH record (R390). -/
def mismatchDetail (rank : Nat) (num : BitVec 16) (n placed : Nat) (ranges : List (Nat × Nat)) : Bytes :=
  leBytes 4 rank ++ leBytes 2 num.toNat ++ leBytes 2 ranges.length ++ leBytes 4 n ++ leBytes 4 placed
    ++ ranges.flatMap fun r => leBytes 8 r.1 ++ leBytes 8 r.2

/-- A verdict reaches the FENCEX that asked for it: a mismatch raises COUNTMISMATCH (R253). -/
def State.verdict (s : State) (c : Cmd) (placed : Nat) : State :=
  if c.kind ≠ .fencex || !c.done.contains 0 || c.done.contains 1 then s
  else
    let s1 := s.setCmd { c with done := [0, 1] }
    let n := c.desc.toNat
    if placed = n then s1
    else
      let rank := (preryRank (c.dst.setWidth 64)).toNat
      let num := (c.fence.map (·.num)).getD 0
      (s1.count 6 0).deferFor c {
        cause := causeCountmismatch, batch := c.batch, addr := 0
        detail := mismatchDetail rank num n placed (c.lanes.map fun l => (l.2.1.toNat, l.2.2.toNat)) }

/-- The FENCEX of an interval, on its core or in a saved context. -/
def State.fenceCmd (s : State) (id : FenceId) : Option Cmd :=
  (s.cores.findSome? fun c => c.2.cmds.find? fun d => d.fence == some id).orElse fun _ =>
    s.saved.findSome? fun x => x.2.cmds.find? fun d => d.fence == some id

/-- The interval's entry is freed, and its number is refused from then on; a source's oldest half of interval numbers
may be opened again. -/
def State.closeFence (s : State) (id : FenceId) : State :=
  { s with fenceTab := (s.fenceTab.filter fun e =>
      !(e.closed && e.id.rank == id.rank && e.id.job == id.job && e.id.role == id.role
        && e.id.num == id.num + 0x8000)).map fun e => if e.id = id then { e with closed := true } else e }

/-- The target gives its verdict and frees the entry; a mismatch is reported to the plot that registered the range
(R253, R393). -/
def State.giveVerdict (s : State) (e : FenceEntry) (n : Nat) : State :=
  let s1 := s.closeFence e.id
  let s2 :=
    if e.count = n then s1
    else
      match e.plot.bind (mget s1.plots) with
      | some p =>
        let t : Trap := { cause := causeCountmismatch, deferred := true
                          detail := mismatchDetail e.id.rank.toNat e.id.num n e.count [] }
        (s1.count 6 1).plotTrap p (trapBytes 0 t 2 s1.clock 0xFFFFFFFF 0xFF)
      | none => s1
  if e.id.rank = s2.rank then
    match s2.fenceCmd e.id with
    | some c => s2.verdict c e.count
    | none => s2
  else s2.emit (.fenceVerdict e.id e.count)

/-- The verdict is given once the count has reached the fence's n. -/
def State.fenceCheck (s : State) (id : FenceId) : State :=
  match s.fenceTab.find? fun e => e.id == id && !e.closed with
  | some e => match e.fence with
    | some n => if n ≤ e.count then s.giveVerdict e n else s
    | none => s
  | none => s

/-- A fence for an interval is at this device's ports. -/
def State.fenceAt (s : State) (id : FenceId) (n : Nat) : State :=
  if s.fenceClosed id then s
  else
    let tab := if s.fenceTab.any (fun e => e.id == id) then
        s.fenceTab.map fun e => if e.id = id then { e with fence := some n } else e
      else s.fenceTab ++ [⟨id, none, 0, some n, false⟩]
    State.fenceCheck { s with fenceTab := tab } id

def execFenceArrive (f : FenceId) (n : Nat) (s : State) : Out := .next (s.fenceAt f n)
def execFenceVerdictTimeout (f : FenceId) (s : State) : Out :=
  .next (match s.fenceTab.find? fun e => e.id == f && !e.closed with
    | some e => match e.fence with
      | some n => s.giveVerdict e n
      | none => s
    | none => s)
def execFenceVerdictReceive (cmd placed : Nat) (s : State) : Out :=
  .next (match s.cmdAny cmd with
    | some c => s.verdict c placed
    | none => s)
/-- An abort frees the entry and reports nothing (R408). -/
def execFenceAbortReceive (f : FenceId) (s : State) : Out :=
  .next (if s.fenceTab.any fun e => e.id == f then s.closeFence f else s)

/-! ## A packet is acknowledged (R242, R245, R254) -/

/-- Register lanes a RATOM's old value fills (R252). -/
def State.landLane (s : State) (c : Cmd) (lane value : Nat) : State :=
  (List.range c.dests.length).foldl (fun s k =>
    s.modRole c.role fun r =>
      let x := c.dests.getD k 0
      let m : Mask := (1#1024 <<< lane) &&& ~~~((mget c.won x).getD 0)
      r.writeReg x m ((List.range r.groups).map fun g => lanesOf fun l =>
        if 32 * g + l = lane then BitVec.ofNat 32 (value / 2 ^ (32 * k)) else 0)) s

/-- Whether the run a command issued in has ended (R72, R252). -/
def State.cmdRunOver (s : State) (c : Cmd) : Bool :=
  match mget s.roles c.role with
  | none => true
  | some r => r.status != .running || r.runNo != c.runNo

/-- What a placed packet brings its command: whether its answer could be taken, and the state. A packet's last part makes
the packet done; the last packet of all releases the command's ranges before it counts (R240). The data of a GET are
written in the pieces that `atom` picks (R306). -/
def State.acked (s : State) (c : Cmd) (idx off : Nat) (last : Bool) (data : Bytes) (atom : Option Nat) : Bool × State :=
  let x := c.copy
  let mark (s : State) : State := if last then s.chunkDone c idx else s
  let count (s : State) (on : Bool) (r : Rec) : State :=
    if last then
      let s1 := if (List.range x.packets).all (idx :: c.done).contains then s.dropLocks c else s
      match c.plot with
      | some p => if on then s1.bump c.core p r.counter.toNat else s1
      | none => s1
    else s
  match c.kind with
  | .put => (true, count (mark s) x.cntS c.srcRec)
  | .get =>
    let (row, j, n) := x.packet idx
    let w := x.dstRows c.dstRec
    -- source bytes beyond the extent come as zero
    let data := if c.srcRec.bounds = 2 then data else data ++ List.replicate (n - data.length) 0
    match s.cmdStore c idx off c.dstRec.kind atom (c.dstRec.parts w (row * x.rowBytes + j + off) data.length) data with
    | (.ok true, s1) => (true, count (mark s1) x.cntD c.dstRec)
    | (.ok false, s1) => (false, s1)
    | (.wait, s1) => (false, s1)
    | (.fail cause a, s1) => (true, s1.failCmd c cause a)
  | .ratom _ _ _ =>
    match c.lanes[idx]? with
    | some l => if s.cmdRunOver c then (true, (mark s).landLane c l.1 (leNat data)) else (false, s)
    | none => (true, s)
  | _ => (true, s)

/-- What a refused packet does to its command (R252, R254): a RATOM's lane is zero and the command goes on. -/
def State.refusedPkt (s : State) (c : Cmd) (idx : Nat) (addr : BitVec 64) : Bool × State :=
  match c.kind with
  | .ratom _ _ _ =>
    if s.cmdRunOver c then
      let s1 := s.modCmd c fun d => { d with done := d.done ++ [idx], failed := true
                                             desc := if d.failed then d.desc else addr.setWidth 256 }
      (true, s1.landLane c ((c.lanes[idx]?.map (·.1)).getD 0) 0)
    else (false, s)
  | _ => (true, s.failCmd c causeRkey addr.toNat)

/-- Whether an answer needs what a saved context has left its core with: registers, or the place of a GET's data. -/
def Cmd.needsHome (c : Cmd) : PacketAck → Bool
  | .placed _ => match c.kind with
    | .get => true
    | .ratom _ _ _ => true
    | _ => false
  | _ => match c.kind with
    | .ratom _ _ _ => true
    | _ => false

/-- A packet no longer waits for its answer. -/
def State.dropOut (s : State) (seq : Nat) : State := { s with outPkts := s.outPkts.filter fun p => p.packet.seq != seq }

/-- An answer to a packet this device sent. Answers for what is gone are ignored; one that its command cannot take yet is
kept, and taken at a later event (R252, R310). -/
def State.takeAnswer (s : State) (o : OutPkt) (a : PacketAck) (atom : Option Nat) : State :=
  let seq := o.packet.seq
  let keep (s : State) : State := s.modOut seq fun p => { p with got := some a }
  match a, s.cmdAny o.cmd with
  | .later, _ => s.modOut seq fun p => { p with later := true }
  | _, none => s.dropOut seq
  | _, some c =>
    if (s.cmd o.cmd).isNone && c.needsHome a then keep s
    else
      let last := !(s.outPkts.any fun p => p.cmd == o.cmd && p.idx == o.idx && p.packet.seq != seq)
      let (taken, s1) := match a with
        | .placed data => s.acked c o.idx o.off last data atom
        | _ => s.refusedPkt c o.idx o.packet.addr
      if taken then s1.dropOut seq else keep s1

/-- An answer to a contribution's packets (R335, R359): a refused one fails its COLL. -/
def State.answerContrib (s : State) (o : OutContrib) (a : PacketAck) : State :=
  match a, s.cmdAny o.coll with
  | .refused, some c => s.failCmd c causeRkey 0
  | .later, _ => s
  | _, _ => { s with outContribs := s.outContribs.filter fun x => x.seq != o.seq }

/-- The FENCEX of a number whose fence is out, without its verdict. -/
def State.fenceOut (s : State) (id : Nat) : Option Cmd :=
  (s.cmdAny id).filter fun c => c.kind == .fencex && c.done.contains 0 && !c.done.contains 1

/-- PACKET_ACK_RECEIVE: of a contribution, of a fence, or of a packet; an answer that is kept already is tried again, and
those of the device's own ports come from no one else. -/
def execPacketAckReceive (pkt : Nat) (ack : Portion PacketAck) (s : State) : Out :=
  .next (match s.outContribs.find? fun o => o.seq == pkt with
    | some o => s.answerContrib o ack.what
    | none =>
      match s.fenceOut pkt, s.outPkts.find? fun o => o.packet.seq == pkt with
      | some c, _ => s.modCmd c fun d => { d with sends := 0 }
      | none, none => s
      | none, some o =>
        match o.got with
        | some a => s.takeAnswer o a ack.atom
        | none => match s.route (preryRank o.packet.addr) with
          | .self => s
          | _ => s.takeAnswer o ack.what ack.atom)

/-! ## A packet arrives (R331, R352, R458) -/

/-- An answer goes back to a packet's source. -/
def State.answerTo (s : State) (p : Packet) (a : PacketAck) : State :=
  if p.src = s.rank then
    match s.outPkts.find? fun o => o.packet.seq == p.seq with
    | some o => if a = .later then s else s.takeAnswer o a none
    | none => s
  else s.emit (.packetAck p.src p.seq a)

/-- What was placed is remembered with its answer, and answered. -/
def State.answerPlaced (s : State) (p : Packet) (data : Bytes) : State :=
  let s1 := match p.interval with
    | some f => s.fenceCheck f
    | none => s
  (if p.src = s1.rank then s1 else { s1 with placed := s1.placed ++ [(p.src.toNat, p.seq, data)] }).answerTo p (.placed data)

/-- What a placement decided. A packet that waits, or is placed in part, stays at the port; one that waits and has come
over Ultra Ethernet is also asked for again (R458). -/
def State.settlePacket (s : State) (p : Packet) : Placed → State
  | .placed data => s.answerPlaced p data
  | .refused => s.answerTo p .refused
  | .wait w =>
    let s1 := { s with waitPkts := s.waitPkts ++ [w] }
    match s.route p.src with
    | .uet _ _ => s1.answerTo p .later
    | _ => s1
  | .partly w => { s with waitPkts := s.waitPkts ++ [w] }
  | .later => s.answerTo p .later

/-- A packet that waits at the port is tried again. -/
def State.retryPacket (s : State) (w : WaitPkt) (atom : Option Nat) : State :=
  let (r, s1) := State.placeIn { s with waitPkts := s.waitPkts.erase w } w atom
  s1.settlePacket w.packet r

/-- A packet is at this device's ports: a copy of one that is placed is answered again, one of a packet that waits there
tries that one (R352, R458). -/
def State.packetIn (s : State) (p : Packet) (atom : Option Nat) : State :=
  match s.placed.find? fun x => x.1 == p.src.toNat && x.2.1 == p.seq with
  | some x => s.emit (.packetAck p.src p.seq (.placed x.2.2))
  | none =>
    match s.waitPkts.find? fun w => w.packet.src == p.src && w.packet.seq == p.seq with
    | some w => s.retryPacket w atom
    | none =>
      let (r, s1) := s.place p atom
      s1.settlePacket p r

/-- PACKET_ARRIVE, from another rank: whole, or with one more atom of a write placed (R307, R334). -/
def execPacketArrive (p : Portion Packet) (s : State) : Out :=
  .next (if p.what.src = s.rank then s else s.packetIn p.what p.atom)

/-- Waiting packets are tried again, oldest first, after a fault is served or a migration ends; `refuse` gives those of
a page answered with FAIL (R458). -/
def State.retryPackets (s : State) (refuse : Region → Packet → Bool) : State :=
  s.waitPkts.foldl (fun s w =>
    if refuse w.region w.packet then State.answerTo { s with waitPkts := s.waitPkts.erase w } w.packet .refused
    else s.retryPacket w none) s

/-! ## A packet is sent (R251, R330, R335) -/

/-- Packets of a command, by the place of their first byte, leave or are placed at the device's own ports. All of them
wait for their answers before the first is sent, so that the last answer makes the command's packet done. -/
def State.sendPackets (s : State) (c : Cmd) (idx : Nat) (ps : List (Nat × Packet)) (atom : Option Nat) : State :=
  let outs := ps.zipIdx.map fun x =>
    (⟨c.id, c.core, idx, x.1.1, { x.1.2 with seq := s.next + x.2 }, 1, none, false, none⟩ : OutPkt)
  outs.foldl (fun (s : State) (o : OutPkt) =>
    match s.route (preryRank o.packet.addr) with
    | .self => s.packetIn o.packet atom
    | _ => s.sendPkt o.packet)
    { s with outPkts := s.outPkts ++ outs, next := s.next + ps.length }

/-- The entropy path of a resend toward a rank: the next enabled one in turn (R335). -/
def State.nextPath (s : State) (r : BitVec 18) (path : Option Nat) : Option Nat :=
  (s.pathFrom r (path.getD 0 + 1)).orElse fun _ => path

/-- A packet over Ultra Ethernet is sent again on the next path; a send that the target has asked for counts towards no
limit (R337, R458). -/
def State.resend (s : State) (o : OutPkt) : State :=
  let path := (s.dropOut o.packet.seq).nextPath (preryRank o.packet.addr) o.path
  (s.modOut o.packet.seq fun p => { p with
    sends := if o.later then o.sends else o.sends + 1, path := path, later := false }).emit (.packet o.packet path)

/-- A contribution not acknowledged in time is sent again; one sent 16 times fails its COLL (R359). -/
def State.resendContrib (s : State) (o : OutContrib) : State :=
  match s.route o.dst with
  | .uet _ _ =>
    if 16 ≤ o.sends then s.answerContrib o .refused
    else
      let path := s.nextPath o.dst o.path
      let s1 : State := { s with outContribs := s.outContribs.map fun x =>
        if x.seq = o.seq then { x with sends := x.sends + 1, path := path } else x }
      s1.emit (.contribution o.seq o.dst o.body path)
  | _ => s

/-- A fence not acknowledged in time is sent again; one sent 16 times fails its FENCEX (R335). -/
def State.resendFence (s : State) (c : Cmd) (id : FenceId) : State :=
  let rank := preryRank (c.dst.setWidth 64)
  match s.route rank, c.sends with
  | .uet _ _, n + 1 =>
    if 16 ≤ n + 1 then s.failCmd c causeRkey (c.dst.toNat % 2 ^ 64)
    else
      let path := s.nextPath rank c.path
      (s.modCmd c fun d => { d with sends := n + 2, path := path }).emit (.fence id rank c.desc.toNat path)
  | _, _ => s

/-- PACKET_RETRANSMIT_TIMEOUT: over Ultra Ethernet what is not acknowledged in time is sent again, 16 times at most; an
answer that is kept is tried again, and a packet of the device's own tries its ports again. A thread request sent 16 times
is given up (log entry 130). -/
def execPacketRetransmitTimeout (pkt : Nat) (s : State) : Out :=
  .next (match s.outPkts.find? fun o => o.packet.seq == pkt with
    | none => match s.outContribs.find? fun o => o.seq == pkt with
      | some o => s.resendContrib o
      | none => match s.fenceOut pkt with
        | some c => match c.fence with
          | some id => s.resendFence c id
          | none => s
        | none => s
    | some o =>
      match o.got, s.route (preryRank o.packet.addr) with
      | some a, _ => s.takeAnswer o a none
      | none, .self => s.packetIn o.packet none
      | none, .ual _ _ => s
      | none, _ => if 16 ≤ o.sends && !o.later then s.takeAnswer o .refused none else s.resend o)

/-- Every unacknowledged packet, contribution and fence to a rank whose translation was rewritten fails (R330). -/
def State.failTo (s : State) (rank : BitVec 18) : State :=
  let s1 := (s.outPkts.filter fun o => preryRank o.packet.addr == rank && o.got.isNone).foldl
    (fun s o => s.takeAnswer o .refused none) s
  let s2 := (s1.outContribs.filter fun o => o.dst == rank).foldl (fun s o => s.answerContrib o .refused) s1
  let fences (cs : List Cmd) : List Cmd := cs.filter fun c => c.kind == .fencex && c.sends != 0
    && c.done.contains 0 && !c.done.contains 1 && preryRank (c.dst.setWidth 64) == rank
  (s2.cores.flatMap (fun x => fences x.2.cmds) ++ s2.saved.flatMap fun x => fences x.2.cmds).foldl
    (fun s c => s.failCmd c causeRkey (c.dst.toNat % 2 ^ 64)) s2

/-! ## Stall hints (R339) -/

def execStallHintSet (dest : FabricDest) (s : State) : Out :=
  .next (if s.stall.contains dest then s else { s with stall := s.stall ++ [dest] })
def execStallHintClear (dest : FabricDest) (s : State) : Out :=
  .next { s with stall := s.stall.filter fun d => d != dest }

end Sys2Proof.Machine
end

