-- ==== Sys2Proof/Machine/Coll.lean ====
section
/-! DEFINITION. Collectives (R256 to R258, R459, R460): A128 numbers (R121, R122), the layout of parts and chunks,
COLL as it issues, contributions and their folding (R343, R344, R359), and a chunk's commit with its reseed-log entry
(R347 to R350, R360). Every member folds every chunk for itself (log entry 40). -/

namespace Sys2Proof.Machine

/-! ## A128 (R121, R122) -/

def a128Max : Int := 2 ^ 127 - 1
def a128Marker : Int := -2 ^ 127

/-- An exact number brought into −n to n, and whether it saturated. -/
def saturate (lo hi i : Int) : Int × Bool := if i < lo then (lo, true) else if hi < i then (hi, true) else (i, false)

/-- to_a128. -/
def toA128 (x : Nat) (anchor : Int) : Int × Bool :=
  match Fmt.f32.decode x with
  | .nan _ => (a128Marker, false)
  | .inf neg => (if neg then -a128Max else a128Max, true)
  | .fin neg m e =>
    let d := e - anchor
    let i : Int := if 0 ≤ d then shl m d else m / 2 ^ (-d).toNat
    saturate (-a128Max) a128Max (if neg then -i else i)

/-- from_a128. -/
def fromA128 (i anchor : Int) : Nat :=
  if i = a128Marker then Fmt.f32.nan else (Fmt.f32.roundInt 0 false i anchor).1

/-! ## Parameters of a collective (R256) -/

def Cmd.collKind (c : Cmd) : Nat :=
  match c.kind with
  | .coll k _ _ => k.toNat
  | _ => 0
def Cmd.collOp (c : Cmd) : Nat :=
  match c.kind with
  | .coll _ o _ => o.toNat
  | _ => 0
def Cmd.collLog (c : Cmd) : Bool :=
  match c.kind with
  | .coll _ _ l => l
  | _ => false
def Cmd.collCount (c : Cmd) : Nat := fieldOf c.desc.toNat 39 0
def Cmd.collAnchorBits (c : Cmd) : Nat := fieldOf c.desc.toNat 74 64
def Cmd.collAnchor (c : Cmd) : Int := sext c.collAnchorBits 11
def Cmd.collGroup (c : Cmd) : Nat := fieldOf c.desc.toNat 127 96
def Cmd.collRoot (c : Cmd) : Nat := fieldOf c.desc.toNat 145 128
def Cmd.collSeq (c : Cmd) : Nat := fieldOf c.desc.toNat 191 160
def Cmd.collCommit (c : Cmd) : Nat := fieldOf c.desc.toNat 255 192
/-- Whether it is a reduction. -/
def Cmd.collRed (c : Cmd) : Bool := decide (c.collKind < 3)

/-- Bytes of `n` elements of a format (R118, R119, R205). -/
def fmtLen (f n : Nat) : Nat :=
  match f with
  | 1 => ceilDiv n 2
  | 3 => ceilDiv n 5
  | 6 => 2 * n | 7 => 2 * n | 9 => 2 * n | 8 => 4 * n | 11 => 4 * n | 10 => 16 * n
  | _ => n

/-- The format pairs of a reduction with the operations they take (R257). -/
def reduces (src dst op : Nat) : Bool :=
  match src, dst with
  | 10, 10 => op ≤ 2
  | 8, 10 => op ≤ 2
  | 8, 8 => op ≤ 2
  | 11, 11 => op ≤ 3
  | _, _ => false

/-! ## Members and slots (R342, R343, R459) -/

/-- The member set at the applied version: communicator members whose join sequence is at or below SEQ. -/
def Job.members (j : Job) (group seq : Nat) : List Nat :=
  (((mget j.roster.comms group).getD []).filter fun x => x.2 ≤ seq).map (·.1)
def Job.slotList (j : Job) (group seq : Nat) : List Nat :=
  (((mget j.roster.ever group).getD []).filter fun x => x.2 ≤ seq).map (·.1)

/-- The interface that a job is bound to. -/
def State.jobNo (s : State) (id : BitVec 32) : Option (Nat × Job) :=
  s.ifaces.findSome? fun x => match x.2.job with
    | some j => if j.id = id then some (x.1, j) else none
    | none => none

/-- The job of a plot. -/
def State.plotJob (s : State) (plot : Option Nat) : Option (Nat × Job) :=
  match plot.bind (mget s.plots) with
  | some p => (s.iface p.vi).job.map fun j => (p.vi, j)
  | none => none

/-! ## Parts and chunks (R459) -/

/-- Parts of a member's source: a redscat has one for every slot. -/
def Coll.shards (x : Coll) : Nat := if x.cmd.collKind = 2 then x.slots.length else 1
/-- Elements of a part of a reduction. -/
def Coll.partElems (x : Coll) : Nat := x.cmd.collCount / max 1 x.shards
/-- Bytes of a part, in the destination. -/
def Coll.partBytes (x : Coll) : Nat :=
  if x.cmd.collRed then fmtLen x.cmd.dstRec.format x.partElems else fmtLen x.cmd.srcRec.format x.cmd.collCount
def Coll.chunkCount (x : Coll) : Nat := ceilDiv x.partBytes 32768
/-- Bytes of chunk k of a part. -/
def Coll.chunkBytes (x : Coll) (k : Nat) : Nat := min 32768 (x.partBytes - 32768 * k)
/-- Elements of chunk k of a part of a reduction. -/
def Coll.chunkElems (x : Coll) (k : Nat) : Nat := x.chunkBytes k / fmtLen x.cmd.dstRec.format 1

/-- What a member reads of its source for chunk k: offsets and lengths. -/
def Coll.source (x : Coll) (k : Nat) : List (Nat × Nat) :=
  if x.cmd.collRed then
    let size := fmtLen x.cmd.srcRec.format 1
    let first := 32768 * k / fmtLen x.cmd.dstRec.format 1
    (List.range x.shards).map fun j => ((x.partElems * j + first) * size, x.chunkElems k * size)
  else [(32768 * k, x.chunkBytes k)]

/-- Bytes of the source, and of the destination, that a member's record must hold (R256, R459). -/
def Coll.srcBytes (x : Coll) (me : Nat) : Nat :=
  if x.cmd.collKind = 5 && me != x.cmd.collRoot then 0 else fmtLen x.cmd.srcRec.format x.cmd.collCount
def Coll.dstBytes (x : Coll) (me : Nat) : Nat :=
  let root := me == x.cmd.collRoot
  match x.cmd.collKind with
  | 0 => if root then x.partBytes else 0
  | 3 => if root then x.slots.length * x.partBytes else 0
  | 4 => x.slots.length * x.partBytes
  | _ => x.partBytes

def Coll.chunk (x : Coll) (k : Nat) : CollChunk := (mget x.chunks k).getD ⟨[], [], [], none, false⟩
def Coll.setChunk (x : Coll) (k : Nat) (c : CollChunk) : Coll := { x with chunks := mset x.chunks k c }

/-! ## Contributions (R258, R343, R359) -/

/-- The ranks whose contributions a chunk takes: a broadcast takes its root's only. -/
def Coll.contributors (x : Coll) (members : List Nat) : List Nat :=
  if x.cmd.collKind = 5 then members.filter (· == x.cmd.collRoot) else members

/-- Whether a contribution's parameters are the receiver's. -/
def Coll.agrees (x : Coll) (c : Contribution) : Bool :=
  c.kind.toNat == x.cmd.collKind && c.op.toNat == x.cmd.collOp && c.count.toNat == x.cmd.collCount
  && c.srcFormat.toNat == x.cmd.srcRec.format && c.dstFormat.toNat == x.cmd.dstRec.format
  && c.anchor.toNat == x.cmd.collAnchorBits && c.root.toNat == x.cmd.collRoot

/-- Staged contributions whose count matches are folded, or rejected. -/
def Coll.settle (x : Coll) (members : List Nat) (k : Nat) : Coll :=
  let ready := (x.chunk k).staged.filter fun c => c.2.matched && (x.contributors members).contains c.1
  ready.foldl (fun x r =>
    let c := x.chunk k
    let c := { c with staged := mdel c.staged r.1 }
    x.setChunk k (if r.2.poisoned || !x.agrees r.2 || (mget c.folded r.1).isSome then
        { c with rejected := c.rejected ++ [r.1] }
      else { c with folded := mset c.folded r.1 r.2.data })) x

/-- A contribution is staged, and folded when it can be. -/
def Coll.takeIn (x : Coll) (members : List Nat) (c : Contribution) : Coll :=
  let k := c.chunk
  let ch := x.chunk k
  if ch.committed || ch.result.isSome || x.chunkCount ≤ k then x
  else (x.setChunk k { ch with staged := mset ch.staged c.rank.toNat c }).settle members k

/-- The collective of a contribution. -/
def State.collOf (s : State) (job group seq : BitVec 32) : Option (Nat × Coll) :=
  s.colls.find? fun x => x.2.job == job && x.2.group == group && x.2.seq == seq

def State.contribute (s : State) (c : Contribution) : State :=
  match s.jobNo c.job with
  | none => s
  | some (_, j) =>
    if !j.roster.has 0 c.rank.toNat then s
    else
      match s.collOf c.job c.group c.seq with
      | some (id, x) =>
        { s with colls := mset s.colls id (x.takeIn (j.members x.group.toNat x.seq.toNat) c) }
      | none => { s with contribs := s.contribs ++ [c] }

def execCollContributionArrive (c : Contribution) (s : State) : Out := .next (s.contribute c)

/-- After a roster version of a job is applied: what departed ranks have staged is discarded, and what may now be
folded is (R343). -/
def State.rosterApplied (s : State) (id : BitVec 32) : State :=
  match s.jobNo id with
  | none => s
  | some (_, j) =>
    let stays (n : Nat) : Bool := j.roster.has 0 n
    let members (x : Coll) : List Nat := j.members x.group.toNat x.seq.toNat
    let again (x : Coll) : Coll :=
      let fixed (c : CollChunk) : Bool := c.committed || c.result.isSome
      let x := { x with chunks := mmap (fun _ (c : CollChunk) => if fixed c then c else
        { c with staged := mfilter (fun r _ => stays r) c.staged }) x.chunks }
      (x.chunks.map (·.1)).foldl (fun (y : Coll) k => if fixed (y.chunk k) then y else y.settle (members x) k) x
    { s with
      colls := mmap (fun _ x => if x.job = id then again x else x) s.colls
      contribs := s.contribs.filter fun c => c.job != id || stays c.rank.toNat
      outContribs := s.outContribs.filter fun o => o.body.job != id || stays o.dst.toNat }

/-! ## COLL issues (R239, R256, R257, R460) -/

/-- What raises BOUNDS in the descriptor and the formats. -/
def Cmd.collBad (c : Cmd) : Bool :=
  let n := c.desc.toNat
  let fs := c.srcRec.format
  let fd := c.dstRec.format
  fieldOf n 63 40 != 0 || fieldOf n 95 75 != 0 || fieldOf n 159 146 != 0
  || c.collCount == 0 || c.collCommit % 16 != 0
  || !(if c.collRed then reduces fs fd c.collOp else fs == fd && decide (fs ≤ 11))

def execColl (d a : SReg) (b : BufSel) (kind op : BitVec 4) (log : Bool) (g : PReg) (s : State) : Out :=
  engineOp s 1 [d.toNat, a.toNat] [] (some b) g fun s rs _ src =>
    let r := s.me
    let dst := rs.getD 0 ⟨0⟩
    let c : Cmd := { Cmd.plain (.coll kind op log) with
      src := cap src, dst := cap dst, desc := BitVec.ofNat 256 (rs.getD 1 ⟨0⟩).n, bsel := b }
    let me := s.rank.toNat
    let bounds : Trap := { cause := causeBounds }
    match (do
        src.check r [0, 3] (selRec b)
        dst.check r [0, 3] (d.toNat / 4)
        let (vi, j) ← match s.plotJob r.plot with
          | some j => .ok j
          | none => .error bounds
        if c.collBad || (mget j.roster.comms c.collGroup).isNone then .error bounds else .ok ()
        let x : Coll := ⟨c, vi, j.id, BitVec.ofNat 32 c.collGroup, BitVec.ofNat 32 c.collSeq,
          j.slotList c.collGroup c.collSeq, j.members c.collGroup c.collSeq, []⟩
        if kind = 2 && c.collCount % max 1 x.slots.length ≠ 0 then .error bounds else .ok ()
        if s.granted r dst.counter.toNat then .ok () else .error { cause := causePerm }
        let range (y : Rec) (n info : Nat) : Res (Option (LockSpace × Nat × Nat)) :=
          if n = 0 then .ok none else s.rowsCheck r y ⟨0, 1, n, n⟩ info
        let from' ← range src (x.srcBytes me) (selRec b)
        let to' ← range dst (x.dstBytes me) (d.toNat / 4)
        if ownOverlap from' to' then .error { cause := causeRangelock, info := selRec b }
        else .ok (x, locksOf from' to') : Res (Coll × List RangeLock)) with
    | .error t => flow s (.error t)
    | .ok (x, ls) =>
      if !x.first.contains me || (s.collOf x.job x.group x.seq).isSome then
        let c := s.makeCmd c true
        .next ((s.deferFor c (c.deferred causeBounds 0)).advance s.cur 1)
      else
        let id := s.next
        let ranks := ((((s.plotJob r.plot).bind fun j => mget j.2.roster.comms c.collGroup).getD []).map (·.1)).map
          (BitVec.ofNat 18 ·)
        match accept s 1 c ls true ranks false toQueue with
        | .next s1 =>
          match s1.cmd id with
          | none => .next s1
          | some c1 =>
            let mine (c : Contribution) : Bool := c.job == x.job && c.group == x.group && c.seq == x.seq
            let x1 := (s1.contribs.filter mine).foldl (fun x c => x.takeIn x.first c) { x with cmd := c1 }
            .next { s1 with colls := mset s1.colls id x1, contribs := s1.contribs.filter fun c => !mine c }
        | o => o

/-! ## A member's own contribution (R344, R359) -/

/-- Saturation sets OPFLAGS[1] in the issuing team (R257). -/
def State.saturated (s : State) (k : Nat) (on : Bool) : State :=
  if on then s.modRole k fun r => { r with opflags := r.opflags ||| 2 } else s

/-- Elements of a reduction as they are sent: 16 bytes each; whether one saturated. -/
def Cmd.collElems (c : Cmd) (size : Nat) : Nat → Bytes → Bytes × Bool
  | 0, _ => ([], false)
  | n + 1, bs =>
    let v := leNat (bs.take size)
    let (i, sat) := match c.srcRec.format with
      | 8 => toA128 v c.collAnchor
      | _ => (sext v (8 * size), false)
    let (rest, sat') := c.collElems size n (bs.drop size)
    (leBytes 16 (wrap 128 i) ++ rest, sat || sat')

/-- The bytes of a chunk of a gather, allgath or bcast as they are sent: the last byte of an odd number of INT4 elements
holds zero in its upper half (R118). -/
def Coll.padded (x : Coll) (k : Nat) (bs : Bytes) : Bytes :=
  if x.cmd.srcRec.format = 1 && x.cmd.collCount % 2 = 1 && k + 1 = x.chunkCount then updAt (· &&& 15#8) bs (bs.length - 1)
  else bs

/-- The contribution that these source bytes make to chunk k. -/
def Coll.contribution (x : Coll) (me : BitVec 18) (k : Nat) (bs : Bytes) (poisoned : Bool) : Contribution × Bool :=
  let size := fmtLen x.cmd.srcRec.format 1
  let (data, sat) := if x.cmd.collRed then x.cmd.collElems size (x.shards * x.chunkElems k) bs else (x.padded k bs, false)
  ({ rank := me, job := x.job, group := x.group, seq := x.seq, chunk := k
     kind := BitVec.ofNat 4 x.cmd.collKind, op := BitVec.ofNat 4 x.cmd.collOp
     count := BitVec.ofNat 40 x.cmd.collCount, srcFormat := BitVec.ofNat 4 x.cmd.srcRec.format
     dstFormat := BitVec.ofNat 4 x.cmd.dstRec.format, anchor := BitVec.ofNat 11 x.cmd.collAnchorBits
     root := BitVec.ofNat 18 x.cmd.collRoot, data := data, poisoned := poisoned, matched := true }, sat)

/-- A contribution leaves for another member; with no route to it the COLL fails (R329, R359). -/
def State.sendContrib (s : State) (id : Nat) (b : Contribution) (dst : BitVec 18) : State :=
  match s.cmdAny id, s.route dst with
  | none, _ => s
  | some c, .unreachable => s.failCmd c causeRkey 0
  | some _, .uet _ _ =>
    let path := s.pathFrom dst (Config.spray s.free)
    (({ s with outContribs := s.outContribs ++ [⟨s.next, id, dst, 1, path, b⟩] } : State).numbered.used).emit
      (.contribution s.next dst b path)
  | some _, _ =>
    ({ s with outContribs := s.outContribs ++ [⟨s.next, id, dst, 1, none, b⟩] } : State).numbered.emit
      (.contribution s.next dst b none)

/-- The member set of a collective at the version applied (R343). -/
def State.membersOf (s : State) (x : Coll) : List Nat :=
  ((s.jobNo x.job).map fun j => j.2.members x.group.toNat x.seq.toNat).getD []

/-- The engine reads its source for chunk k and sends its contribution: to itself, and to the other members. -/
def State.collChunk (s : State) (c : Cmd) (k : Nat) : State :=
  match mget s.colls c.id with
  | none => s
  | some x =>
    if x.chunkCount ≤ k || (x.chunk k).committed || (x.cmd.collKind = 5 && s.rank.toNat != x.cmd.collRoot) then s
    else
      let src := c.srcRec
      let parts := (x.source k).flatMap fun p => src.parts ⟨p.1, 1, p.2, p.2⟩ 0 p.2
      match s.cmdRead c src.kind 0 parts [] with
      | (.wait, s1) => s1
      | (.fail cause a, s1) => s1.failCmd c cause a
      | (.ok (bs, bad), s1) =>
        let (b, sat) := x.contribution s.rank k bs (bad != [])
        let s2 := (s1.modCmd c fun d => { d with done := if d.done.contains k then d.done else d.done ++ [k] }).saturated
          c.role sat
        (((s2.membersOf x).filter (· != s.rank.toNat)).map (BitVec.ofNat 18 ·)).foldl (fun s dst => s.sendContrib c.id b dst)
          (s2.contribute b)

/-- The folding node departed: its uncommitted chunks are folded again, from the survivors' sources (R344). -/
def execCollResend (coll : Nat) (s : State) : Out :=
  .next (match mget s.colls coll, s.cmd coll with
    | some x, some c =>
      let fixed (y : CollChunk) : Bool := y.committed || y.result.isSome
      let open' := c.done.filter fun k => !fixed (x.chunk k)
      let x1 := { x with chunks := x.chunks.filter fun k => fixed k.2 }
      let s1 : State := { s with
        colls := mset s.colls coll x1
        outContribs := s.outContribs.filter fun o => o.coll != coll }
      open'.foldl (fun s k =>
        match s.cmd coll with
        | some c => s.collChunk c k
        | none => s) s1
    | _, _ => s)

/-! ## A chunk commits (R257, R343, R345) -/

/-- The elements a contribution gives to a reduction. -/
def elemsOf (size : Nat) : Nat → Bytes → List Int
  | 0, _ => []
  | n + 1, bs => sext (leNat (bs.take 16)) (8 * size) :: elemsOf size n (bs.drop 16)

/-- One element reduced over the contributions, exact before one saturation. -/
def reduceElem (int : Bool) (op : Nat) (xs : List Int) : Int × Bool :=
  if !int && xs.contains a128Marker then (a128Marker, false)
  else
    match op with
    | 0 => if int then saturate (-2 ^ 31) (2 ^ 31 - 1) xs.sum else saturate (-a128Max) a128Max xs.sum
    | 1 => (xs.foldl min (xs.headD 0), false)
    | 2 => (xs.foldl max (xs.headD 0), false)
    | _ => (sext (xs.foldl (fun a x => a ||| wrap 32 x) 0) 32, false)

/-- The bytes of a result element. -/
def Cmd.collOut (c : Cmd) (i : Int) : Bytes :=
  match c.dstRec.format with
  | 8 => leBytes 4 (fromA128 i c.collAnchor)
  | 10 => leBytes 16 (wrap 128 i)
  | _ => leBytes 4 (wrap 32 i)

/-- A reduction's chunk over the folded set: the destination bytes of every shard in turn, and whether anything
saturated. -/
def Coll.reduced (x : Coll) (k : Nat) : Bytes × Bool :=
  let c := x.cmd
  let int := c.dstRec.format == 11
  let n := x.shards * x.chunkElems k
  let cols := (x.chunk k).folded.map fun f => elemsOf (if int then 4 else 16) n f.2
  let early := c.srcRec.format == 8 && cols.any fun col => col.any fun i => i == a128Max || i == -a128Max
  let out := (List.range n).map fun i => reduceElem int c.collOp (cols.map fun col => col.getD i 0)
  (out.flatMap fun o => c.collOut o.1, early || out.any (·.2))

def Coll.result (x : Coll) (members : List Nat) (me k : Nat) : CollResult :=
  let c := x.cmd
  let ch := x.chunk k
  let root := c.collRoot
  let rootless := if c.collKind = 5 then (mget ch.folded root).isNone
    else (c.collKind == 0 || c.collKind == 3) && !members.contains root
  if rootless || ch.folded = [] then ⟨0, false, []⟩
  else
    let n := ch.folded.length
    if c.collRed then
      let (bs, sat) := x.reduced k
      let mine := if c.collKind = 2 then (bs.drop ((x.slots.findIdx (· == me)) * x.chunkBytes k)).take (x.chunkBytes k)
        else if c.collKind = 0 && me != root then [] else bs
      ⟨n, sat, if mine = [] then [] else [(32768 * k, mine)]⟩
    else if c.collKind = 5 then ⟨n, false, [(32768 * k, (mget ch.folded root).getD [])]⟩
    else if c.collKind = 3 && me != root then ⟨n, false, []⟩
    else ⟨n, false, ch.folded.map fun f => (x.slots.findIdx (· == f.1) * x.partBytes + 32768 * k, f.2)⟩

/-- The header of a log entry up to its hash (R348). -/
def Coll.logHeader (x : Coll) (lsn k ver contrib rejected flags len : Nat) : Bytes :=
  let excl := x.first.filter fun r => (mget (x.chunk k).folded r).isNone
  leBytes 8 lsn ++ leBytes 4 x.group.toNat ++ leBytes 4 x.seq.toNat ++ leBytes 4 k ++ leBytes 4 ver
    ++ leBytes 4 contrib ++ leBytes 4 rejected ++ leBytes 4 flags ++ leBytes 4 len
    ++ leBytes 1 x.cmd.collKind ++ leBytes 1 x.cmd.collOp ++ leBytes 2 (wrap 16 x.cmd.collAnchor)
    ++ leBytes 4 excl.length ++ ((List.range 5).flatMap fun i => leBytes 4 (excl.getD i 0)) ++ List.replicate 28 0

/-- The reseed-log tee (R347 to R350): whether the chunk was teed. A full log counts an overflow, and management is
told (R453). -/
def State.tee (s : State) (x : Coll) (k ver contrib rejected flags : Nat) (payload : Bytes) : Bool × State :=
  match (s.iface x.vi).job with
  | none => (false, s)
  | some j =>
    let ring := (s.iface x.vi).physBase + j.ring
    let head := s.ramLE ring 8
    let slots := s.ramLE (ring + 24) 8
    if (head + 2 ^ 64 - s.ramLE (ring + 8) 8) % 2 ^ 64 = slots then
      let n := (s.ramLE (ring + 16) 8 + 1) % 2 ^ 64
      (false, (s.ramWrite (ring + 16) (leBytes 8 n)).emit (.pldm 6 (leBytes 4 j.id.toNat ++ leBytes 8 n)))
    else
      let p := payload.take 32768
      let hd := x.logHeader head k ver contrib rejected (flags ||| 4) p.length
      let h := sm3 (s.ramRead (ring + 32) 32 ++ hd ++ p)
      let s1 := s.ramWrite (ring + 64 + 32896 * (head % slots)) (hd ++ h ++ p)
      (true, (s1.ramWrite (ring + 32) h).ramWrite ring (leBytes 8 (head + 1)))

/-- The chunk is written and its entry stands at COMMIT + 16k: the last one releases the ranges and completes the
command before the counter rises (R360). -/
def State.closeChunk (s : State) (c : Cmd) (x : Coll) (k : Nat) : State :=
  let x1 := x.setChunk k { x.chunk k with committed := true, staged := [] }
  let last := (List.range x.chunkCount).all fun i => (x1.chunk i).committed
  let s1 := if last then s.dropCmd c else
    { (s.modCmd c fun d => { d with part := d.part.filter fun y => y.1 != k }) with colls := mset s.colls c.id x1 }
  match c.plot with
  | some p => s1.bump c.core p c.dstRec.counter.toNat
  | none => s1

/-- What a result writes at its destination, as parts of memory and the bytes that go there. -/
def Cmd.collParts (c : Cmd) (ws : List (Nat × Bytes)) : List (Option Nat × Nat) :=
  ws.flatMap fun w => c.dstRec.parts ⟨w.1, 1, w.2.length, w.2.length⟩ 0 w.2.length

/-- A chunk's result is fixed, at the roster version at which the test of R343 passes; none as long as it does not. -/
def State.fixResult (s : State) (x : Coll) (j : Job) (k : Nat) : Option (CollResult × Nat) :=
  let members := j.members x.group.toNat x.seq.toNat
  let ch := x.chunk k
  let settled (r : Nat) : Bool := (mget ch.folded r).isSome || ch.rejected.contains r
  if x.chunkCount ≤ k || ch.committed then none
  else
    ch.result.orElse fun _ =>
      if (x.contributors members).all settled then some (x.result members s.rank.toNat k, j.roster.version.toNat) else none

/-- The destination is written; the chunk's log entry, its commit entry and the counter follow (R258, R347). -/
def State.collEntry (s : State) (c : Cmd) (x : Coll) (k : Nat) (res : CollResult) (ver : Nat) : State :=
  match s.cmdPlace c 0 .wr ((c.collCommit + 16 * k) % 2 ^ 64) with
  | (.wait, s1) => s1
  | (.fail cause a, s1) => s1.failCmd c cause a
  | (.ok p, s1) =>
    let rej := (x.chunk k).rejected.length
    let flags := res.sat.toNat + 2 * (decide (0 < rej)).toNat
    let (teed, s2) := if c.collLog then s1.tee x k ver res.contrib rej flags (res.writes.flatMap (·.2)) else (false, s1)
    let entry := leBytes 4 res.contrib ++ leBytes 4 ver ++ leBytes 4 rej ++ leBytes 4 (flags + 4 * teed.toNat)
    ((s2.cmdPut c p entry).saturated c.role res.sat).closeChunk c x k

/-- A chunk commits at this member: its result is fixed, its destination written in the pieces that `atom` picks (R306),
and then its entry. -/
def State.collCommit (s : State) (c : Cmd) (x : Coll) (j : Job) (k : Nat) (atom : Option Nat) : State :=
  match s.fixResult x j k with
  | none => s
  | some (res, ver) =>
    let x1 := x.setChunk k { x.chunk k with result := some (res, ver) }
    match State.cmdStore { s with colls := mset s.colls c.id x1 } c k 0 c.dstRec.kind atom (c.collParts res.writes)
        (res.writes.flatMap (·.2)) with
    | (.ok true, s1) => s1.collEntry c x1 k res ver
    | (.ok false, s1) => s1
    | (.wait, s1) => s1
    | (.fail cause a, s1) => s1.failCmd c cause a

/-- A chunk of a running collective commits, if it can now. -/
def State.commitChunk (s : State) (coll k : Nat) (atom : Option Nat) : State :=
  match mget s.colls coll, s.cmdAny coll with
  | some x, some c =>
    match s.jobNo x.job with
    | some (_, j) => if s.cmdRuns c then s.collCommit c x j k atom else s
    | none => s
  | _, _ => s

/-- COLL_CHUNK_COMMIT, of a switched-out context's collective too (R405). -/
def execCollChunkCommit (coll : Nat) (k : Portion Nat) (s : State) : Out := .next (s.commitChunk coll k.what k.atom)

end Sys2Proof.Machine
end

