-- ==== Sys2Proof/Machine/Control.lean ====
section
/-! DEFINITION. Transfers (R145 to R147), calls and returns (R148 to R152), structured divergence (R154 to R159), and
ending, stopping and waiting (R160 to R164). -/

namespace Sys2Proof.Machine

/-- NOP has no effect (R163). -/
def execNop (_g : PReg) (s : State) : Out := done 0 s (.ok s)

/-! ## Transfers (R145 to R147) -/

/-- A literal target from the issuing word (R62). -/
def State.targetOf (s : State) (t : Target) : Nat := (s.me.pc + 4 * t.signExtend 64).toNat

/-- A transfer to a literal target when taken; the run goes on otherwise (R67). -/
def branch (s : State) (t : Target) (taken : Bool) : Out :=
  if taken then withTarget s (s.targetOf t) fun s' => .ok (s'.transfer s'.cur (BitVec.ofNat 64 (s.targetOf t)))
  else done 1 s (.ok s)

def execBra (t : Target) (g : PReg) (s : State) : Out := branch s t (s.me.part g ≠ 0)
def execBrcAny (t : Target) (g : PReg) (s : State) : Out := branch s t (s.me.part g ≠ 0)
def execBrcAll (t : Target) (g : PReg) (s : State) : Out :=
  branch s t (s.me.active ≠ 0 && s.me.part g = s.me.active)
def execBrcNone (t : Target) (g : PReg) (s : State) : Out := branch s t (s.me.part g = 0)

def execBrx (a : SReg) (g : PReg) (s : State) : Out :=
  withScalar s a g 0 fun s v => withTarget s v.toNat fun s => .ok (s.transfer s.cur v)

/-! ## Calls (R32, R148, R149) -/

def framelimit (info : Nat) : Trap := { cause := causeFramelimit, info := info }

/-- The demand of a call in registers (R148). -/
def demandV (d : Demand) : Nat := 8 * (d.extractLsb' 0 7).toNat
def demandS (d : Demand) : Nat := 4 * (d.extractLsb' 7 5).toNat

/-- A frame-changing instruction waits in place for open stages (R144), and its run is held while a flag-A operation is
outstanding (R65, R74). -/
def frameChange (s : State) (body : State → Out) : Out :=
  if s.flagAOut s.cur then .next (s.hold s.cur 0 .start) else body (s.modMe (·.settle))

/-- The frame part of a call whose target is good: the frame is granted now, or the role parks on a frame request
(R32, R33, R42). -/
def State.enterFrame (s : State) (k v sc : Nat) (target ret : BitVec 64) : State :=
  let r := s.role k
  let need := callNeed r.groups v sc
  match (if s.mayMeet r.core (s.core r.core).frameReqs need then (s.core r.core).nextGen else none) with
  | some (gen, c) => ((s.setCore r.core (c.take need)).pushFrame k v sc gen ret).transfer k target
  | none => s.parkFrame k (.call v sc target ret)

/-- A call with a target and a demand (R148). -/
def callTo (s : State) (dem : Demand) (target : Nat) : Out :=
  frameChange s fun s =>
    let r := s.me
    if r.frame.sc ≠ 64 then flow s (.error regfield)
    else if 62 ≤ r.frames.length then flow s (.error (framelimit 0))
    else if r.budget.any (fun b => b < r.liveV + demandV dem) then flow s (.error (framelimit 1))
    else withTarget s target fun s' => .ok (s'.enterFrame s'.cur (demandV dem) (demandS dem) (BitVec.ofNat 64 target) r.fallThrough)

def execCallf (t : Target) (dem : Demand) (g : PReg) (s : State) : Out :=
  if s.me.part g = 0 then done 2 s (.ok s) else callTo s dem (s.targetOf t)
def execCallx (a : SReg) (dem : Demand) (g : PReg) (s : State) : Out :=
  withScalar s a g 1 fun s v => callTo s dem v.toNat

/-! ## Returns (R34, R35, R150, R151) -/

/-- The top n frames popped to a checked return point; a spilled frame that becomes current is refilled (R40). -/
def State.returnTo (s : State) (k n : Nat) (ret : BitVec 64) : State :=
  let at' := (s.role k).pc.toNat
  let s1 := (s.popFrames k n).transfer k ret
  if (s1.role k).frame.spilled.isSome then (s1.modRole k fun r => { r with retAt := some at' }).tryRefill k else s1

/-- A return of n frames, its link record read as a tagged unit (R21, R44); it waits while the frame it returns to is
being spilled (R53). -/
def returnOf (s : State) (n : Nat) : Out :=
  let r := s.me
  match r.frames[n - 1]?, r.frames[n]? with
  | some c, some f =>
    if c.hiddenTag linkUnit = poisonTag then flow s (.error { cause := causeRegloss })
    else if ((s.core r.core).spill.map (·.gen)) = some f.gen then .next (s.hold s.cur 0 (.spill f.gen))
    else withTarget s c.link.ret.toNat fun s' => .ok (s'.returnTo s'.cur n c.link.ret)
  | _, _ => .next s

def execRetf (g : PReg) (s : State) : Out :=
  if s.me.part g = 0 then done 0 s (.ok s)
  else frameChange s fun s => if s.me.frames.length ≤ 1 then .next (s.endRole s.cur) else returnOf s 1

def execUnwind (n : Imm7) (g : PReg) (s : State) : Out :=
  if s.me.part g = 0 then done 0 s (.ok s)
  else frameChange s fun s =>
    let i := sext n.toNat 7
    if i < 1 || (s.me.frames.length : Int) - 1 < i then flow s (.error (framelimit 4)) else returnOf s i.toNat

/-- WINB waits for open stages, and is held while any register is pending (R152); its window is checked before either
(log entry 26). -/
def execWinb (w : Imm7) (g : PReg) (s : State) : Out :=
  if s.me.part g = 0 then done 0 s (.ok s)
  else
    let i := sext w.toNat 7
    if i < 0 || (s.me.frame.v : Int) - 16 < 8 * i then flow s (.error regfield)
    else if s.flagAOut s.cur then .next (s.hold s.cur 0 .pendingRegs)
    else
      let s := s.modMe (·.settle)
      done 0 s (.ok (s.modMe fun r => r.setFrame { r.frame with w := 8 * i.toNat }))

/-! ## Structured divergence (R154 to R158) -/

/-- What a structured instruction does to a role: a mask-stack fault, or the role after it and whether its target is
taken. -/
abbrev Structured := Option (Role × Bool)

/-- A structured instruction: a target that is taken is checked before anything changes (R155). -/
def structured (s : State) (lits : Nat) (t : Target) (x : Structured) : Out :=
  match x with
  | none => flow s (.error (framelimit 3))
  | some (r, false) => done lits s (.ok (s.setMe r))
  | some (r, true) =>
    withTarget s (s.targetOf t) fun s' =>
      .ok ((s'.setMe r).transfer s'.cur (BitVec.ofNat 64 (s.targetOf t)))

/-- The newest entry, when it lies above the frame's mask base (R154). -/
def Role.top (r : Role) : Option MaskEntry :=
  if r.stack.length ≤ r.frame.link.maskBase then none else r.stack.head?

/-- The role with an entry pushed; a fault at depth 32. -/
def Role.push (r : Role) (e : MaskEntry) : Option Role :=
  if 32 ≤ r.stack.length then none else some { r with stack := e :: r.stack }

/-- The role with its newest entry replaced or popped. -/
def Role.setTop (r : Role) (e : MaskEntry) : Role := { r with stack := e :: r.stack.tail }
def Role.pop (r : Role) : Role := { r with stack := r.stack.tail }

/-- IFP (R156). -/
def ifpRole (r : Role) (c : Mask) : Structured :=
  (r.push ⟨.ifK, r.mask, r.mask &&& ~~~c, false⟩).map fun r' => (r'.setMask c, c = 0)

/-- ELSEP (R156). -/
def elsepRole (r : Role) : Structured :=
  match r.top with
  | some e =>
    if e.kind = .ifK && !e.elsed then
      some ((r.setTop { e with pend := 0, elsed := true }).setMask e.pend, e.pend = 0)
    else none
  | none => none

/-- ENDIF (R156). -/
def endifRole (r : Role) : Structured :=
  match r.top with
  | some e => if e.kind = .ifK then some (r.pop.setMask e.saved, false) else none
  | none => none

/-- LOOP (R157): with no lane, the entry is popped again and the exit taken. -/
def loopRole (r : Role) : Structured :=
  (r.push ⟨.loopK, r.mask, 0, false⟩).map fun r' =>
    if r.mask = 0 then (r.setMask r.mask, true) else (r'.setMask r.mask, false)

/-- The stack with lanes x removed above the newest LOOP entry, and added to its pending lanes for CONT (R157). -/
def leaveStack (x : Mask) (toPend : Bool) (base : Nat) : List MaskEntry → Option (List MaskEntry)
  | [] => none
  | e :: rest =>
    if rest.length < base then none
    else
      match e.kind with
      | .serK => none
      | .loopK => some ({ e with pend := if toPend then e.pend ||| x else e.pend } :: rest)
      | .ifK => (leaveStack x toPend base rest).map fun rest' =>
          { e with saved := e.saved &&& ~~~x, pend := e.pend &&& ~~~x } :: rest'

/-- BRK and CONT (R157). -/
def leaveRole (r : Role) (x : Mask) (toPend : Bool) : Structured :=
  (leaveStack x toPend r.frame.link.maskBase r.stack).map fun st =>
    (({ r with stack := st }).setMask (r.mask &&& ~~~x), false)

/-- ENDL (R157). -/
def endlRole (r : Role) : Structured :=
  match r.top with
  | some e =>
    if e.kind = .loopK then
      let m := r.mask ||| e.pend
      if m ≠ 0 then some ((r.setTop { e with pend := 0 }).setMask m, true)
      else some (r.pop.setMask e.saved, false)
    else none
  | none => none

/-- The lowest lane of a mask, alone (R158). -/
def lowestOf (m : Mask) : Mask :=
  match lowestLane m with
  | some i => 1 <<< i
  | none => 0

/-- SERB (R158). -/
def serbRole (r : Role) : Structured :=
  let l := lowestOf r.mask
  (r.push ⟨.serK, r.mask, r.mask &&& ~~~l, false⟩).map fun r' => (r'.setMask l, false)

/-- SERE (R158). -/
def sereRole (r : Role) : Structured :=
  match r.top with
  | some e =>
    if e.kind = .serK then
      if e.pend ≠ 0 then
        let l := lowestOf e.pend
        some ((r.setTop { e with pend := e.pend &&& ~~~l }).setMask l, true)
      else some (r.pop.setMask e.saved, false)
    else none
  | none => none

def execIfp (a : PReg) (t : Target) (g : PReg) (s : State) : Out :=
  structured s 1 t (ifpRole s.me (s.me.mask &&& s.me.frame.pred a &&& s.me.frame.pred g))
def execElsep (t : Target) (s : State) : Out := structured s 1 t (elsepRole s.me)
def execEndif (s : State) : Out := structured s 0 0 (endifRole s.me)
def execLoop (t : Target) (s : State) : Out := structured s 1 t (loopRole s.me)
def execBrk (a : PReg) (g : PReg) (s : State) : Out :=
  structured s 0 0 (leaveRole s.me (s.me.mask &&& s.me.frame.pred a &&& s.me.frame.pred g) false)
def execCont (a : PReg) (g : PReg) (s : State) : Out :=
  structured s 0 0 (leaveRole s.me (s.me.mask &&& s.me.frame.pred a &&& s.me.frame.pred g) true)
def execEndl (t : Target) (s : State) : Out := structured s 1 t (endlRole s.me)
def execSerb (s : State) : Out := structured s 0 0 (serbRole s.me)
def execSere (t : Target) (s : State) : Out := structured s 1 t (sereRole s.me)

/-! ## Ending, stopping and waiting (R160 to R164) -/

def execExit (g : PReg) (s : State) : Out :=
  if s.me.part g = 0 then done 0 s (.ok s) else frameChange s fun s => .next (s.endRole s.cur)

def execTrap (c : Imm7) (g : PReg) (s : State) : Out :=
  if s.me.part g = 0 then done 0 s (.ok s)
  else .next (takeTrap s s.cur { cause := c.setWidth 8, info := 1 })

/-- SVC resumes after its literal (R162). -/
def execSvc (n : BitVec 30) (g : PReg) (s : State) : Out :=
  if s.me.part g = 0 then done 1 s (.ok s)
  else .next (takeTrap s s.cur { cause := causeSvc, info := n.toNat, resume := some (s.me.off + 2) })

def execBkpt (g : PReg) (s : State) : Out :=
  if s.me.part g = 0 then done 0 s (.ok s)
  else .next (takeTrap s s.cur { cause := causeBkpt, resume := some (s.me.off + 1) })

/-- YIELD ends the run after itself; the role stays ready (R163). -/
def execYield (g : PReg) (s : State) : Out :=
  if s.me.part g = 0 then done 0 s (.ok s)
  else
    let r := s.me
    let s1 := if hdrLen r.hdrWord < r.off + 1 then s.transfer s.cur r.fallThrough
      else s.endRun s.cur r.hdr (r.off + 1) .ready
    .next (s1.modMe fun r => { r with yielded := true })

/-- Whether every flag of a mask is clear (R69). -/
def Role.flagsClear (r : Role) (m : BitVec 12) : Bool :=
  (List.range 12).all fun i => !m.getLsbD i || r.flags.getD i 0 == 0

def execWaitf (m : BitVec 12) (g : PReg) (s : State) : Out :=
  if s.me.part g = 0 || s.me.flagsClear m then done 1 s (.ok s)
  else .next (s.park s.cur (.flags m))

end Sys2Proof.Machine
end

