-- ==== Sys2Proof/Machine/Matrix.lean ====
section
/-! DEFINITION. Matrix work (R259 to R271, R317 to R324): tile configurations, moves between memory, tiles,
accumulators and registers, and the array's operations with the matrix queue (R318). The arithmetic is that of R130 to
R135. -/

namespace Sys2Proof.Machine

/-! ## Units as whole byte strings -/

/-- Memory holding these bytes from address 0. -/
def memOf (bs : Bytes) : Mem := (bs.zipIdx.filter fun x => x.1 != 0#8).map fun x => (x.2, x.1)

/-- The first n bytes of memory. -/
def Mem.toBytes (m : Mem) (n : Nat) : Bytes := go m 0 n
where
  go : Mem → Nat → Nat → Bytes
    | _, _, 0 => []
    | [], i, n + 1 => 0 :: go [] (i + 1) n
    | (a, b) :: m, i, n + 1 => if a = i then b :: go m (i + 1) n else 0 :: go ((a, b) :: m) (i + 1) n

/-- A unit as its configuration reads it (R44). -/
def wholeUnit (units : AMap TileUnit) (key : Nat) (gen : BitVec 16) (n : Nat) : Bytes :=
  match mget units key with
  | some u => if u.tag = gen then u.data.toBytes n else List.replicate n 0
  | none => List.replicate n 0

def Tcfg.tile (c : Tcfg) (u t : Nat) : Bytes := wholeUnit c.tiles (16 * u + t) c.gen 8192
def Tcfg.acc (c : Tcfg) (u a : Nat) : Bytes := wholeUnit c.accs (8 * u + a) c.gen 32768
def Tcfg.setTile (c : Tcfg) (u t : Nat) (bs : Bytes) : Tcfg :=
  { c with tiles := mset c.tiles (16 * u + t) ⟨c.gen, memOf bs, []⟩ }
def Tcfg.setAcc (c : Tcfg) (u a : Nat) (bs : Bytes) : Tcfg :=
  { c with accs := mset c.accs (8 * u + a) ⟨c.gen, memOf bs, []⟩ }

/-- Fields of a configuration word (R259). -/
def Tcfg.nt (c : Tcfg) : Nat := fieldOf c.word.toNat 4 0
def Tcfg.na (c : Tcfg) : Nat := fieldOf c.word.toNat 11 8
def Tcfg.scaleBytes (c : Tcfg) : Nat := 256 * fieldOf c.word.toNat 21 16
def Tcfg.subs (c : Tcfg) : List Nat := ownedOf c.word

/-- The tag of a unit, by number (R25). -/
def Tcfg.unitTag (c : Tcfg) (unit : Nat) : BitVec 16 :=
  let u := unit / 64
  let i := unit % 64
  let tag (m : AMap TileUnit) (k : Nat) : BitVec 16 := ((mget m k).map (·.tag)).getD voidTag
  if i < 16 then tag c.tiles (16 * u + i) else if i < 32 then tag c.accs (8 * u + (i - 16))
  else tag c.scales (32 * u + (i - 32))

/-- Whether a unit, by number, carries the configuration's generation, or is poison (R44). -/
def Tcfg.live (c : Tcfg) (unit : Nat) : Bool := c.unitTag unit == c.gen
def Tcfg.isPoison (c : Tcfg) (unit : Nat) : Bool := c.unitTag unit == poisonTag && !c.live unit

/-! ## Tag checks (R261) -/

/-- No unit's number. -/
def noUnit : Nat := 1024

/-- The units that unfinished matrix work writes. -/
def MatOp.writes (o : MatOp) : List Nat :=
  o.subp.map fun u =>
    match o.kind with
    | .mma acc _ _ _ _ none => accUnit u acc.toNat
    | .mma _ _ _ _ _ (some t) => tileUnit u t.toNat
    | .mtrn d _ => tileUnit u d.toNat
    | .mprm d _ => tileUnit u d.toNat
    | .mrsum d _ => accUnit u d.toNat
    | .accz d => accUnit u d.toNat
    | .accrd _ _ _ _ => noUnit
    | .accwr a _ _ _ => accUnit u a.toNat
def State.cmdWrites (s : State) (c : Cmd) : List Nat :=
  match c.kind with
  | .mst _ => []
  | _ => s.cmdUnits c

/-- Whether an earlier, unfinished writer leaves a unit under the configuration's generation. -/
def State.unitComing (s : State) (tk unit : Nat) : Bool :=
  s.mats.any (fun o => o.team == tk && o.writes.contains unit)
    || (s.matrixCmds tk).any fun c => (s.cmdWrites c).contains unit

/-- The units of a list that carry another tag than the configuration's generation when an instruction issues (R261). -/
def State.otherUnits (s : State) (r : Role) (c : Tcfg) (units : List Nat) : List Nat :=
  units.filter fun u => !(c.live u || s.unitComing r.team u)

/-- REGLOSS for a unit that is poison: one that is read, or written in part (R25, R44, R45). -/
def State.unitLost (s : State) (r : Role) (c : Tcfg) (units : List Nat) : Res Unit :=
  if (s.otherUnits r c units).any c.isPoison then .error { cause := causeRegloss } else .ok ()

/-- The tag check of units that are read: REGLOSS for poison, and in tag-trap mode TAGREAD for another generation (R44);
the lowest unit of the list decides. -/
def State.unitTags (s : State) (r : Role) (c : Tcfg) (units : List Nat) : Res Unit :=
  match (s.otherUnits r c units).find? fun u => c.isPoison u || r.tagTrap with
  | some u => .error { cause := if c.isPoison u then causeRegloss else causeTagread }
  | none => .ok ()

/-- The configuration of the role's team (R259). -/
def State.myTcfg (s : State) : Res Tcfg :=
  match s.myTeam.tcfg with
  | some c => .ok c
  | none => .error regfield

def Tcfg.hasTile (c : Tcfg) (t : TReg) : Res Unit := if t.toNat < c.nt then .ok () else .error regfield
def Tcfg.hasAcc (c : Tcfg) (a : AReg) : Res Unit := if a.toNat < c.na then .ok () else .error regfield

/-! ## Operand errors (R269, R324, R390) -/

/-- The detail of an OPERR record: entries logged, replacements counted beyond them, four entries. -/
def operrDetail (es : List OpErr) (more : Nat) : Bytes :=
  leBytes 4 es.length ++ leBytes 4 more
    ++ es.flatMap fun e =>
      leBytes 8 e.addr.toNat ++ leBytes 1 e.operand ++ leBytes 1 e.subp ++ leBytes 2 e.row ++ leBytes 4 e.col

/-- An operand error is recorded at its role, OPFLAGS[0] and the cause that is pending for it, with the detail it now has
(R269, R324). -/
def Role.operr (r : Role) (d : Deferred) : Role :=
  { r with
    opflags := r.opflags ||| 1
    deferred := if !r.operrEn then r.deferred
      else if r.deferred.any (·.cause == causeOperr) then r.deferred.map fun x => if x.cause = causeOperr then d else x
      else r.deferred ++ [d] }

/-- Elements an operation of role k replaced by zero: the team's log of four entries, OPFLAGS[0] of the role, and OPERR
at the next clause boundary if the plot enables it. -/
def State.replaced (s : State) (k tk : Nat) (plot : Option Nat) (teamIdx roleId : Nat) (es : List OpErr) : State :=
  if es = [] then s
  else
    let t := s.team tk
    let all := t.opErrs ++ es
    let log := all.take 4
    let more := t.opErrMore + (all.length - 4)
    let d : Deferred := { cause := causeOperr, batch := 0, addr := 0, detail := operrDetail log more }
    let s1 := s.modTeam tk fun t => { t with opErrs := log, opErrMore := more }
    match mget s1.roles k with
    | some r =>
      let s2 := if r.operrEn && !(r.deferred.any (·.cause == causeOperr)) then s1.count 6 2 else s1
      s2.setRole k (r.operr d)
    | none =>
      if ((plot.bind (mget s1.plots)).map (·.operr)).getD false then (s1.count 6 2).defer k plot teamIdx roleId d else s1

/-! ## TCFG and TREL (R259, R260) -/

/-- Bytes of a configuration's tile block (R398). -/
def tileBlockSize (w : BitVec 64) : Nat :=
  512 + (ownedOf w).length * (8192 * fieldOf w.toNat 4 0 + 32768 * fieldOf w.toNat 11 8 + 256 * fieldOf w.toNat 21 16)

/-- A configuration is allocated when units, a generation and a place for its block can be had; `older` are the
requests that wait before it (R33). -/
def State.allocTcfg (s : State) (tk : Nat) (older : List Nat) (w : BitVec 64) : Option State :=
  let t := s.team tk
  if !s.mayMeet t.core older (tcfgNeed w) then none
  else
    match (s.core t.core).nextGen, t.plot.bind (mget s.plots) with
    | some (gen, c), some p =>
      (s.reserve p.vi (tileBlockSize w)).map fun x =>
        (x.2.setCore t.core (c.take (tcfgNeed w))).modTeam tk fun t =>
          { t with tcfg := some ⟨w, gen, [], [], [], some (x.1, tileBlockSize w)⟩ }
    | _, _ => none

/-- A configuration word with a reserved bit, a count out of range or no sub-partition. -/
def tcfgBad (w : Nat) : Bool :=
  fieldOf w 63 28 != 0 || fieldOf w 23 22 != 0 || fieldOf w 15 12 != 0 || fieldOf w 7 5 != 0
  || decide (16 < fieldOf w 4 0) || decide (8 < fieldOf w 11 8) || decide (32 < fieldOf w 21 16)
  || fieldOf w 27 24 == 0

/-- Whether a sub-partition of the role's core is of its world: the world map gives the world of the core's cluster, to
all four of its sub-partitions (R410, R411). -/
def State.subInWorld (s : State) (r : Role) (_u : Nat) : Bool :=
  r.plot.isNone || (mget s.worldMap (r.core / 4)).getD 0 == s.worldOf r

def execTcfg (a : SReg) (g : PReg) (s : State) : Out :=
  withScalar s a g 0 fun s w =>
    let tk := s.me.team
    if tcfgBad w.toNat then flow s (.error { cause := causeIllop })
    else if (ownedOf w).any fun u => !s.subInWorld s.me u then flow s (.error { cause := causePerm })
    else if s.myTeam.tcfg.isSome && s.matrixBusy tk then flow s (.error { cause := causeTilebusy })
    else
      let s1 := s.releaseTcfg tk
      match s1.allocTcfg tk (s1.myCore).frameReqs w with
      | some s2 => done 0 s2 (.ok s2)
      | none => .next (s1.parkFrame s1.cur (.tcfg w))

def execTrel (_a : SReg) (g : PReg) (s : State) : Out :=
  if s.me.part g = 0 || s.myTeam.tcfg.isNone then done 0 s (.ok s)
  else
    done 0 s (if s.matrixBusy s.me.team then .error { cause := causeTilebusy } else .ok (s.releaseTcfg s.me.team))

/-! ## CPYS (R244) -/

def execCpys (d a : SReg) (b : BufSel) (g : PReg) (s : State) : Out :=
  match s.me.frame.sname d.toNat with
  | .error t => flow s (.error t)
  | .ok dx =>
    if s.me.part g ≠ 0 && s.myTeam.tcfg.isNone then flow s (.error regfield)
    else engineOp s 0 [a.toNat] [] (some b) g fun s rs _ src =>
      let x : CopyDesc := ⟨(rs.getD 0 ⟨0⟩).n⟩
      let r := s.me
      match (do
          let c ← s.myTcfg
          let w ← r.frame.readS r.tagTrap dx
          src.check r [0, 2, 3] (selRec b)
          let n := w.toNat
          if src.format ≠ 9 || x.bad false false || fieldOf n 63 20 ≠ 0 || fieldOf n 15 13 ≠ 0 then
            .error { cause := causeBounds } else .ok ()
          if (x.cntS || x.cntD) && !s.granted r src.counter.toNat then .error { cause := causePerm } else .ok ()
          if (cpysSubs n).any fun u => !c.subs.contains u then .error { cause := causePerm } else .ok ()
          if cpysOff n % 2 ≠ 0 || x.rowBytes % 2 ≠ 0 then .error { cause := causeAlign } else .ok ()
          let from' ← s.rowsCheck r src (x.srcRows src) (selRec b)
          if c.scaleBytes < cpysOff n + x.rows * x.rowBytes then .error { cause := causeBounds } else .ok ()
          .ok (w, locksOf from' none) : Res (BitVec 64 × List RangeLock)) with
      | .error t => flow s (.error t)
      | .ok (w, ls) =>
        acceptQ s 0 { Cmd.plain .cpys with
          src := cap src, dst := w.setWidth 256, desc := BitVec.ofNat 256 x.n, bsel := b
          lanes := [(0, r.pc, 0)] } ls (if src.kind = 1 then [src.rank] else [])

/-! ## MLD and MST (R262) -/

/-- Rows a tile move names: `copies` tiles from row i0 on. -/
def tileRows (x : Rec) (i0 copies : Nat) : Rows :=
  let rb := x.stride0
  let step := if x.stride1 = 0 then rb else x.stride1
  ⟨i0 * step, copies * (8192 / rb), step, rb⟩

/-- Whether a row length is a power of two from 16 to 8,192. -/
def tileRowOk (rb : Nat) : Bool := (List.range 10).any fun i => rb == 16 * 2 ^ i

/-- A command's captured first row index and instruction address stand in its descriptor. -/
def Cmd.firstRow (c : Cmd) : Nat := fieldOf c.desc.toNat 31 0
def Cmd.issuedAt (c : Cmd) : BitVec 64 := BitVec.ofNat 64 (fieldOf c.desc.toNat 127 64)

def tileMove (s : State) (isLoad : Bool) (t : TReg) (a : VReg) (b : BufSel) (g : PReg) : Out :=
  if s.me.part g ≠ 0 && !(s.myTeam.tcfg.any fun c => decide (t.toNat < c.nt)) then flow s (.error regfield)
  else
    engineOp s 0 [] [a] (some b) g fun s _ rows x =>
      let r := s.me
      let i0 := indexOf (rows.getD 0 []) ((lowestLane (r.part g)).getD 0)
      match (do
          let c ← s.myTcfg
          if isLoad then .ok () else s.unitTags r c (c.subs.map fun u => tileUnit u t.toNat)
          x.check r [0, 2, 3] (selRec b)
          if tileRowOk x.stride0 then .ok () else .error { cause := causeBounds, info := selRec b }
          let span ← s.rowsCheck r x (tileRows x i0 (if isLoad then 1 else c.subs.length)) (selRec b)
          .ok (if isLoad then locksOf span none else locksOf none span) : Res (List RangeLock)) with
      | .error e => flow s (.error e)
      | .ok ls =>
        let desc := BitVec.ofNat 256 (i0 + 2 ^ 64 * r.pc.toNat)
        let c := Cmd.plain (if isLoad then .mld t else .mst t)
        let c := if isLoad then { c with src := cap x } else { c with dst := cap x }
        accept s 0 { c with desc := desc, bsel := b } ls false [] false toQueue

def execMld (d : TReg) (a : VReg) (b : BufSel) (g : PReg) (s : State) : Out := tileMove s true d a b g
def execMst (d : TReg) (a : VReg) (b : BufSel) (g : PReg) (s : State) : Out := tileMove s false d a b g

/-! ## Accumulators and registers (R263) -/

/-- A matrix instruction of the role, as an entry of the list of unfinished ones. -/
def State.matOp (s : State) (k : MatKind) (subs : List Nat) (b : List (List Lanes)) : MatOp where
  id := s.next; team := s.me.team; role := s.cur; roleId := s.me.roleId; core := s.me.core; kind := k
  subp := subs; b := b; addr := s.me.pc; started := false; folded := 0

/-- ACCZ's effect. -/
def Tcfg.zeroAcc (c : Tcfg) (a : AReg) : Tcfg := c.subs.foldl (fun c u => c.setAcc u a.toNat []) c

def execAccz (d : AReg) (g : PReg) (s : State) : Out :=
  if s.me.part g = 0 then done 0 s (.ok s)
  else
    done 0 s (do
      let c ← s.myTcfg
      c.hasAcc d
      let tk := s.me.team
      .ok (if s.unitsBusy tk s.next (c.subs.map fun u => accUnit u d.toNat) then
          ({ s with mats := s.mats ++ [s.matOp (.accz d) c.subs []] } : State).numbered
        else s.modTcfg tk (·.zeroAcc d)))

/-- The lanes of groups on owned sub-partitions. -/
def ownedMask (r : Role) (c : Tcfg) : Mask :=
  maskG r.groups fun g => if c.subs.contains (g % 4) then 0xFFFFFFFF else 0

/-- First byte of the slice that group g reaches. -/
def sliceAt (i0 : BitVec 64) (g : Nat) : Nat := 128 * ((i0.toNat % 256 + g / 4) % 256)

/-- ACCRD and ACCWR: checked at issue, they are an entry of the unfinished matrix work from then on, in issue order; their
run ends at their word, and their role is held until they have taken effect (R261, R263, R321). -/
def accMove (s : State) (v : VReg) (a : AReg) (b : SReg) (g : PReg)
    (body : State → Tcfg → Nat → Mask → BitVec 64 → Res MatKind) : Out :=
  let f := s.me.frame
  match (do
      let x ← f.vname v
      let n ← f.sname b.toNat
      .ok (x, n) : Res (Nat × Nat)) with
  | .error t => flow s (.error t)
  | .ok (x, n) =>
    let s := s.modMe (·.settleFor [x])
    if s.me.part g = 0 then done 0 s (.ok s)
    else
      match (do
          let c ← s.myTcfg
          c.hasAcc a
          let i0 ← s.me.frame.readS s.me.tagTrap n
          let k ← body s c x (s.me.part g &&& ownedMask s.me c) i0
          .ok (s.matOp k c.subs []) : Res MatOp) with
      | .error t => flow s (.error t)
      | .ok o => .next ((({ s with mats := s.mats ++ [o] } : State).numbered).hold s.cur 1 (.accMove o.id))

/-- The accumulators that the groups of a mask reach. -/
def accsOf (r : Role) (m : Mask) (a : AReg) : List Nat :=
  ((List.range r.groups).filter fun g => groupMask m g ≠ 0).map fun g => accUnit (g % 4) a.toNat

def execAccrd (d : VReg) (a : AReg) (b : SReg) (g : PReg) (s : State) : Out :=
  accMove s d a b g fun s c x m i0 => do
    s.unitTags s.me c (accsOf s.me m a)
    s.me.checkReg x m
    .ok (.accrd a i0 m x)

/-- ACCWR writes a part of its accumulators: one that is poison raises REGLOSS (R45). -/
def execAccwr (d : AReg) (a : VReg) (b : SReg) (g : PReg) (s : State) : Out :=
  accMove s a d b g fun s c x m i0 => do
    let rows ← s.me.readReg x m
    s.unitLost s.me c (accsOf s.me m d)
    .ok (.accwr d i0 m rows)

/-- ACCRD's result: the slices as rows, for every group. -/
def Tcfg.slices (c : Tcfg) (a : AReg) (i0 : BitVec 64) (groups : Nat) : List Lanes :=
  (List.range groups).map fun g =>
    BitVec.ofNat 1024 (leNat (unitBytes c.accs (8 * (g % 4) + a.toNat) c.gen (sliceAt i0 g) 128))

/-- ACCWR's effect on a configuration. -/
def Tcfg.putSlices (c : Tcfg) (a : AReg) (i0 : BitVec 64) (m : Mask) (rows : List Lanes) : Tcfg :=
  (laneList m).foldl (fun c n =>
    let grp := n / 32
    { c with accs := putUnit c.accs (8 * (grp % 4) + a.toNat) c.gen (sliceAt i0 grp + 4 * (n % 32))
              (leBytes 4 (lane (rows.getD grp 0) (n % 32)).toNat) }) c

/-! ## Formats of the array (R130, R266) -/

/-- Digit passes of a B format (R3). -/
def passes : Nat → Option Nat
  | 3 => some 1 | 1 => some 2 | 2 => some 4 | 4 => some 4 | 5 => some 4 | 7 => some 6 | 6 => some 8 | 8 => some 12
  | _ => none

/-- Whether A takes a format. -/
def aFormat (f : Nat) : Bool := f == 2 || (decide (4 ≤ f) && decide (f ≤ 8))

/-- The floating-point format of a code, if it is one. -/
def floatFmt : Nat → Option Fmt
  | 4 => some .e4m3 | 5 => some .e5m2 | 6 => some .f16 | 7 => some .bf16 | 8 => some .f32
  | _ => none

/-- Magnitude bits kept. -/
def keepA : Nat := 24
def keepB : Nat → Nat
  | 7 => 11 | 6 => 15 | 8 => 23 | _ => 7

/-- Bytes of a local row of B whose matrix has `n` columns. -/
def bStride (f n : Nat) : Nat :=
  match f with
  | 1 => n / 2
  | 3 => roundUp (ceilDiv n 5) 16
  | _ => n * fmtBytes f

/-- Registers that hold each quarter of B. -/
def bRegs (f blen blocks no : Nat) : Nat := ceilDiv (ceilDiv (blocks * blen) no * bStride f (64 * no)) 128

/-- A format block's reserved bits and block length. -/
def fbBad (x : BitVec 64) : Bool :=
  let n := x.toNat
  fieldOf n 63 32 != 0 || fieldOf n 30 29 != 0 || fieldOf n 15 8 != 0 || decide (2 < fieldOf n 7 4)

/-- Check 3 of R265. -/
def fbPairBad (fa fb : BitVec 64) : Bool :=
  fbBad fa || fbBad fb || !aFormat (fbFmt fa) || fieldOf fa.toNat 7 4 != fieldOf fb.toNat 7 4
  || match passes (fbFmt fb) with
    | some p => decide (384 < fbLen fb * p)
    | none => true

/-! ## Alignment and the fold (R131, R133, R135) -/

/-- A block's elements on one exponent; none when one is not finite. -/
def alignBlock (int : Bool) (keep : Nat) (xs : List FVal) : Option (List Int × Int) :=
  let fin (x : FVal) : Bool := match x with
    | .fin _ _ _ => true
    | _ => false
  let tops := xs.filterMap fun x => match x with
    | .fin _ m e => if m = 0 then none else some (e + bitLen m - 1)
    | _ => none
  if !xs.all fin then none
  else
    let at' (e0 : Int) (x : FVal) : Int := match x with
      | .fin neg m e =>
        let k : Int := if e0 ≤ e then shl m (e - e0) else m / 2 ^ (e0 - e).toNat
        if neg then -k else k
      | _ => 0
    match tops with
    | [] => some (xs.map fun _ => 0, 0)
    | t :: ts =>
      if int then some (xs.map (at' 0), 0)
      else
        let e := ts.foldl max t - ((keep : Int) - 1)
        some (xs.map (at' e), e)

/-- The value of an S16 scale, and the scale 1. -/
def scaleVal (x : Nat) : FVal := Fmt.bf16.decode x
def scaleOne : FVal := .fin false 1 0

/-- A cell's fold: none as its sum when an element of the block is not finite. -/
def foldCell (acc : Nat) (sum : Option (Int × Int)) (sa sb : FVal) : Nat :=
  let isInf (x : FVal) : Bool := match x with
    | .inf _ => true
    | _ => false
  let negOf (x : FVal) : Bool := match x with
    | .inf n => n
    | .fin n _ _ => n
    | .nan _ => false
  match sum with
  | none => Fmt.f32.nan
  | some (k, e) =>
    if sa.isNan || sb.isNan then Fmt.f32.nan
    else if isInf sa || isInf sb then
      if k = 0 then Fmt.f32.nan
      else (Fmt.f32.add 0 (Fmt.f32.decode acc) (.inf (xor (decide (k < 0)) (xor (negOf sa) (negOf sb))))).1
    else
      match Fmt.f32.decode acc, sa, sb with
      | .nan _, _, _ => Fmt.f32.nan
      | .inf _, _, _ => acc
      | x, .fin na ma ea, .fin nb mb eb =>
        let m := k.natAbs * ma * mb
        if m = 0 then acc
        else (Fmt.f32.add 0 x (.fin (xor (decide (k < 0)) (xor na nb)) m (e + ea + eb))).1
      | _, _, _ => acc

/-! ## The product (R266, R267) -/

/-- An MMA's operands. -/
structure MmaArgs where
  acc : Nat
  tile : Nat
  fa : BitVec 64
  fb : BitVec 64
  blocks : Nat
  subs : List Nat
  /-- the bytes of each owned sub-partition's quarter of B -/
  b : List Bytes
  deriving DecidableEq, Repr

def MmaArgs.no (p : MmaArgs) : Nat := p.subs.length
def MmaArgs.len (p : MmaArgs) : Nat := fbLen p.fb
def MmaArgs.fmtB (p : MmaArgs) : Nat := fbFmt p.fb

/-- The bytes of row k of B. -/
def MmaArgs.bRow (p : MmaArgs) (k : Nat) : Bytes :=
  let rs := bStride p.fmtB (64 * p.no)
  ((p.b.getD (k % p.no) []).drop (k / p.no * rs)).take rs

/-- An integer element. -/
def intVal (i : Int) : FVal := .fin (decide (i < 0)) i.natAbs 0

/-- Element n of a row of B. -/
def bElem (f : Nat) (row : Bytes) (n : Nat) : FVal :=
  let byte (i : Nat) : Nat := (row.getD i 0).toNat
  match f with
  | 3 => if 243 ≤ byte (n / 5) then intVal 0 else intVal (((byte (n / 5) / 3 ^ (n % 5) % 3 : Nat) : Int) - 1)
  | 1 => intVal (sext (byte (n / 2) / 16 ^ (n % 2)) 4)
  | 2 => intVal (sext (byte n) 8)
  | _ =>
    let size := fmtBytes f
    match floatFmt f with
    | some t => t.decode (leNat ((row.drop (n * size)).take size))
    | none => intVal 0

/-- An element of A from its bytes. -/
def aElem (f : Nat) (bs : Bytes) : FVal :=
  match floatFmt f with
  | some t => t.decode (leNat bs)
  | none => intVal (sext (leNat bs) 8)

/-- The bytes of a unit that its configuration cannot read (R269). -/
def badBytes (units : AMap TileUnit) (key : Nat) (gen : BitVec 16) : List Nat :=
  match mget units key with
  | some u => if u.tag = gen then u.bad else []
  | none => []

/-- Elements of a size with an uncorrectable byte become zero (R269). -/
def zeroBad (size : Nat) (bad : List Nat) (bs : Bytes) : Bytes :=
  if bad = [] then bs else bs.zipIdx.map fun x => if bad.any fun i => i / size == x.2 / size then 0 else x.1

/-- Where scale i of a format block stands, and whether it has an uncorrectable byte (R269). -/
def scaleOff (fb : BitVec 64) (i : Nat) : Nat := fbOff fb + 2 * i
def Tcfg.scaleBad (c : Tcfg) (u : Nat) (fb : BitVec 64) (i : Nat) : Bool :=
  let off := scaleOff fb i
  fbScaled fb && (badBytes c.scales (32 * u + off / 256) c.gen).any fun k => k / 2 == off % 256 / 2

/-- A scale of sub-partition u at a byte offset. -/
def Tcfg.scaleAt (c : Tcfg) (u : Nat) (fb : BitVec 64) (i : Nat) : FVal :=
  if fbScaled fb then
    let off := scaleOff fb i
    scaleVal (if c.scaleBad u fb i then 0
      else leNat (unitBytes c.scales (32 * u + off / 256) c.gen (off % 256) 2))
  else scaleOne

/-- A tile's bytes as the elements of A (R269). -/
def Tcfg.aTile (c : Tcfg) (u t size : Nat) : Bytes :=
  zeroBad size (badBytes c.tiles (16 * u + t) c.gen) (c.tile u t)

/-- Bytes cut into n elements of a size. -/
def cutBytes (size : Nat) : Nat → Bytes → List Bytes
  | 0, _ => []
  | n + 1, bs => bs.take size :: cutBytes size n (bs.drop size)

/-- Block b folded into the accumulator elements of owned sub-partition u, of index j: element (m, n) in place
64m + n. -/
def Tcfg.foldBlock (c : Tcfg) (p : MmaArgs) (u j b : Nat) (acc : List Nat) : List Nat :=
  let len := p.len
  let fA := fbFmt p.fa
  let size := fmtBytes fA
  let aBytes := (List.range (aTiles p.fa p.blocks)).flatMap fun i => c.aTile u (p.tile + i) size
  let rowsB := (List.range len).map fun k => p.bRow (b * len + k)
  let cols := (List.range 64).map fun n =>
    (alignBlock (floatFmt p.fmtB).isNone (keepB p.fmtB) (rowsB.map fun row => bElem p.fmtB row (64 * j + n)),
      c.scaleAt u p.fb (64 * b + n))
  let rows := (cutBytes (p.blocks * len * size) 128 aBytes).zipIdx.map fun x =>
    (alignBlock (floatFmt fA).isNone keepA
        ((cutBytes size len (x.1.drop (b * len * size))).map (aElem fA)),
      c.scaleAt u p.fa (128 * b + x.2))
  let cells := rows.flatMap fun r => cols.map fun q => (r, q)
  (cells.zip acc).map fun x =>
    let ((ra, sa), (cb, sb)) := x.1
    let sum := match ra, cb with
      | some (ai, ea), some (bi, eb) => some ((List.zipWith (· * ·) ai bi).sum, ea + eb)
      | _, _ => none
    foldCell x.2 sum sa sb

/-- An accumulator's elements. -/
def Tcfg.accElems (c : Tcfg) (u a : Nat) : List Nat := (cutBytes 4 8192 (c.acc u a)).map leNat

/-- Blocks lo to hi − 1 folded from the accumulator's elements. -/
def Tcfg.folded (c : Tcfg) (p : MmaArgs) (u j lo hi : Nat) : List Nat :=
  (List.range (hi - lo)).foldl (fun acc i => c.foldBlock p u j (lo + i) acc) (c.accElems u p.acc)

/-- MMA over blocks lo to hi − 1: the accumulator of every owned sub-partition. -/
def Tcfg.mma (c : Tcfg) (p : MmaArgs) (lo hi : Nat) : Tcfg :=
  p.subs.zipIdx.foldl (fun c x => c.setAcc x.1 p.acc ((c.folded p x.1 x.2 lo hi).flatMap (leBytes 4))) c

/-- MMA.SGN: the sign tile of every owned sub-partition. -/
def Tcfg.mmaSgn (c : Tcfg) (p : MmaArgs) (t : Nat) : Tcfg :=
  p.subs.zipIdx.foldl (fun c' x =>
    let signs := (c.folded p x.1 x.2 0 p.blocks).map fun v => v / 2 ^ 31 % 2
    c'.setTile x.1 t ((List.range 1024).map fun i =>
      BitVec.ofNat 8 (packNat 1 (fun k => (signs.drop (8 * i)).getD k 0) 8))) c

/-- The bytes of blocks lo to hi − 1 of B that are no TRIT5 code (R119, R269): row by row. -/
def MmaArgs.badTrits (p : MmaArgs) (addr : BitVec 64) (lo hi : Nat) : List OpErr :=
  if p.fmtB ≠ 3 then []
  else (List.range ((hi - lo) * p.len)).flatMap fun i =>
    let k := lo * p.len + i
    let row := p.bRow k
    ((List.range (ceilDiv (64 * p.no) 5)).filter fun j => 243 ≤ (row.getD j 0).toNat).map fun j =>
      ⟨addr, 5, p.subs.getD (k % p.no) 0, k, 5 * j⟩

/-- The elements of A and the scales of blocks lo to hi − 1 that owned sub-partition u, of index j, replaces by zero
(R269): A row by row, then the scales of A and of B block by block (log entry 72). -/
def Tcfg.badElems (c : Tcfg) (p : MmaArgs) (addr : BitVec 64) (lo hi u j : Nat) : List OpErr :=
  let size := fmtBytes (fbFmt p.fa)
  let perRow := p.blocks * p.len
  let es := ((List.range (aTiles p.fa p.blocks)).flatMap fun i =>
    (badBytes c.tiles (16 * u + (p.tile + i)) c.gen).map fun k => (8192 * i + k) / size).eraseDups
  let a := (es.filter fun e => decide (lo * p.len ≤ e % perRow) && decide (e % perRow < hi * p.len)
    && decide (e / perRow < 128)).map fun e => (⟨addr, 0, u, e / perRow, e % perRow⟩ : OpErr)
  let blocks := (List.range (hi - lo)).map (lo + ·)
  a ++ (blocks.flatMap fun b => ((List.range 128).filter fun m => c.scaleBad u p.fa (128 * b + m)).map fun m =>
      (⟨addr, 2, u, m, b * p.len⟩ : OpErr))
    ++ blocks.flatMap fun b => ((List.range 64).filter fun n => c.scaleBad u p.fb (64 * b + n)).map fun n =>
      (⟨addr, 3, u, b * p.len, 64 * j + n⟩ : OpErr)

/-! ## Tile operations (R270) -/

/-- A tile's bytes transposed. -/
def transposed (t : Bytes) : Bytes :=
  let a := t.toArray
  (List.range 8192).map fun i => a.getD (64 * (i % 128) + i / 128) 0

/-- Rows of a tile taken by the bytes of a register row. -/
def permuted (t : Bytes) (q : Lanes) : Bytes :=
  (List.range 128).flatMap fun r =>
    let x := (q.toNat / 2 ^ (8 * r)) % 256
    if x < 128 then (t.drop (64 * x)).take 64 else List.replicate 64 0

/-- Column 0 of an accumulator with each row's byte sum added. -/
def rowSummed (acc : List Nat) (t : Bytes) : List Nat :=
  let rows := cutBytes 64 128 t
  acc.zipIdx.map fun x =>
    if x.2 % 64 = 0 then
      let k : Int := ((rows.getD (x.2 / 64) []).map fun b => sext b.toNat 8).sum
      foldCell x.1 (some (k, 0)) scaleOne scaleOne
    else x.1

/-- A queued instruction's operands as an MMA's. -/
def MatOp.args (o : MatOp) : MmaArgs :=
  match o.kind with
  | .mma acc tile fa fb blocks _ =>
    ⟨acc.toNat, tile.toNat, fa, fb, blocks, o.subp, o.b.map fun rs => rs.flatMap fun x => leBytes 128 x.toNat⟩
  | _ => ⟨0, 0, 0, 0, 0, o.subp, []⟩

/-- What an unfinished matrix instruction does to its configuration. -/
def MatOp.effect (o : MatOp) (c : Tcfg) : Tcfg :=
  match o.kind with
  | .mma _ _ _ _ n none => c.mma o.args o.folded n
  | .mma _ _ _ _ _ (some t) => c.mmaSgn o.args t.toNat
  | .mtrn d a => o.subp.foldl (fun c u => c.setTile u d.toNat (transposed (c.tile u a.toNat))) c
  | .mprm d a =>
    o.subp.foldl (fun c u => c.setTile u d.toNat (permuted (c.tile u a.toNat) ((o.b.headD []).headD 0))) c
  | .mrsum d a =>
    o.subp.foldl (fun c u =>
      c.setAcc u d.toNat ((rowSummed (c.accElems u d.toNat) (c.tile u a.toNat)).flatMap (leBytes 4))) c
  | .accz d => c.zeroAcc d
  | .accrd _ _ _ _ => c
  | .accwr a i0 m rows => c.putSlices a i0 m rows

/-- The replacements that blocks lo to hi − 1 of an MMA make. -/
def MatOp.errorsIn (o : MatOp) (c : Tcfg) (lo hi : Nat) : List OpErr :=
  (o.subp.zipIdx.flatMap fun x => c.badElems o.args o.addr lo hi x.1 x.2) ++ o.args.badTrits o.addr lo hi

/-- The replacements an instruction makes, in blocks not yet folded. -/
def MatOp.errors (o : MatOp) (c : Tcfg) : List OpErr :=
  match o.kind with
  | .mma _ _ _ _ n _ => o.errorsIn c o.folded n
  | _ => []

/-! ## Issue (R265, R268, R270, R318) -/

/-- Whether an unfinished instruction stays out of the arrays: its role or team is saved (R401). -/
def State.dormant (s : State) (o : MatOp) : Bool :=
  (s.team o.team).out || ((mget s.roles o.role).map fun r => r.status.isSaved).getD false

/-- Whether an instruction is an entry of the matrix queues (R318). -/
def MatKind.queued : MatKind → Bool
  | .accz _ => false
  | .accrd _ _ _ _ => false
  | .accwr _ _ _ _ => false
  | _ => true

/-- Whether a queue of an owned sub-partition is full. -/
def State.queueFull (s : State) (core : Nat) (subs : List Nat) : Bool :=
  subs.any fun u => decide (8 ≤ (s.mats.filter fun o => o.core == core && o.kind.queued && !s.dormant o && o.subp.contains u).length)

/-- A checked instruction enters the queues, or its role is held until they have room. -/
def State.enqueue (s : State) (lits : Nat) (o : MatOp) : Out :=
  if s.queueFull o.core o.subp then .next (s.hold s.cur 0 .matrixFull)
  else .next ((({ s with mats := s.mats ++ [o] } : State).numbered).advance s.cur lits)

/-- Whether a register is pending for a flag-A operation of an earlier run of a role (R73, R252). -/
def State.pendingBefore (s : State) (k : Nat) (regs : List Nat) : Bool :=
  let r := s.role k
  s.ops.any (fun o => o.role == k && o.runNo != r.runNo && o.dests.any regs.contains)
    || (s.core r.core).cmds.any fun c => c.role == k && c.runNo != r.runNo && c.dests.any regs.contains

/-- The names of an MMA's B registers, none beyond v127 (R266). -/
def Frame.bNames (f : Frame) (vb : VReg) (n : Nat) : Res (List Nat) :=
  if 128 < vb.toNat + n then .error regfield
  else f.vnames ((List.range n).map fun i => BitVec.ofNat 7 (vb.toNat + i))

/-- The B registers of an MMA from scalar values, as the scan of a run takes them: vb alone when they give no legal
span (R73). -/
def State.bSpan (s : State) (k : Nat) (vb : VReg) (fb : SReg) (k2 : Bool) : List Nat :=
  let r := s.role k
  let f := r.frame
  let span : Res (List Nat) := do
    let c ← match (s.team r.team).tcfg with
      | some c => .ok c
      | none => .error regfield
    let fa ← f.readS r.tagTrap fb.toNat
    let fx ← f.readS r.tagTrap (fb.toNat + 1)
    if fbPairBad fa fx then .error regfield else f.bNames vb (bRegs (fbFmt fx) (fbLen fx) (1 + k2.toNat) c.subs.length)
  match span, f.vname vb with
  | .ok xs, _ => xs
  | _, .ok x => [x]
  | _, _ => []

/-- Rows of registers for one group, read in every lane. -/
def Role.readGroup (r : Role) (g : Nat) : List Nat → Res (List Lanes)
  | [] => .ok []
  | x :: xs => do
    let row ← r.frame.readRow r.tagTrap x g 0xFFFFFFFF
    let rest ← r.readGroup g xs
    .ok (row :: rest)

/-- Checks 1 to 5 of R265 in their order, the format pair's own name before them (log entry 29): the configuration, the
format pair, and the registers of B. -/
def State.mmaChecks (s : State) (r : Role) (d : AReg) (a : TReg) (vb : VReg) (fb : SReg) (k2 : Bool) (sgn : Option TReg) :
    Res (Tcfg × BitVec 64 × BitVec 64 × List Nat) := do
  let f := r.frame
  let blocks := 1 + k2.toNat
  let _ ← f.sname (fb.toNat + 1)
  let c ← match (s.team r.team).tcfg with
    | some c => .ok c
    | none => .error regfield
  c.hasAcc d
  c.hasTile a
  match sgn with
  | some t => c.hasTile t
  | none => .ok ()
  if c.subs.any fun u => r.groups ≤ u then .error { cause := causeMmagroup } else .ok ()
  let fa ← f.readS r.tagTrap fb.toNat
  let fx ← f.readS r.tagTrap (fb.toNat + 1)
  if fbPairBad fa fx then .error { cause := causeIllop } else .ok ()
  if c.nt < a.toNat + aTiles fa blocks then .error regfield else .ok ()
  let xs ← f.bNames vb (bRegs (fbFmt fx) (fbLen fx) blocks c.subs.length)
  let scale (x : BitVec 64) (n : Nat) : Bool := fbScaled x && decide (c.scaleBytes < fbOff x + n * blocks)
  if fbOff fa % 2 ≠ 0 || fbOff fx % 2 ≠ 0 then .error { cause := causeAlign } else .ok ()
  if scale fa 256 || scale fx 128 then .error { cause := causeBounds } else .ok ()
  .ok (c, fa, fx, xs)

/-- Whether an MMA waits in place: its checks pass, and a register of its span is pending from an earlier run (R73). -/
def State.mmaWaits (s : State) (k : Nat) (d : AReg) (a : TReg) (vb : VReg) (fb : SReg) (k2 : Bool) (sgn : Option TReg) :
    Bool :=
  match s.mmaChecks (s.role k) d a vb fb k2 sgn with
  | .ok (_, _, _, xs) => s.pendingBefore k xs
  | .error _ => false

/-- MMA and MMA.SGN: the checks of R265 in order, then the queue. -/
def mmaOp (s : State) (d : AReg) (a : TReg) (vb : VReg) (fb : SReg) (k2 : Bool) (sgn : Option TReg) (g : PReg) : Out :=
  match s.me.frame.sname (fb.toNat + 1) with
  | .error t => flow s (.error t)
  | .ok _ =>
  if s.me.part g = 0 then done 1 s (.ok s)
  else
    let blocks := 1 + k2.toNat
    match s.mmaChecks s.me d a vb fb k2 sgn with
    | .error t => flow s (.error t)
    | .ok (c, fa, fx, xs) =>
      if s.pendingBefore s.cur xs then .next s
      else
        let s := s.modMe (·.settleFor xs)
        match (do
            let b ← c.subs.mapM fun u => s.me.readGroup u xs
            let o := s.matOp (.mma d a fa fx blocks sgn) c.subs b
            let target := match sgn with
              | some t => c.subs.map fun u => tileUnit u t.toNat
              | none => []
            -- a sign tile is only written
            s.unitTags s.me c ((o.units.filter fun u => !target.contains u
              || decide (a.toNat ≤ u % 64 && u % 64 < a.toNat + aTiles fa blocks)))
            .ok o : Res MatOp) with
        | .error t => flow s (.error t)
        | .ok o => s.enqueue 1 o

def execMma (d : AReg) (a : TReg) (b : VReg) (fb : SReg) (k2 : Bool) (g : PReg) (s : State) : Out :=
  mmaOp s d a b fb k2 none g
def execMmaSgn (d : AReg) (a : TReg) (b : VReg) (fb : SReg) (k2 : Bool) (st : TReg) (g : PReg) (s : State) : Out :=
  mmaOp s d a b fb k2 (some st) g

/-- The tile operations: what they name, what they read, and the register row of MPRM. -/
def tileOp (s : State) (g : PReg) (k : MatKind) (has : Tcfg → Res Unit) (reads : Nat → List Nat) (vb : Option VReg) :
    Out :=
  match (match vb with
      | some v => (s.me.frame.vname v).map fun x => [x]
      | none => .ok [] : Res (List Nat)) with
  | .error t => flow s (.error t)
  | .ok xs =>
    let s := s.modMe (·.settleFor xs)
    if s.me.part g = 0 then done 1 s (.ok s)
    else
      match (do
          let c ← s.myTcfg
          has c
          let b ← s.me.readGroup 0 xs
          s.unitTags s.me c (c.subs.flatMap reads)
          .ok (s.matOp k c.subs [b]) : Res MatOp) with
      | .error t => flow s (.error t)
      | .ok o => s.enqueue 1 o

def execMtrn (d a : TReg) (g : PReg) (s : State) : Out :=
  tileOp s g (.mtrn d a) (fun c => do c.hasTile d; c.hasTile a) (fun u => [tileUnit u a.toNat]) none
def execMprm (d a : TReg) (b : VReg) (g : PReg) (s : State) : Out :=
  tileOp s g (.mprm d a) (fun c => do c.hasTile d; c.hasTile a) (fun u => [tileUnit u a.toNat]) (some b)
def execMrsum (d : AReg) (a : TReg) (g : PReg) (s : State) : Out :=
  tileOp s g (.mrsum d a) (fun c => do c.hasAcc d; c.hasTile a)
    (fun u => [tileUnit u a.toNat, accUnit u d.toNat]) none

/-! ## The arrays (R261, R318) -/

/-- Whether an entry is at the head of the queue of every owned sub-partition. -/
def State.atHead (s : State) (o : MatOp) : Bool :=
  o.kind.queued && !s.dormant o && !(s.mats.any fun p => p.core == o.core && !s.dormant p && decide (p.id < o.id) && p.subp.any o.subp.contains
    && p.kind.queued)

def State.setMat (s : State) (o : MatOp) : State :=
  { s with mats := s.mats.map fun p => if p.id = o.id then o else p }

def execMatrixQueueStart (op : Nat) (s : State) : Out :=
  .next (match s.mats.find? fun o => o.id == op with
    | some o =>
      if s.atHead o && !s.unitsBusy o.team o.id o.units then s.setMat { o with started := true } else s
    | none => s)

/-- What an instruction has left to do is done: to its configuration, with its replacements reported, and for ACCRD to its
destination register. -/
def State.finishMat (s : State) (o : MatOp) : State :=
  let t := s.team o.team
  let s1 := (s.modTcfg o.team o.effect).replaced o.role o.team t.plot t.teamIdx o.roleId ((t.tcfg.map o.errors).getD [])
  match o.kind, t.tcfg with
  | .accrd a i0 m x, some c =>
    (s1.modRole o.role fun r => r.writeReg x m (c.slices a i0 r.groups)).claim o.role x m
  | _, _ => s1

/-- An instruction has taken effect: it is unfinished no more. -/
def State.endMat (s : State) (o : MatOp) : State :=
  let s1 := s.finishMat o
  { s1 with mats := s1.mats.filter fun p => p.id != o.id }

/-- Whether an instruction may take effect now: a queue entry once it has started, the others once the earlier work that
shares their units is over (R261, R263). -/
def State.matReady (s : State) (o : MatOp) : Bool :=
  !s.dormant o && if o.kind.queued then o.started else !s.unitsBusy o.team o.id o.units

def execMatrixComplete (op : Nat) (s : State) : Out :=
  .next (match s.mats.find? fun o => o.id == op with
    | some o => if s.matReady o then (s.endMat o).reapTeam o.team else s
    | none => s)

/-! ## Stops (R260, R268, R401) -/

/-- A running instruction comes to its next pre-emption unit: a K-block of MMA and MMA.SGN is folded, anything else and a
last K-block ends. A sign tile is written once both blocks are, and what stands of the first is its errors. -/
def State.finishUnit (s : State) (o : MatOp) : State :=
  match o.kind with
  | .mma _ _ _ _ n sgn =>
    if o.folded + 1 < n then
      let t := s.team o.team
      let s1 := if sgn.isSome then s else s.modTcfg o.team fun c => c.mma o.args o.folded (o.folded + 1)
      (s1.replaced o.role o.team t.plot t.teamIdx o.roleId
        ((t.tcfg.map fun c => o.errorsIn c o.folded (o.folded + 1)).getD [])).setMat
          { o with folded := o.folded + 1, started := false }
    else s.endMat o
  | _ => s.endMat o

/-- A pre-emption stops an instruction that runs after the unit it is in (R268, R401). -/
def State.stopMat (s : State) (o : MatOp) : State := if o.started then s.finishUnit o else s

/-- Unfinished matrix work of a team is dropped, what runs of it at its next unit: what its finished units of work have
done stands (R260). -/
def State.dropMatrix (s : State) (tk : Nat) : State :=
  let s0 := (s.mats.filter fun o => o.team == tk && o.started).foldl (fun s o => s.finishUnit o) s
  let s1 : State := { s0 with mats := s0.mats.filter fun o => o.team != tk }
  let gone := (s1.matrixCmds tk).map (·.id)
  let s2 := s1.modCore (s.team tk).core fun co => { co with
    cmds := co.cmds.filter fun c => !gone.contains c.id
    locks := co.locks.filter fun l => !gone.contains l.cmd }
  { s2 with saved := mmap (fun _ x => { x with
      cmds := x.cmds.filter fun c => !gone.contains c.id
      locks := x.locks.filter fun l => !gone.contains l.cmd }) s2.saved }

def execTrelDiscard (_a : SReg) (g : PReg) (s : State) : Out :=
  if s.me.part g = 0 || s.myTeam.tcfg.isNone then done 0 s (.ok s)
  else done 0 s (.ok ((s.dropMatrix s.me.team).releaseTcfg s.me.team))

end Sys2Proof.Machine
end

