-- ==== Sys2Proof/Machine/EngineRun.lean ====
section
/-! DEFINITION. Engine commands at work (R238 to R246, R251 to R253, R262): a chunk or packet done, the last source byte
read, the command complete. -/

namespace Sys2Proof.Machine

/-! ## Packets of a transfer (R251) -/

/-- The Prery address of an offset in a global record: it keeps the rank and region of the base (R325). -/
def Rec.preryAt (x : Rec) (off : Nat) : BitVec 64 :=
  BitVec.ofNat 64 (x.base / 2 ^ 40 * 2 ^ 40 + (x.base + off) % 2 ^ 40)

/-- The parts a packet of n bytes at an offset has at its global record: place in the packet, address, and how many of
its bytes are in range. Wrap may make several; otherwise there is one. -/
def Rec.packetParts (x : Rec) (off n : Nat) : List (Nat × BitVec 64 × Nat × Nat) :=
  if x.bounds = 2 then
    (wrapPieces x.extent n off n).foldl (fun (acc : List (Nat × BitVec 64 × Nat × Nat)) p =>
      let at' := (acc.map fun q => q.2.2.1).sum
      acc ++ [(at', x.preryAt (p.1.getD 0), p.2, p.2)]) []
  else [(0, x.preryAt off, n, if x.bounds = 1 then min n (x.extent - off) else n)]

/-- Whether a packet of a command has been sent. -/
def State.sentPkt (s : State) (c : Cmd) (k : Nat) : Bool :=
  c.done.contains k || s.outPkts.any fun o => o.cmd == c.id && o.idx == k

/-- A packet to be sent, its number still open. -/
def State.newPacket (s : State) (addr : BitVec 64) (key : BitVec 32) (op : PacketOp) (counter : BitVec 8) (counts : Bool)
    (interval : Option FenceId) : Packet :=
  { src := s.rank, seq := 0, addr := addr, key := key, op := op, counter := counter, counts := counts,
    interval := interval }

/-- Packet k of a PUT is read and sent, once the windows have room for it (R335): its first part counts, at the target and
in the role's interval. -/
def State.putPacket (s : State) (c : Cmd) (k : Nat) (ext : Bytes) (atom : Option Nat) : State :=
  let x := c.copy
  let (row, j, n) := x.packet k
  let src := c.srcRec
  let dst := c.dstRec
  match s.cmdRead c src.kind 0 (src.parts (x.srcRows src) (row * x.rowBytes + j) n) ext with
  | (.wait, s1) => s1
  | (.fail cause a, s1) => s1.failCmd c cause a
  | (.ok (bs, _), s1) =>
    let parts := dst.packetParts (x.dstOff + row * dst.rowStep x.rowBytes + j) n
    let first := ((parts.head?).map (·.2.1)).getD 0
    match s1.route (preryRank first), s1.roomTo (preryRank first) parts.length with
    | .unreachable, _ => s1.failCmd c causeRkey first.toNat
    | _, false => s1
    | _, true =>
      let (id, s2) := s1.countPacket c.role first n
      s2.sendPackets c k (parts.map fun p =>
        let op : PacketOp := .write ((bs.drop p.1).take p.2.2.1)
          (List.replicate p.2.2.2 true ++ List.replicate (p.2.2.1 - p.2.2.2) false)
        let own := p.1 = 0
        (p.1, s2.newPacket p.2.1 dst.key op dst.counter (own && x.cntD) (if own then id else none))) atom

/-- Packet k of a GET is asked for. -/
def State.getPacket (s : State) (c : Cmd) (k : Nat) : State :=
  let x := c.copy
  let (row, j, n) := x.packet k
  let src := c.srcRec
  let parts := src.packetParts (x.srcOff + row * src.rowStep x.rowBytes + j) n
  let first := ((parts.head?).map (·.2.1)).getD 0
  match s.route (preryRank first), s.roomTo (preryRank first) parts.length with
  | .unreachable, _ => s.failCmd c causeRkey first.toNat
  | _, false => s
  | _, true =>
    s.sendPackets c k (parts.map fun p =>
      (p.1, s.newPacket p.2.1 src.key (.read p.2.2.2) src.counter (p.1 = 0 && x.cntS) none)) none

/-- Lane k of a RATOM is sent, after the lanes before it that name its location are performed (R252); a dropped lane's old
value is zero. -/
def State.ratomLane (s : State) (c : Cmd) (op : BitVec 5) (wide : Bool) (k : Nat) : State :=
  match c.lanes[k]? with
  | none => s
  | some l =>
    if 1024 ≤ l.1 then
      if s.cmdRunOver c then (s.chunkDone c k).landLane c (l.1 - 1024) 0 else s
    else if (List.range k).any fun i => (c.lanes[i]?.map (·.2.1)) == some l.2.1 && !c.done.contains i then s
    else
      match s.route (preryRank l.2.1), s.roomTo (preryRank l.2.1) 1 with
      | .unreachable, _ => (s.refusedPkt c k l.2.1).2
      | _, false => s
      | _, true =>
        let (id, s1) := s.countPacket c.role l.2.1 (atomSize wide)
        s1.sendPackets c k [(0, s1.newPacket l.2.1 c.srcRec.key (.atomic op wide [(0, l.2.2)]) 0 false id)] none

/-! ## Chunks (R239, R245, R262) -/

/-- The chunks, lanes or packets a command has. -/
def State.cmdChunks (s : State) (c : Cmd) : Nat :=
  let x := c.copy
  match c.kind with
  | .cpy => ceilDiv (x.rows * x.rowBytes) 4096
  | .cpys => ceilDiv (x.rows * x.rowBytes) 4096
  | .gath => c.lanes.length
  | .scat => c.lanes.length
  | .put => x.packets
  | .get => x.packets
  | .ratom _ _ _ => c.lanes.length
  | .fencex => 2
  | .coll _ _ _ => 1
  | .rgnrev => 0
  | .mld _ => 2
  | .mst _ => 2 * (s.owned c.team).length

/-- What follows writing a chunk: it is done, or goes on at another event, or its command fails. -/
def State.stored (s : State) (c : Cmd) (k : Nat) : Io Bool → State
  | .ok true => s.chunkDone c k
  | .ok false => s
  | .wait => s
  | .fail cause a => s.failCmd c cause a

/-- A chunk read from one record and given to `put`, which answers whether it is written in full. -/
def State.moveChunk (s : State) (c : Cmd) (k : Nat) (kind : Nat) (parts : List (Option Nat × Nat)) (ext : Bytes)
    (put : State → Bytes → List Nat → Io Bool × State) : State :=
  match s.cmdRead c kind 0 parts ext with
  | (.wait, s1) => s1
  | (.fail cause a, s1) => s1.failCmd c cause a
  | (.ok (bs, bad), s1) =>
    let (r, s2) := put s1 bs bad
    s2.stored c k r

/-- Element k of a GATH or SCAT: its offset in the contiguous record and in the indexed one, and its size. -/
def Cmd.element (c : Cmd) (gather : Bool) (k : Nat) : Nat × Nat × Nat :=
  let (cont, idx) := if gather then (c.dstRec, c.srcRec) else (c.srcRec, c.dstRec)
  let e := cont.element
  let l := c.lanes.getD k (0, 0, 0)
  (l.1 * e, l.2.1.toNat * idx.elementStep e, e)

/-- Bytes that poisoned memory gave become zero. -/
def withoutBad (bs : Bytes) (bad : List Nat) : Bytes := bs.zipIdx.map fun x => if bad.contains x.2 then 0 else x.1

/-- One chunk of a command that may run, or those pieces of it that `atom` picks (R306). -/
def State.doChunk (s : State) (c : Cmd) (k : Nat) (ext : Bytes) (atom : Option Nat) : State :=
  let x := c.copy
  let src := c.srcRec
  let dst := c.dstRec
  match c.kind with
  | .cpy =>
    let n := min 4096 (x.rows * x.rowBytes - 4096 * k)
    s.moveChunk c k src.kind (src.parts (x.srcRows src) (4096 * k) n) ext fun s bs _ =>
      s.cmdStore c k 0 dst.kind atom (dst.parts (x.dstRows dst) (4096 * k) n) bs
  | .cpys =>
    let n := min 4096 (x.rows * x.rowBytes - 4096 * k)
    let w := c.dst.toNat
    s.moveChunk c k src.kind (src.parts (x.srcRows src) (4096 * k) n) ext fun s bs bad =>
      -- a scale with an uncorrectable error is zero (R269)
      let odd := bad.flatMap fun i => [i / 2 * 2, i / 2 * 2 + 1]
      let s1 := s.modTcfg c.team fun t =>
        (cpysSubs w).foldl (fun t u => t.putScales u (cpysOff w + 4096 * k) (withoutBad bs odd)) t
      let addr := (c.lanes.headD (0, 0, 0)).2.1
      let errs := (((bad.map (· / 2)).eraseDups).map fun i =>
        (⟨addr, 2, (cpysSubs w).headD 0, 0, (cpysOff w + 4096 * k) / 2 + i⟩ : OpErr))
      (.ok true, s1.replaced c.role c.team c.plot c.teamIdx c.roleId errs)
  | .gath =>
    let (co, io, e) := c.element true k
    s.moveChunk c k src.kind (src.parts ⟨io, 1, e, e⟩ 0 e) ext fun s bs _ =>
      s.cmdStore c k 0 dst.kind atom (dst.parts ⟨co, 1, e, e⟩ 0 e) bs
  | .scat =>
    let (co, io, e) := c.element false k
    -- elements are written in lane order, so that the highest lane supplies a byte
    if k ≠ c.done.length then s
    else s.moveChunk c k src.kind (src.parts ⟨co, 1, e, e⟩ 0 e) ext fun s bs _ =>
      s.cmdStore c k 0 dst.kind atom (dst.parts ⟨io, 1, e, e⟩ 0 e) bs
  | .put => s.putPacket c k ext atom
  | .get => s.getPacket c k
  | .ratom op wide _ => s.ratomLane c op wide k
  | .fencex =>
    let rank := preryRank (c.dst.setWidth 64)
    match c.fence with
    | none => s
    | some id =>
      if k ≠ 0 then s
      else
        match s.route rank with
        | .unreachable => s.failCmd c causeRkey (c.dst.toNat % 2 ^ 64)
        | .self => (s.modCmd c fun d => { d with done := [0] }).fenceAt id c.desc.toNat
        | _ =>
          let path := s.pathFrom rank (Config.spray s.free)
          (s.modCmd c fun d => { d with done := [0], sends := 1, path := path }).used.emit (.fence id rank c.desc.toNat path)
  | .mld t =>
    s.moveChunk c k src.kind (src.parts (tileRows src c.firstRow 1) (4096 * k) 4096) ext fun s bs bad =>
      let subs := s.owned c.team
      let data := withoutBad bs bad
      let s1 := s.modTcfg c.team fun tc => subs.foldl (fun (tc : Tcfg) u =>
        { tc with tiles := putUnit tc.tiles (16 * u + t.toNat) tc.gen (4096 * k) data }) tc
      let rb := src.stride0
      let errs := bad.map fun i =>
        (⟨c.issuedAt, 4, subs.headD 0, (4096 * k + i) / rb, (4096 * k + i) % rb⟩ : OpErr)
      (.ok true, s1.replaced c.role c.team c.plot c.teamIdx c.roleId errs)
  | .mst t =>
    let subs := s.owned c.team
    match (s.team c.team).tcfg with
    | none => s
    | some tc =>
      let data := (tc.tile (subs.getD (k / 2) 0) t.toNat).drop (4096 * (k % 2)) |>.take 4096
      let (r, s1) := s.cmdStore c k 0 dst.kind atom (dst.parts (tileRows dst c.firstRow subs.length) (4096 * k) 4096) data
      s1.stored c k r
  | _ => s

def execEngineChunkDone (cmd : Nat) (k : Portion Nat) (ext : Bytes) (s : State) : Out :=
  .next (match s.cmd cmd with
    | none => s
    | some c =>
      if !s.cmdRuns c then s
      else
        match c.kind with
        | .coll _ _ _ => s.collChunk c k.what
        | _ => if s.cmdChunks c ≤ k.what || s.sentPkt c k.what then s else s.doChunk c k.what ext k.atom)

/-! ## The last source byte read (R240, R242) -/

/-- Whether a command has read all of its source. -/
def State.sourceRead (s : State) (c : Cmd) : Bool :=
  match c.kind with
  | .coll _ _ _ => false
  | _ => (List.range (s.cmdChunks c)).all (s.sentPkt c)

/-- The source range is released, and then CNTS counts for a copy. -/
def State.sourceDone (s : State) (c : Cmd) : State :=
  let s1 := s.modCore c.core fun co => { co with locks := co.locks.filter fun l => !(l.cmd == c.id && !l.isDst) }
  let s2 := s1.modCmd c fun d => { d with srcDone := true }
  match c.kind, c.plot with
  | .cpy, some p => if c.copy.cntS then s2.bump c.core p c.srcRec.counter.toNat else s2
  | .cpys, some p => if c.copy.cntS then s2.bump c.core p c.srcRec.counter.toNat else s2
  | _, _ => s2

def execEngineSourceDone (cmd : Nat) (s : State) : Out :=
  .next (match s.cmd cmd with
    | some c => if s.sourceRead c && !c.srcDone then s.sourceDone c else s
    | none => s)

/-! ## Completion (R242, R245) -/

/-- Whether a command may complete. -/
def State.mayComplete (s : State) (c : Cmd) : Bool :=
  match c.kind with
  | .coll _ _ _ => false
  | .rgnrev => !(s.waitPkts.any fun w => preryRegion w.packet.addr == c.desc.toNat)
  | _ => (List.range (s.cmdChunks c)).all c.done.contains

/-- A command completes: its ranges are released, then it counts. -/
def State.complete (s : State) (c : Cmd) : State :=
  let s1 := if c.srcDone then s else s.sourceDone c
  let s2 := s1.dropCmd c
  let s3 := match c.kind, c.plot with
    | .cpy, some p => if c.copy.cntD then s2.bump c.core p c.dstRec.counter.toNat else s2
    | .cpys, some p => if c.copy.cntD then s2.bump c.core p c.srcRec.counter.toNat else s2
    | _, _ => s2
  if c.failed then s3.deferFor c (c.deferred causeRkey (c.desc.toNat % 2 ^ 64)) else s3

def execEngineCommandComplete (cmd : Nat) (s : State) : Out :=
  .next (match s.cmd cmd with
    | some c => if s.cmdRuns c && s.mayComplete c then s.complete c else s
    | none => s)

end Sys2Proof.Machine
end

