-- ==== Sys2Proof/Machine/Names.lean ====
section
/-! DEFINITION. What the start of a run looks at before any of its words issues: the registers an instruction names
(R73), the kind of completion flag it adds to (R70), whether it changes the frame (R65), and whether it makes a thread
access that R281 counts. -/

namespace Sys2Proof.Machine

/-- The vector names of an instruction, as source or destination, but for the span of B of MMA and MMA.SGN (R73). -/
def vNames : Instr → List VReg
  | .iaddV d a b _ | .isubV d a b _ | .imulV d a b _ | .andV d a b _ | .orV d a b _ | .xorV d a b _
  | .shlV d a b _ | .shrZ32V d a b _ | .shrS32V d a b _ | .rotlV d a b _
  | .imulhV _ d a b _ | .idivV _ d a b _ | .iremV _ d a b _ | .iminV _ d a b _ | .imaxV _ d a b _
  | .shfl d a b _ | .shflu d a b _ | .shfld d a b _ | .shflx d a b _ | .sel d a b _ _
  | .fadd d a b _ | .fmul d a b _ | .fdiv d a b _ | .fmin d a b _ | .fmax d a b _
  | .faddLong _ d a b _ | .fsub _ d a b _ | .fmulLong _ d a b _ | .fdivLong _ d a b _ | .fminLong _ d a b _
  | .fmaxLong _ d a b _ => [d, a, b]
  | .ffmaLong _ d a b c _ | .ffms _ d a b c _ | .fnma _ d a b c _
  | .hfma2 _ _ d a b c _ => [d, a, b, c]
  | .hadd2 _ _ d a b _ _ | .hmul2 _ _ d a b _ _ | .hmin2 _ _ d a b _ _ | .hmax2 _ _ d a b _ _ => [d, a, b]
  | .ffma k d a b _ => [d, a, b, 8 + k.setWidth 7]
  | .iaddiV d a _ _ | .bfx d a _ _ _ _ | .bfi d a _ _ _ | .mov d a _ | .not d a _ | .neg d a _ | .iabs d a _
  | .popc d a _ | .clz d a _ | .brev d a _ | .sext8 d a _ | .sext16 d a _
  | .gredIadd d a _ | .gredIminS32 d a _ | .gredIminZ32 d a _ | .gredImaxS32 d a _ | .gredImaxZ32 d a _
  | .gredAnd d a _ | .gredOr d a _ | .gredXor d a _ | .gredFadd d a _ | .gredFmin d a _ | .gredFmax d a _
  | .fmaxz d a _ | .fminz d a _ | .fsetk d a _ _ | .fsqrt _ d a _ | .frsq _ d a _ | .frcp _ d a _ | .fexp2 _ d a _
  | .flog2 _ d a _ | .fsin _ d a _ | .fcos _ d a _ | .ftanh _ d a _ | .frint _ d a _ | .fabs d a _ | .fneg d a _
  | .fcvtS32F32 _ d a _ | .fcvtZ32F32 _ d a _ | .fcvtF32S32 _ d a _ | .fcvtF32Z32 _ d a _ | .fcvtBf16F32 _ d a _
  | .fcvtF16F32 _ d a _ | .fcvtF32Bf16 _ d a _ | .fcvtF32F16 _ d a _ | .fcvtE4m3F32 _ d a _ | .fcvtE5m2F32 _ d a _
  | .fcvtF32E4m3 _ d a _ | .fcvtF32E5m2 _ d a _ | .lookup d a _ | .tagset d a _ | .taginv d a _ => [d, a]
  | .movlV d _ _ | .laneid d _ | .ballot d _ _ | .movs d _ _ | .hpop d _ _ | .accrd d _ _ _ => [d]
  | .icmpV _ a b _ _ | .fset _ a b _ _ => [a, b]
  | .rdln _ a _ _ | .rlk a _ _ | .runl a _ _ | .wlk a _ _ | .wunl a _ _ | .pref a _ _ | .hpush _ a _
  | .gath _ a _ _ | .scat _ a _ _ | .mld _ a _ _ | .mst _ a _ _ | .accwr _ a _ _ | .mprm _ _ a _ => [a]
  | .ld d a _ _ | .st d a _ _ | .waitw d a _ _ => [d, a]
  | .ldLong d a _ t _ _ | .stLong d a _ t _ _ | .ldp d a t _ | .stp d a t _ | .lds d a t _ | .sts d a t _
  | .putp d a t _ => a :: regGroup d (typeCount t)
  | .atom d a _ c _ w _ | .ratom d a _ c _ w _ => a :: (regGroup d (atomSize w / 4) ++ regGroup c (atomSize w / 4))
  | .atoms a _ c _ w _ => a :: regGroup c (atomSize w / 4)
  | .cas d a _ c e w _ => a :: (regGroup d (2 ^ w.toNat) ++ regGroup c (2 ^ w.toNat) ++ regGroup e (2 ^ w.toNat))
  | _ => []

/-- The four registers of a record's place. -/
def recNames (b : BufSel) : List Nat := (List.range 4).map (4 * selRec b + ·)
/-- Consecutive scalar names. -/
def sGroup (d : SReg) (n : Nat) : List Nat := (List.range n).map (d.toNat + ·)

/-- The scalar names of an instruction, as source or destination. -/
def sNames : Instr → List Nat
  | .brx a _ | .callx a _ _ | .wrsr a _ _ | .cacheIinv a _ | .cacheIinvall a _ | .cacheL1inv a _ | .movs _ a _
  | .arrv a _ _ | .barw a _ _ | .waitb a _ | .fencex a _ | .tcfg a _ => [a.toNat]
  | .rdsr d _ _ | .clock d _ | .movlS d _ _ | .voteAny d _ _ | .voteAll d _ _ | .voteCount d _ _ | .rdln d _ _ _
  | .cpyb d _ => [d.toNat]
  | .hash d b _ => sGroup d 4 ++ recNames b
  | .sign d a b _ => sGroup d 8 ++ sGroup a 4 ++ recNames b
  | .drdv d a _ | .dwrv d a _ | .drds d a _ | .dwrs d a _ | .drdt d a _ | .dwrt d a _ | .drda d a _ | .dwra d a _
  | .drdg d a _ | .dwrg d a _ => a.toNat :: sGroup d 2
  | .genrd d _ _ => sGroup d 2
  | .iaddS d a b _ | .isubS d a b _ | .imulS d a b _ | .imulhS _ d a b _ | .idivS _ d a b _ | .iremS _ d a b _
  | .iminS _ d a b _ | .imaxS _ d a b _ | .shrS32S d a b _ | .rotlS d a b _ | .andS d a b _ | .orS d a b _
  | .xorS d a b _ | .shlS d a b _ | .shrZ32S d a b _ => [d.toNat, a.toNat, b.toNat]
  | .iaddiS d a _ _ => [d.toNat, a.toNat]
  | .icmpS _ a b _ _ => [a.toNat, b.toNat]
  | .ld _ _ b _ | .ldLong _ _ b _ _ _ | .st _ _ b _ | .stLong _ _ b _ _ _ | .atom _ _ b _ _ _ _ | .atoms _ b _ _ _ _
  | .cas _ _ b _ _ _ _ | .rlk _ b _ | .runl _ b _ | .wlk _ b _ | .wunl _ b _ | .waitw _ _ b _ | .pref _ b _
  | .ratom _ _ b _ _ _ _ | .mld _ _ b _ | .mst _ _ b _ => recNames b
  | .cpy d a b _ | .put d a b _ | .get d a b _ | .trig d a b _ _ | .trigx d a b _ _ | .coll d a b _ _ _ _ =>
    sGroup d 4 ++ sGroup a 4 ++ recNames b
  | .cpys d a b _ => d.toNat :: (sGroup a 4 ++ recNames b)
  | .gath d _ b _ | .scat d _ b _ => sGroup d 4 ++ recNames b
  | .ctradd d a _ | .ctrset d a _ | .ctrwait d a _ | .ctrrd d a _ => [d.toNat, a.toNat]
  | .rgnreg d a _ => a.toNat :: sGroup d 2
  | .rgnrev d a _ => [d.toNat, a.toNat]
  | .accrd _ _ b _ | .accwr _ _ b _ => [b.toNat]
  | .mma _ _ _ fb _ _ | .mmaSgn _ _ _ fb _ _ _ => sGroup fb 2
  | _ => []

/-- The vector names an instruction reads. -/
def vReads (i : Instr) : List VReg :=
  match i with
  | .bfi _ _ _ _ _ | .icmpV _ _ _ _ _ | .fset _ _ _ _ _ | .rdln _ _ _ _ | .rlk _ _ _ | .runl _ _ _ | .wlk _ _ _
  | .wunl _ _ _ | .pref _ _ _ | .hpush _ _ _ | .gath _ _ _ _ | .scat _ _ _ _ | .mld _ _ _ _ | .mst _ _ _ _
  | .accwr _ _ _ _ | .mprm _ _ _ _ | .st _ _ _ _ | .waitw _ _ _ _ | .stLong _ _ _ _ _ _ | .stp _ _ _ _ | .sts _ _ _ _
  | .putp _ _ _ _ | .atoms _ _ _ _ _ _ => vNames i
  | .ldLong _ a _ _ _ _ | .ldp _ a _ _ | .lds _ a _ _ => [a]
  | .atom _ a _ c _ w _ | .ratom _ a _ c _ w _ => a :: regGroup c (atomSize w / 4)
  | .cas _ a _ c e w _ => a :: (regGroup c (2 ^ w.toNat) ++ regGroup e (2 ^ w.toNat))
  | _ => (vNames i).drop 1

/-- The scalar names an instruction reads. -/
def sReads (i : Instr) : List Nat :=
  match i with
  | .rdsr _ _ _ | .clock _ _ | .movlS _ _ _ | .voteAny _ _ _ | .voteAll _ _ _ | .voteCount _ _ _ | .rdln _ _ _ _
  | .cpyb _ _ | .genrd _ _ _ => []
  | .hash d b _ => sGroup d 4 ++ recNames b
  | .sign _ a b _ => sGroup a 4 ++ recNames b
  | .drdv _ a _ | .drds _ a _ | .drdt _ a _ | .drda _ a _ | .drdg _ a _ => [a.toNat]
  | .dwrv d a _ | .dwrs d a _ | .dwrt d a _ | .dwra d a _ | .dwrg d a _ => [a.toNat, d.toNat]
  | .iaddS _ a b _ | .isubS _ a b _ | .imulS _ a b _ | .imulhS _ _ a b _ | .idivS _ _ a b _ | .iremS _ _ a b _
  | .iminS _ _ a b _ | .imaxS _ _ a b _ | .shrS32S _ a b _ | .rotlS _ a b _ | .andS _ a b _ | .orS _ a b _
  | .xorS _ a b _ | .shlS _ a b _ | .shrZ32S _ a b _ => [a.toNat, b.toNat]
  | .iaddiS _ a _ _ => [a.toNat]
  | .ctrrd _ a _ => [a.toNat]
  | _ => sNames i

/-- The guard of an instruction, in the place every word has it (R57, R60). -/
def guardOf (i : Instr) : PReg := fG ((encode i).headD 0)

/-- The predicates an instruction names: its guard, sources and destination. -/
def pNames (i : Instr) : List PReg :=
  guardOf i :: match i with
  | .ifp a _ _ | .brk a _ | .cont a _ | .voteAny _ a _ | .voteAll _ a _ | .voteCount _ a _ | .ballot _ a _
  | .sel _ _ _ a _ => [a]
  | .icmpV d _ _ _ _ | .icmpS d _ _ _ _ | .fset d _ _ _ _ => [d]
  | .plog d a b _ _ => [d, a, b]
  | _ => []

/-- The kind of flag an instruction adds to (R70): A, B, or none. -/
def flagKind : Instr → Option Bool
  | .ld _ _ _ _ | .ldLong _ _ _ _ _ _ | .ldp _ _ _ _ | .lds _ _ _ _ | .lookup _ _ _ | .ctrrd _ _ _
  | .atom _ _ _ _ _ _ _ | .cas _ _ _ _ _ _ _ => some true
  | .st _ _ _ _ | .stLong _ _ _ _ _ _ | .stp _ _ _ _ | .sts _ _ _ _ | .tagset _ _ _ | .taginv _ _ _ | .putp _ _ _ _
  | .arrv _ _ _ | .atoms _ _ _ _ _ _ | .cpy _ _ _ _ | .cpys _ _ _ _ | .gath _ _ _ _ | .scat _ _ _ _ | .cpyb _ _
  | .put _ _ _ _ | .get _ _ _ _ | .ratom _ _ _ _ _ _ _ | .ctradd _ _ _ | .ctrset _ _ _ | .trig _ _ _ _ _
  | .trigx _ _ _ _ _ | .fencex _ _ | .coll _ _ _ _ _ _ _ | .rgnreg _ _ _ | .rgnrev _ _ _ | .mld _ _ _ _
  | .mst _ _ _ _ => some false
  | _ => none

/-- Whether an instruction makes its run a frame-changing one (R65). -/
def framing : Instr → Bool
  | .callf _ _ _ | .callx _ _ _ | .retf _ | .unwind _ _ | .exit _ => true
  | _ => false

/-- The thread accesses that R281 counts: through private memory, or through a record. -/
inductive Counted where
  | never
  | always
  | byKind (b : BufSel)
  deriving DecidableEq, Repr

def countedAs : Instr → Counted
  | .ldp _ _ _ _ | .stp _ _ _ _ => .always
  | .ld _ _ b _ | .ldLong _ _ b _ _ _ | .st _ _ b _ | .stLong _ _ b _ _ _ | .atom _ _ b _ _ _ _ | .atoms _ b _ _ _ _
  | .cas _ _ b _ _ _ _ | .rlk _ b _ | .runl _ b _ | .wlk _ b _ | .wunl _ b _ | .waitw _ _ b _ | .pref _ b _ =>
    .byKind b
  | _ => .never

/-! ## The words of a run as its start sees them (R73) -/

/-- The instructions of a run's words up to the first that does not decode, one after the other. -/
def instrsOf : Nat → List Word → List Instr
  | 0, _ => []
  | n + 1, ws =>
    match ws with
    | [] => []
    | _ =>
      match decode ws with
      | .ok (i, used) => i :: instrsOf n (ws.drop used)
      | .error _ => []

/-- The registers of the B operand of MMA and MMA.SGN, as the values stand (R266). -/
def State.bRead (s : State) (k : Nat) (i : Instr) : List Nat :=
  match i with
  | .mma _ _ vb fb k2 _ => s.bSpan k vb fb k2
  | .mmaSgn _ _ vb fb k2 _ _ => s.bSpan k vb fb k2
  | _ => []

/-- The groups in which an instruction reads its vector sources: those with participating lanes; RDLN its lane's, and B
of the matrix instructions every one (R44). -/
def Role.readGroups (r : Role) (i : Instr) : List Nat :=
  match i with
  | .rdln _ _ n _ => [n.toNat / 32]
  | .mma _ _ _ _ _ _ | .mmaSgn _ _ _ _ _ _ _ | .mprm _ _ _ _ => List.range r.groups
  | _ => (List.range r.groups).filter fun g => groupMask (r.part (guardOf i)) g != 0

/-- The units of its current frame that an instruction of a role reads: rows, granules, the hidden rows when it names a
predicate, and the link record of a return (R28, R44, R49). -/
def State.readUnits (s : State) (k : Nat) (i : Instr) : List Nat :=
  let r := s.role k
  let f := r.frame
  if r.active = 0 then []
  else
    let vs := (vReads i).filterMap fun v => match f.vname v with
      | .ok x => some x
      | .error _ => none
    let hidden := if (pNames i).all (· == 0) then [] else (List.range r.groups).map hiddenUnit
    let link := match i with
      | .retf _ => [hiddenUnit linkUnit]
      | .unwind _ _ => [hiddenUnit linkUnit]
      | _ => []
    if r.part (guardOf i) = 0 then hidden
    else hidden ++ link ++ ((vs ++ s.bRead k i).flatMap fun x => (r.readGroups i).map (rowKey x))
      ++ (sReads i).map fun n => granUnit (n / 4)

/-- Frame registers, and scalar frame registers, that are pending for a flag-A operation or a RATOM of a role (R73,
R252). -/
def State.pendingV (s : State) (k : Nat) : List Nat :=
  (s.ops.filter fun o => o.role == k).flatMap (·.dests)
    ++ ((s.core (s.role k).core).cmds.filter fun c => c.role == k).flatMap (·.dests)
def State.pendingS (s : State) (k : Nat) : List Nat :=
  (s.ops.filter fun o => o.role == k).filterMap (·.sdest)

/-- Whether an instruction of a role's run names a pending register. -/
def State.namesPending (s : State) (k : Nat) (pv ps : List Nat) (i : Instr) : Bool :=
  let f := (s.role k).frame
  let vs := (vNames i).filterMap fun v => match f.vname v with
    | .ok x => some x
    | .error _ => none
  vs.any pv.contains || (s.bRead k i).any pv.contains || (sNames i).any ps.contains

/-- The number of a run's instructions that add to a flag (R65). -/
def addsTo (h : Word) (is : List Instr) (f : Nat) : Nat :=
  (is.filter fun i => match flagKind i with
    | some true => (hdrSetA h).toNat == f
    | some false => (hdrSetB h).toNat == f
    | none => false).length

/-- The conditions of R65 for a role to start or resume a run of a header at these instructions. -/
def State.mayRun (s : State) (k : Nat) (h : Word) (is : List Instr) : Bool :=
  let r := s.role k
  let pv := s.pendingV k
  let ps := s.pendingS k
  r.flagsClear (hdrWait h)
    && !(is.any (s.namesPending k pv ps))
    && !(is.any framing && s.flagAOut k)
    && (List.range 12).all fun f => decide (r.flags.getD f 0 + addsTo h is f ≤ 63) || addsTo h is f == 0

/-- Whether a run's instructions make a counted access, by the records as they stand (R281). -/
def Role.makesCounted (r : Role) (is : List Instr) : Bool :=
  is.any fun i => match countedAs i with
    | .never => false
    | .always => true
    | .byKind b => match r.readRec (4 * selRec b) with
      | .ok rc => rc.kind == 0 || rc.kind == 1
      | .error _ => false

/-- Whether a role is memory-active: a counted access of it has not retired (R281). -/
def State.memActive (s : State) (k : Nat) : Bool :=
  s.ops.any fun o => o.role == k && o.counted && (o.kind.isA || !s.performed o o.scope)

end Sys2Proof.Machine
end

