-- ==== Sys2Proof/Machine/Sync.lean ====
section
/-! DEFINITION. Lock words (R225, R226), fences (R227), word waits (R228), handoff registers (R230, R231), barrier words
(R232, R233) and the barrier of a cooperative set (R234). -/

namespace Sys2Proof.Machine

/-! ## One access of the lowest participating lane -/

/-- An operation that a role makes at once, to ask whether the order admits it now. -/
def State.opNow (s : State) (role : Nat) (k : OpKind) (ord : Bool) (scope : Nat) (l : OpLane) : MemOp :=
  { MemOp.plain k with
    id := s.next, role := role, team := (s.role role).team, core := (s.role role).core, lanes := [l], ord := ord
    scope := scope }
def State.nowOp (s : State) (k : OpKind) (ord : Bool) (scope : Nat) (l : OpLane) : MemOp := s.opNow s.cur k ord scope l

/-- A whole word at a place, as one lane reaches it. -/
def State.laneAt (s : State) (r : Role) (p : Place) (n : Nat) : OpLane := ⟨0, 0, n, p, s.placeGen r p, 0, 0⟩

/-- The role waits in place until every earlier operation is performed, and the instruction issues again. -/
def State.holdOrder (s : State) (scope : Nat) : State := s.hold s.cur 0 (.fence 2 scope s.next)

/-- A uniform access through a record, formed from the lowest participating lane (R225, R228): zero-and-drop acts as
trap mode (R208), and the global kind is accepted for the device's own rank only (R207). Destinations `d` are read too. -/
def uniMem (s : State) (lits : Nat) (acc : Acc) (size : Nat) (locks : Bool) (d : List VReg) (a : VReg) (b : BufSel)
    (g : PReg) (body : State → Mask → List Nat → OpLane → Nat → Out) : Out :=
  match (do
      let base ← s.me.frame.bname b
      let ds ← s.me.frame.vnames d
      let x ← s.me.frame.vname a
      .ok (base, ds, x) : Res (Nat × List Nat × Nat)) with
  | .error t => flow s (.error t)
  | .ok (base, ds, x) =>
    let s := s.modMe (·.settleFor (x :: ds))
    let r := s.me
    let m := r.part g
    match lowestLane m with
    | none => done lits s (.ok s)
    | some l =>
      match (do
          let rc ← r.readRec base
          let rows ← r.readReg x (1#1024 <<< l)
          let _ ← r.readRegs (1#1024 <<< l) ds
          r.checkRegs m ds
          .ok (rc, rows) : Res (Rec × List Lanes)) with
      | .error t => flow s (.error t)
      | .ok (rc, rows) =>
        let own := rc.kind = 1 && s.route (preryRank (BitVec.ofNat 64 rc.base)) == .self
        match rc.check r (if own then [0, 1, 3] else [0, 3]) (selRec b) with
        | .error t => flow s (.error t)
        | .ok () =>
          let y : Access := { acc := acc, size := size, via := .record rc true, locks := locks, xch := true, info := selRec b }
          withLanes s y [l] (indexOf rows) fun s lanes =>
            match s.opLanes lanes (fun _ => 0) (fun _ => 0) with
            | q :: _ =>
              match s.granFault acc [q] with
              | some t => flow s (.error t)
              | none => body s m ds q (s.scopeOf b rc)
            | [] => done lits s (.ok s)

/-! ## Lock words (R225, R226) -/

/-- A lock operation on a word: 0 RLK, 1 RUNL, 2 WLK, 3 WUNL. The word afterwards, whether the role goes on, and whether
it is counted in WWAIT. -/
def lockStep (op : Nat) (counted : Bool) (w : Nat) : Nat × Bool × Bool :=
  let wp := w.testBit 63
  let held := w.testBit 62
  let wait := fieldOf w 61 32
  let readers := fieldOf w 31 0
  let mk (held : Bool) (wait readers : Nat) : Nat := wp.toNat * 2 ^ 63 + held.toNat * 2 ^ 62 + wait * 2 ^ 32 + readers
  match op with
  | 0 =>
    if !held && (!wp || wait = 0) && readers < 2 ^ 32 - 1 then (mk held wait (readers + 1), true, counted)
    else (w, false, counted)
  | 1 => (mk held wait (readers - 1), true, counted)
  | 2 =>
    if !held && readers = 0 then (mk true (if counted then wait - 1 else wait) readers, true, false)
    else if counted then (w, false, true)
    else (mk held (min (wait + 1) (2 ^ 30 - 1)) readers, false, true)
  | _ => (mk false wait readers, true, counted)

/-- A role's lock operation at a place: whether it goes on (R226). -/
def State.lockTry (s : State) (k op : Nat) (p : Place) : Bool × State :=
  let r := s.role k
  let gen := s.placeGen r p
  let o : MemOp := { MemOp.plain (.store 8) with role := k, core := r.core }
  let w := leNat (s.readPlace r.core gen p 8 [])
  let (w', go, counted) := lockStep op (r.counted == some p) w
  let s1 := if w' = w then s else s.writePlace o gen p (leBytes 8 w')
  (go, s1.modRole k fun r => { r with counted := if counted then some p else if r.counted = some p then none else r.counted })

/-- A waiter that stops waiting is uncounted in its name (R226). -/
def State.uncount (s : State) (k : Nat) : State :=
  let r := s.role k
  match r.counted with
  | none => s
  | some p =>
    let gen := s.placeGen r p
    let o : MemOp := { MemOp.plain (.store 8) with role := k, core := r.core }
    let w := leNat (s.readPlace r.core gen p 8 [])
    let w' := if fieldOf w 61 32 = 0 then w else w - 2 ^ 32
    (s.writePlace o gen p (leBytes 8 w')).modRole k fun r => { r with counted := none }

/-- A lock instruction: the acquires act as acquire, the releases as release (R225). -/
def lockOp (s : State) (op : Nat) (a : VReg) (b : BufSel) (g : PReg) : Out :=
  uniMem s 1 .at' 8 true [] a b g fun s _ _ q scope =>
    let rel := op % 2 = 1
    if !s.mayPerform (s.nowOp (.atomic 0 8 true) rel scope q) then .next (s.holdOrder 6)
    else
      let (go, s1) := s.lockTry s.cur op q.place
      if go then done 1 s1 (.ok (if rel then s1 else s1.acquire s1.me.core scope))
      else .next (s1.park s1.cur (.lock q.place op scope))

def execRlk (a : VReg) (b : BufSel) (g : PReg) (s : State) : Out := lockOp s 0 a b g
def execRunl (a : VReg) (b : BufSel) (g : PReg) (s : State) : Out := lockOp s 1 a b g
def execWlk (a : VReg) (b : BufSel) (g : PReg) (s : State) : Out := lockOp s 2 a b g
def execWunl (a : VReg) (b : BufSel) (g : PReg) (s : State) : Out := lockOp s 3 a b g

/-! ## Fences (R227) -/

/-- A fence holds its role at the next word until what it waits for is done. -/
def fence (s : State) (kind scope : Nat) : Out :=
  let s1 := if kind = 1 then s else s.flushHost s.me scope
  .next (s1.hold s.cur 1 (.fence kind scope s.next))

def execFenceAr (sc : BitVec 3) (g : PReg) (s : State) : Out :=
  if s.me.part g = 0 then done 0 s (.ok s) else fence s 0 sc.toNat
def execFenceAcq (sc : BitVec 3) (g : PReg) (s : State) : Out :=
  if s.me.part g = 0 then done 0 s (.ok s) else fence s 1 sc.toNat
def execFenceRel (sc : BitVec 3) (g : PReg) (s : State) : Out :=
  if s.me.part g = 0 then done 0 s (.ok s) else fence s 2 sc.toNat

/-- Whether a fence is complete: loads of the role have written, and for .rel and .ar the writes issued before it are
performed at its scope (R227, R299, R302). -/
def State.fenceDone (s : State) (k kind scope upto : Nat) : Bool :=
  let r := s.role k
  if kind = 1 then !(s.ops.any fun o => decide (o.id < upto) && o.role == k && o.kind.isA)
  else s.released k r.core upto scope

/-! ## Word waits (R228) -/

/-- The word a WAITW reads at its home, past the core's L1, where no older copy of it stays (R300); an acquire when one is
asked for. -/
def State.waitRead (s : State) (core : Nat) (p : Place) (gen : BitVec 16) (acq : Option Nat) : BitVec 32 × State :=
  let x := BitVec.ofNat 32 (leNat (s.readPlace core gen p 4 []))
  (x, match acq with
    | some scope => (s.dropLine core p).acquire core scope
    | none => s.dropLine core p)

/-- The same value in every lane of every group. -/
def uniformRows (groups : Nat) (x : BitVec 32) : List Lanes := (List.range groups).map fun _ => lanesOf fun _ => x

def execWaitw (d a : VReg) (b : BufSel) (g : PReg) (s : State) : Out :=
  uniMem s 0 .rd 4 false [d] a b g fun s m ds q scope =>
    if !s.mayPerform (s.nowOp (.load false 4) false 2 q) then .next (s.holdOrder 6)
    else
      let r := s.me
      let acq := if selOrd b then some scope else none
      let (x, s) := s.waitRead r.core q.place q.gen acq
      match r.readReg (ds.headD 0) (1#1024 <<< q.lane) with
      | .error t => flow s (.error t)
      | .ok rows =>
        let old := BitVec.ofNat 32 (indexOf rows q.lane)
        if x ≠ old then done 0 s (.ok (s.putReg (ds.headD 0) m (uniformRows r.groups x)))
        else .next (s.park s.cur (.word q.place old (ds.headD 0) m acq))

/-! ## Handoff registers (R24, R230, R231) -/

/-- Roles of a team that are live, other than one. -/
def State.otherLive (s : State) (tk k : Nat) : Bool := (s.team tk).live.any (· != k)

/-- Whether some producer of a handoff register is live and holds no unresumed trap, saved or not. -/
def State.producerAble (s : State) (tk h : Nat) : Bool :=
  let t := s.team tk
  t.live.any fun k => t.producers.contains (h, (s.role k).roleId) && (s.role k).status != .stopped
    && (s.role k).trapToken.isNone

def handoffTrap (h : HReg) : Trap := { cause := causeHandoff, info := h.toNat }

/-- The entries of a handoff register, oldest first. -/
def Team.queueOf (t : Team) (h : HReg) : List HandoffEntry := (mget t.handoff h.toNat).getD []

/-- An entry of a handoff register, from rows of a role's register: 0 in other lanes and groups. -/
def handoffEntry (gmax groups : Nat) (m : Mask) (rows : List Lanes) : HandoffEntry :=
  (List.range gmax).map fun g => if g < groups then blend (groupMask m g) 0 (rows.getD g 0) else 0

/-- An entry is appended to a handoff register by a role, a producer from then on (R230). -/
def State.pushEntry (s : State) (k : Nat) (h : HReg) (m : Mask) (rows : List Lanes) : State :=
  let r := s.role k
  s.modTeam r.team fun t => { t with
    handoff := mset t.handoff h.toNat (t.queueOf h ++ [handoffEntry t.gmax r.groups m rows])
    producers := if t.producers.contains (h.toNat, r.roleId) then t.producers
      else t.producers ++ [(h.toNat, r.roleId)] }

/-- HPUSH: handoff rows are held first (R24), earlier writes performed at team scope, then the entry is appended. -/
def execHpush (h : HReg) (a : VReg) (g : PReg) (s : State) : Out :=
  match s.me.frame.vname a with
  | .error t => flow s (.error t)
  | .ok x =>
    let s := s.modMe (·.settleFor [x])
    let r := s.me
    let m := r.part g
    if m = 0 then done 0 s (.ok s)
    else
      match r.readReg x m with
      | .error t => flow s (.error t)
      | .ok rows =>
        let t := s.myTeam
        let need := handoffNeed t.gmax
        let meet := s.mayMeet r.core (s.core r.core).frameReqs need
        if !t.handoffHeld && !meet then .next (s.parkFrame s.cur .handoff)
        else
          let s := if t.handoffHeld then s
            else (s.modCore r.core (·.take need)).modTeam r.team fun t => { t with handoffHeld := true }
          if !s.released s.cur r.core s.next 2 then .next (s.holdOrder 2)
          else if 4 ≤ (t.queueOf h).length then
            (if s.otherLive r.team s.cur then .next (s.park s.cur (.push h x m)) else flow s (.error (handoffTrap h)))
          else done 0 s (.ok (s.pushEntry s.cur h m rows))

/-- Whether an HPOP of an empty queue still waits: a producer can push, or nobody has pushed and another role is live
(R231). -/
def State.popWaits (s : State) (k : Nat) (h : HReg) : Bool :=
  let r := s.role k
  let t := s.team r.team
  s.producerAble r.team h.toNat || (!(t.producers.any fun p => p.1 == h.toNat) && s.otherLive r.team k)

/-- The entries of a role's team after the oldest of a handoff register is removed. -/
def State.popEntry (s : State) (tk : Nat) (h : HReg) (rest : List HandoffEntry) : State :=
  s.modTeam tk fun t => { t with handoff := mset t.handoff h.toNat rest }

def execHpop (d : VReg) (h : HReg) (g : PReg) (s : State) : Out :=
  match s.me.frame.vname d with
  | .error t => flow s (.error t)
  | .ok x =>
    let s := s.modMe (·.settleFor [x])
    let r := s.me
    let m := r.part g
    if m = 0 then done 0 s (.ok s)
    else
      match r.checkReg x m with
      | .error t => flow s (.error t)
      | .ok () =>
        match s.myTeam.queueOf h with
        | entry :: rest =>
          done 0 s (.ok ((s.popEntry r.team h rest).putReg x m ((List.range r.groups).map fun g => entry.getD g 0)))
        | [] => if s.popWaits s.cur h then .next (s.park s.cur (.pop h x m)) else flow s (.error (handoffTrap h))

/-! ## Barrier words (R232, R233) -/

/-- The barrier word a scalar names, after the checks of R210 and R212; the exchange area has none. -/
def State.barrierWord (s : State) (acc : Acc) (addr : Nat) : Res OpLane :=
  if addr.testBit 31 then .error { cause := causeBounds, addr := some addr }
  else
    match s.laneOut s.me { acc := acc, size := 8, via := .scratch } 0 addr with
    | .go [q] => .ok ⟨0, 0, 8, q.place, s.placeGen s.me q.place, 0, 0⟩
    | .bad t => .error { t with lane := none }
    | _ => .error { cause := causeBounds, addr := some addr }

/-- ARRV: an operation ordered behind earlier writes at its scope; the role's record names the word at once. -/
def execArrv (a : SReg) (sc : BitVec 3) (g : PReg) (s : State) : Out :=
  withScalar s a g 0 fun s v =>
    let addr := v.setWidth 32
    match s.barrierWord .at' addr.toNat with
    | .error t => flow s (.error t)
    | .ok q =>
      match s.granFault .at' [q] with
      | some t => flow s (.error { t with lane := none })
      | none =>
        let s1 := s.addOp { MemOp.plain (.arrv addr) with lanes := [q], ord := true, scope := sc.toNat }
        .next ((s1.modMe fun r => { r with arrival := some (addr, 0), arrivalOp := some s.next }).advance s.cur 0)

def execBarw (a : SReg) (sc : BitVec 3) (g : PReg) (s : State) : Out :=
  withScalar s a g 0 fun s v =>
    let addr := v.setWidth 32
    match s.barrierWord .rd addr.toNat with
    | .error t => flow s (.error t)
    | .ok q =>
      let r := s.me
      match r.arrival with
      | none => done 0 s (.ok s)
      | some (at', phase) =>
        if at' ≠ addr then done 0 s (.ok s)
        else if r.arrivalOp.isSome then .next (s.hold s.cur 0 .barwArrv)
        else if !s.mayPerform (s.nowOp (.load false 8) false 2 q) then .next (s.holdOrder 2)
        else
          match s.granFault .rd [q] with
          | some t => flow s (.error { t with lane := none })
          | none =>
            if fieldOf (leNat (s.readPlace r.core q.gen q.place 8 [])) 63 48 = phase.toNat then
              .next (s.park s.cur (.barrier addr phase sc.toNat))
            else done 0 s (.ok ((s.modMe fun r => { r with arrival := none }).acquire r.core sc.toNat))

/-! ## The barrier of a cooperative set (R234) -/

def execBarc (g : PReg) (s : State) : Out :=
  let r := s.me
  if r.part g = 0 then done 0 s (.ok s)
  else
    match s.myTeam.set with
    | none => flow s (.error { cause := causePerm })
    | some sk =>
      if !s.released s.cur r.core s.next scopeCl then .next (s.holdOrder scopeCl)
      else .next (((s.modMe fun r => { r with barcArrived := true }).park s.cur .barc).barcCheck sk)

end Sys2Proof.Machine
end

