-- ==== Sys2Proof/Machine/System.lean ====
section
/-! DEFINITION. System registers and the clock (R107, R165, R166), cache instructions (R167), HASH and SIGN (R168 to
R170), and the debug and generation instructions (R171 to R174, R47). -/

namespace Sys2Proof.Machine

/-! ## System registers (R107, R165) -/

/-- COREID of a core: die, cluster in die, core in cluster. -/
def coreId (core : Nat) : Nat := core / 48 * 64 + core / 4 % 12 * 4 + core % 4

/-- The roster version of the job of a role's interface (R341). -/
def State.rosterVer (s : State) (r : Role) : Nat :=
  match s.space r with
  | some (vi, _) => match (s.iface vi).job with
    | some j => j.roster.version.toNat
    | none => 0
  | none => 0

/-- The value of a system register. -/
def State.sysReg (s : State) (r : Role) (n : Nat) : Nat :=
  match n with
  | 0x00 => r.roleId
  | 0x01 => r.frame.w
  | 0x02 => r.frames.length
  | 0x03 => coreId r.core
  | 0x04 => r.relocs
  | 0x05 => r.slot
  | 0x06 => r.groups
  | 0x07 => r.teamIdx
  | 0x08 => r.gridSize
  | 0x09 => (s.core r.core).slotOf r.plot
  | 0x0A => r.fpflags.toNat
  | 0x0B => r.opflags.toNat
  | 0x0C => r.frame.gen.toNat
  | 0x0D => s.rank.toNat
  | 0x0E => s.rosterVer r
  | 0x0F => r.tagTrap.toNat
  | _ => (r.args.getD (n - 16) 0).toNat

/-- Whether matrix work or a COLL of a role is unfinished, which an access of OPFLAGS waits for (R165, R324). In a yoke
"the team" of R165 is the issuing role, whose own OPFLAGS it is (log entry 126). -/
def State.opPending (s : State) (k : Nat) : Bool :=
  s.mats.any (fun o => o.role == k)
    || (s.matrixCmds (s.role k).team).any (fun c => c.role == k)
    || (s.core (s.role k).core).cmds.any fun c => c.role == k && match c.kind with
      | .coll _ _ _ => true
      | _ => false

/-- An access of a system register waits in place: of FPFLAGS until open stages have written (R127), of OPFLAGS until
matrix work and COLLs have finished. The wait comes before the check of RDSR's destination: with a poison granule the
stages have written, and their conditions are in FPFLAGS, when REGLOSS is raised (log entry 127). -/
def sysWait (s : State) (n : Imm7) (body : State → Out) : Out :=
  if n = 0x0A#7 then body (s.modMe (·.settle))
  else if n = 0x0B#7 && s.opPending s.cur then .next s
  else body s

def execRdsr (d : SReg) (n : Imm7) (g : PReg) (s : State) : Out :=
  if s.me.part g = 0 then scalGet s 0 d g fun s => .ok (BitVec.ofNat 64 (s.sysReg s.me n.toNat))
  else
    match s.me.frame.sname d.toNat with
    | .error t => flow s (.error t)
    | .ok _ =>
      if n = 0x0C#7 && !s.me.priv then flow s (.error { cause := causePerm })
      else sysWait s n fun s => scalGet s 0 d g fun s => .ok (BitVec.ofNat 64 (s.sysReg s.me n.toNat))

def execWrsr (a : SReg) (n : Imm7) (g : PReg) (s : State) : Out :=
  withScalar s a g 0 fun s v => sysWait s n fun s =>
    done 0 s (.ok (s.modMe fun r =>
      if n = 0x0A#7 then { r with fpflags := v.setWidth 5 }
      else if n = 0x0B#7 then { r with opflags := v.setWidth 2 }
      else r))

def execClock (d : SReg) (g : PReg) (s : State) : Out :=
  scalGet s 0 d g fun s => .ok (BitVec.ofNat 64 s.clock)

/-! ## Cache instructions (R167) -/

def execCacheIinv (a : SReg) (g : PReg) (s : State) : Out :=
  withScalar s a g 0 fun s v =>
    let key := lineKey (s.space s.me) v.toNat
    done 0 s (.ok (if v.toNat < 2 ^ 52 then
      s.modCore s.me.core fun c => { c with icache := mdel c.icache key } else s))
def execCacheIinvall (_a : SReg) (g : PReg) (s : State) : Out :=
  done 0 s (.ok (if s.me.part g = 0 then s else s.modCore s.me.core fun c => { c with icache := [] }))
def execCacheL1inv (_a : SReg) (g : PReg) (s : State) : Out :=
  done 0 s (.ok (if s.me.part g = 0 then s else s.dropL1 s.me.core))

/-! ## HASH and SIGN (R168 to R170) -/

/-- Where the bytes of a HASH or SIGN record lie, or what their checks meet first: a walk to be made, or a trap. -/
inductive SpanAt where
  | at' (spans : List (Place × Nat))
  | walk (va : Nat)
  | bad (t : Trap)
  deriving DecidableEq, Repr

/-- A span of a scratchpad place in pieces of one granule each. -/
def granPieces (p : Nat → Place) (a n : Nat) : List (Place × Nat) := (lineSpans a n).map fun x => (p x.1, x.2)

/-- The pieces of a scratchpad span under the checks of a load: the range lock, then the granules' tags (R44, R213). -/
def State.scratchSpan (s : State) (r : Role) (info no n : Nat) (ps : List (Place × Nat)) : SpanAt :=
  if (s.core r.core).excludes (s.scratchSpace r) no n .rd then .bad { cause := causeRangelock, info := info }
  else
    match s.granFault .rd (ps.map fun p => ⟨0, 0, p.2, p.1, s.placeGen r p.1, 0, 0⟩) with
    | some t => .bad { t with lane := none }
    | none => .at' ps

/-- The bytes of a local or scratchpad record, checked as loads of the issuing core (R168, R304). A page that may not be
read gives PERM, the outcome of R212; R168's table names PAGE for a read that faults (log entry 128). -/
def State.spanAt (s : State) (r : Role) (rc : Rec) (info n : Nat) : SpanAt :=
  if rc.kind = 3 then
    match s.scratchAt r true (rc.base % 2 ^ 64) n with
    | some (.scratch p) => s.scratchSpan r info p n (granPieces .scratch p n)
    | some (.xch c h o) => s.scratchSpan r info (scratchNo h o) n (granPieces (.xch c h) o n)
    | _ => .bad { cause := causeBounds, info := info }
  else if (s.core r.core).excludes (s.lockSpace r) rc.base n .rd then .bad { cause := causeRangelock, info := info }
  else
    match (lineSpans rc.base n).mapM fun p => (s.localPlace r .rd info p.1).map fun q => (q, p.2) with
    | .error (.walk va _) => .walk va
    | .error (.bad t) => .bad t
    | .error _ => .bad { cause := causePage, info := info }
    | .ok ps => .at' ps

/-- Bytes read piece by piece: local memory through the issuing core's L1 (R293), Hyaluo's map and scratchpad directly. -/
def State.readSpans (s : State) (r : Role) (alloc : Bool) : List (Place × Nat) → Bytes × State
  | [] => ([], s)
  | (p, n) :: rest =>
    let (bs, s1) := match p with
      | .ram pa =>
        let c := s.core r.core
        match c.l1Bytes pa n with
        | some bs => (bs, s)
        | none =>
          let slot := c.slotOf r.plot
          (s.ramRead pa n, if alloc then s.fillL1 r.core slot (pa / 128) (s.homeLine (pa / 128))
            else s.modCore r.core (·.noteMiss slot (pa / 128)))
      | p => (s.readPlace r.core (s.placeGen r p) p n [], s)
    let (more, s2) := s1.readSpans r alloc rest
    (bs ++ more, s2)

/-- Four scalars from 32 bytes in byte-string form, and the reverse (R168). -/
def toRegs (bs : Bytes) : List (BitVec 64) :=
  (List.range (bs.length / 8)).map fun i => BitVec.ofNat 64 (leNat ((bs.drop (8 * i)).take 8))
def ofRegs (vs : List (BitVec 64)) : Bytes := vs.flatMap fun v => leBytes 8 v.toNat

/-- The value HASH writes, by mode (R168). -/
def hashResult (mode : Nat) (prior : Nat) (old : List (BitVec 64)) (bs : Bytes) : Bytes :=
  match mode with
  | 0 => sm3From sm3Iv bs (some bs.length)
  | 1 => sm3From sm3Iv bs none
  | 2 => sm3From (sm3State (ofRegs old)) bs none
  | _ => sm3From (sm3State (ofRegs old)) bs (some (prior + bs.length))

/-- A request without operands. -/
def CryptoReq.empty (s : State) (d : SReg) : CryptoReq where
  role := s.cur; dst := d; sign := false; mode := 0; prior := 0; regs := []; key := none; spans := []
  alloc := false; ord := false; scope := 2; upto := s.next

/-- HASH and SIGN enter their engine's queue as they issue; the run ends at their word, and the role is held until the
result is written (R170). -/
def cryptoQueue (s : State) (q : CryptoReq) : Out :=
  let s1 := s.modCore s.me.core fun c =>
    if q.sign then { c with signQ := c.signQ ++ [q] } else { c with hashQ := c.hashQ ++ [q] }
  .next (s1.hold s.cur 1 (if q.sign then .sign else .hash))

/-- HASH and SIGN over their record, once what they read of registers is checked. -/
def cryptoOp (s : State) (b : BufSel) (rc : Rec) (n : Nat) (q : CryptoReq) : Out :=
  match s.spanAt s.me rc (selRec b) n with
  | .bad t => flow s (.error t)
  | .walk va => .next (s.hold s.cur 0 (.tlb (BitVec.ofNat 64 va) false Acc.rd.code))
  | .at' ps => cryptoQueue s { q with
      spans := ps, alloc := rc.policy % 4 != 1, ord := selOrd b, scope := s.scopeOf b rc }

/-- HASH checks its names, the tags of its record, chaining state and destination, the record (R212), its mode, its
lengths, and then its bytes' addresses (log entry 29). -/
def execHash (d : SReg) (b : BufSel) (g : PReg) (s : State) : Out :=
  let f := s.me.frame
  match (do
      let base ← f.bname b
      let _ ← f.sname (d.toNat + 3)
      .ok base : Res Nat) with
  | .error t => flow s (.error t)
  | .ok base =>
    if s.me.part g = 0 then done 0 s (.ok s)
    else
      match (do
          let rc ← s.me.readRec base
          let old ← if 2 ≤ rc.format && rc.format ≤ 3 then f.readSs s.me.tagTrap d.toNat 4 else .ok []
          f.checkS d.toNat 4
          rc.check s.me [0, 3] (selRec b)
          .ok (rc, old) : Res (Rec × List (BitVec 64))) with
      | .error t => flow s (.error t)
      | .ok (rc, old) =>
        let mode := rc.format
        let prior := rc.stride1 * 2 ^ 24 + rc.stride0
        let n := rc.extent
        if 4 ≤ mode then flow s (.error { cause := causeIllop })
        else if 65536 < n || ((mode = 1 || mode = 2) && n % 64 ≠ 0) || (mode = 3 && prior % 64 ≠ 0) then
          flow s (.error { cause := causeBounds, info := selRec b })
        else cryptoOp s b rc n { CryptoReq.empty s d with mode := mode, prior := prior, regs := old }

/-- A signature in registers: r, then s, each 32 big-endian bytes in byte-string form (R169). -/
def signRegs (key : Nat) (digest : Bytes) : List (BitVec 64) :=
  let (r, x) := sm2Sign key digest
  toRegs (beBytes 32 r) ++ toRegs (beBytes 32 x)

/-- SIGN checks its names, the tags of its record, digest and destination, the record, its extent, and then the key's
address or slot (log entry 29). -/
def execSign (d a : SReg) (b : BufSel) (g : PReg) (s : State) : Out :=
  let f := s.me.frame
  match (do
      let base ← f.bname b
      let _ ← f.sname (a.toNat + 3)
      let _ ← f.sname (d.toNat + 7)
      .ok base : Res Nat) with
  | .error t => flow s (.error t)
  | .ok base =>
    if s.me.part g = 0 then done 0 s (.ok s)
    else
      match (do
          let rc ← s.me.readRec base
          let dig ← f.readSs s.me.tagTrap a.toNat 4
          f.checkS d.toNat 8
          rc.check s.me [0, 3] (selRec b)
          .ok (rc, dig) : Res (Rec × List (BitVec 64))) with
      | .error t => flow s (.error t)
      | .ok (rc, dig) =>
        let q : CryptoReq := { CryptoReq.empty s d with sign := true, regs := dig }
        let slot := (rc.base - keyWindow) / 32
        if rc.extent ≠ 32 then flow s (.error { cause := causeBounds, info := selRec b })
        else if s.me.plot.isNone && keyWindow ≤ rc.base && rc.base < keyWindow + 256 && rc.base % 32 = 0 then
          match s.fusedKey slot with
          | some key => cryptoQueue s { q with key := some key }
          | none => flow s (.error { cause := causePerm, addr := some rc.base, info := selRec b })
        else cryptoOp s b rc 32 q

/-- A request's result, from the bytes it reads. -/
def CryptoReq.result (q : CryptoReq) (bs : Bytes) : List (BitVec 64) :=
  if q.sign then signRegs (q.key.getD (beNat bs)) (ofRegs q.regs) else toRegs (hashResult q.mode q.prior q.regs bs)

/-- A result is written and its team goes on (R170). -/
def State.cryptoDone (s : State) (q : CryptoReq) (res : List (BitVec 64)) : State :=
  ((s.modRole q.role fun r => r.setFrame (r.frame.writeSs q.dst.toNat res)).claimS q.role q.dst.toNat res.length).wake
    q.role 0

/-- An engine serves a request once the writes that order puts before its loads are performed (log entry 37): the acquire
of ORD = 1 comes before the first read (R168); none while it must wait. -/
def State.cryptoServe (s : State) (core : Nat) (q : CryptoReq) : Option State :=
  if !s.released q.role core q.upto 6 then none
  else
    let s1 := if q.ord then s.acquire core q.scope else s
    let (bs, s2) := s1.readSpans (s1.role q.role) q.alloc q.spans
    some (s2.cryptoDone q (q.result bs))

def execHashComplete (core : Nat) (s : State) : Out :=
  .next (match (s.core core).hashQ with
    | q :: rest => match s.cryptoServe core q with
      | some s1 => s1.modCore core fun c => { c with hashQ := rest }
      | none => s
    | [] => s)
def execSignComplete (core : Nat) (s : State) : Out :=
  .next (match (s.core core).signQ with
    | q :: rest => match s.cryptoServe core q with
      | some s1 => s1.modCore core fun c => { c with signQ := rest }
      | none => s
    | [] => s)

/-! ## The debug path (R47, R171 to R173) -/

/-- The units the debug path reaches. -/
inductive DbgUnit where
  | vec | gran | tile | acc | scr
  deriving DecidableEq, Repr

/-- What a debug access answers: a status, or the value, the raw tag and whether a spill record holds it. -/
inductive Dbg where
  | status (n : Nat)
  | value (x : BitVec 64) (tag : BitVec 16) (spilled : Bool)
  deriving DecidableEq, Repr

def notStopped : Nat := 1
def dbgRefused : Nat := 2
def badSel : Nat := 3
def dbgFault : Nat := 4

/-- The raw tag of storage that its owner has not written: any value no live allocation carries (log entry 2). -/
def strayTag (use unit : Nat) (gen : BitVec 16) : BitVec 16 :=
  let t := Config.freshTag use unit
  if t = gen || t = poisonTag then voidTag else t

/-- 64 bits of a wider number, by word, and the number with them replaced. -/
def wordOf (x w : Nat) : BitVec 64 := BitVec.ofNat 64 (x / 2 ^ (64 * w))
def setWord (x w : Nat) (v : BitVec 64) : Nat := x - fieldOf x (64 * w + 63) (64 * w) * 2 ^ (64 * w) + v.toNat * 2 ^ (64 * w)

/-- The frame a selector's FRAME field names: 0 the current one, else by depth. -/
def Role.frameIdx (r : Role) (n : Nat) : Option Nat :=
  if n = 0 then some 0 else if n ≤ r.frames.length then some (r.frames.length - n) else none

/-- Where a spilled unit's 64 bits lie: address of its first word in private memory, and the bitmap's tag. -/
def State.spillWord (s : State) (r : Role) (f : Frame) (base : Nat) (u : DbgUnit) (unit group word : Nat) :
    List Nat × BitVec 16 :=
  let at' (w g l : Nat) := r.privAddr (base + w) g l
  let rd (w g l : Nat) := s.homeRead r (s.privPa r (base + w) g l) 4
  match u with
  | .vec =>
    let bits (k : Nat) := rd 1 group (k + unit / 32)
    let w := 3 + f.sc / 4 + unit
    ([at' w group (2 * word), at' w group (2 * word + 1)],
      if (bits 16).testBit (unit % 32) then poisonTag else if (bits 0).testBit (unit % 32) then f.gen else voidTag)
  | _ =>
    let bits := rd 0 0 12
    ([at' (3 + unit) 0 (2 * word), at' (3 + unit) 0 (2 * word + 1)],
      if bits.testBit (16 + unit) then poisonTag else if bits.testBit unit then f.gen else voidTag)

/-- A debug access of a spilled unit, by the private memory of the role: read, or written when a value is given. -/
def State.dbgSpilled (s : State) (r : Role) (f : Frame) (base : Nat) (u : DbgUnit) (unit group word : Nat)
    (put : Option (BitVec 64)) : Dbg × State :=
  let (as, tag) := s.spillWord r f base u unit group word
  match as.mapM fun a => match (s.devTr r a (if put.isSome then .wr else .rd)).1 with
      | .pa p => some p
      | _ => none with
  | some [p, q] =>
    match put with
    | none => (.value (BitVec.ofNat 64 (s.homeRead r p 4 + s.homeRead r q 4 * 2 ^ 32)) tag true, s)
    | some v => (.value 0 tag true, (s.homeWrite r p (leBytes 4 v.toNat)).homeWrite r q (leBytes 4 (v.toNat / 2 ^ 32)))
  | _ => (.status dbgFault, s)

/-- A debug access of a tile or accumulator of a configuration (R259): raw bytes and tag. -/
def dbgTile (units : AMap TileUnit) (key word n : Nat) (gen : BitVec 16) (put : Option (BitVec 64)) :
    Dbg × AMap TileUnit :=
  let old : TileUnit := (mget units key).getD ⟨strayTag n key gen, [], []⟩
  match put with
  | none => (.value (if (mget units key).isSome then BitVec.ofNat 64 (rdLE old.data (8 * word) 8)
      else (Config.freshData n key).setWidth 64) old.tag false, units)
  | some v => (.value 0 old.tag false, mset units key (old.write (8 * word) (leBytes 8 v.toNat)))

/-- The frame and register in which a unit of frame fi lies: the outgoing block of a resident caller is the incoming block
of the frame above it (R32). -/
def Role.unitIn (r : Role) (u : DbgUnit) (fi unit : Nat) : Nat × Nat :=
  match r.frames[fi]? with
  | none => (fi, unit)
  | some f =>
    if fi = 0 || f.spilled.isSome then (fi, unit)
    else
      match u with
      | .vec => if f.v - 8 ≤ unit && unit < f.v then (fi - 1, unit - (f.v - 8)) else (fi, unit)
      | _ => if 14 ≤ unit && unit < 16 then (fi - 1, unit - 14) else (fi, unit)

/-- A debug access of a frame's row or granule (R47). -/
def State.dbgFrame (s : State) (tk : Nat) (u : DbgUnit) (fi0 unit0 group word : Nat) (put : Option (BitVec 64)) :
    Dbg × State :=
  let r := s.role tk
  let (fi, unit) := r.unitIn u fi0 unit0
  match r.frames[fi]? with
  | none => (.status badSel, s)
  | some f =>
    let setF (f' : Frame) : State := s.setRole tk { r with frames := r.frames.set fi f' }
    match u with
    | .vec =>
      if f.v ≤ unit || r.groups ≤ group || 15 < word then (.status badSel, s)
      else
        match f.spilled with
        | some base => s.dbgSpilled r f base u unit group word put
        | none =>
          let row := (mget f.rows (rowKey unit group)).getD ⟨strayTag s.free (rowKey unit group) f.gen, Config.freshData s.free (rowKey unit group), false⟩
          match put with
          | none => (.value (wordOf row.data.toNat word) row.tag false, s)
          | some v => (.value 0 row.tag false, setF { f with
              rows := mset f.rows (rowKey unit group) ⟨row.tag, BitVec.ofNat 1024 (setWord row.data.toNat word v), row.flaw⟩ })
    | _ =>
      if f.sc / 4 ≤ unit || 3 < word then (.status badSel, s)
      else
        match f.spilled with
        | some base => s.dbgSpilled r f base u unit group word put
        | none =>
          let gr := (mget f.grans unit).getD ⟨strayTag s.free (granUnit unit) f.gen, (Config.freshData s.free (granUnit unit)).setWidth 256, false⟩
          match put with
          | none => (.value (wordOf gr.data.toNat word) gr.tag false, s)
          | some v => (.value 0 gr.tag false, setF { f with
              grans := mset f.grans unit ⟨gr.tag, BitVec.ofNat 256 (setWord gr.data.toNat word v), gr.flaw⟩ })

/-- A debug access (R172, R173): the selector, and the value of a write. The statuses are tested in this order: reserved
bits, the world, a stopped role, the other fields (log entry 36). -/
def State.dbg (s : State) (u : DbgUnit) (sel : BitVec 64) (put : Option (BitVec 64)) : Dbg × State :=
  let x := sel.toNat
  let word := fieldOf x 40 29
  let group := fieldOf x 28 24
  let unit := fieldOf x 23 12
  let me := s.me
  let c := s.core me.core
  if fieldOf x 63 41 ≠ 0 then (.status badSel, s)
  else if (mget s.worldMap (me.core / 4)).getD 0 ≠ s.worldOf me then (.status dbgRefused, s)
  else
    match mget c.slots (fieldOf x 5 0) with
    | none => (.status notStopped, s)
    | some tk =>
      let r := s.role tk
      let t := s.team r.team
      if r.status ≠ .stopped then (.status notStopped, s)
      else
        match u with
        | .scr =>
          if 15 < word then (.status badSel, s)
          else
            let a := 128 * unit + 8 * word
            let tag := (mget c.scratchTags unit).getD voidTag
            match put with
            | none => (.value (BitVec.ofNat 64 (rdLE c.scratch a 8)) tag false, s)
            | some v => (.value 0 tag false, s.setCore me.core { c with scratch := wrLE c.scratch a 8 v.toNat })
        | .tile | .acc =>
          match t.tcfg with
          | none => (.status badSel, s)
          | some cfg =>
            let sub := group % 4
            let w := cfg.word.toNat
            let own := w.testBit (24 + sub)
            if u = .tile then
              if 1023 < word || !own || fieldOf w 4 0 ≤ unit then (.status badSel, s)
              else
                let (o, units) := dbgTile cfg.tiles (16 * sub + unit) word s.free cfg.gen put
                (o, if put.isSome then s.setTeam r.team { t with tcfg := some { cfg with tiles := units } } else s)
            else if 4095 < word || !own || fieldOf w 11 8 ≤ unit then (.status badSel, s)
            else
              let (o, units) := dbgTile cfg.accs (8 * sub + unit) word s.free cfg.gen put
              (o, if put.isSome then s.setTeam r.team { t with tcfg := some { cfg with accs := units } } else s)
        | _ =>
          match r.frameIdx (fieldOf x 11 6) with
          | none => (.status badSel, s)
          | some fi => s.dbgFrame tk u fi unit group word put

/-- A DBG instruction: privileged, before any register is read (R96), with its data in s(d) and its status in s(d + 1)
(R171, R173). -/
def dbgOp (s : State) (u : DbgUnit) (write : Bool) (d a : SReg) (g : PReg) : Out :=
  match (do
      let _ ← s.me.frame.sname (d.toNat + 1)
      let _ ← s.me.frame.sname a.toNat
      .ok () : Res Unit) with
  | .error t => flow s (.error t)
  | .ok _ =>
    if s.me.part g ≠ 0 && !s.me.priv then flow s (.error { cause := causePerm })
    else
      withScalar s a g 0 fun s sel =>
        done 0 s (do
          let v ← if write then s.me.frame.readS s.me.tagTrap d.toNat else .ok 0
          s.me.frame.checkS d.toNat 2
          let (o, s1) := s.dbg u sel (if write then some v else none)
          match o with
          | .status n => .ok (s1.used.putS d.toNat [0, BitVec.ofNat 64 (n * 2 ^ 16)])
          | .value x tag spilled =>
            let st := BitVec.ofNat 64 (tag.toNat + spilled.toNat * 2 ^ 20)
            .ok (if write then s1.used.putS (d.toNat + 1) [st] else s1.used.putS d.toNat [x, st]))

def execDrdv (d a : SReg) (g : PReg) (s : State) : Out := dbgOp s .vec false d a g
def execDwrv (d a : SReg) (g : PReg) (s : State) : Out := dbgOp s .vec true d a g
def execDrds (d a : SReg) (g : PReg) (s : State) : Out := dbgOp s .gran false d a g
def execDwrs (d a : SReg) (g : PReg) (s : State) : Out := dbgOp s .gran true d a g
def execDrdt (d a : SReg) (g : PReg) (s : State) : Out := dbgOp s .tile false d a g
def execDwrt (d a : SReg) (g : PReg) (s : State) : Out := dbgOp s .tile true d a g
def execDrda (d a : SReg) (g : PReg) (s : State) : Out := dbgOp s .acc false d a g
def execDwra (d a : SReg) (g : PReg) (s : State) : Out := dbgOp s .acc true d a g
def execDrdg (d a : SReg) (g : PReg) (s : State) : Out := dbgOp s .scr false d a g
def execDwrg (d a : SReg) (g : PReg) (s : State) : Out := dbgOp s .scr true d a g

/-! ## Generation instructions (R174) -/

def execGenrd (d _a : SReg) (g : PReg) (s : State) : Out :=
  match s.me.frame.sname (d.toNat + 1) with
  | .error t => flow s (.error t)
  | .ok _ =>
    if s.me.part g ≠ 0 && !s.me.priv then flow s (.error { cause := causePerm })
    else scalGet s 0 d g fun s => .ok ((s.core s.me.core).genCounter.setWidth 64)

/-- GENCERT: a sweep that begins after its issue is the next one but the one in progress (R43). -/
def execGencert (_d _a : SReg) (g : PReg) (s : State) : Out :=
  if s.me.part g = 0 then done 0 s (.ok s)
  else if !s.me.priv then flow s (.error { cause := causePerm })
  else .next (s.hold s.cur 1 (.sweep ((s.core s.me.core).sweeps + 2)))

end Sys2Proof.Machine
end

