-- ==== Sys2Proof/Machine/Sched.lean ====
section
/-! DEFINITION. The rotation table and the arbiter (R276 to R281, R366), the start and resumption of runs (R65, R73, R79,
R389, R395), issue cycles (R277), decode faults (R76, R77), and the landing of the oldest open instruction (R137). -/

namespace Sys2Proof.Machine

/-! ## The rotation table (R276, R366) -/

/-- The cluster of a core. -/
def clusterOf (core : Nat) : Nat := core / 4

/-- Whether a core is of an interface's clusters. -/
def Iface.hasCore (i : Iface) (core : Nat) : Bool := core != hyCore && i.clusters.testBit (clusterOf core)

/-- The interface whose mask holds an entry of a core's rotation table. -/
def State.entryOwner (s : State) (core e : Nat) : Option Nat :=
  (s.ifaces.find? fun p => p.2.rotmask.testBit e && p.2.hasCore core).map (·.1)

/-- The plots of an interface resident on a core: plot slot and weight, by rising slot. -/
def State.residents (s : State) (core vi : Nat) : List (Nat × Nat) :=
  (s.core core).plotSlots.filterMap fun x => (mget s.plots x.2).bind fun p =>
    if p.vi = vi then some (x.1, p.weight) else none

/-- Entry j of n dealt by weight: the plot slot that receives it (R366). -/
def dealTo (n total j : Nat) : Nat → List (Nat × Nat) → Option Nat
  | _, [] => none
  | before, (slot, w) :: rest =>
    if n * before / total ≤ j && j < n * (before + w) / total then some slot else dealTo n total j (before + w) rest

/-- The plot slot that owns an entry of a core's rotation table; none when it is idle. -/
def State.dealt (s : State) (core e : Nat) : Option Nat :=
  match s.entryOwner core e with
  | none => none
  | some vi =>
    let mask := (s.iface vi).rotmask
    let n := ((List.range 64).filter mask.testBit).length
    let j := ((List.range e).filter mask.testBit).length
    let rs := s.residents core vi
    let total := (rs.map (·.2)).sum
    if total = 0 then none else dealTo n total j 0 rs

/-! ## Issue cycles (R277) -/

def Core.creditOf (c : Core) (slot : Nat) : Int := (mget c.credit slot).getD 0

/-- An issue cycle of a core: the pointer advances, and the entry's owner earns a credit. -/
def State.issueTick (s : State) (core : Nat) : State :=
  let n := ((s.core core).pointer + 1) % 64
  let s1 := s.modCore core fun c => { c with pointer := n }
  match s1.dealt core n with
  | some slot => s1.modCore core fun c => { c with credit := mset c.credit slot (min (c.creditOf slot + 1) 24) }
  | none => s1

/-- An instruction word issued by a run that was not lent costs its plot a credit. -/
def State.payIssue (s : State) (k : Nat) : State :=
  let r := s.role k
  s.modCore r.core fun c =>
    if c.lent || r.plot.isNone then c
    else
      let slot := c.slotOf r.plot
      { c with credit := mset c.credit slot (c.creditOf slot - 1) }

/-- The clock: a step of a core's turn takes one reference period, and free ones pass beside it (R166, log entry 10). -/
def State.tick (s : State) : State := ({ s with clock := s.clock + 1 + Config.clockTicks s.free }).used

/-- The clock's and the issue cycle's part of a core's turn. -/
def State.cycle (s : State) (core : Nat) : State := (s.tick).issueTick core

/-! ## The run a role is about to start (R65, R73, R395) -/

/-- What the start of a role's run finds: its header's walk to be made, a fault there, or the run: its header's address
and word, the first word to issue, and the instructions from there. -/
inductive RunView where
  | walk (va : Nat)
  | bad (t : Trap)
  | run (hdr : BitVec 64) (h : Word) (off : Nat) (is : List Instr)
  deriving DecidableEq, Repr

/-- The check of a header that is entered or resumed through: as that of a transfer target, reported at the header
(R77, R78, R395). -/
def State.headerAt (s : State) (r : Role) (va : Nat) : Except RunView Word :=
  let trap (c : Imm8) (addr : Option Nat) : RunView :=
    .bad { cause := c, addr := addr, source := some va, resume := some r.off }
  if va % 4 ≠ 0 then .error (trap causeAlign (some va))
  else
    match (s.fetch r va).1 with
    | .miss => .error (.walk va)
    | .fault c => .error (trap c (some va))
    | .word w =>
      match headerFault w with
      | some c => .error (trap c none)
      | none => .ok w

/-- The run that a role starts or resumes: past its last word it is entered at fall-through (R68, R395). All of its words
are fetched first, up to one whose translation is known to be missing (R55, R73). -/
def State.runView (s : State) (k : Nat) : RunView :=
  let r := s.role k
  let words (hdr : BitVec 64) (h : Word) (off : Nat) : RunView :=
    let first := hdr.toNat + 4 * off
    let (ws, e, _) := s.fetchWords r first (hdrLen h + 1 - off)
    let next := first + 4 * ws.length
    match e with
    | some .miss => if r.fetchEnd = some (next / 65536) then .run hdr h off (instrsOf 24 ws) else .walk next
    | _ => .run hdr h off (instrsOf 24 ws)
  match s.headerAt r r.hdr.toNat with
  | .error e => e
  | .ok h =>
    if r.off = 0 then words r.hdr h 1
    else if r.off ≤ hdrLen h then words r.hdr h r.off
    else if hdrLen h + 1 < r.off then
      .bad { cause := causeBadhdr, source := some r.hdr.toNat, resume := some r.off }
    else
      let next := r.hdr + BitVec.ofNat 64 (4 * (hdrLen h + 1))
      match s.headerAt r next.toNat with
      | .error e => e
      | .ok h' => words next h' 1

/-! ## Held roles (R282) -/

/-- Whether what a held role waits for is done. A walk, a verdict and a HASH or SIGN result end their hold themselves. -/
def State.holdDone (s : State) (k : Nat) : HoldOn → Bool
  | .start => true
  | .tlb _ _ _ => false
  | .verdict => false
  | .hash => false
  | .sign => false
  | .fence kind scope upto => s.fenceDone k kind scope upto
  | .pendingRegs => !s.flagAOut k
  | .engineFull locks trig => (s.core (s.role k).core).roomFor locks trig
  | .matrixFull => !s.queueFull (s.role k).core (s.owned (s.role k).team)
  | .accMove op => !(s.mats.any fun o => o.id == op)
  | .sweep n => decide (n ≤ (s.core (s.role k).core).sweeps)
  | .barwArrv => (s.role k).arrivalOp.isNone
  | .spill gen => ((s.core (s.role k).core).spill.map (·.gen)) != some gen

/-- What the end of a hold does: an acquire of FENCE (R227). -/
def State.endHold (s : State) (k : Nat) : State :=
  match (s.role k).status with
  | .held (.fence kind scope _) => if kind = 2 then s else s.acquire (s.role k).core scope
  | _ => s

/-! ## Which role may start (R65, R279, R281) -/

/-- The memory-active teams that a lost-locality score allows. -/
def lostCap (score : Nat) : Nat :=
  if score < 16 then 64 else if score < 64 then 32 else if score < 128 then 16 else if score < 256 then 8 else 4

/-- The roles of a plot on a core, by team slot. -/
def State.plotRoles (s : State) (core : Nat) (plot : Option Nat) : List Nat :=
  (s.core core).slots.filterMap fun x => if (s.role x.2).plot = plot then some x.2 else none

/-- The role of a list that has been resident longest. -/
def State.eldest (s : State) (ks : List Nat) : Option Nat :=
  ks.foldl (fun acc k => match acc with
    | none => some k
    | some j => if (s.role k).startedAt < (s.role j).startedAt then some k else some j) none

/-- Whether a role whose next run holds these instructions is throttled (R281). -/
def State.throttles (s : State) (k : Nat) (is : List Instr) : Bool :=
  let r := s.role k
  let ks := s.plotRoles r.core r.plot
  let c := s.core r.core
  r.plot.isSome && !s.memActive k && r.makesCounted is && s.eldest ks != some k
    && decide (lostCap ((mget c.lost (c.slotOf r.plot)).getD 0) ≤ (ks.filter s.memActive).length)

/-- Whether a role is named by the stop of a context (R402). -/
def State.stopping (s : State) (k : Nat) : Bool :=
  (s.core (s.role k).core).headland.any fun h => h.roles.contains k

/-- Whether a role may be given the issue stage. -/
def State.startable (s : State) (k : Nat) : Bool :=
  let r := s.role k
  (match r.status with
    | .ready => true
    | .held h => s.holdDone k h
    | _ => false)
  && !s.stopping k
  && (r.frame.spilled.isSome
    || match s.runView k with
      | .run _ h _ is => s.mayRun k h is && !s.throttles k is
      | _ => true)

/-- A role that the arbiter finds able to start when it could not before is ready from now on (R279). -/
def State.lookAt (s : State) (k : Nat) : State :=
  let b := s.startable k
  (s.modRole k fun r => { r with able := b, readyAt := if b && !r.able then s.next else r.readyAt }).numbered

/-- The arbiter's look at every role of a core that waits for the issue stage. -/
def State.noteReady (s : State) (core : Nat) : State :=
  (s.core core).slots.foldl (fun (s : State) x => match (s.role x.2).status with
    | .ready => s.lookAt x.2
    | .held _ => s.lookAt x.2
    | _ => s) s

/-- ISSUE_CYCLE: an issue cycle of a core that starts no run; the turn is the core's. While a run of the core waits in
place the cycle is none (R277). -/
def execIssueCycle (core : Nat) (s : State) : Out :=
  match (s.core core).running with
  | some k => .next { s with turn := core, cur := k }
  | none => .next { (s.noteReady core).issueTick core with turn := core }

/-! ## The arbiter (R279, R280) -/

/-- The world of a plot's interface. -/
def State.plotWorld (s : State) (plot : Nat) : Nat :=
  ((mget s.plots plot).map fun p => (s.iface p.vi).world).getD 0

/-- The plot slot of the highest credit in a list, the lowest slot of equals. -/
def Core.richest (c : Core) (slots : List Nat) : Option Nat :=
  slots.foldl (fun acc x => match acc with
    | none => some x
    | some y => if c.creditOf y < c.creditOf x then some x else some y) none

/-- The plot slot whose turn it is among those with a ready team, and whether the run is lent. -/
def State.choosePlot (s : State) (core : Nat) (slots : List Nat) : Option (Nat × Bool) :=
  let c := s.core core
  let owner := s.dealt core c.pointer
  let able := slots.filter fun x => decide (1 ≤ c.creditOf x)
  match owner.filter able.contains with
  | some x => some (x, false)
  | none =>
    match c.richest (able.filter fun x => owner != some x) with
    | some x => some (x, false)
    | none =>
      match owner.bind (mget c.plotSlots) with
      | none => none
      | some op => (c.richest (slots.filter fun x =>
          ((mget c.plotSlots x).map s.plotWorld) == some (s.plotWorld op))).map fun x => (x, true)

/-- The role of a plot that has been ready longest, one whose run yielded last of all. -/
def State.chooseTeam (s : State) (ks : List Nat) : Option Nat :=
  let fresh := ks.filter fun k => !(s.role k).yielded
  (if fresh = [] then ks else fresh).foldl (fun acc k => match acc with
    | none => some k
    | some j => if (s.role k).readyAt < (s.role j).readyAt then some k else some j) none

/-- The role a core's arbiter chooses, and whether its run is lent. Hyaluo's core has one role and no table. -/
def State.choose (s : State) (core : Nat) : Option (Nat × Bool) :=
  let c := s.core core
  if c.running.isSome then none
  else
    let ks := (c.slots.map (·.2)).filter s.startable
    if core = hyCore then ks.head?.map fun k => (k, false)
    else
      let slots := (c.plotSlots.filter fun x => ks.any fun k => (s.role k).plot == some x.2).map (·.1)
      match s.choosePlot core slots with
      | none => none
      | some (slot, lent) =>
        (s.chooseTeam (ks.filter fun k => (s.role k).plot == mget c.plotSlots slot)).map fun k => (k, lent)

/-! ## The start of a run (R65 to R79, R389) -/

/-- The yield hint of a plot's roles lasts until the plot's next start (R280). -/
def State.clearYield (s : State) (core : Nat) (plot : Option Nat) : State :=
  (s.plotRoles core plot).foldl (fun s k => s.modRole k fun r => { r with yielded := false }) s

/-- A deferred cause is delivered at the clause boundary: the lowest code, MORE set when others stay pending; the
operand-error log ends with its delivery (R269, R389). -/
def State.deliver (s : State) (k : Nat) (d : Deferred) : State :=
  let rest := (s.role k).deferred.erase d
  let s1 := s.modRole k fun r => { r with deferred := rest }
  let s2 := if d.cause = causeOperr then s1.modTeam (s1.role k).team fun t => { t with opErrs := [], opErrMore := 0 } else s1
  takeTrap s2 k (d.trap (rest != []))

/-- A chosen role starts or resumes its run: header and words are fetched, and the issue stage is its own. -/
def State.beginRun (s : State) (k : Nat) (lent : Bool) : State :=
  match s.runView k with
  | .walk va =>
    s.modRole k fun r => { r with status := .held (.tlb (BitVec.ofNat 64 va) false Acc.ex.code) }
  | .bad t => takeTrap (s.modRole k fun r => { r with status := .ready }) k t
  | .run hdr h off _ =>
    let r := s.role k
    match firstDeferred r.deferred with
    | some d =>
      (s.modRole k fun r => { r with hdr := hdr, hdrWord := h, off := if off = 1 then 0 else off }).deliver k d
    | none =>
      let (_, s1) := s.fetch r hdr.toNat
      let (ws, _, s2) := s1.fetchWords r (hdr.toNat + 4 * off) (hdrLen h + 1 - off)
      let s3 := s2.clearYield r.core r.plot
      let s4 := s3.modRole k fun r => { r with
        status := .running, hdr := hdr, hdrWord := h, off := off, words := ws, yielded := false }
      let s5 := s4.modCore r.core fun c => { c with running := some k, lent := lent }
      { s5 with turn := r.core, cur := k }

/-- RUN_START: the arbiter of a core gives its free issue stage to a role. A spilled current frame is refilled first
(R34, R40). -/
def execRunStart (core : Nat) (s : State) : Out :=
  .next (match (s.noteReady core).choose core with
    | none => s
    | some (k, lent) =>
      let s1 := (s.noteReady core).endHold k
      if (s1.role k).frame.spilled.isSome then
        (s1.modRole k fun r => { r with status := .ready }).tryRefill k
      else s1.beginRun k lent)

/-! ## Decode faults and landings -/

/-- The address of the word whose fetch failed: the instruction's, or that of a literal of it. -/
def State.faultWord (s : State) : Nat :=
  let r := s.me
  let pc := r.pc.toNat
  let failed (a : Nat) : Bool := match (s.fetch r a).1 with
    | .fault _ => true
    | _ => false
  if failed pc then pc else if failed (pc + 4) then pc + 4 else pc + 8

/-- DECODE_FAULT: the word in instruction position, or its fetch, raises this cause (R76, R77). -/
def execDecodeFault (c : Imm8) (s : State) : Out :=
  let addr := if c = causePage || c = causePerm then some s.faultWord else none
  if (mget s.roles s.cur).any fun r => r.status == .running then
    flow s (.error { cause := c, addr := addr, source := addr })
  else .next s

/-- PIPE_WRITEBACK: the oldest open instruction of a role that is not stopped, parked or saved writes (R137, R142). -/
def execPipeWriteback (role : Nat) (s : State) : Out :=
  .next (match (s.role role).status with
    | .parked _ => s
    | .stopped => s
    | .saved _ => s
    | _ => s.modRole role (·.landOldest))

/-- A number for a translation, among those that free choices are made of. -/
def Leaf.number (x : Leaf) : Nat := x.page + 2 ^ 40 * (x.asid + 256 * x.vi)

/-- What a core's caches have given up by the end of a rotation period: any of their lines and translations, for none of
them is bound to keep one (R281, R374, log entry 6). -/
def Core.evict (c : Core) (keep : Nat → Bool) : Core :=
  { c.evictL1 (fun k => keep (4 * k)) with
    icache := mfilter (fun k _ => keep (4 * k + 1)) c.icache, tlb := c.tlb.filter fun x => keep (4 * x.number + 2) }

/-- LOCALITY_DECAY: every rotation period, lost-locality scores are halved (R281). The model also makes the caches'
evictions here. -/
def execLocalityDecay (core : Nat) (s : State) : Out :=
  let keep := Config.keepLine s.free
  let s1 := s.modCore core fun c => ({ c with lost := mmap (fun _ x => x / 2) c.lost } : Core).evict keep
  .next ({ s1 with tlb2 := s1.tlb2.filter fun x => keep (4 * x.number + 3) } : State).used

end Sys2Proof.Machine
end

