-- ==== Sys2Proof/Machine/Launch.lean ====
section
/-! DEFINITION. Claims (R272 to R275, R286): the core set of a plot, its plot slots (R366, R394), and the start of the
teams of a claim (R17, R24, R30, R31, R39, R210, R220, R398). -/

namespace Sys2Proof.Machine

/-! ## The plot descriptor's fields (R371) -/

/-- A role of a plot as its descriptor gives it. -/
structure RoleSpec where
  roleId : Nat
  entry : BitVec 64
  shape : Nat
  deriving DecidableEq, Repr

def RoleSpec.groups (x : RoleSpec) : Nat := fieldOf x.shape 5 0
def RoleSpec.v (x : RoleSpec) : Nat := 8 * fieldOf x.shape 18 12
def RoleSpec.sc (x : RoleSpec) : Nat := 4 * fieldOf x.shape 23 19
def RoleSpec.budget (x : RoleSpec) : Option Nat :=
  if fieldOf x.shape 41 30 = 0 then none else some (8 * fieldOf x.shape 41 30)
def RoleSpec.escOff (x : RoleSpec) : Nat := fieldOf x.shape 63 42

/-- The roles that are present. -/
def Plot.roleSpecs (p : Plot) : List RoleSpec :=
  ((List.range 4).map fun q => ⟨q, p.entries.getD q 0, (p.shapes.getD q 0).toNat⟩).filter fun x => x.entry != 0

/-- The largest group count of its roles. -/
def Plot.gmax (p : Plot) : Nat := p.roleSpecs.foldl (fun m x => max m x.groups) 0

/-! ## Blocks of the save pool (R394, R398) -/

/-- Sizes and offsets of a team block's sections: scratchpad, its tags, tag table, handoff, end. -/
def teamBlock (scratch tagSlots gmax : Nat) : Nat × Nat × Nat × Nat × Nat :=
  let a := 4096
  let b := a + scratch * 128
  let c := b + roundUp (scratch * 2) 128
  let d := c + roundUp (tagSlots * 8) 128
  (a, b, c, d, d + 16 * 4 * gmax * 128 + 128)

def Plot.teamBlockSize (p : Plot) : Nat := (teamBlock p.scratch p.tagSlots p.gmax).2.2.2.2

/-! ## The core set (R273, R370) -/

/-- Whether a core is in a plot's core set. -/
def State.inCoreSet (s : State) (p : Plot) (core : Nat) : Bool :=
  core < 384 && (s.iface p.vi).hasCore core && (p.dieMask == 0 || p.dieMask.getLsbD (dieOf core))

/-- Whether a plot has a team waiting to be resumed (R273, R286). -/
def State.plotWaits (s : State) (plot : Nat) : Bool :=
  s.saved.any (fun x => x.2.plot == plot) || s.roles.any fun x => x.2.plot == some plot && x.2.status.isSaved

/-- Whether a plot's work counter grants a claim. -/
def State.grants (s : State) (plot : Nat) : Bool :=
  match mget s.plots plot with
  | none => false
  | some p => decide (p.work < p.grid) && !p.killed && !p.stopping && !p.ended && !s.plotWaits plot

/-! ## Room on a core -/

/-- The lowest place for n units below a limit that no used span overlaps. -/
def lowestSpan (used : List (Nat × Nat)) (limit n : Nat) : Option Nat :=
  if n = 0 then some 0
  else
    ((0 :: used.map fun u => u.1 + u.2).filter fun a =>
      a + n ≤ limit && used.all fun u => u.2 == 0 || decide (a + n ≤ u.1) || decide (u.1 + u.2 ≤ a)).foldl
      (fun acc a => match acc with
        | none => some a
        | some b => some (min a b)) none

/-- Scratchpad bytes, and tag-table slots, that teams of a core hold. -/
def State.scratchUsed (s : State) (core : Nat) : List (Nat × Nat) :=
  s.teams.filterMap fun x => if x.2.core = core && !x.2.out then some (x.2.scratchBase, x.2.scratchSize) else none
def State.tagsUsed (s : State) (core : Nat) : List (Nat × Nat) :=
  s.teams.filterMap fun x => if x.2.core = core && !x.2.out then some (x.2.tagBase, x.2.tagSlots) else none

/-- The lowest free team slot of a core. -/
def Core.freeSlot (c : Core) : Option Nat := (List.range 64).find? fun x => (mget c.slots x).isNone

/-- Whether no plot resident on a core was granted a counter index that this one was (R242). -/
def State.countersFree (s : State) (core : Nat) (p : Plot) : Bool :=
  (s.core core).plotSlots.all fun x => ((mget s.plots x.2).map fun q => q.counters &&& p.counters == 0).getD true

/-- A core's plot slot for a plot: held, or the lowest free one taken, with a context block (R394), its counters at 0
(R242), no credit (R277) and no score. -/
def State.takePlotSlot (s : State) (core plot : Nat) : Option State :=
  let c := s.core core
  if c.hosts plot then some s
  else do
    let p ← (mget s.plots plot).filter (s.countersFree core)
    let slot ← (List.range 8).find? fun x => (mget c.plotSlots x).isNone
    let (b, s1) ← s.reserve p.vi 131072
    some (s1.modCore core fun c => { c with
      plotSlots := mset c.plotSlots slot plot, plotBlocks := mset c.plotBlocks slot b
      counters := mfilter (fun i _ => !p.counters.getLsbD i) c.counters
      credit := mset c.credit slot 0, lost := mset c.lost slot 0 })

/-! ## The start of a team (R273) -/

/-- A generation is issued on a core. -/
def State.issueGen (s : State) (core : Nat) : Option (BitVec 16 × State) :=
  (s.core core).nextGen.map fun x => (x.1, s.setCore core x.2)

/-- Rows and granules are taken on a core that can supply them at once. -/
def State.takeRows (s : State) (core : Nat) (n : Need) : Option State :=
  if (s.core core).fits core n then some (s.modCore core (·.take n)) else none

/-- A role starts: slot, root frame and role block; it stands at its entry's header (R17, R30, R78). -/
def State.startRole (s : State) (core plot tk t : Nat) (p : Plot) (x : RoleSpec) : Option State := do
  let slot ← (s.core core).freeSlot
  let (block, s1) ← s.reserve p.vi 65536
  let s2 ← s1.takeRows core (rootNeed x.groups x.v x.sc)
  let (gen, s3) ← s2.issueGen core
  let k := s3.next
  let n := p.roleSpecs.length
  let r : Role := { Role.hyaluo with
    plot := some plot, team := tk, core := core, slot := slot, roleId := x.roleId, teamIdx := t, gridSize := p.grid
    args := p.args, priv := p.priv, tagTrap := p.tagTrap, operrEn := p.operr, fpTrapEn := p.fpTrap
    groups := x.groups, budget := x.budget, entry := x.entry
    privBase := BitVec.ofNat 64 (p.privBase + (n * t + x.roleId) * p.privSize)
    escapeOff := x.escOff, escapeRes := p.escRes
    status := .ready, hdr := x.entry, off := 0, readyAt := k, startedAt := k
    presence := BitVec.ofNat 32 (2 ^ x.groups - 1), mask := fullMask x.groups
    frames := [Frame.root x.v x.sc gen], block := some block }
  let s4 := s3.ramZero block 65536
  let s5 := (s4.setRole k r).modCore core fun c => { c with slots := mset c.slots slot k }
  some ((s5.modTeam tk fun t => { t with live := t.live ++ [k] }).numbered)

/-- Escape-reserve pages are pre-faulted: those that can be supplied are asked for, and the role waits for all of them
before its first run (R39). -/
def State.preFault (s : State) (k : Nat) : State :=
  let r := s.role k
  let a := r.privAddr r.escapeOff 0 0
  match s.space r with
  | none => s
  | some (vi, asid) =>
    let (s1, missing) := (pagesOf a (128 * r.groups * r.escapeRes)).foldl (fun (x : State × List Nat) page =>
      match x.1.devTr r (max a (page * 65536)) .wr with
      | (.serve reason, s1) => (s1.faultFor vi asid (page * 65536) reason 2, x.2 ++ [page])
      | (_, s1) => (s1, x.2)) (s, [])
    match missing with
    | [] => s1
    | _ => (s1.modRole k fun r => { r with reserve := missing }).pageCame k vi asid

/-- Handoff rows of a yoke of two or more roles (R24), and the generation of its scratchpad, when it has one (R210). -/
def State.takeHandoff (s : State) (core : Nat) (p : Plot) : Option State :=
  if 2 ≤ p.roleSpecs.length then s.takeRows core (handoffNeed p.gmax) else some s
def State.teamGen (s : State) (core : Nat) (p : Plot) : Option (BitVec 16 × State) :=
  if p.scratch = 0 then some (0, s) else s.issueGen core

/-- A yoke starts on a core: scratchpad and tag-table slots, handoff rows of two or more roles (R24), the team block,
and every role. -/
def State.startTeam (s : State) (core plot t : Nat) (set : Option Nat) : Option State := do
  let p ← mget s.plots plot
  let specs := p.roleSpecs
  let base ← lowestSpan (s.scratchUsed core) 524288 (128 * p.scratch)
  let tags ← lowestSpan (s.tagsUsed core) 1024 p.tagSlots
  let (block, s1) ← s.reserve p.vi p.teamBlockSize
  let s2 ← s1.takeHandoff core p
  let (gen, s3) ← s2.teamGen core p
  let tk := s3.next
  let team : Team := { Team.hyaluo with
    plot := some plot, core := core, teamIdx := t, live := [], roleCount := specs.length, gmax := p.gmax, gen := gen
    scratchBase := base, scratchSize := 128 * p.scratch, tagBase := tags, tagSlots := p.tagSlots
    handoffHeld := decide (2 ≤ specs.length), set := set, block := some block }
  let s4 := (s3.setTeam tk team).numbered
  let s5 := s4.modCore core fun c => { c with
    tagTable := mfilter (fun i _ => !(decide (tags ≤ i) && decide (i < tags + p.tagSlots))) c.tagTable }
  let s6 ← specs.foldlM (fun (s : State) x => s.startRole core plot tk t p x) s5
  some ((s6.team tk).live.foldl (fun s k => s.preFault k) s6)

/-- Entries of a core's live-generation CAM (R42). -/
def camSize : Nat := 4160

/-- Whether a plot's whole context is being stopped on a core: no team of it starts or comes there (R284, R402). -/
def Core.leaving (c : Core) (plot : Nat) : Bool := c.headland.any fun h => h.whole && h.plot == plot

/-- Whether the CAM of a core has 64 free entries for each of n roles (R42, R406); a set's value is entered before. -/
def Core.camRoom (c : Core) (n : Nat) : Bool := decide (c.genLive.length + 64 * n ≤ camSize)

/-- Teams of these indices start on a core in one step, or nothing does (R273). -/
def State.startOn (s : State) (core plot : Nat) (ts : List Nat) (set : Option Nat) : Option State := do
  let p ← mget s.plots plot
  if ts = [] then some s
  else if s.inCoreSet p core && !(s.core core).leaving plot && (s.core core).camRoom (ts.length * p.roleSpecs.length) then do
    let s1 ← s.takePlotSlot core plot
    ts.foldlM (fun (s : State) t => s.startTeam core plot t set) s1
  else none

/-- The index range of the next claim of n teams. -/
def Plot.range (p : Plot) (n : Nat) : List Nat := (List.range (min n (p.grid - p.work))).map (p.work + ·)

/-- Whether the CAM of every core of a cluster has an entry for a set's value (R42). -/
def State.setRoom (s : State) (cluster : Nat) : Bool :=
  (List.range 4).all fun q => decide ((s.core (4 * cluster + q)).genLive.length + 1 ≤ camSize)

/-- A cooperative set starts: its generation, issued by core 0 of the cluster, is live on the four cores, and both
halves of their exchange areas are zero (R210). -/
def State.startSet (s : State) (cluster plot : Nat) : Option (Nat × State) :=
  (if s.setRoom cluster then s.issueGen (4 * cluster) else none).map fun (gen, s1) =>
  let sk := s1.next
  let s2 := (List.range 4).foldl (fun (s : State) q => s.modCore (4 * cluster + q) fun c => { c with
    genLive := if q = 0 then c.genLive else gen :: c.genLive
    xch0 := [], xch1 := [], xchTags0 := [], xchTags1 := [] }) s1
  (sk, { s2.numbered with sets := mset s2.sets sk ⟨plot, cluster, gen, false⟩ })

end Sys2Proof.Machine
end

