-- ==== Sys2Proof/Machine/Wake.lean ====
section
/-! DEFINITION. Frame requests met (R33), the Gleaner (R36 to R39, R357), the harrow (R43), and the waking of parked
roles (R283). -/

namespace Sys2Proof.Machine

/-! ## Frame requests met (R33) -/

/-- A request leaves its core's list. -/
def State.dropReq (s : State) (k : Nat) : State :=
  s.modCore (s.role k).core (·.dropReq k)

/-- A request that stands behind these unmet ones, met now if it can be (R32, R40, R230, R259). -/
def State.meetReq (s : State) (k : Nat) (older : List Nat) : Option State :=
  let r := s.role k
  let need := s.reqNeed k
  match r.status with
  | .parked (.frame (.tcfg w)) => (s.allocTcfg r.team older w).map fun s1 => (s1.dropReq k).wake k 1
  | .parked (.frame q) =>
    if !s.mayMeet r.core older need then none
    else
      match q with
      | .call v sc target ret =>
        (s.core r.core).nextGen.map fun x =>
          (((s.setCore r.core (x.2.take need)).pushFrame k v sc x.1 ret).dropReq k).transfer k target
      | .refill =>
        match r.frame.spilled with
        | none => some ((s.dropReq k).wake k 0)
        | some base => some (((s.dropReq k).wake k 0).refillFrom k base)
      | .handoff =>
        some ((((s.modCore r.core (·.take need)).modTeam r.team fun t => { t with handoffHeld := true }).dropReq k).wake k 0)
      | .tcfg _ => none
  | _ => some (s.dropReq k)

/-- The oldest request that may be met (R33). -/
def State.grantFirst (s : State) (older : List Nat) : List Nat → State
  | [] => s
  | k :: ks =>
    match s.meetReq k older with
    | some s1 => s1
    | none => s.grantFirst (older ++ [k]) ks

/-- FRAME_GRANT: one request of a core is met. -/
def execFrameGrant (core : Nat) (s : State) : Out := .next (s.grantFirst [] (s.core core).frameReqs)

/-! ## Spill records (R39, R396) -/

/-- The link record's six words. -/
def Link.words (x : Link) : Bytes :=
  leBytes 8 x.ret.toNat ++ leBytes 4 x.callerGen.toNat ++ leBytes 4 x.callerW
    ++ leBytes 4 (x.maskBase + 2 ^ 31 * x.root.toNat) ++ leBytes 4 x.depth ++ leBytes 8 0

/-- Whether a row or granule carries its frame's generation, and whether it is poison. -/
def Frame.rowIs (f : Frame) (tag : BitVec 16) (x g : Nat) : Bool := ((mget f.rows (rowKey x g)).map (·.tag)) == some tag
def Frame.granIs (f : Frame) (tag : BitVec 16) (i : Nat) : Bool := ((mget f.grans i).map (·.tag)) == some tag

/-- One bit per register, 32 to a word, sixteen words. -/
def bitWords (p : Nat → Bool) : Bytes := leBytes 64 (packNat 1 (fun x => (p x).toNat) 512)

/-- A frame's record: (word, group, bytes from lane 0 on), the parts the layout leaves empty not among them. -/
def Frame.record (f : Frame) (groups : Nat) : List (Nat × Nat × Bytes) :=
  let gs := List.range groups
  let bits (tag : BitVec 16) := packNat 1 (fun i => (f.granIs tag i).toNat) 16
  [(0, 0, f.link.words ++ leBytes 4 f.gen.toNat ++ leBytes 4 f.v ++ leBytes 4 f.sc ++ leBytes 4 f.w
      ++ leBytes 4 (bits f.gen + 65536 * bits poisonTag) ++ leBytes 4 0)]
  ++ gs.map (fun g => (1, g, bitWords (fun x => f.rowIs f.gen x g) ++ bitWords (fun x => f.rowIs poisonTag x g)))
  ++ gs.map (fun g => (2, g, (List.range 32).flatMap fun l =>
      leBytes 4 (packNat 1 (fun p => (p == 0 || (groupMask (f.preds.getD p 0) g).getLsbD l).toNat) 8)))
  ++ (List.range (f.sc / 4)).map (fun i => (3 + i, 0,
      leBytes 32 (if f.granIs f.gen i then ((mget f.grans i).map (·.data.toNat)).getD 0 else 0)))
  ++ (List.range f.v).flatMap fun x => gs.map fun g => (3 + f.sc / 4 + x, g,
      leBytes 128 (if f.rowIs f.gen x g then ((mget f.rows (rowKey x g)).map (·.data.toNat)).getD 0 else 0))

/-- A record's stores, once their pages are translated. -/
def State.putRecord (s : State) (r : Role) (base : Nat) (rec : List (Nat × Nat × Bytes)) : State :=
  rec.foldl (fun s x => s.homeWrite r (s.privPa r (base + x.1) x.2.1 0) x.2.2) s

/-- The private word at which frame i's record goes: above those of the frames beneath it (R39). -/
def Role.recordBase (r : Role) (i : Nat) : Nat := r.escapeOff + ((r.frames.drop (i + 1)).map (·.recordWords)).sum

/-- Frame i once its record is in memory: its rows are gone, and the frame above it holds the block between them
(R357). -/
def Role.markSpilled (r : Role) (i base : Nat) : Role :=
  { r with frames := r.frames.zipIdx.map fun x =>
      if x.2 = i then { x.1 with spilled := some base, ownsIn := false, rows := [], grans := [], hidden := [],
                                      hiddenFlaws := [], preds := List.replicate 8 0 }
      else if x.2 + 1 = i then { x.1 with ownsIn := true }
      else x.1 }

/-! ## The Gleaner (R36 to R38) -/

/-- The oldest frame of a role that may be spilled: not the current one, nor the one beneath it (R37). -/
def Role.spillable (r : Role) : Option Nat :=
  (List.range r.frames.length).reverse.find? fun i =>
    decide (2 ≤ i) && ((r.frames[i]?.map (·.spilled.isNone)).getD false)

/-- The resources on which a request cannot be met: sub-partitions 0 to 3, and 4 for the scalar file. -/
def State.shortOf (s : State) (core : Nat) (n : Need) : List Nat :=
  let c := s.core core
  ((List.range 4).filter fun u => n.rows.getD u 0 != 0 && decide (rowLimit core u < c.rowsUsed.getD u 0 + n.rows.getD u 0))
    ++ (if n.grans != 0 && 2048 < c.gransUsed + n.grans then [4] else [])

/-- The handoff rows of a role's yoke on a sub-partition (R24): every role of the yoke counts as holding them (log entry
125). -/
def State.handoffOn (s : State) (r : Role) (u : Nat) : Nat :=
  let t := s.team r.team
  if t.handoffHeld && !t.out && u < 4 then groupsOn t.gmax u * 64 else 0

/-- What a role's resident frames, and its yoke's handoff registers, hold of a resource. -/
def State.holds (s : State) (k u : Nat) : Nat :=
  let r := s.role k
  if u = 4 then r.allNeed.grans else r.allNeed.rows.getD u 0 + s.handoffOn r u

/-- Whether a role is parked on a frame request. -/
def Role.waitsFrame (r : Role) : Bool :=
  match r.status with
  | .parked (.frame _) => true
  | _ => false

/-- The roles resident on a core, by team slot. -/
def State.rolesOn (s : State) (core : Nat) : List Nat := (s.core core).slots.map (·.2)

/-- Whether a role is parked on a frame request with a frame that may be spilled. -/
def State.spillableAt (s : State) (k : Nat) : Bool := (s.role k).waitsFrame && (s.role k).spillable.isSome

/-- The victim for the oldest request on a resource: the one already chosen for it, while that has a frame to spill; else
the one that holds the most, the lowest team slot of equals (R37). -/
def State.victim (s : State) (core u req : Nat) : Option Nat :=
  match (s.core core).victim.filter fun x => x.2 == req && s.spillableAt x.1 with
  | some x => some x.1
  | none =>
    ((s.rolesOn core).filter s.spillableAt).foldl
      (fun acc k => match acc with
        | none => some k
        | some j => if s.holds j u < s.holds k u then some k else some j) none

/-- The oldest request's role stops: no row can be found for it (R37). -/
def State.exhausted (s : State) (k : Nat) : State :=
  takeTrap (s.dropReq k) k { cause := causeFramelimit, info := 2, source := (s.role k).retAt }

/-- A victim's frame is stored to its escape area, its units' parity checked on the way (R53); a fault parks the victim on
fault service, or stops it with PAGE when it cannot be served (R38). -/
def State.spillFrame (s0 : State) (core k i : Nat) : State :=
  let s := s0.checkUnits k i (((s0.role k).frames[i]?.map (·.allUnits)).getD [])
  let r := s.role k
  match r.frames[i]? with
  | none => s
  | some f =>
    let base := r.recordBase i
    let a := r.privAddr base 0 0
    let pages := pagesOf a (128 * r.groups * f.recordWords)
    match s.devSpan r .wr a pages with
    | (none, s1) =>
      (s1.putRecord r base (f.record r.groups)).modCore core fun c =>
        { c with spill := some ⟨k, f.link.depth, f.gen, base⟩ }
    | (some (va, .serve reason), s1) => ((s1.dropReq k).parkFault k va reason 2).modRole k fun r => { r with spilling := true }
    | (some (va, .fail _), s1) => takeTrap (s1.dropReq k) k { cause := causePage, addr := some va, source := r.retAt }
    | (some (_, .pa _), s1) => s1

/-- Whether a role keeps the Gleaner from acting: it holds some of a short resource and is not parked on a frame request,
unless all it holds is frames that cannot be spilled (R36). -/
def State.mayReturn (s : State) (short : List Nat) (k : Nat) : Bool :=
  short.any (fun u => decide (0 < s.holds k u)) && !(s.role k).waitsFrame
    && ((s.role k).spillable.isSome || short.any fun u => decide (0 < s.handoffOn (s.role k) u))

/-- The Gleaner's move for the oldest request of a core (R36, R37). -/
def State.glean (s : State) (core k : Nat) : State :=
  let need := s.reqNeed k
  match (s.role k).status with
  | .parked (.frame (.tcfg w)) =>
    let holds (j : Nat) : Bool := ((s.team (s.role j).team).tcfg.map fun c =>
      (ownedOf c.word).any fun u => (ownedOf w).contains u).getD false
    if !(s.core core).fits core need && (s.rolesOn core).all fun j => !holds j || (s.role j).waitsFrame then s.exhausted k
    else s
  | .parked (.frame _) =>
    match s.shortOf core need with
    | [] => s
    | u :: us =>
      if (s.rolesOn core).any (s.mayReturn (u :: us)) then s
      else
        match s.victim core u k with
        | none => s.exhausted k
        | some v =>
          match (s.role v).spillable with
          | some i => (s.modCore core fun c => { c with victim := some (v, k) }).spillFrame core v i
          | none => s
  | _ => s

/-- GLEANER_SPILL: the next frame of a victim is stored, or the oldest request is given up (R36, R37). -/
def execGleanerSpill (core : Nat) (s : State) : Out :=
  .next (match (s.core core).spill, (s.core core).frameReqs with
    | none, k :: _ => s.glean core k
    | _, _ => s)

/-- SPILL_STORE_ACK: every store of the record is acknowledged, and the rows and granules of the frame it is of are free
(R38). A frame that is gone stays gone (R53). -/
def execSpillStoreAck (core : Nat) (s : State) : Out :=
  .next (match (s.core core).spill with
    | none => s
    | some x =>
      let s1 := s.modCore core fun c => { c with spill := none }
      match mget s1.roles x.role with
      | none => s1
      | some r =>
        let i := r.frames.findIdx fun f => f.gen == x.gen && f.link.depth == x.depth && f.spilled.isNone
        match r.frames[i]? with
        | some f =>
          if i = 0 || r.core ≠ core then s1
          else
            (s1.setRole x.role (r.markSpilled i x.word)).modCore core
              (·.give (frameNeed r.groups (f.v - 7) (f.sc / 4 - 1)))
        | none => s1)

/-! ## The harrow (R43, R48, R49) -/

/-- Whether a role's frames lie in a core's register files. -/
def Role.onCore (r : Role) (core : Nat) : Bool := r.core == core && !r.status.isSaved

/-- The harrow's visits: the parity of every live row of a core is checked (R49). -/
def State.paritySweep (s : State) (core : Nat) : State :=
  (s.roles.filter fun x => x.2.onCore core).foldl (fun s x =>
    x.2.frames.zipIdx.foldl (fun (s : State) f => s.checkUnits x.1 f.2 f.1.rowUnits) s) s

/-- Mismatches come over live units of a core's registers, which an instruction's read, a spill or the next sweep finds
(R48, log entry 4). -/
def State.newFlaws (s : State) (core : Nat) : State :=
  { s with roles := mmap (fun k (r : Role) =>
      if r.onCore core then { r with frames := r.frames.zipIdx.map fun x => x.1.flawed (Config.flawed s.free k x.2) }
      else r) s.roles }

/-- Free scratchpad granules are void after a sweep: those that no team on the core holds (R43). -/
def State.voidScratch (s : State) (core : Nat) : State :=
  let held (i : Nat) : Bool := (s.scratchUsed core).any fun u => decide (u.1 ≤ 128 * i) && decide (128 * i < u.1 + u.2)
  s.modCore core fun c => { c with scratchTags := mfilter (fun i _ => held i) c.scratchTags }

/-- Whether a lifetime count rises with what surrounds the device, and with no event of its table (R454). -/
def isAmbient (block i : Nat) : Bool :=
  match block with
  | 0 => i == 0
  | 1 => decide (i < 6144)
  | 2 => decide (i < 6144)
  | 4 => decide (i < 1536)
  | 6 => i == 3
  | _ => false

/-- A unit of the tile store with uncorrectable errors (R269): the bytes' contents are lost. -/
def TileUnit.spoilt (u : TileUnit) (use size : Nat) (at' : List Nat) : TileUnit :=
  if at' = [] then u
  else
    let new := (List.range size).filter fun i => at'.contains i
    { u with
      data := new.foldl (fun m i => wrByte m i (Config.poisonByte use i)) u.data
      bad := (List.range size).filter fun i => u.bad.contains i || new.contains i }

/-- The tiles and scale granules of a core's teams, with the errors that have come over them (log entry 4). -/
def State.spoilTiles (s : State) (core : Nat) : State :=
  { s with teams := mmap (fun k t =>
      if t.core = core && !t.out then { t with tcfg := t.tcfg.map fun c => { c with
        tiles := mmap (fun i u => u.spoilt s.free 8192 (Config.badBytes s.free k i)) c.tiles
        scales := mmap (fun i u => u.spoilt s.free 256 (Config.badBytes s.free k (64 + i))) c.scales } }
      else t) s.teams }

/-- What time and surroundings have brought since the last sweep: atoms of device memory with an uncorrectable error
(R292, R416) and lifetime counts (R454), all free (log entries 4 and 120). -/
def State.surround (s : State) : State :=
  let s1 : State := { s with poison := s.poison ++ (Config.badAtoms s.free).filter fun x => decide (x < 0x6_0000_0000) }
  (((Config.lifeEvents s.free).filter fun x => isAmbient x.1 x.2).foldl (fun s x => s.count x.1 x.2) s1).used

/-- HARROW_SWEEP_COMPLETE: values retired before this sweep began are certified, and the next sweep begins (R43); the
live rows have been checked (R49), and free scratchpad granules are void. -/
def execHarrowSweepComplete (core : Nat) (s : State) : Out :=
  .next ((((((s.paritySweep core).newFlaws core).voidScratch core).spoilTiles core).surround).modCore core fun c =>
    { c with genSweeping := c.genRetired, genRetired := [], sweeps := c.sweeps + 1 })

/-! ## Waking (R283) -/

/-- The phase of a barrier word of a role's team (R232). -/
def State.phaseOf (s : State) (r : Role) (addr : Nat) : Nat :=
  match s.scratchAt r false addr 8 with
  | some p => fieldOf (leNat (s.readPlace r.core (s.placeGen r p) p 8 [])) 63 48
  | none => 0

/-- A parked HPUSH once its queue has a free place: the entry is appended; HANDOFF once no other role is live (R231). -/
def State.retryPush (s : State) (k : Nat) (h : HReg) (x : Nat) (m : Mask) : State :=
  let r := s.role k
  if ((s.team r.team).queueOf h).length < 4 then
    match r.readReg x m with
    | .ok rows => (s.pushEntry k h m rows).wake k 1
    | .error t => takeTrap s k t
  else if s.otherLive r.team k then s
  else takeTrap s k (handoffTrap h)

/-- A parked HPOP once its queue has an entry: the entry is taken; HANDOFF once no entry can come (R231). -/
def State.retryPop (s : State) (k : Nat) (h : HReg) (x : Nat) (m : Mask) : State :=
  let r := s.role k
  match (s.team r.team).queueOf h with
  | entry :: rest =>
    ((s.popEntry r.team h rest).putRegOf k x m ((List.range r.groups).map fun g => entry.getD g 0)).wake k 1
  | [] => if s.popWaits k h then s else takeTrap s k (handoffTrap h)

/-- A parked WAITW reads its word again (R228). -/
def State.retryWord (s : State) (k : Nat) (p : Place) (v : BitVec 32) (x : Nat) (m : Mask) (acq : Option Nat) : State :=
  let r := s.role k
  if s.mayPerform (s.opNow k (.load false 4) false 2 (s.laneAt r p 4)) then
    let (y, s1) := s.waitRead r.core p (s.placeGen r p) acq
    if y = v then s1 else (s1.putRegOf k x m (uniformRows r.groups y)).wake k 1
  else s

/-- A parked lock instruction is tried again (R226). -/
def State.retryLock (s : State) (k : Nat) (p : Place) (op scope : Nat) : State :=
  let r := s.role k
  if s.mayPerform (s.opNow k (.atomic 0 8 true) false scope (s.laneAt r p 8)) then
    let (go, s1) := s.lockTry k op p
    if go then (s1.acquire r.core scope).wake k 2 else s1
  else s

/-- A parked role whose wake condition holds becomes ready at the word that R282 names. -/
def State.tryWake (s : State) (k : Nat) (w : WaitOn) : State :=
  let r := s.role k
  match w with
  | .flags m => if r.flagsClear m then s.wake k 2 else s
  | .counter i v => if s.ctrReady k i v then (s.dropL1 r.core).wake k 1 else s
  | .batch n => if s.batchDone k n.toNat then (s.dropL1 r.core).wake k 1 else s
  | .barrier addr phase scope =>
    if s.phaseOf r addr.toNat != phase.toNat then
      ((s.modRole k fun r => { r with arrival := none }).acquire r.core scope).wake k 1
    else s
  | .barc => match (s.team r.team).set with
    | some sk => s.barcCheck sk
    | none => s
  | .lock p op scope => s.retryLock k p op scope
  | .word p v x m acq => s.retryWord k p v x m acq
  | .push h x m => s.retryPush k h x m
  | .pop h x m => s.retryPop k h x m
  | .frame _ => s
  | .stall d => if s.stall.contains d then s else s.wake k 0
  | .fault vi asid page => if s.faultOpen vi asid page then s else s.pageCame k vi asid
  | .hostFault => s
  | .accMove _ => s

/-- PARK_WAKE: a parked role's wake condition is tested (R283). -/
def execParkWake (role : Nat) (_ : Bytes) (s : State) : Out :=
  .next (match mget s.roles role with
    | some r => match r.status with
      | .parked w => s.tryWake role w
      | _ => s
    | none => s)

end Sys2Proof.Machine
end

