-- ==== Sys2Proof/Machine/Switch.lean ====
section
/-! DEFINITION. Leaving a core and coming back: stops of engine classes (R401), the headland collector's save (R397 to
R399, R402, R403), switch-outs (R284, R285), resumption (R288, R289, R404, R406), and the kill of a plot (R407,
R408). -/

namespace Sys2Proof.Machine

/-! ## Sparse copies between memories -/

/-- The bytes of a range, moved to start at 0. -/
def cutMem (m : Mem) (a n : Nat) : Mem :=
  m.filterMap fun c => if a ≤ c.1 && c.1 < a + n then some (c.1 - a, c.2) else none

/-- A range replaced by bytes that start at 0. -/
def pasteMem (m : Mem) (a n : Nat) (x : Mem) : Mem :=
  x.foldl (fun m c => if c.1 < n then wrByte m (a + c.1) c.2 else m) (zeroRange m a n)

/-- Bytes that start at 0 written to a range of device memory. -/
def State.putMem (s : State) (a n : Nat) (x : Mem) : State :=
  x.foldl (fun s c => if c.1 < n then s.ramWrite (a + c.1) [c.2] else s) (s.ramZero a n)

/-- A range of device memory, moved to start at 0. -/
def State.getMem (s : State) (a n : Nat) : Mem :=
  if s.poison = [] then cutMem s.ram a n else wrBytes [] 0 (s.ramRead a n)

/-! ## A role's save (R397) -/

/-- The frames of a role whose records are to be written, each with its record's private word: those that are resident,
and a spilled current one to which a block was passed back. -/
def State.toSave (s : State) (r : Role) : List (Nat × Frame) :=
  (List.range r.frames.length).filterMap fun i =>
    r.frames[i]?.bind fun f =>
      match f.spilled with
      | none => some (r.recordBase i, f)
      | some base => if f.ownsIn then some (base, s.readFrame r f base) else none

/-- The pages that a role's save writes. -/
def State.savePages (s : State) (r : Role) : List (Nat × List Nat) :=
  (s.toSave r).map fun x =>
    let a := r.privAddr x.1 0 0
    (a, pagesOf a (128 * r.groups * x.2.recordWords))

/-- What the translation of a role's save meets first: a fault to be served, or one that cannot be. -/
def State.saveFault (s : State) (r : Role) : List (Nat × List Nat) → Option (Nat × DevTr) × State
  | [] => (none, s)
  | (a, pages) :: rest =>
    match s.devSpan r .wr a pages with
    | (none, s1) => s1.saveFault r rest
    | o => o

/-- A role all of whose frames are in memory. -/
def Role.allSpilled (r : Role) : Role :=
  { r with frames := r.frames.zipIdx.map fun x =>
      { x.1 with spilled := some (x.1.spilled.getD (r.recordBase x.2)), ownsIn := false, rows := [], grans := [],
                 hidden := [], hiddenFlaws := [], preds := List.replicate 8 0 } }

/-- What a role waits for as it leaves its core. -/
def Status.waits : Status → Option WaitOn
  | .parked w => some w
  | .held (.accMove op) => some (.accMove op)
  | .saved w => w
  | _ => none

/-- The atom that a role parked in RLK, WLK or WAITW keeps watching once it is switched out (R283). -/
def Role.watched (r : Role) : Option (Nat × Nat) :=
  match r.status.waits with
  | some (.lock p _ _) => placeAtom r.core p
  | some (.word p _ _ _ _) => placeAtom r.core p
  | _ => none

/-- A role leaves its core: its units' parity is checked (R49), its frames are stored, its rows and slot freed, its clause context written (R402). -/
def State.saveRole (s : State) (k : Nat) (preempt : Bool) : State :=
  let s0 := (s.modRole k (·.landLone)).uncount k
  let s1 := (s0.role k).frames.zipIdx.foldl (fun (s : State) f => s.checkUnits k f.2 f.1.allUnits) s0
  let r := s1.role k
  let s2 := (s1.toSave r).foldl (fun (s : State) x => s.putRecord r x.1 (x.2.record r.groups)) s1
  let r2 := { r.allSpilled with
    status := .saved r.status.waits, preempted := r.preempted || preempt, verdict := none, walkFault := none }
  let s3 := (s2.setRole k r2).modCore r.core fun c =>
    { ((c.release k).dropReq k).give r.allNeed with slots := mfilter (fun _ x => x != k) c.slots }
  let s3 : State := { s3 with watch := s3.watch ++ (r.watched.map fun x => (k, x)).toList }
  match r2.block with
  | some b => s3.writeBlock b r2 r2.trapToken.isSome
  | none => s3

/-! ## A team's blocks (R398) -/

/-- Sizes of a configuration's units in a sub-partition: tiles, accumulators, scale granules. -/
def Tcfg.counts (c : Tcfg) : Nat × Nat × Nat :=
  (fieldOf c.word.toNat 4 0, fieldOf c.word.toNat 11 8, fieldOf c.word.toNat 21 16)

/-- The units of a configuration in the order of its tile block: (store, key, bytes). -/
def Tcfg.unitList (c : Tcfg) : List (Nat × Nat × Nat) :=
  let (nt, na, ns) := c.counts
  (ownedOf c.word).flatMap fun u =>
    (List.range nt).map (fun i => (0, 16 * u + i, 8192))
    ++ (List.range na).map (fun i => (1, 8 * u + i, 32768))
    ++ (List.range ns).map (fun i => (2, 32 * u + i, 256))

def Tcfg.unit (c : Tcfg) (store key : Nat) : Option TileUnit :=
  match store with
  | 0 => mget c.tiles key
  | 1 => mget c.accs key
  | _ => mget c.scales key

def Tcfg.setUnit (c : Tcfg) (store key : Nat) (u : TileUnit) : Tcfg :=
  match store with
  | 0 => { c with tiles := mset c.tiles key u }
  | 1 => { c with accs := mset c.accs key u }
  | _ => { c with scales := mset c.scales key u }

/-- A tag as a save keeps it: the owner's generation, poison, or void. -/
def savedTag (gen tag : BitVec 16) : BitVec 16 := if tag = gen || tag = poisonTag then tag else voidTag

/-- The tile block: tags, then the units (R398). -/
def State.saveTiles (s : State) (c : Tcfg) : State :=
  match c.block with
  | none => s
  | some (b, _) =>
    let tag (x : Nat × Nat × Nat) : BitVec 16 := savedTag c.gen (((c.unit x.1 x.2.1).map (·.tag)).getD voidTag)
    let s1 := (s.ramZero b 512).ramWrite b (c.unitList.flatMap fun x => leBytes 2 (tag x).toNat)
    (c.unitList.foldl (fun (acc : State × Nat) x =>
      (acc.1.putMem acc.2 x.2.2 (((c.unit x.1 x.2.1).map (·.data)).getD []), acc.2 + x.2.2)) (s1, b + 512)).1

/-- The configuration as its tile block gives it. -/
def State.loadTiles (s : State) (c : Tcfg) : Tcfg :=
  match c.block with
  | none => c
  | some (b, _) =>
    (c.unitList.zipIdx.foldl (fun (acc : Tcfg × Nat) x =>
      let tag := BitVec.ofNat 16 (s.ramLE (b + 2 * x.2) 2)
      (acc.1.setUnit x.1.1 x.1.2.1 ⟨tag, s.getMem acc.2 x.1.2.2, []⟩, acc.2 + x.1.2.2)) (c, b + 512)).1

/-- Generations that a role's frames hold, the root's first. -/
def Role.gens (r : Role) : List (BitVec 16) := r.frames.reverse.map (·.gen)

/-- The header of a team block. -/
def State.teamHeader (s : State) (t : Team) : List (Nat × Bytes) :=
  let rs := t.live.map s.role
  let group (q : Nat) : Nat := ((rs.find? fun r => r.roleId == q).map (·.groups)).getD 0
  [(0, leBytes 4 t.teamIdx ++ leBytes 1 t.roleCount ++ (List.range 4).flatMap (fun q => leBytes 1 (group q))
      ++ leBytes 4 ((rs.head?.map (·.relocs)).getD 0)),
   (0x600, leBytes 8 ((t.tcfg.map (·.word.toNat)).getD 0)),
   (0x608, leBytes 8 ((t.tcfg.bind (·.block)).elim 0 fun b =>
      b.1 - ((t.plot.bind (mget s.plots)).map fun p => (s.iface p.vi).physBase).getD 0))]
  ++ rs.map fun r =>
      (0x100 + 128 * r.roleId, (r.gens ++ (if t.scratchSize = 0 then [] else [t.gen])
        ++ (t.tcfg.map (·.gen)).toList).flatMap fun g => leBytes 2 g.toNat)

/-- What a team's roles share goes to its blocks, and the team leaves its core. -/
def State.saveTeam (s : State) (tk : Nat) : State :=
  let t := s.team tk
  let c := s.core t.core
  match t.block with
  | none => s
  | some b =>
    let gr := t.scratchSize / 128
    let (oScr, oTag, oTab, oHand, _) := teamBlock gr t.tagSlots t.gmax
    let s1 := (s.ramZero b 4096).writePieces b (s.teamHeader t)
    let s2 := s1.putMem (b + oScr) t.scratchSize (cutMem c.scratch t.scratchBase t.scratchSize)
    let s3 := s2.ramWrite (b + oTag) ((List.range gr).flatMap fun i =>
      leBytes 2 (savedTag t.gen ((mget c.scratchTags (t.scratchBase / 128 + i)).getD voidTag)).toNat)
    let s4 := s3.ramWrite (b + oTab) ((List.range t.tagSlots).flatMap fun i =>
      leBytes 8 (match mget c.tagTable (t.tagBase + i) with
        | some key => key.toNat + 2 ^ 32
        | none => 0))
    let entry (n e : Nat) : Option HandoffEntry := ((mget t.handoff n).getD [])[e]?
    let s5 := s4.ramWrite (b + oHand) ((List.range 16).flatMap fun n => (List.range 4).flatMap fun e =>
      (List.range t.gmax).flatMap fun g => leBytes 128 (((entry n e).getD []).getD g 0).toNat)
    let full := packNat 1 (fun i => (entry (i / 4) (i % 4)).isSome.toNat) 64
    let s6 := s5.ramWrite (b + oHand + 16 * 4 * t.gmax * 128) (leBytes 128 full)
    let s7 := match t.tcfg with
      | some cfg => s6.saveTiles cfg
      | none => s6
    let s8 := s7.modCore t.core fun c =>
      let c := if t.handoffHeld then c.give (handoffNeed t.gmax) else c
      let c := match t.tcfg with
        | some cfg => c.give (tcfgNeed cfg.word)
        | none => c
      { c with tagTable := mfilter (fun i _ => !(decide (t.tagBase ≤ i) && decide (i < t.tagBase + t.tagSlots))) c.tagTable }
    s8.modTeam tk fun t => { t with out := true, handoff := [] }

/-! ## The context block (R399) -/

/-- Bytes of a layout that the spec does not give (log entry 22). -/
def State.openBytes (s : State) (n : Nat) : Bytes := (List.range n).map fun i => Config.contextByte s.free i

/-- The halves of a core's exchange area, current first: bytes as the set reads them, and tags. -/
def Core.halves (c : Core) : (Mem × AMap (BitVec 16)) × (Mem × AMap (BitVec 16)) :=
  if c.xchCur then ((c.xch1, c.xchTags1), (c.xch0, c.xchTags0)) else ((c.xch0, c.xchTags0), (c.xch1, c.xchTags1))

/-- The counters a plot was granted, as a core holds them. -/
def Core.grantedCounters (c : Core) (p : Plot) : AMap (BitVec 48) :=
  mfilter (fun i _ => p.counters.getLsbD i) c.counters

/-- A context's block is written. -/
def State.saveContext (s : State) (core : Nat) (p : Plot) (b slot : Nat) (cmds trigs : Nat) (coop : Bool) : State :=
  let c := s.core core
  let s1 := (s.ramZero b 131072).ramWrite b (leBytes 1 (core % 4) ++ leBytes 1 slot ++ leBytes 2 cmds ++ leBytes 1 trigs)
  let s2 := s1.ramWrite (b + 0x800) ((List.range 256).flatMap fun i =>
    leBytes 8 ((mget (c.grantedCounters p) i).getD 0).toNat)
  let s3 := (s2.ramWrite (b + 0x1000) (s2.openBytes (64 * trigs))).used
  let s4 := (s3.ramWrite (b + 0x2000) (s3.openBytes (128 * cmds))).used
  if coop then
    let (x, y) := c.halves
    (s4.putMem (b + 0x10000) 32768 x.1).putMem (b + 0x18000) 32768 y.1
  else s4

/-! ## Stops (R401) -/

/-- The cooperative set of a plot that runs on the cluster of a core. -/
def State.setAt (s : State) (plot core : Nat) : Option Nat :=
  (s.sets.find? fun x => x.2.plot == plot && x.2.cluster == clusterOf core && !x.2.out).map (·.1)

/-- Whether a stop leaves something to save with no role named: a cooperative context without teams, whose exchange halves
move with its set (R289). -/
def State.bare (s : State) (core : Nat) (h : Headland) : Bool :=
  h.whole && (s.core core).hosts h.plot && (s.setAt h.plot core).isSome

/-- A stop is sent: the context waits for the collector of its core. -/
def State.stopCtx (s : State) (core : Nat) (h : Headland) : State :=
  if h.roles = [] && !s.bare core h then s else s.modCore core fun c => { c with headland := c.headland ++ [h] }

/-- Whether a named role has come to rest. A role held on a fence or a sweep goes on until it is done. -/
def State.atRest (s : State) (k : Nat) : Bool :=
  match (s.role k).status with
  | .running => false
  | .held .hash => false
  | .held .sign => false
  | .held .verdict => false
  | .held (.fence kind scope upto) => s.fenceDone k kind scope upto
  | .held (.sweep n) => decide (n ≤ (s.core (s.role k).core).sweeps)
  | _ => true

/-- Whether every thread contribution of a role has retired (R71). -/
def State.retired (s : State) (k : Nat) : Bool :=
  !(s.ops.any fun o => o.role == k && (o.kind.isA || !s.performed o o.scope))

/-- Whether an operation of an exited role, on what its yoke shares, is outstanding: the yoke may leave its core (R74). -/
def State.yokeOps (s : State) (h : Headland) : Bool :=
  s.ops.any fun o => o.inScratch && (mget s.roles o.role).isNone && h.roles.any fun k => (s.role k).team == o.team

/-- Teams of a context whose roles have all exited and whose matrix work is unfinished. -/
def State.orphans (s : State) (core : Nat) (h : Headland) : Bool :=
  h.whole && s.teams.any fun x => x.2.core == core && x.2.plot == some h.plot && x.2.live == []

/-- Whether a class has stopped the context at its unit. -/
def State.classStopped (s : State) (core : Nat) (h : Headland) (cls : EngineClass) : Bool :=
  let c := s.core core
  match cls with
  | .issue => (h.roles.all fun k => s.atRest k && s.retired k) && !s.yokeOps h
  | .mma => !s.orphans core h
  -- no chunk is written in part
  | .copy => !s.orphans core h && !(c.cmds.any fun d => h.names d && d.cls == .copy && d.part != [])
  | .collective => !(s.colls.any fun x => h.names x.2.cmd && (c.cmds.any fun d => d.id == x.1)
      && x.2.chunks.any fun k => k.2.result.isSome && !k.2.committed)
  | .gleaner => !(c.spill.any fun x => h.roles.contains x.role)
  | .hashSign => !(c.hashQ.any fun q => h.roles.contains q.role) && !(c.signQ.any fun q => h.roles.contains q.role)
  | _ => true

/-- What a stop leaves: fences that are done have acquired, and the running matrix entries stand at a K-block (R268). -/
def State.classStop (s : State) (core : Nat) (h : Headland) (cls : EngineClass) : State :=
  match cls with
  | .issue => h.roles.foldl (fun s k => match (s.role k).status with
      | .held (.fence _ _ _) => (s.endHold k).wake k 0
      | .held (.sweep _) => s.wake k 0
      | _ => s) s
  | .mma => (s.mats.filter fun o => o.core == core && o.started
      && (h.roles.contains o.role || (h.whole && (s.team o.team).plot == some h.plot))).foldl
      (fun s o => s.stopMat o) s
  | _ => s

/-- ENGINE_STOP_ACK: a class that has stopped acknowledges, once (R401, R402). -/
def execEngineStopAck (core : Nat) (cls : EngineClass) (s : State) : Out :=
  .next (match (s.core core).headland with
    | [] => s
    | h :: rest =>
      if h.acks.contains cls || !s.classStopped core h cls then s
      else (s.classStop core h cls).modCore core fun c => { c with
        headland := { h with acks := h.acks ++ [cls] } :: rest })

/-! ## The save (R402, R403) -/

/-- The commands of CTXCMD that the device carries out: the last one completes when no core has a part of it left. -/
def State.ctxComplete (s : State) : State :=
  ({ s with ctxBusy := false, ctxDone := s.ctxDone + 1 } : State).emit (.msix 0 1)

def State.ctxCheck (s : State) : State :=
  if s.ctxBusy && !(s.cores.any fun c => c.2.headland.any (·.preempt)) then s.ctxComplete else s

/-- Roles of a stop that are still on the core; those that have left it since are marked if it is a pre-emption. -/
def State.markLeft (s : State) (core : Nat) (h : Headland) : State :=
  if h.preempt then h.roles.foldl (fun s k =>
    if (mget s.roles k).any fun r => r.status.isSaved && r.core == core then s.modRole k fun r => { r with preempted := true }
    else s) s
  else s

/-- The collector goes on to the next stop that still names a resident role. -/
def State.nextStop (s : State) (core : Nat) : State := go s (s.core core).headland.length
where
  go (s : State) : Nat → State
    | 0 => s
    | n + 1 =>
      match (s.core core).headland with
      | [] => s
      | h :: rest =>
        let on := h.roles.filter fun k => (s.rolesOn core).contains k
        if on = [] && !s.bare core h then go ((s.markLeft core h).modCore core fun c =>
          Core.testArmed { c with headland := rest } c.triggers) n
        else s.modCore core fun c => { c with headland := { h with roles := on } :: rest }

/-- What the translations of a stop's saves meet: a fault that is waited for, and the roles that cannot be saved. -/
def State.saveFaults (s : State) : List Nat → Bool × List (Nat × Imm8 × Nat) × State
  | [] => (false, [], s)
  | k :: ks =>
    let r := s.role k
    match s.saveFault r (s.savePages r) with
    | (some (va, .serve reason), s1) =>
      let s2 := match s1.space r with
        | some (vi, asid) => s1.faultFor vi asid va reason 2
        | none => s1
      let (_, bad, s3) := s2.saveFaults ks
      (true, bad, s3)
    | (some (va, .fail c), s1) =>
      let (w, bad, s2) := s1.saveFaults ks
      (w, (k, c, va) :: bad, s2)
    | (_, s1) => s1.saveFaults ks

/-- A role that cannot be saved stays, and stops (R403). -/
def State.unsaved (s : State) (core : Nat) (x : Nat × Imm8 × Nat) : State :=
  let s1 := if (s.role x.1).status = .stopped then s else takeTrap s x.1 { cause := causePage, addr := some x.2.2 }
  let s2 := s1.modCore core fun c => { c with headland := match c.headland with
    | h :: rest => { h with roles := h.roles.filter (· != x.1), whole := false } :: rest
    | [] => [] }
  { s2 with ctxPartial := s2.ctxPartial || ((s.core core).headland.head?.map (·.preempt)).getD false }

def allClasses : List EngineClass := [.issue, .mma, .copy, .fabric, .collective, .gleaner, .hashSign, .trigger]

/-- HEADLAND_SAVE: every class has acknowledged, and the save's stores begin; what they write is in memory when they are
performed. -/
def execHeadlandSave (core : Nat) (s : State) : Out :=
  .next (match (s.core core).headland with
    | [] => s
    | h :: _ =>
      if h.saving || !(allClasses.all h.acks.contains) then s
      else
        match s.saveFaults h.roles with
        | (true, _, s1) => s1
        | (false, bad, s1) =>
          let s2 := bad.foldl (fun s x => s.unsaved core x) s1
          ((s2.modCore core fun c => { c with headland := match c.headland with
            | h :: rest => { h with saving := true } :: rest
            | [] => [] }).nextStop core).ctxCheck)

/-- Commands, triggers and ranges of the stopped context leave their core. -/
def State.liftCmds (s : State) (core : Nat) (h : Headland) : List Cmd × List Trigger × List RangeLock × State :=
  let c := s.core core
  let cmds := c.cmds.filter h.names
  let trigs := c.triggers.filter fun t => h.names t.cmd
  let ids := cmds.map (·.id) ++ trigs.map (·.cmd.id)
  (cmds, trigs, c.locks.filter fun l => ids.contains l.cmd,
    s.modCore core fun c => { c with
      cmds := c.cmds.filter fun d => !h.names d, triggers := c.triggers.filter fun t => !h.names t.cmd
      locks := c.locks.filter fun l => !ids.contains l.cmd })

/-- The plot slot of a context is freed, its context block kept (R394, R402). -/
def State.freePlotSlot (s : State) (core plot : Nat) : State :=
  s.modCore core fun c =>
    let slot := c.slotOf (some plot)
    { c with plotSlots := mfilter (fun _ p => p != plot) c.plotSlots, plotBlocks := mdel c.plotBlocks slot
             credit := mdel c.credit slot, lost := mdel c.lost slot }

/-- A set has left its cluster once every context and team of it is saved (R289). -/
def State.setLeaves (s : State) (set : Option Nat) : State :=
  match set with
  | none => s
  | some sk =>
    let here (q : Nat) (x : CoopSet) : Bool := (s.core (4 * x.cluster + q)).hosts x.plot
    { s with sets := mmap (fun k x =>
        if k = sk && ((s.setRoles k).all fun r => (s.role r).status.isSaved) && !((List.range 4).any fun q => here q x) then
          { x with out := true }
        else x) s.sets }

/-- The stopped context leaves its core. -/
def State.saveCtx (s : State) (core : Nat) (h : Headland) : State :=
  let teams := (h.roles.map fun k => (s.role k).team).eraseDups
  let (cmds, trigs, locks, s1) := s.liftCmds core h
  let s2 := h.roles.foldl (fun s k => s.saveRole k h.preempt) s1
  let gone (s : State) (tk : Nat) : Bool := (s.team tk).live.all fun k => (s.role k).status.isSaved
  let s3 := teams.foldl (fun s tk => if gone s tk then s.saveTeam tk else s) s2
  let bases : AMap Nat := teams.foldl (fun m tk => mset m tk (s.team tk).scratchBase) []
  let c := s3.core core
  let set := s3.setAt h.plot core
  let ctx : SavedCtx :=
    { plot := h.plot, core := core, roles := h.roles, whole := h.whole, triggers := trigs, cmds := cmds
      locks := locks, bases := bases, xtags := none, block := none, set := set }
  match mget s3.plots h.plot with
  | none => s3
  | some p =>
    if h.whole then
      let slot := c.slotOf (some h.plot)
      let b := mget c.plotBlocks slot
      let s4 := match b with
        | some b => s3.saveContext core p b slot cmds.length trigs.length set.isSome
        | none => s3
      let ctx := { ctx with
        block := b
        xtags := if set.isSome then some (c.halves.1.2, c.halves.2.2) else none }
      let s5 := s4.freePlotSlot core h.plot
      let s6 : State := { s5 with saved := mset s5.saved s5.next ctx }
      s6.numbered.setLeaves set
    else { s3.numbered with saved := mset s3.saved s3.next ctx }

/-- HEADLAND_SAVE_DONE: the stores of a save are performed at device scope; what the context held is free (R402). -/
def execHeadlandSaveDone (core : Nat) (s : State) : Out :=
  .next (match (s.core core).headland with
    | [] => s
    | h :: rest =>
      if !h.saving then s
      else
        match s.saveFaults h.roles with
        | (false, [], s1) =>
          let s2 := (s1.saveCtx core h).modCore core fun c => { c with headland := rest }
          (s2.nextStop core).ctxCheck
        | (_, _, s1) => s1.modCore core fun c => { c with headland := { h with saving := false } :: rest })

/-! ## Switch-outs (R284, R285) -/

/-- The roles of a plot on a core that are parked, or parked on fault service. -/
def State.parkedOf (s : State) (core plot : Nat) (fault : Bool) : List Nat :=
  (s.plotRoles core (some plot)).filter fun k => match (s.role k).status with
    | .parked (.fault _ _ _) => true
    | .parked .hostFault => true
    | .parked _ => !fault
    | _ => false

/-- Whether a share of a plot's roles on a core exceeds its threshold. -/
def State.exceeds (s : State) (core plot : Nat) (n : Nat) : Bool :=
  match mget s.plots plot with
  | some p => decide (p.thresh * (s.plotRoles core (some plot)).length < 64 * n)
  | none => false

def stopWhole (s : State) (core plot : Nat) (preempt : Bool) : State :=
  s.stopCtx core ⟨plot, s.plotRoles core (some plot), true, preempt, [], false⟩

/-- CONTEXT_SWITCH_OUT: the fault share of a plot exceeds its threshold; a cooperative plot leaves the four cores of the
cluster (R284). -/
def execContextSwitchOut (core plot : Nat) (s : State) : Out :=
  .next (if !s.exceeds core plot (s.parkedOf core plot true).length
      || (s.core core).headland.any (fun h => h.plot == plot) then s
    else if s.sets.any fun x => x.2.plot == plot && x.2.cluster == clusterOf core && !x.2.out then
      (List.range 4).foldl (fun s q => stopWhole s (4 * clusterOf core + q) plot false) s
    else stopWhole s core plot false)

/-- Whether a saved context or team may come back: what it waits for has come, and no role of it is kept by a
pre-emption. A role parked on a lock or a changed word waits for the next write to the word's atom (R283). -/
def State.waitOver (s : State) (k : Nat) (whole : Bool) : Bool :=
  let r := s.role k
  !r.preempted && match r.status with
    | .saved (some (.fault vi asid page)) => !s.faultOpen vi asid page
    | .saved (some .hostFault) => r.walkFault.isSome
    | .saved (some w) => whole || match w with
      | .flags m => r.flagsClear m
      | .counter i v => s.ctrReady k i v
      | .batch n => s.batchDone k n.toNat
      | .barrier addr phase _ => (s.team r.team).out || s.phaseOf r addr.toNat != phase.toNat
      | .barc => !r.barcArrived
      | .lock _ _ _ => !(s.watch.any fun x => x.1 == k)
      | .word _ _ _ _ _ => !(s.watch.any fun x => x.1 == k)
      | .push h _ _ => decide (((s.team r.team).queueOf h).length < 4)
      | .pop h _ _ => (s.team r.team).queueOf h != [] || !s.popWaits k h
      | .stall d => !s.stall.contains d
      | _ => true
    | _ => true

def State.canResume (s : State) (x : SavedCtx) : Bool := x.roles.all fun k => s.waitOver k x.whole

/-- The saved work of a plot that waits for a core and can come back. -/
def State.waitingWork (s : State) (core plot : Nat) : List (Nat × SavedCtx) :=
  s.saved.filter fun x => x.2.plot == plot && (x.2.core == core || x.2.whole) && s.canResume x.2

/-- Whether a core has the slots that the waiting work of a plot needs. -/
def State.slotsFor (s : State) (core plot : Nat) : Bool :=
  decide (((s.waitingWork core plot).map fun x => x.2.roles.length).sum + (s.core core).slots.length ≤ 64)

/-- TEAM_SWITCH_OUT: the role of a plot parked longest makes room for work of the plot that can come back, while the parked
share exceeds the threshold and there are too few free slots for that work (R285). -/
def execTeamSwitchOut (role : Nat) (s : State) : Out :=
  .next (match mget s.roles role with
    | none => s
    | some r =>
      match r.plot with
      | none => s
      | some plot =>
        let ks := s.parkedOf r.core plot false
        let oldest := ks.foldl (fun acc k => match acc with
          | none => some k
          | some j => if (s.role k).readyAt < (s.role j).readyAt then some k else some j) none
        if s.waitingWork r.core plot ≠ [] && !s.slotsFor r.core plot && s.exceeds r.core plot ks.length && oldest = some role && !s.stopping role then
          s.stopCtx r.core ⟨plot, [role], false, false, [], false⟩
        else s)

/-- STALL_SWITCH_OUT: a role parked on a stall hint for a rotation period leaves its core (R285). -/
def execStallSwitchOut (role : Nat) (s : State) : Out :=
  .next (match mget s.roles role with
    | none => s
    | some r =>
      match r.plot, r.status with
      | some plot, .parked (.stall _) =>
        if s.stopping role then s else s.stopCtx r.core ⟨plot, [role], false, false, [], false⟩
      | _, _ => s)

/-! ## Resumption (R288, R289, R404, R406) -/

/-- A generation of a saved team on the core it comes to: renumbered when that core holds the value live (R52, R406). -/
def State.bringGen (s : State) (from' to' : Nat) (g : BitVec 16) : Option (BitVec 16 × State) :=
  if from' = to' then some (g, s)
  else
    let s1 := s.modCore from' (·.retireGen g)
    if (s1.core to').genLive.contains g then s1.issueGen to'
    else some (g, s1.modCore to' fun c => { c with genLive := g :: c.genLive })

/-- A saved tag under a generation's new number. -/
def retag (old new tag : BitVec 16) : BitVec 16 := if tag = old then new else tag

/-- A configuration under a new number. -/
def Tcfg.renumber (c : Tcfg) (g : BitVec 16) : Tcfg :=
  let f (_ : Nat) (u : TileUnit) : TileUnit := { u with tag := retag c.gen g u.tag }
  { c with gen := g, tiles := mmap f c.tiles, accs := mmap f c.accs, scales := mmap f c.scales }

/-- The rows that a team's hand-off memory and configuration need on the core it comes to. -/
def State.takeShared (s : State) (core : Nat) (t : Team) : Option State :=
  let need := if t.handoffHeld then handoffNeed t.gmax else frameNeed 0 0 0
  match t.tcfg with
  | some cfg => (s.takeRows core need).bind fun s => s.takeRows core (tcfgNeed cfg.word)
  | none => s.takeRows core need

/-- The team's generation on the core it comes to; a team without scratch has none. -/
def State.bringTeamGen (s : State) (core : Nat) (t : Team) : Option (BitVec 16 × State) :=
  if t.scratchSize = 0 then some (t.gen, s) else s.bringGen t.core core t.gen

/-- The configuration's generation on the core it comes to. -/
def State.bringTcfgGen (s : State) (core : Nat) (t : Team) : Option (BitVec 16 × State) :=
  match t.tcfg with
  | some cfg => s.bringGen t.core core cfg.gen
  | none => some (0, s)

/-- The spans of scratch and of tag slots that a team comes to. -/
def State.spansFor (s : State) (core : Nat) (t : Team) : Option (Nat × Nat) :=
  (lowestSpan (s.scratchUsed core) 524288 t.scratchSize).bind fun base =>
    (lowestSpan (s.tagsUsed core) 1024 t.tagSlots).map fun tags => (base, tags)

/-- The scratch, tags and tag slots of a team as its block `b` gives them, put into the spans of a core. -/
def State.fillCore (s : State) (b : Nat) (t : Team) (gen : BitVec 16) (span : Nat × Nat) (c : Core) : Core :=
  let gr := t.scratchSize / 128
  let (oScr, oTag, oTab, _) := teamBlock gr t.tagSlots t.gmax
  let gtag (i : Nat) : BitVec 16 := retag t.gen gen (BitVec.ofNat 16 (s.ramLE (b + oTag + 2 * i) 2))
  { c with
    scratch := pasteMem c.scratch span.1 t.scratchSize (s.getMem (b + oScr) t.scratchSize)
    scratchTags := (List.range gr).foldl (fun m i => mset m (span.1 / 128 + i) (gtag i)) c.scratchTags
    tagTable := (List.range t.tagSlots).foldl (fun m i =>
      let w := s.ramLE (b + oTab + 8 * i) 8
      if w.testBit 32 then mset m (span.2 + i) (BitVec.ofNat 32 w) else mdel m (span.2 + i)) c.tagTable }

/-- The hand-off entries of a team as its block gives them. -/
def State.readHandoff (s : State) (b : Nat) (t : Team) : AMap (List HandoffEntry) :=
  let (_, _, _, oHand, _) := teamBlock (t.scratchSize / 128) t.tagSlots t.gmax
  let full := s.ramLE (b + oHand + 16 * 4 * t.gmax * 128) 8
  let entry (i : Nat) : HandoffEntry := (List.range t.gmax).map fun g =>
    BitVec.ofNat 1024 (s.ramLE (b + oHand + (i * t.gmax + g) * 128) 128)
  let queue (n : Nat) : List HandoffEntry := ((List.range 4).filter fun e => full.testBit (4 * n + e)).map fun e =>
    entry (4 * n + e)
  (List.range 16).foldl (fun m n => if queue n = [] then m else mset m n (queue n)) []

/-- A team as it stands on the core it has come to, its blocks read in `s`. -/
def State.teamBack (s : State) (b core : Nat) (gen tg : BitVec 16) (span : Nat × Nat) (t : Team) : Team :=
  { t with
    core := core, gen := gen, scratchBase := span.1, tagBase := span.2, out := false, handoff := s.readHandoff b t
    tcfg := t.tcfg.map fun cfg => (s.loadTiles cfg).renumber tg }

/-- What a team's roles share comes back from its blocks (R398, R404). -/
def State.loadTeam (s : State) (tk core : Nat) : Option State :=
  let t := s.team tk
  if !t.out then some s
  else do
    let b ← t.block
    let span ← s.spansFor core t
    let s2 ← s.takeShared core t
    let gen ← s2.bringTeamGen core t
    let tg ← gen.2.bringTcfgGen core t
    some ((tg.2.modCore core (s.fillCore b t gen.1 span)).modTeam tk (s.teamBack b core gen.1 tg.1 span))

/-- The frames of a role under the numbers of the core it comes to. -/
def State.bringFrames (s : State) (from' to' : Nat) : List Frame → Option (List Frame × State)
  | [] => some ([], s)
  | f :: fs =>
    (s.bringGen from' to' f.gen).bind fun g => (g.2.bringFrames from' to' fs).map fun rest =>
      ({ f with gen := g.1 } :: rest.1, rest.2)

/-- The rows that the top two frames of a role need. -/
def topNeed (r : Role) : Need :=
  match r.frames with
  | f :: f1 :: _ => (callNeed r.groups f.v f.sc).add (rootNeed r.groups f1.v f1.sc)
  | f :: _ => rootNeed r.groups f.v f.sc
  | [] => frameNeed 0 0 0

/-- The pages of the records of a role's top two frames. -/
def Role.topPages (r : Role) : List (Nat × List Nat) :=
  (r.frames.take 2).map fun f =>
    let a := r.privAddr (f.spilled.getD 0) 0 0
    (a, pagesOf a (128 * r.groups * f.recordWords))

/-- A frame as its record gives it, if it is in memory. -/
def State.readBack (s : State) (r : Role) (f : Frame) : Frame :=
  match f.spilled with
  | some base => s.readFrame r f base
  | none => f

/-- A role's frames with the top two read back; the current one owns no passed rows. -/
def State.refilled (s : State) (r : Role) : List Frame → List Frame
  | f :: f1 :: rest => { s.readBack r f with ownsIn := false } :: s.readBack r f1 :: rest
  | [f] => [s.readBack r f]
  | [] => []

/-- The top two frames refilled from their records, when their pages are there; else they stay spilled, and the role's
first run asks for the current one (R34, R397). -/
def State.refillTop (s : State) (k : Nat) : Option State :=
  let r := s.role k
  match s.saveFault r r.topPages with
  | (none, s1) => (s1.takeRows r.core (topNeed r)).map fun s2 => s2.setRole k { r with frames := s2.refilled r r.frames }
  | (_, s1) => some s1

/-- The status of a saved role as it comes back: stopped with its trap unanswered, held again at ACCRD or ACCWR, or ready. -/
def Status.backTo (stopped : Bool) : Status → Status
  | .saved (some (.accMove op)) => .held (.accMove op)
  | _ => if stopped then .stopped else .ready

/-- A role as it stands in its slot of the core it comes to. -/
def Role.broughtTo (r : Role) (core slot : Nat) (frames : List Frame) (now : Nat) : Role :=
  { r with
    core := core, slot := slot, frames := frames, relocs := if core = r.core then r.relocs else r.relocs + 1
    status := r.status.backTo r.trapToken.isSome, readyAt := now, able := true, startedAt := now, words := [] }

/-- A role comes to a core: slot, frames, and its clause context as its block holds it (R395, R404). -/
def State.loadRole (s : State) (k core : Nat) : Option State :=
  let r := s.role k
  (s.core core).freeSlot.bind fun slot => (s.bringFrames r.core core r.frames).bind fun x =>
    let s2 := ((x.2.setRole k (r.broughtTo core slot x.1 x.2.next)).modCore core fun c =>
      { c with slots := mset c.slots slot k }).numbered
    (s2.refillTop k).map fun s3 =>
      { s3.reread k true with watch := s3.watch.filter fun x => x.1 != k }

/-- Saved commands are queued again with their ranges, triggers armed and tested (R404). -/
def State.loadCmds (s : State) (x : SavedCtx) (core : Nat) : Option State :=
  let c := s.core core
  if 64 < c.locks.length + x.locks.length || 256 < c.cmds.length + x.cmds.length
      || 64 < c.triggers.length + x.triggers.length then none
  else
    let move (d : Cmd) : Cmd := { d with core := core, half := if x.core = core then d.half else c.xchCur }
    let teamOf (id : Nat) : Option Nat :=
      ((x.cmds ++ x.triggers.map (·.cmd)).find? fun d => d.id == id).map (·.team)
    let shift (l : RangeLock) : RangeLock :=
      match l.space, (teamOf l.cmd).bind fun tk => (mget x.bases tk).map fun b => (tk, b) with
      | .scratch _, some (tk, b) =>
        if l.lo < 0x100000 then
          { l with lo := l.lo - b + (s.team tk).scratchBase, hi := l.hi - b + (s.team tk).scratchBase }
        else l
      | _, _ => l
    let c1 : Core := { c with
      cmds := c.cmds ++ x.cmds.map move, locks := c.locks ++ x.locks.map shift
      triggers := c.triggers ++ x.triggers.map fun (t : Trigger) => { t with cmd := move t.cmd } }
    some (s.setCore core (c1.testArmed x.triggers))

/-- The counters granted to a plot as its context block holds them (R399, R405). -/
def State.readCounters (s : State) (p : Plot) (block : Option Nat) (m : AMap (BitVec 48)) : AMap (BitVec 48) :=
  match block with
  | some b => ((List.range 256).filter p.counters.getLsbD).foldl (fun m i => mset m i (s.savedCounter b i)) m
  | none => m

/-- The plot slot that a whole context takes on the core it comes to; a team comes to the one its plot has there, or takes
one. -/
def State.takeSlotFor (s : State) (core : Nat) (p : Plot) (x : SavedCtx) : Option State :=
  if !x.whole then s.takePlotSlot core x.plot
  else if !s.countersFree core p then none
  else ((List.range 8).find? fun n => (mget (s.core core).plotSlots n).isNone).map fun slot =>
    s.modCore core fun c => { c with
      plotSlots := mset c.plotSlots slot x.plot, credit := mset c.credit slot 0, lost := mset c.lost slot 0
      plotBlocks := mput c.plotBlocks slot x.block
      counters := s.readCounters p x.block c.counters
      l1 := if core = x.core then c.l1 else [] }

/-- Regions, packets that wait for them and matrix work follow a context to its core. -/
def State.follow (s : State) (x : SavedCtx) (core : Nat) : State :=
  let moved (g : Region) : Region := if x.whole && g.plot = x.plot && g.core = x.core then { g with core := core } else g
  { s with
    regions := mmap (fun _ g => moved g) s.regions
    waitPkts := s.waitPkts.map fun w => { w with region := moved w.region }
    mats := s.mats.map fun o => if x.roles.contains o.role then { o with core := core } else o }

/-- Whether a core may take a saved context or team at all: the core set, the world, and 64 CAM entries for each role (R42,
R289, R406). A team comes to the core that saved it, or with its set; none joins a context that is being stopped. -/
def State.mayTake (s : State) (core : Nat) (p : Plot) (x : SavedCtx) : Bool :=
  (core == x.core || x.whole || x.set.isSome) && s.inCoreSet p core
    && s.plotWorld x.plot == (mget s.worldMap (core / 4)).getD 0
    && (s.core core).camRoom x.roles.length && !(s.core core).leaving x.plot

/-- A saved context or team comes to a core, in one step or not at all. -/
def State.loadCtx (s : State) (key core : Nat) (x : SavedCtx) : Option State :=
  (mget s.plots x.plot).bind fun p =>
    if !s.mayTake core p x then none
    else do
      let s2 ← State.takeSlotFor { s with saved := mdel s.saved key } core p x
      let s3 ← ((x.roles.map fun k => (s.role k).team).eraseDups).foldlM (fun (s : State) tk => s.loadTeam tk core) s2
      let s4 ← x.roles.foldlM (fun (s : State) k => s.loadRole k core) s3
      let s5 ← s4.loadCmds x core
      some (s5.follow x core)

/-- The exchange halves of a cooperative context come back under the set's number (R210, R289). -/
def State.loadHalves (s : State) (x : SavedCtx) (core : Nat) (old new : BitVec 16) : State :=
  match x.xtags, x.block with
  | some (t0, t1), some b =>
    let f (_ : Nat) (t : BitVec 16) : BitVec 16 := retag old new t
    s.modCore core fun c => { c with
      xch0 := s.getMem (b + 0x10000) 32768, xch1 := s.getMem (b + 0x18000) 32768
      xchTags0 := mmap f t0, xchTags1 := mmap f t1, xchCur := false }
  | _, _ => s

/-- A live number on four cores. -/
def State.liveGen (s : State) (core n : Nat) (g : BitVec 16) : State :=
  (List.range n).foldl (fun (s : State) q => s.modCore (core + q) fun c => { c with genLive := g :: c.genLive }) s

/-- The number that a set has on the first core of the cluster it comes to. -/
def State.setGen (s : State) (core : Nat) (g : BitVec 16) : Option (BitVec 16 × State) :=
  if (s.core core).genLive.contains g then s.issueGen core else some (g, s.liveGen core 1 g)

/-- A set's number comes to another cluster: retired on the four cores it leaves, live on the four it comes to. The old
and the new number, with the state. -/
def State.bringSet (s : State) (sk : Nat) (cluster : Nat) : Option ((BitVec 16 × BitVec 16) × State) :=
  (mget s.sets sk).bind fun x =>
    if x.cluster = cluster then some ((x.gen, x.gen), { s with sets := mset s.sets sk { x with out := false } })
    else if !s.setRoom cluster then none
    else
      let s1 := (List.range 4).foldl (fun (s : State) q => s.modCore (4 * x.cluster + q) (·.retireGen x.gen)) s
      (s1.setGen (4 * cluster) x.gen).map fun g =>
        let s3 := g.2.liveGen (4 * cluster + 1) 3 g.1
        ((x.gen, g.1), { s3 with sets := mset s3.sets sk ⟨x.plot, cluster, g.1, false⟩ })

/-- What is saved of a set: its contexts, one for each core of its cluster that held one, and then its single teams. -/
def State.setCtxs (s : State) (sk : Nat) : List (Nat × SavedCtx) :=
  let xs := s.saved.filter fun x => x.2.set == some sk
  xs.filter (·.2.whole) ++ xs.filter fun x => !x.2.whole

/-- One context of a set comes to its core of the cluster, with its exchange halves. -/
def State.loadMember (s : State) (cluster : Nat) (old new : BitVec 16) (y : Nat × SavedCtx) : Option State :=
  let core := 4 * cluster + y.2.core % 4
  (s.loadCtx y.1 core y.2).map fun s2 => s2.loadHalves y.2 core old new

/-- A cooperative context moves as a whole set, all of it saved, onto a cluster that has the room (R42, R289). -/
def State.loadSet (s : State) (sk cluster : Nat) : Option State :=
  let xs := s.setCtxs sk
  if !(xs.all fun y => s.canResume y.2) || s.sets.any fun y => y.1 != sk && y.2.cluster == cluster && !y.2.out then none
  else (s.bringSet sk cluster).bind fun g =>
    xs.foldlM (fun (s : State) y => s.loadMember cluster g.1.1 g.1.2 y) g.2

/-- Whether a set has left its cluster. -/
def State.setOut (s : State) (sk : Nat) : Bool := ((mget s.sets sk).map (·.out)).getD false

/-- The attempt of R289 on one core, or on one cluster: a context of a set comes back with all of it, a single team of a
set that has not left to its own core. -/
def State.resumeOn (s : State) (core : Nat) (key : Nat) (x : SavedCtx) : Option State :=
  match x.set with
  | some sk =>
    if s.setOut sk then s.loadSet sk (clusterOf core)
    else if x.whole || core ≠ x.core then none
    else s.loadCtx key core x
  | none => s.loadCtx key core x

/-- What the resumption of a saved context or team on a core brings, if it may come there now: to another core only where
its own has no room (R289). -/
def State.comes (s : State) (core : Nat) (y : Nat × SavedCtx) : Option State :=
  if !s.canResume y.2 || (core ≠ y.2.core && (s.resumeOn y.2.core y.1 y.2).isSome) then none
  else s.resumeOn core y.1 y.2

/-- The lowest claim index in a saved context. -/
def State.claimIdx (s : State) (x : SavedCtx) : Nat :=
  x.roles.foldl (fun m k => min m (s.role k).teamIdx) (2 ^ 32)

/-- Whether saved work is served before other saved work: single teams first, then contexts by their lowest claim index
(R286). -/
def State.servedBefore (s : State) (y x : SavedCtx) : Bool :=
  x.whole && (!y.whole || decide (s.claimIdx y < s.claimIdx x))

/-- CONTEXT_RESUME: a saved context or team comes back, after those that a core serves before it (R286). -/
def execContextResume (core ctx : Nat) (s : State) : Out :=
  .next (match mget s.saved ctx with
    | none => s
    | some x =>
      if s.saved.any fun y => s.servedBefore y.2 x && (s.comes core y).isSome then s
      else (s.comes core (ctx, x)).getD s)

/-! ## New claims, after what waits to be resumed (R286) -/

/-- Whether saved work could come to a core now. -/
def State.workWaits (s : State) (core : Nat) : Bool := s.saved.any fun y => (s.comes core y).isSome

/-- CLAIM_PULL: a core pulls a claim of a plot (R272, R273). -/
def execClaimPull (core plot : Nat) (s : State) : Out :=
  .next (match mget s.plots plot with
    | none => s
    | some p =>
      if p.coop || !s.grants plot || s.workWaits core then s
      else
        let ts := p.range p.claim
        match s.startOn core plot ts none with
        | some s1 => s1.modPlot plot fun p => { p with work := p.work + ts.length }
        | none => s)

/-- COOP_CLAIM_PULL: a whole cluster pulls a claim of 4c indices as one cooperative set (R275). -/
def execCoopClaimPull (cluster plot : Nat) (s : State) : Out :=
  .next (match mget s.plots plot with
    | none => s
    | some p =>
      if !p.coop || !s.grants plot || 96 ≤ cluster || s.sets.any (fun x => x.2.cluster == cluster && !x.2.out)
          || (List.range 4).any fun q => s.workWaits (4 * cluster + q) then s
      else
        let ts := p.range (4 * p.claim)
        match (do
            let (sk, s1) ← s.startSet cluster plot
            if (List.range 4).all fun q => s.inCoreSet p (4 * cluster + q) then
              (List.range 4).foldlM (fun (s : State) q =>
                s.startOn (4 * cluster + q) plot (ts.filter fun t => (t - p.work) % 4 == q) (some sk)) s1
            else none) with
        | some s1 => s1.modPlot plot fun p => { p with work := p.work + ts.length }
        | none => s)

/-! ## Killing a plot (R407, R408) -/

/-- The aborts of a role's open fence intervals, and of closed ones whose fence has no verdict yet. -/
def State.abortFences (s : State) (k : Nat) : State :=
  let r := s.role k
  let job := s.jobOf r.plot
  r.fences.foldl (fun (s : State) x =>
    if x.2.count = 0 then s else s.emit (.fenceAbort ⟨s.rank, job, k, x.2.num⟩ (BitVec.ofNat 18 x.1))) s

/-- A role's record at the kill, and its end. -/
def State.killRole (s : State) (k : Nat) : State :=
  let s1 := (s.abortFences k).uncount k
  let r := s1.role k
  let s2 := match r.block with
    | some b =>
      let t : Trap := { cause := causeKilled }
      let s2 := s1.ramWrite b (trapBytes r.pc.toNat t 0 s1.clock r.teamIdx r.roleId)
      if r.status.isSaved then s2 else s2.writeBlock b r false
    | none => s1
  (s2.modRole k fun r => { r with deferred := [] }).endRole k

/-- The chunk that a command of a killed plot has written in part is written whole: the unit at which its engine stops
(R401, R407). -/
def State.finishCmd (s : State) (c : Cmd) : State :=
  ((c.part.map (·.1)).eraseDups).foldl (fun s k => match c.kind with
    | .coll _ _ _ => s.commitChunk c.id k none
    | _ => (s.doChunk c k ((List.range 4096).map fun i => Config.lastByte s.free i) none).used) s
def State.finishChunks (s : State) (plot : Nat) : State :=
  (s.cores.flatMap fun c => c.2.cmds.filter fun d => d.plot == some plot && (d.cls == .copy || d.cls == .collective)).foldl
    (fun s c => s.finishCmd c) s

/-- A plot's commands, triggers and matrix work are cancelled; what they have written stays, and nothing it has sent is
sent again (R408). -/
def State.cancelWork (s : State) (plot : Nat) : State :=
  let mine (c : Cmd) : Bool := c.plot == some plot
  let ids := (s.cores.flatMap fun c => (c.2.cmds.filter mine).map (·.id) ++ (c.2.triggers.filter fun t => mine t.cmd).map (·.cmd.id))
    ++ (s.saved.flatMap fun x => if x.2.plot = plot then x.2.cmds.map (·.id) else [])
    ++ (s.ops.filter fun o => (s.role o.role).plot == some plot).map (·.id)
  let fences := s.cores.flatMap fun c => (c.2.cmds.filter fun d => mine d && d.kind == .fencex && !d.done.contains 1).filterMap
    fun d => d.fence.map fun f => (f, preryRank (d.dst.setWidth 64))
  let s1 := fences.foldl (fun (s : State) f => s.emit (.fenceAbort f.1 f.2)) s
  { s1 with
    cores := mmap (fun _ c => { c with
      cmds := c.cmds.filter fun d => !mine d, triggers := c.triggers.filter fun t => !mine t.cmd
      locks := c.locks.filter fun l => !ids.contains l.cmd
      headland := c.headland.filter fun h => h.plot != plot }) s1.cores
    colls := mfilter (fun id _ => !ids.contains id) s1.colls
    outContribs := s1.outContribs.filter fun o => !ids.contains o.coll
    outPkts := s1.outPkts.filter fun o => !ids.contains o.cmd
    mats := s1.mats.filter fun o => (s.team o.team).plot != some plot }

/-- The saved contexts of a plot are given up, with their context blocks. -/
def State.dropSaved (s : State) (plot : Nat) (vi : Nat) : State :=
  let mine := s.saved.filter fun x => x.2.plot == plot
  let s1 := mine.foldl (fun (s : State) x => match x.2.block with
    | some b => s.unreserve vi b
    | none => s) s
  { s1 with saved := mfilter (fun _ x => x.plot != plot) s1.saved }

/-- The killed context of a job is reported to every requester with a secured session (R448): the event message 0x41. -/
def State.ctxKilled (s : State) (vi : Nat) : State :=
  match (s.iface vi).job with
  | some j => s.emit (.mctp ([0, 0, 0, 0x41, 0, 0, 0, 0] ++ leBytes 4 j.id.toNat ++ leBytes 4 s.rank.toNat
      ++ leBytes 8 s.clock))
  | none => s

/-- A plot is killed (R407). -/
def State.killPlot (s : State) (plot : Nat) : State :=
  match mget s.plots plot with
  | none => s
  | some p =>
    if p.killed then s
    else
      let s1 := ((s.modPlot plot fun p => { p with stopping := true, killed := true }).finishChunks plot).cancelWork plot
      let ks := (s1.roles.filter fun x => x.2.plot == some plot).map (·.1)
      let s2 := ks.foldl (fun s k => s.killRole k) s1
      let s3 := s2.dropSaved plot p.vi
      let s4 : State := { s3 with regions := mfilter (fun _ g => g.plot != plot) s3.regions }
      s4.ctxCheck.ctxKilled p.vi

/-! ## The context registers (R400) -/

/-- A saved role's PREEMPTED mark, in the role and in its block (R395). -/
def State.setPreempted (s : State) (k : Nat) (b : Bool) : State :=
  let s1 := s.modRole k fun r => { r with preempted := b }
  let r := s1.role k
  match r.block with
  | some a => if r.status.isSaved then s1.ramWrite (a + 0x109) (leBytes 1 (r.trapToken.isSome.toNat + 2 * b.toNat)) else s1
  | none => s1

/-- The plot that CTXPLOT names. -/
def State.namedPlot (s : State) : Option Nat :=
  (s.plots.find? fun x => x.2.queue == fieldOf s.ctxPlot.toNat 41 32
    && x.2.entryIdx % 2 ^ 32 == fieldOf s.ctxPlot.toNat 31 0 && !x.2.ended).map (·.1)

/-- The roles of a plot that CTXTEAMS names: a set of which a team is named is named whole (R409). -/
def State.namedRoles (s : State) (plot : Nat) : List Nat :=
  let n := fieldOf s.ctxTeams.toNat 31 0
  let first := fieldOf s.ctxTeams.toNat 63 32
  let named (t : Nat) : Bool := n == 0 || (decide (first ≤ t) && decide (t < first + n))
  let direct (r : Role) : Bool := r.plot == some plot && named r.teamIdx
  let setOf (r : Role) : Option Nat := (s.team r.team).set
  let sets := (s.roles.filter fun x => direct x.2).filterMap fun x => setOf x.2
  (s.roles.filter fun x => direct x.2 || (x.2.plot == some plot && (setOf x.2).any sets.contains)).map (·.1)

/-- A CTXCMD of an operation: accepted unless one is in progress. -/
def ctxCmd (s : State) (v : BitVec 64) (op : Nat) (body : State → Nat → State) : Out :=
  if s.ctxBusy || !v.getLsbD 63 || fieldOf v.toNat 62 60 ≠ op then .next s
  else
    let s1 : State := { s with ctxPartial := false, ctxNotFound := false }
    .next (match s1.namedPlot with
      | some p => body s1 p
      | none => State.ctxComplete { s1 with ctxNotFound := true })

def execCtxcmdPreempt (v : BitVec 64) (s : State) : Out :=
  ctxCmd s v 1 fun s plot =>
    let ks := s.namedRoles plot
    if ks = [] then State.ctxComplete { s with ctxNotFound := true }
    else
      let s1 := ks.foldl (fun s k =>
        if (s.role k).status.isSaved then s.setPreempted k true else s) s
      let cores := ((ks.filter fun k => !(s1.role k).status.isSaved).flatMap fun k =>
        let c := (s1.role k).core
        if (s1.team (s1.role k).team).set.isSome then (List.range 4).map (4 * clusterOf c + ·) else [c]).eraseDups
      let s2 := cores.foldl (fun s core =>
        let here := ks.filter fun k => (s.role k).core == core && !(s.role k).status.isSaved
        let whole := (s.plotRoles core (some plot)).all here.contains
        s.stopCtx core ⟨plot, here, whole, true, [], false⟩) s1
      State.ctxCheck { s2 with ctxBusy := true }

def execCtxcmdResume (v : BitVec 64) (s : State) : Out :=
  ctxCmd s v 2 fun s plot =>
    let ks := s.namedRoles plot
    State.ctxComplete { ks.foldl (fun s k => s.setPreempted k false) s with
      ctxNotFound := ks == [] }

def execCtxcmdKill (v : BitVec 64) (s : State) : Out := ctxCmd s v 3 fun s plot => (s.killPlot plot).ctxComplete

end Sys2Proof.Machine
end

