-- ==== Sys2Proof/Machine/Queue.lean ====
section
/-! DEFINITION. Work queues (R367 to R369), the launch of a plot and its checks (R370 to R372), the end of a plot (R373),
and the writes of completion records and signal words. -/

namespace Sys2Proof.Machine

/-! ## Who writes a virtual function's registers (R436) -/

/-- Whether a host request to BAR 2 or BAR 4 of an interface is refused: a locked, running or failed TDI takes only
requests with the T bit on its own stream. -/
def Iface.refuses (i : Iface) (trusted : Bool) : Bool := i.tdi != .unlocked && !trusted

/-- A host access to a virtual function's registers or window. -/
def hostAccess (s : State) (vi : Nat) (trusted : Bool) (body : State → State) : Out :=
  .next (if 64 ≤ vi then s else if (s.iface vi).refuses trusted then s.emit (.unsupported (vi + 1)) else body s)

/-! ## Queues by number (R364, R367) -/

/-- The interface that holds a queue. -/
def State.queueVi (s : State) (q : Nat) : Option Nat :=
  (s.ifaces.find? fun x => x.2.en && decide (x.2.qbase ≤ q) && decide (q < x.2.qbase + x.2.qcount)).map (·.1)

/-- A register access to queue i of an interface: an index past QCOUNT is an unlisted offset (R363). -/
def queueAccess (s : State) (vi i : Nat) (trusted : Bool) (body : State → Nat → State) : Out :=
  hostAccess s vi trusted fun s => if i < (s.iface vi).qcount then body s ((s.iface vi).qbase + i) else s

def Queue.en (q : Queue) : Bool := q.cfg.getLsbD 63
def Queue.asid (q : Queue) : Nat := fieldOf q.cfg.toNat 47 40
def Queue.vector (q : Queue) : Nat := fieldOf q.cfg.toNat 39 32
def Queue.size (q : Queue) : Nat := 2 ^ (fieldOf q.cfg.toNat 19 16 + 4)
def Queue.stopped (q : Queue) : Bool := q.status.getLsbD 63
def Queue.err (q : Queue) : Nat := fieldOf q.status.toNat 55 48

/-- Whether the device reads the entry at HEAD now. -/
def Queue.reads (q : Queue) : Bool := q.en && !q.stopped && q.waiting.isNone && q.head != q.tail

/-- HEAD advances past an entry, and is written to HEADWB (R367). -/
def State.advanceHead (s : State) (q : Nat) : State :=
  let x := s.queue q
  let s1 := s.setQueue q { x with head := x.head + 1 }
  if x.headWb = 0 then s1 else s1.hostWrite x.headWb.toNat (leBytes 8 (x.head + 1).toNat)

/-- A queue stops with an error code at an entry, and raises its vector (R368, R372). -/
def State.stopQueue (s : State) (vi q err : Nat) (entry : List (BitVec 64)) : State :=
  let x := s.queue q
  (s.setQueue q { x with
    status := BitVec.ofNat 64 (2 ^ 63 + err * 2 ^ 48 + x.head.toNat), refused := entry }).emit (.msix (vi + 1) x.vector)

def wordsOf (bs : Bytes) : List (BitVec 64) :=
  (List.range (bs.length / 8)).map fun i => BitVec.ofNat 64 (leNat ((bs.drop (8 * i)).take 8))

/-- n bytes of an interface's address space, read within one 64 KiB page (R376). -/
def State.readLocal (s : State) (vi asid va n : Nat) : Option Bytes × State :=
  match s.devTrAt hyCore vi asid va .rd with
  | (.pa a, s1) => (some (s1.ramRead a n), s1)
  | (_, s1) => (none, s1)

/-- The address of the entry at HEAD. -/
def Queue.entryAt (x : Queue) : Nat := (fieldOf x.base.toNat 63 12 * 4096 + 64 * (x.head.toNat % x.size)) % 2 ^ 64

/-- The entry at HEAD: from host memory as the host has left it, or through the queue's ASID (R367). -/
def State.readEntry (s : State) (vi q : Nat) (ext : Bytes) : Option (List (BitVec 64)) × State :=
  let x := s.queue q
  if x.base.getLsbD 0 then
    let (bs, s1) := s.readLocal vi x.asid x.entryAt 64
    (bs.map wordsOf, s1)
  else (some (wordsOf (if ext = [] then rdBytes s.hostMem x.entryAt 64 else (ext ++ List.replicate 64 0).take 64)), s)

def entryWord (e : List (BitVec 64)) (i : Nat) : Nat := (e.getD i 0).toNat
def entryType (e : List (BitVec 64)) : Nat := fieldOf (entryWord e 0) 63 60

/-- Whether a queue can read its entry now: one in a page that is migrating is held (R310). -/
def State.entryHeld (s : State) (vi q : Nat) : Bool :=
  let x := s.queue q
  x.base.getLsbD 0 && s.migrating vi x.asid (x.entryAt / 65536)

/-- The entry at HEAD of a queue that reads one, given to its meaning. -/
def withEntry (s : State) (q : Nat) (ext : Bytes) (body : State → Nat → Option (List (BitVec 64)) → State) : Out :=
  .next (match s.queueVi q with
    | none => s
    | some vi =>
      if !(s.queue q).reads || (s.iface vi).tdi == .error || s.entryHeld vi q then s
      else
        let (e, s1) := s.readEntry vi q ext
        body s1 vi e)

/-! ## Registers of a queue (R367, R368) -/

/-- DOORBELL_WRITE: a new tail; more entries than the ring holds stop the queue, and the value is not stored. -/
def execDoorbellWrite (vi q : Nat) (v : BitVec 64) (trusted : Bool) (s : State) : Out :=
  queueAccess s vi q trusted fun s k =>
    let x := s.queue k
    let t := v.setWidth 32
    if t = x.tail then s
    else if x.size < (t - x.head).toNat then s.stopQueue vi k 0x0D []
    else s.setQueue k { x with tail := t }

/-- QUEUE_CFG_WRITE: setting EN starts the queue afresh; clearing it stops the reading of entries. -/
def execQueueCfgWrite (vi q : Nat) (v : BitVec 64) (trusted : Bool) (s : State) : Out :=
  queueAccess s vi q trusted fun s k =>
    let x := s.queue k
    let cfg : BitVec 64 := v &&& 0x8000FFFF000F0000#64
    if v.getLsbD 63 && decide (12 < fieldOf v.toNat 19 16) then s
    else if v.getLsbD 63 && !x.en then
      s.setQueue k { x with cfg := cfg, head := 0, tail := 0, status := 0, waiting := none, refused := [] }
    else s.setQueue k { x with cfg := cfg, waiting := if v.getLsbD 63 then x.waiting else none }

/-- STOPPED is cleared. -/
def State.clearStop (s : State) (k : Nat) : State := s.modQueue k fun x => { x with status := x.status &&& ~~~(1#64 <<< 63) }

/-- QUEUE_CTL_RESUME: the refused entry is read again. -/
def execQueueCtlResume (vi q : Nat) (trusted : Bool) (s : State) : Out :=
  queueAccess s vi q trusted fun s k => if (s.queue k).stopped then s.clearStop k else s

/-! ## Completion records and signal words (R369, R373) -/

/-- A plot whose end has been reported is gone, and its replicas (R294, R373, R393). -/
def State.forgetPlot (s : State) (plot : Nat) : State :=
  match mget s.plots plot with
  | none => s
  | some p =>
    let s1 := (s.unreserve p.vi p.block).modQueue p.queue fun x => { x with launches := x.launches.filter (· != plot) }
    { s1 with plots := mdel s1.plots plot, replicas := s1.replicas.filter fun x => x.plot != plot }

/-- What follows a record that has been written or dropped. -/
def State.recDone (s : State) (r : PendRec) : State :=
  let s1 := if r.irq then s.emit (.msix (r.vi + 1) (s.queue r.queue).vector) else s
  match r.plot with
  | some p => s1.forgetPlot p
  | none => s1

/-- One record's write, if its translation is there: by its kind (R373). -/
def State.tryRec (s : State) (r : PendRec) : State :=
  let a := fieldOf r.compl.toNat 63 4 * 16
  let keep (s : State) : State := { s with recs := s.recs ++ [r] }
  if r.compl = 0 then s.recDone r
  else if r.compl.getLsbD 0 then
    match s.devTrAt hyCore r.vi r.asid a .wr with
    | (.pa pa, s1) => (s1.ramWrite pa r.data).recDone r
    | (.serve reason, s1) => keep (s1.faultFor r.vi r.asid a reason 2)
    | (.fail _, s1) => s1.recDone r
  else
    match s.hostTr r.vi r.who a with
    | (.ok (), s1) => (s1.hostWrite a r.data).recDone r
    | (.wait, s1) => keep s1
    | (.fail _ _, s1) => s1.recDone r

/-- Every record that waits is tried again. -/
def State.flushRecs (s : State) : State := s.recs.foldl (fun s r => s.tryRec r) { s with recs := [] }

/-- The completion record's bytes (R373). -/
def State.completion (s : State) (status err : Nat) : Bytes := leBytes 8 s.clock ++ leBytes 4 status ++ leBytes 4 err

/-- QUEUE_CTL_SKIP: HEAD advances past the refused entry, and a record with STATUS 2 is written (R372). -/
def execQueueCtlSkip (vi q : Nat) (trusted : Bool) (s : State) : Out :=
  queueAccess s vi q trusted fun s k =>
    let x := s.queue k
    if !x.stopped then s
    else if x.err = 0x0D then s.clearStop k
    else
      let s1 := (s.clearStop k).advanceHead k
      if entryWord x.refused 6 = 0 then s1
      else
        { s1 with next := s1.next + 1 }.tryRec
          { who := s1.next, vi := vi, queue := k, asid := fieldOf (entryWord x.refused 0) 51 44
            compl := x.refused.getD 6 0, data := s1.completion 2 x.err, irq := false, plot := none }

/-! ## Entries other than a launch (R369) -/

/-- QUEUE_ENTRY_NOP. -/
def execQueueEntryNop (q : Nat) (ext : Bytes) (s : State) : Out :=
  withEntry s q ext fun s1 _ e => match e with
    | some e => if entryType e = 0 then s1.advanceHead q else s
    | none => s

/-- QUEUE_ENTRY_WAIT: the queue is held until every earlier launch has ended. -/
def execQueueEntryWait (q : Nat) (ext : Bytes) (s : State) : Out :=
  withEntry s q ext fun s1 _ e => match e with
    | some e => if entryType e = 2 then s1.modQueue q fun x => { x with waiting := some x.launches } else s
    | none => s

/-- QUEUE_WAIT_RELEASE. -/
def execQueueWaitRelease (q : Nat) (s : State) : Out :=
  let x := s.queue q
  .next (match x.waiting with
    | some ps =>
      if x.en && !x.stopped && !(ps.any x.launches.contains) then
        (s.setQueue q { x with waiting := none }).advanceHead q
      else s
    | none => s)

/-- QUEUE_ENTRY_SIGNAL: armed behind the launches before it. -/
def execQueueEntrySignal (q : Nat) (ext : Bytes) (s : State) : Out :=
  withEntry s q ext fun s1 _ e => match e with
    | some e =>
      if entryType e = 3 then
        (s1.modQueue q fun x => { x with signals := x.signals ++
          [⟨e.getD 7 0, e.getD 6 0, (entryWord e 0).testBit 39, x.launches⟩] }).advanceHead q
      else s
    | none => s

/-- SIGNAL_FIRE: the first armed SIGNAL whose launches have all ended writes SIGVAL, and then interrupts. -/
def execSignalFire (q : Nat) (s : State) : Out :=
  let x := s.queue q
  .next (match s.queueVi q, x.signals.find? fun g => !(g.after.any x.launches.contains) with
    | some vi, some g =>
      let s1 := s.setQueue q { x with signals := x.signals.erase g }
      { s1 with next := s1.next + 1 }.tryRec
        { who := s1.next, vi := vi, queue := q, asid := x.asid, compl := g.compl, data := leBytes 8 g.value.toNat
          irq := g.irq, plot := none }
    | _, _ => s)

/-! ## The launch (R370 to R372) -/

/-- Whether a core set holds a core, or for a cooperative plot a whole cluster (R370). -/
def Iface.coreSetOk (i : Iface) (dieMask : BitVec 8) : Bool :=
  (List.range 96).any fun c => i.clusters.testBit c && (dieMask == 0 || dieMask.getLsbD (c / 12))

/-- A SHAPE word as a field check (R371, R372): of a role that is present, or absent. -/
def shapeBad (entry shape : Nat) : Bool :=
  if entry = 0 then shape != 0
  else
    let g := fieldOf shape 5 0
    let vg := fieldOf shape 18 12
    let sg := fieldOf shape 23 19
    !(decide (1 ≤ g) && decide (g ≤ 32) && decide (2 ≤ vg) && decide (vg ≤ 64) && decide (2 ≤ sg) && decide (sg ≤ 16))

/-- Whether a reserved field of an entry or its descriptor is set (R370, R371). -/
def launchReserved (e d : List (BitVec 64)) : Bool :=
  fieldOf (entryWord e 0) 18 0 != 0 || fieldOf (entryWord e 3) 63 40 != 0 || fieldOf (entryWord e 6) 3 1 != 0
  || entryWord e 7 != 0
  || (List.range 4).any (fun q => fieldOf (entryWord d (4 + q)) 29 24 != 0 || fieldOf (entryWord d (4 + q)) 11 6 != 0)
  || fieldOf (entryWord d 13) 47 43 != 0 || fieldOf (entryWord d 13) 31 13 != 0 || fieldOf (entryWord d 14) 63 1 != 0
  || fieldOf (entryWord d 15) 63 40 != 0 || (List.range 16).any fun i => entryWord d (16 + i) != 0

/-- The plot that an entry, its descriptor and its arguments launch, but for its block. -/
def launchPlot (vi queue idx : Nat) (e d args : List (BitVec 64)) : Plot :=
  let w := entryWord e 0
  let or0 (x y : Nat) : Nat := if x = 0 then y else x
  { vi := vi, queue := queue, entryIdx := idx, asid := fieldOf w 51 44, weight := or0 (fieldOf w 59 52) 1
    priv := w.testBit 43, tagTrap := w.testBit 42 || (entryWord d 14).testBit 0, coop := w.testBit 41
    operr := w.testBit 40, irq := w.testBit 39, fpTrap := BitVec.ofNat 5 (fieldOf w 38 34), thresh := fieldOf w 33 27
    dieMask := BitVec.ofNat 8 (fieldOf w 26 19), args := args
    claim := or0 (fieldOf (entryWord e 3) 39 32) (fieldOf (entryWord d 15) 39 32)
    grid := or0 (fieldOf (entryWord e 3) 31 0) (fieldOf (entryWord d 15) 31 0)
    privBase := entryWord e 4, privSize := entryWord e 5, compl := e.getD 6 0
    entries := d.take 4, shapes := (d.drop 4).take 4
    counters := BitVec.ofNat 256 (packNat 64 (fun i => entryWord d (8 + i)) 4), regions := d.getD 12 0
    escRes := fieldOf (entryWord d 13) 63 48, tagSlots := fieldOf (entryWord d 13) 42 32
    scratch := fieldOf (entryWord d 13) 12 0, work := 0, block := 0, traps := 0, killed := false, stopping := false, ended := false }

/-- The checks of a launch after its memory has been read, in order: the code of the first that fails. -/
def launchFault (i : Iface) (e d : List (BitVec 64)) (p : Plot) : Option Nat :=
  let n := p.roleSpecs.length
  if launchReserved e d then some 0x0B
  else if entryWord d 0 = 0 || (List.range 4).any fun q => shapeBad (entryWord d q) (entryWord d (4 + q)) then some 0x04
  else if p.claim < 1 || 64 < p.claim || 64 < p.claim * n then some 0x05
  else if p.thresh < 1 || 64 < p.thresh then some 0x06
  else if p.priv && !i.privOk then some 0x07
  else if p.counters &&& ~~~(BitVec.ofNat 256 i.counterMask) ≠ 0 || p.regions &&& ~~~(BitVec.ofNat 64 i.regionMask) ≠ 0 then
    some 0x08
  else if p.roleSpecs.any fun x => decide (p.privSize < 128 * x.groups * (x.escOff + p.escRes)) then some 0x09
  else if p.grid < 1 then some 0x0A
  else if !i.coreSetOk p.dieMask then some 0x0C
  else none

/-- A plot descriptor or argument block, read if it is aligned and its page is there. -/
def State.readBlock (s : State) (vi asid va n : Nat) : Option (List (BitVec 64)) × State :=
  if va % n ≠ 0 then (none, s)
  else
    let (bs, s1) := s.readLocal vi asid va n
    (bs.map wordsOf, s1)

/-- A launch that passes its checks: its plot block is taken, and HEAD advances once the plot's work counter stands. -/
def State.launch (s : State) (vi q : Nat) (e : List (BitVec 64)) (p : Plot) : State :=
  match s.reserve vi 4096 with
  | none => s.stopQueue vi q 0x0F e
  | some (b, s1) =>
    let k := s1.next
    let s2 := ((s1.ramZero b 4096).setPlot k { p with block := b }).numbered
    (s2.modQueue q fun x => { x with launches := x.launches ++ [k] }).advanceHead q

/-- The checks of a LAUNCH in their order (R372, R394). -/
def State.tryLaunch (s : State) (vi q : Nat) (e : List (BitVec 64)) : State :=
  let i := s.iface vi
  let asid := fieldOf (entryWord e 0) 51 44
  if i.acount ≤ asid || !((mget i.roots asid).getD 0).getLsbD 0 then s.stopQueue vi q 0x02 e
  -- a read of a page that is migrating is held (R310)
  else if s.migrating vi asid (entryWord e 1 / 65536) || s.migrating vi asid (entryWord e 2 / 65536) then s
  else
    let (d, s1) := s.readBlock vi asid (entryWord e 1) 256
    let (a, s2) := s1.readBlock vi asid (entryWord e 2) 64
    match d, a with
    | some d, some a =>
      let p := launchPlot vi q (s.queue q).head.toNat e d a
      match launchFault i e d p with
      | some err => s2.stopQueue vi q err e
      | none => s2.launch vi q e p
    | _, _ => s2.stopQueue vi q 0x03 e

/-- QUEUE_ENTRY_LAUNCH: a plot is set up, or the queue stops; an entry that cannot be read or has no assigned TYPE
stops it too. -/
def execQueueEntryLaunch (q : Nat) (ext : Bytes) (s : State) : Out :=
  withEntry s q ext fun s1 vi e => match e with
    | none => s1.stopQueue vi q 0x0E []
    | some e =>
      match entryType e with
      | 1 => s1.tryLaunch vi q e
      | 0 => s
      | 2 => s
      | 3 => s
      | _ => s1.stopQueue vi q 0x01 e

/-! ## The end of a plot (R373) -/

/-- Whether a write of a role that has exited is still to be performed at its home. -/
def State.writesLeft (s : State) : Bool :=
  s.ops.any fun o => o.kind.writes && (mget s.roles o.role).isNone && o.level != .home

/-- Whether a plot has ended: its last team has exited, its commands are over and no trigger is armed. -/
def State.plotOver (s : State) (plot : Nat) (p : Plot) : Bool :=
  (p.killed || decide (p.grid ≤ p.work))
  && !(s.roles.any fun x => x.2.plot == some plot) && !(s.teams.any fun x => x.2.plot == some plot)
  && !(s.cores.any fun c => (c.2.cmds.any fun d => d.plot == some plot) || c.2.triggers.any fun t => t.cmd.plot == some plot)
  && !(s.saved.any fun x => x.2.plot == plot)

/-- The plot slots of a plot are freed, with their context blocks (R373, R394). -/
def State.freePlot (s : State) (plot : Nat) (p : Plot) : State :=
  s.cores.foldl (fun (s : State) c =>
    if c.2.hosts plot then
      let s1 := match mget c.2.plotBlocks (c.2.slotOf (some plot)) with
        | some b => s.unreserve p.vi b
        | none => s
      s1.freePlotSlot c.1 plot
    else s) s

/-- The end: regions revoked, slots freed, then the record (R331, R373). A packet that has passed the checks of R331 by
then is still placed (R332). -/
def State.endPlot (s : State) (plot : Nat) (p : Plot) : State :=
  let s1 : State := { s with regions := mfilter (fun _ g => g.plot != plot) s.regions }
  let s2 := s1.freePlot plot p
  (s2.modPlot plot fun p => { p with ended := true }).tryRec
    { who := plot, vi := p.vi, queue := p.queue, asid := p.asid, compl := p.compl
      data := s2.completion p.killed.toNat 0, irq := p.irq, plot := some plot }

/-- A plot that has ended, and whose writes are performed, is reported. -/
def State.tryEnd (s : State) (plot : Nat) : State :=
  match mget s.plots plot with
  | some p => if !p.ended && s.plotOver plot p && !s.writesLeft then s.endPlot plot p else s
  | none => s

/-- PLOT_END. -/
def execPlotEnd (plot : Nat) (s : State) : Out := .next (s.tryEnd plot)

end Sys2Proof.Machine
end

