-- ==== Sys2Proof/Machine/HostIf.lean ====
section
/-! DEFINITION. The host's side of translation: answers to fault records (R378, R384, R392), invalidations (R380, R381),
migrations (R310, R384 to R386), host translations and page requests (R382, R383), the BAR 4 window (R379), and the
virtual-interface table with its resets (R365, R394). -/

namespace Sys2Proof.Machine

/-! ## The fault ring's registers (R363, R378) -/

/-- FAULTTAIL_WRITE. -/
def execFaulttailWrite (vi : Nat) (v : BitVec 64) (trusted : Bool) (s : State) : Out :=
  hostAccess s vi trusted fun s => (s.modIface vi fun i => { i with faultTail := v.setWidth 32 }).drainFaults vi

/-- FAULTCFG_WRITE. -/
def execFaultcfgWrite (vi : Nat) (v : BitVec 64) (trusted : Bool) (s : State) : Out :=
  hostAccess s vi trusted fun s =>
    (s.modIface vi fun i => { i with faultCfg := v &&& 0x8000000F00000000#64 }).drainFaults vi

/-! ## What a fault that is over releases (R378, R458) -/

/-- Roles that wait for a page's fault, resident or saved. -/
def State.faultRoles (s : State) (vi asid page : Nat) : List Nat :=
  (s.roles.filter fun x => match x.2.status with
    | .parked (.fault v a p) => v == vi && a == asid && p == page
    | .saved (some (.fault v a p)) => v == vi && a == asid && p == page
    | _ => false).map (·.1)

/-- A page's fault is served: parked roles issue again, packets and records are tried again. -/
def State.served (s : State) (vi asid page : Nat) : State :=
  let s1 := (s.faultRoles vi asid page).foldl (fun s k => if (s.role k).status.isSaved then s else s.pageCame k vi asid) s
  (s1.retryPackets fun _ _ => false).flushRecs

/-- A saved role whose fault has failed is stopped while saved (R284). -/
def State.stopSaved (s : State) (k : Nat) : State :=
  let r := s.role k
  match r.block, r.plot.bind (mget s.plots) with
  | some b, some p =>
    let t : Trap := { cause := causePage, addr := r.faultVa }
    let s1 := s.modRole k fun r => { r with status := .saved none }
    let s2 := (s1.ramWrite b (trapBytes (r.retAt.getD r.pc.toNat) t 0 s.clock r.teamIdx r.roleId)).writeBlock b r true
    s2.notifyTrap k p b
  | _, _ => s

/-- A role whose page cannot be supplied: PAGE when its instruction issues again, at once when a store of the Gleaner
met the fault (R38), or while saved; a page of its escape reserve is done without (R39). -/
def State.failRole (s : State) (k page : Nat) : State :=
  let r := s.role k
  if r.status.isSaved then s.stopSaved k
  else if r.spilling then takeTrap s k { cause := causePage, addr := r.faultVa, source := r.retAt }
  else if r.reserve ≠ [] then
    match r.status with
    | .parked (.fault vi asid _) =>
      (s.modRole k fun r => { r with reserve := r.reserve.filter (· != page) }).pageCame k vi asid
    | _ => s
  else (s.wake k 0).modRole k fun r => { r with walkFault := some (false, page, causePage) }

/-- A command that waits for a page fails, on its core or in its saved context (R239). -/
def State.failWaiting (s : State) (id addr : Nat) : State :=
  match s.cmdAny id with
  | some c => s.failCmd c causePage addr
  | none => s

/-- Whether a packet that waits at the port touches a page (R458). -/
def touchesPage (vi asid page : Nat) (g : Region) (p : Packet) : Bool :=
  let (lo, hi, _) := packetSpan p.op
  g.vi == vi && g.asid == asid && (pagesOf (g.base + preryOff p.addr + lo) (hi - lo)).contains page

/-- A record whose page cannot be supplied is dropped (R373). -/
def State.dropRecs (s : State) (vi asid page : Nat) : State :=
  s.recs.foldl (fun s r =>
    if r.vi = vi && r.compl.getLsbD 0 && r.asid == asid && r.compl.toNat / 65536 == page then s.recDone r
    else { s with recs := s.recs ++ [r] }) { s with recs := [] }

/-- Roles of a stop in progress whose save needs the page stay resident and stop (R403). -/
def State.failSaves (s : State) (vi asid page : Nat) : State :=
  s.cores.foldl (fun (s : State) c =>
    match c.2.headland with
    | [] => s
    | h :: _ =>
      if h.saving || !(allClasses.all h.acks.contains) then s
      else
        let bad := h.roles.filter fun k => s.space (s.role k) == some (vi, asid) &&
          (s.savePages (s.role k)).any fun x => x.2.contains page
        ((bad.foldl (fun s k => s.unsaved c.1 (k, causePage, page * 65536)) s).nextStop c.1).ctxCheck) s

/-- A page's fault is answered with FAIL (R378). -/
def State.failed (s : State) (f : FaultRec) (vi : Nat) : State :=
  let s1 := (s.faultRoles vi f.asid f.page).foldl (fun s k => s.failRole k f.page) s
  let s2 := f.cmds.foldl (fun s c => s.failWaiting c.1 c.2) s1
  ((s2.retryPackets (touchesPage vi f.asid f.page)).dropRecs vi f.asid f.page).failSaves vi f.asid f.page

/-! ## Answers to records (R378, R384, R392) -/

/-- A FAULTDONE write of an outcome, for a record of one of these reasons. -/
def faultDone (s : State) (vi : Nat) (v : BitVec 64) (trusted : Bool) (outcome : Nat) (reasons : List Nat)
    (body : State → FaultRec → State) : Out :=
  hostAccess s vi trusted fun s =>
    if fieldOf v.toNat 63 18 ≠ 0 || fieldOf v.toNat 17 16 ≠ outcome then s
    else
      match (s.iface vi).faults.find? fun f => f.token == fieldOf v.toNat 15 0 with
      | some f =>
        if reasons.contains f.reason then
          body (s.modIface vi fun i => { i with faults := i.faults.filter fun g => g.token != f.token }) f
        else s
      | none => s

/-- FAULTDONE_RETRY. -/
def execFaultdoneRetry (vi : Nat) (v : BitVec 64) (trusted : Bool) (s : State) : Out :=
  faultDone s vi v trusted 0 [1, 3] fun s f => s.served vi f.asid f.page

/-- FAULTDONE_FAIL. -/
def execFaultdoneFail (vi : Nat) (v : BitVec 64) (trusted : Bool) (s : State) : Out :=
  faultDone s vi v trusted 1 [1, 3] fun s f => s.failed f vi

/-- FAULTDONE_RESUME: a stopped role goes on from its clause context; a saved one does when it is loaded (R392, R404). -/
def execFaultdoneResume (vi : Nat) (v : BitVec 64) (trusted : Bool) (s : State) : Out :=
  faultDone s vi v trusted 0 [5] fun s f =>
    match f.role with
    | none => s
    | some k =>
      match mget s.roles k with
      | none => s
      | some r =>
        let s1 := match r.block with
          | some b => s.ramWrite (b + 0x109) (leBytes 1 (2 * r.preempted.toNat))
          | none => s
        if r.status.isSaved then s1.modRole k fun r => { r with trapToken := none } else s1.resumeRole k

/-- FAULTDONE_KILL (R392, R407). -/
def execFaultdoneKill (vi : Nat) (v : BitVec 64) (trusted : Bool) (s : State) : Out :=
  faultDone s vi v trusted 1 [5] fun s f =>
    match (f.role.bind (mget s.roles)).bind (·.plot) with
    | some p => s.killPlot p
    | none => s

/-! ## Translations dropped (R380, R381) -/

/-- The leaves of an interface's pages go from every TLB. -/
def State.dropLeaves (s : State) (vi : Nat) (asid : Option Nat) (lo hi : Nat) : State :=
  let keep (l : Leaf) : Bool :=
    !(l.vi == vi && (asid.isNone || asid == some l.asid) && decide (lo ≤ l.page) && decide (l.page < hi))
  { s with cores := mmap (fun _ c => { c with tlb := c.tlb.filter keep }) s.cores, tlb2 := s.tlb2.filter keep }

/-- An INVCMD write of a scope: dropped when 16 are queued, or a reserved field is set (R380). -/
def invCmd (s : State) (vi : Nat) (v : BitVec 64) (trusted : Bool) (scope : Nat) (cmd : Iface → InvCmd) : Out :=
  hostAccess s vi trusted fun s =>
    let i := s.iface vi
    let sc := fieldOf v.toNat 59 58
    if !v.getLsbD 63 || (sc ≠ scope && sc ≠ 3) then s
    else if 16 ≤ i.invQ.length || sc = 3 || fieldOf v.toNat 62 60 ≠ 0 || fieldOf v.toNat 49 32 ≠ 0 then
      s.setIface vi { i with invOvf := true }
    else s.setIface vi { i with invQ := i.invQ ++ [cmd i] }

/-- INVCMD_PAGES. -/
def execInvcmdPages (vi : Nat) (v : BitVec 64) (trusted : Bool) (s : State) : Out :=
  invCmd s vi v trusted 0 fun i =>
    let lo := i.invAddr.toNat / 65536
    ⟨some (fieldOf v.toNat 57 50), lo, lo + fieldOf v.toNat 31 0, none⟩

/-- INVCMD_ASID. -/
def execInvcmdAsid (vi : Nat) (v : BitVec 64) (trusted : Bool) (s : State) : Out :=
  invCmd s vi v trusted 1 fun _ => ⟨some (fieldOf v.toNat 57 50), 0, 2 ^ 36, none⟩

/-- INVCMD_ALL. -/
def execInvcmdAll (vi : Nat) (v : BitVec 64) (trusted : Bool) (s : State) : Out :=
  invCmd s vi v trusted 2 fun _ => ⟨none, 0, 2 ^ 36, none⟩

/-- Whether a HASH or SIGN in progress reads one of these places of an interface (R170, R381). -/
def State.hashReads (s : State) (vi upto : Nat) (at' : Place → Bool) : Bool :=
  s.cores.any fun c => (c.2.hashQ ++ c.2.signQ).any fun q => decide (q.upto ≤ upto)
    && (s.space (s.role q.role)).any (fun v => v.1 == vi) && q.spans.any fun x => at' x.1

/-- Whether a place is in a span of bytes of device memory, or of host memory. -/
def ramIn (a n : Nat) : Place → Bool
  | .ram x => decide (a < x + 128) && decide (x < a + n)
  | _ => false
def hostIn (a n : Nat) : Place → Bool
  | .host x => decide (a < x + 128) && decide (x < a + n)
  | _ => false

/-- Whether an operation that may have used a dropped entry is unfinished: a read that has not written its destination,
a write that is not performed at device scope. -/
def State.usesDropped (s : State) (vi : Nat) (c : InvCmd) (upto : Nat) : Bool :=
  s.ops.any fun o =>
    decide (o.id < upto) && (match mget s.roles o.role with
      | some r => match s.space r with
        | some (v, a) => v == vi && (c.asid.isNone || c.asid == some a)
        | none => false
      | none => true)
    && (o.lanes.any fun l => match l.place with
      | .ram _ => true
      | _ => false)
    && (o.kind.isA || !s.performed o scopeDv)
  || s.hashReads vi upto (ramIn 0 (2 ^ 52))

/-- INVALIDATION_COMPLETE: the oldest command's entries are dropped, and it completes once nothing uses them (R381). -/
def execInvalidationComplete (vi : Nat) (s : State) : Out :=
  .next (match (s.iface vi).invQ with
    | [] => s
    | c :: rest =>
      let (upto, s1) := match c.upto with
        | some n => (n, s)
        | none => (s.next, s.dropLeaves vi c.asid c.lo c.hi)
      if s1.usesDropped vi c upto then s1.modIface vi fun i => { i with invQ := { c with upto := some upto } :: rest }
      else s1.modIface vi fun i => { i with invQ := rest, invDone := i.invDone + 1 })

/-- INVSTAT_READ: the read clears OVF (R363). -/
def execInvstatRead (vi : Nat) (trusted : Bool) (s : State) : Out :=
  hostAccess s vi trusted fun s =>
    let i := s.iface vi
    (s.setIface vi { i with invOvf := false }).emit (.readData (vi + 1)
      (leBytes 8 (i.invDone.toNat * 2 ^ 32 + 2 * i.invOvf.toNat + (i.invQ != []).toNat)))

/-! ## Interfaces that end (R365, R407, R432, R434) -/

/-- Every plot of an interface is killed, and reported where nothing is left to wait for. -/
def State.killIface (s : State) (vi : Nat) : State :=
  let ps := (s.plots.filter fun x => x.2.vi == vi).map (·.1)
  ps.foldl (fun s p => (s.killPlot p).tryEnd p) s

/-- A TDI enters ERROR: its plots are killed (R432). -/
def State.tdiError (s : State) (vi : Nat) : State :=
  (s.modIface vi fun i => { i with tdi := .error }).killIface vi

/-- A write of what a TDI has frozen: ignored, and ERROR when it would change something (R433). -/
def lockedWrite (s : State) (vi : Nat) (changes : Bool) (body : State → State) : State :=
  match (s.iface vi).tdi with
  | .unlocked => body s
  | .error => s
  | _ => if changes then s.tdiError vi else s

/-- What EN = 0 and a Function Level Reset do: every context killed, queues disabled, no ASID live (R365). -/
def State.disable (s : State) (vi : Nat) : State :=
  let s1 := s.killIface vi
  let i := s1.iface vi
  let stop (q : Nat) (x : Queue) : Queue :=
    if i.qbase ≤ q ∧ q < i.qbase + i.qcount then { x with cfg := x.cfg &&& ~~~(1#64 <<< 63), waiting := none } else x
  { s1 with queues := mmap stop s1.queues }.modIface vi fun i => { i with roots := mmap (fun _ r => r &&& ~~~1#64) i.roots }

/-- A Function Level Reset once no migration is in progress; in RUN the TDI enters ERROR first (R432). -/
def State.flr (s : State) (vi : Nat) : State :=
  let s1 := s.modIface vi fun i => { i with resetDue := false }
  (if (s1.iface vi).tdi = .run then s1.tdiError vi else s1).disable vi

/-- FUNCTION_LEVEL_RESET: migrations in progress complete first (R387). -/
def execFunctionLevelReset (vi : Nat) (s : State) : Out :=
  .next (if 64 ≤ vi then s
    else if (s.iface vi).migs ≠ [] then s.modIface vi fun i => { i with resetDue := true }
    else s.flr vi)

/-- The L1 lines and replicas of a range of device memory go (R310). -/
def State.dropLines (s : State) (a n : Nat) : State :=
  let keep (line : Nat) : Bool := !(decide (a ≤ 128 * line) && decide (128 * line < a + n))
  { s with
    cores := mmap (fun _ (c : Core) => { c with l1 := mfilter (fun line _ => keep line) c.l1 }) s.cores
    replicas := s.replicas.filter fun x => keep x.line }

/-- The keys of a world's domain are retired or renewed: its memory reads as zeros, and its state blocks are being
rewritten (R417). -/
def State.rekey (s : State) (vi : Nat) : State :=
  let i := s.iface vi
  let s1 := s.ramZero i.physBase i.physSize
  let s2 := s1.dropLines i.physBase i.physSize
  if s2.rekeying.contains i.world then s2 else { s2 with rekeying := s2.rekeying ++ [i.world] }

/-- STOP once no migration is in progress (R434, R440). -/
def State.stopTdi (s : State) (vi : Nat) : State :=
  (((s.killIface vi).rekey vi).modIface vi fun i =>
    { i with tdi := .unlocked, terms := none, stopDue := false }).drainFaults vi

/-! ## Migration (R310, R384 to R386) -/

/-- A migration begins: new requests to the page are held. -/
def State.beginMig (s : State) (vi : Nat) (m : Migration) : State :=
  (s.dropLeaves vi (some m.asid) m.page (m.page + 1)).modIface vi fun i => { i with migs := i.migs ++ [m], migBusy := false }

/-- FAULTDONE_MIGRATE: a host-owned page comes to the device page of MIGDST (R384). -/
def execFaultdoneMigrate (vi : Nat) (v : BitVec 64) (trusted : Bool) (s : State) : Out :=
  faultDone s vi v trusted 2 [3] fun s f =>
    match s.walk vi f.asid (f.page * 65536) with
    | .owner e pteAt =>
      s.beginMig vi ⟨f.token, f.asid, f.page, false, (s.iface vi).physBase + (s.iface vi).migDst.toNat, e.addr, e.raw, pteAt⟩
    | _ => s.served vi f.asid f.page

/-- MIGCMD_GO: a device-owned page goes to the host, or the command is dropped (R385). -/
def execMigcmdGo (vi : Nat) (v : BitVec 64) (trusted : Bool) (s : State) : Out :=
  hostAccess s vi trusted fun s =>
    let i := s.iface vi
    let asid := fieldOf v.toNat 23 16
    let busy := s.modIface vi fun i => { i with migBusy := true }
    if !v.getLsbD 63 then s
    else if 64 ≤ i.migs.length || i.migVa.toNat % 65536 ≠ 0 || i.migIova.toNat % 65536 ≠ 0 then busy
    else
      match s.walk vi asid i.migVa.toNat with
      | .leaf e 0 pteAt =>
        if e.loc = 2 then
          s.beginMig vi ⟨fieldOf v.toNat 15 0, asid, i.migVa.toNat / 65536, true, i.physBase + e.addr, i.migIova.toNat,
            e.raw, pteAt⟩
        else busy
      | _ => busy

/-- A leaf with another location and address; its other bits stay (R386). -/
def movedLeaf (pte : BitVec 64) (loc addr : Nat) : BitVec 64 :=
  (pte &&& ~~~0x300FFFFFFFFFFF00#64) ||| BitVec.ofNat 64 (loc * 2 ^ 60 + fieldOf addr 51 8 * 256)

/-- Whether an access that was accepted at the page's old home is unfinished, a host atomic among them (R310). -/
def State.pageBusy (s : State) (vi : Nat) (m : Migration) : Bool :=
  s.ops.any fun o => o.level != .home && o.lanes.any fun l => match l.place with
    | .ram a => decide (m.dev ≤ a) && decide (a < m.dev + 65536)
    | .host a => decide (m.host ≤ a) && decide (a < m.host + 65536) && (s.space (s.role o.role)).any fun v => v.1 == vi
    | _ => false
  || s.hashReads vi s.next (ramIn m.dev 65536)

/-- The copy of a page; device memory outside the interface is not written. -/
def State.copyPage (s : State) (vi : Nat) (m : Migration) (ext : Bytes) : State :=
  let i := s.iface vi
  if m.toHost then s.hostWrite m.host (s.ramRead m.dev 65536)
  else if m.dev + 65536 ≤ i.physBase + i.physSize then
    s.ramWrite m.dev (if ext = [] then rdBytes s.hostMem m.host 65536 else (ext ++ List.replicate 65536 0).take 65536)
  else s

/-- MIGRATION_COMPLETE: the page is copied, its leaf written, held requests are released and a MIGDONE record is
written; a reset or STOP that waited for it follows (R384, R385, R387, R440). -/
def execMigrationComplete (vi token : Nat) (ext : Bytes) (s : State) : Out :=
  .next (match (s.iface vi).migs.find? fun m => m.token == token with
    | none => s
    | some m =>
      if s.pageBusy vi m then s
      else
        let i := s.iface vi
        let s1 := s.copyPage vi m ext
        let s2 := s1.dropLines m.dev 65536
        let leaf := if m.toHost then movedLeaf m.pte 3 m.host else movedLeaf m.pte 2 (m.dev - i.physBase)
        let s3 := (s2.ramWrite m.pteAt (leBytes 8 leaf.toNat)).dropLeaves vi (some m.asid) m.page (m.page + 1)
        let s4 := (s3.modIface vi fun i => { i with migs := i.migs.erase m }).served vi m.asid m.page
        let s5 := s4.pushFault vi (faultBytes (m.page * 65536) m.token m.asid 4 0
          (if m.toHost then m.dev - i.physBase else m.host))
        if (s5.iface vi).migs ≠ [] then s5
        else
          let s6 := if (s5.iface vi).stopDue then s5.stopTdi vi else s5
          if (s6.iface vi).resetDue then s6.flr vi else s6)

/-! ## The BAR 4 window (R379, R436) -/

/-- The offset in an interface's memory of a byte of its window. -/
def Iface.window (i : Iface) (off : Nat) : Nat := fieldOf i.winBase.toNat 51 32 * 2 ^ 32 + off

/-- Bytes through the window: past PHYSSIZE they read as zero. -/
def State.winRead (s : State) (vi off n : Nat) : Bytes :=
  let i := s.iface vi
  (List.range n).flatMap fun k => if i.window off + k < i.physSize then s.ramRead (i.physBase + i.window off + k) 1 else [0]

/-- A write through the window; bytes past PHYSSIZE are ignored. -/
def State.winWrite (s : State) (vi off : Nat) (bs : Bytes) : State :=
  let i := s.iface vi
  s.ramWrite (i.physBase + i.window off) (bs.take (i.physSize - i.window off))

/-- BAR4_READ. -/
def execBar4Read (vi off n : Nat) (trusted : Bool) (s : State) : Out :=
  hostAccess s vi trusted fun s => s.emit (.readData (vi + 1) (s.winRead vi off n))

/-- BAR4_WRITE. -/
def execBar4Write (vi off : Nat) (data : Bytes) (trusted : Bool) (s : State) : Out :=
  hostAccess s vi trusted fun s => s.winWrite vi off data

/-- Bytes of a host atomic, and the new value of a location (R361). -/
def HostAtomic.size : HostAtomic → Nat
  | .fetchAdd n _ => n
  | .swap n _ => n
  | .cas n _ _ => n
def HostAtomic.new (a : HostAtomic) (old : Nat) : Nat :=
  match a with
  | .fetchAdd n v => (old + v.toNat) % 2 ^ (8 * n)
  | .swap _ v => v.toNat
  | .cas n c x => if old = c.toNat % 2 ^ (8 * n) then x.toNat else old

/-- BAR4_ATOMIC: one read-modify-write at the memory controller. -/
def execBar4Atomic (vi off : Nat) (a : HostAtomic) (trusted : Bool) (s : State) : Out :=
  hostAccess s vi trusted fun s =>
    let n := HostAtomic.size a
    let old := s.winRead vi off n
    (s.winWrite vi off (leBytes n (HostAtomic.new a (leNat old)))).emit (.readData (vi + 1) old)

/-! ## Host translations (R382, R383) -/

def Iface.cachePage (i : Iface) (page : Nat) : Iface :=
  { i with atc := if i.atc.contains page then i.atc else i.atc ++ [page] }

/-- The interfaces at which a command or a record write has asked for host pages. -/
def State.asked (s : State) (who : Nat) : List (Nat × Nat) :=
  s.ifaces.flatMap fun x => (x.2.atsReqs.filter fun q => q.1 == who).map fun q => (x.1, q.2)

/-- ATS_TRANSLATION_COMPLETION: the translation comes, or a page request is made and the role parks on fault service. -/
def execAtsTranslationCompletion (who : Nat) (ok : Bool) (s : State) : Out :=
  .next (match mget s.roles who with
    | some r =>
      match r.status, s.space r with
      | .held (.tlb va true _), some (vi, _) =>
        if ok then (s.modIface vi (·.cachePage (va.toNat / 4096))).wake who 0
        else
          (s.emit (.pageRequest vi (va.toNat / 4096 * 4096))).modRole who fun r =>
            { r.landLone with status := .parked .hostFault, faultVa := some va.toNat, spilling := false }
      | _, _ => s
    | none =>
      ((s.asked who).foldl (fun (s : State) q =>
        if ok then s.modIface q.1 fun i => { i.cachePage q.2 with atsReqs := i.atsReqs.erase (who, q.2) }
        else s.emit (.pageRequest q.1 (4096 * q.2))) s).flushRecs)

/-- PRI_PAGE_RESPONSE: Success retries the access, anything else is PAGE. -/
def execPriPageResponse (who : Nat) (ok : Bool) (s : State) : Out :=
  .next (match mget s.roles who with
    | some r =>
      match r.status with
      | .parked .hostFault =>
        if ok then s.wake who 0
        else (s.wake who 0).modRole who fun r =>
          { r with walkFault := some (true, (r.faultVa.getD 0) / 4096, causePage) }
      | .saved (some .hostFault) => if ok then s.modRole who fun r => { r with status := .saved none } else s.stopSaved who
      | _ => s
    | none =>
      ((s.asked who).foldl (fun (s : State) q =>
        let s1 := s.modIface q.1 fun i => { i with
          atsReqs := i.atsReqs.erase (who, q.2)
          atsFailed := if ok then i.atsFailed else i.atsFailed ++ [(who, q.2)] }
        if ok then s1 else s1.failWaiting who (4096 * q.2)) s).flushRecs)


/-- Whether a request that used an old host translation is unfinished. -/
def State.hostBusy (s : State) (vi lo hi upto : Nat) : Bool :=
  s.ops.any fun o => decide (o.id < upto) && o.level != .home
    && (match mget s.roles o.role with
      | some r => (s.space r).any fun v => v.1 == vi
      | none => true)
    && o.lanes.any fun l => match l.place with
      | .host a => decide (lo ≤ a / 4096) && decide (a / 4096 < hi)
      | _ => false
  || s.hashReads vi upto (hostIn (4096 * lo) (4096 * (hi - lo)))

/-- ATS_INVALIDATE_REQUEST: the matching entries go, and what used them drains, behind a flush read (R383). -/
def execAtsInvalidateRequest (vi lo hi : Nat) (s : State) : Out :=
  let s1 := s.modIface vi fun i => { i with
    atc := i.atc.filter fun p => !(decide (lo ≤ p) && decide (p < hi)), atsInv := i.atsInv ++ [(lo, hi, s.next)] }
  .next (if s.hostBusy vi lo hi s.next then s1.emit (.flushRead vi) else s1)

/-- ATS_INVALIDATE_COMPLETE. -/
def execAtsInvalidateComplete (vi : Nat) (s : State) : Out :=
  .next (match (s.iface vi).atsInv with
    | [] => s
    | (lo, hi, upto) :: rest =>
      if s.hostBusy vi lo hi upto then s
      else (s.modIface vi fun i => { i with atsInv := rest }).emit (.atsInvalidateDone vi))

/-- PCIE_COMPLETION_TIMEOUT: a command whose host request is not completed fails with PAGE (R383). -/
def execPcieCompletionTimeout (cmd : Nat) (s : State) : Out :=
  .next (match s.cmd cmd with
    | some c =>
      if c.srcRec.kind = 2 then s.failCmd c causePage c.srcRec.base
      else if c.dstRec.kind = 2 then s.failCmd c causePage c.dstRec.base
      else s
    | none => s)

/-! ## The virtual-interface table and the save pool (R364, R365, R394) -/

/-- Whether two spans of n and m units from a and b meet. -/
def spansMeet (a n b m : Nat) : Bool := decide (max a b < min (a + n) (b + m))

/-- The number of the first condition of R365 that an entry fails, for interface v. -/
def State.entryFault (s : State) (v : Nat) (i : Iface) : Option Nat :=
  let others := (s.ifaces.filter fun x => x.1 != v && x.2.en).map (·.2)
  let clash (o : Iface) : Bool :=
    spansMeet i.qbase i.qcount o.qbase o.qcount || spansMeet i.abase i.acount o.abase o.acount
    || i.rotmask &&& o.rotmask != 0 || (i.clusters &&& o.clusters != 0 && i.world != o.world)
    || i.regionMask &&& o.regionMask != 0 || spansMeet i.physBase i.physSize o.physBase o.physSize
  if fieldOf (i.word 0) 61 58 ≠ 0 || fieldOf (i.word 0) 51 49 ≠ 0 || fieldOf (i.word 0) 20 10 ≠ 0
      || fieldOf (i.word 3) 63 32 ≠ 0 || (List.range 5).any (fun k => i.word (11 + k) != 0) then some 1
  else if 256 < i.abase + i.acount || 1024 < i.qbase + i.qcount || 768 * 2 ^ 30 < i.physBase + i.physSize then some 2
  else if others.any clash then some 3
  else if (List.range 96).any fun c => i.clusters.testBit c && (mget s.worldMap c).getD 0 != i.world then some 4
  else none

/-- ASIDs that an entry write takes away lose LIVE, and their plots are killed (R387). -/
def State.shrinkAsids (s : State) (vi old : Nat) : State :=
  let n := (s.iface vi).acount
  let ps := (s.plots.filter fun x => x.2.vi == vi && decide (n ≤ x.2.asid) && decide (x.2.asid < old)).map (·.1)
  let s1 := ps.foldl (fun s p => (s.killPlot p).tryEnd p) s
  s1.modIface vi fun i => { i with roots := mmap (fun a r => if n ≤ a ∧ a < old then r &&& ~~~1#64 else r) i.roots }

/-- A word write of an entry that no TDI has frozen. -/
def State.entryWrite (s : State) (vi k : Nat) (v : BitVec 64) : State :=
  let i := s.iface vi
  let i' : Iface := { i with entry := updAt (fun _ => v) i.entry k }
  if !i'.en then
    (if i.en then s.disable vi else s).modIface vi fun x => { x with entry := updAt (fun _ => v) x.entry k }
  else
    match s.entryFault vi i' with
    | some c => { s with vierr := BitVec.ofNat 64 (vi + 256 * c) }
    | none =>
      let s1 := s.setIface vi i'
      if i.en && decide (i'.acount < i.acount) then s1.shrinkAsids vi i.acount else s1

/-- VIENTRY_WRITE: word k of entry vi (R365, R433). In RUN, EN = 0 is ERROR and then the kill of R365 (R432). -/
def execVientryWrite (vi k : Nat) (v : BitVec 64) (s : State) : Out :=
  .next (if 64 ≤ vi || 16 ≤ k then s
    else
      let i := s.iface vi
      let off := k = 0 && !v.getLsbD 63
      if i.tdi = .run && off then (s.tdiError vi).disable vi
      else lockedWrite s vi (decide (i.entry.getD k 0 ≠ v)) fun s => s.entryWrite vi k v)

/-- SAVEPOOL_WRITE: SAVEBASE or SAVESIZE, ignored while a plot of the interface is there or past PHYSSIZE (R394). -/
def execSavepoolWrite (vi : Nat) (size : Bool) (v : BitVec 64) (s : State) : Out :=
  .next (if 64 ≤ vi then s
    else
      let i := s.iface vi
      let v : BitVec 64 := v &&& ~~~0xFFFF#64
      let i' : Iface := if size then { i with saveSize := v } else { i with saveBase := v }
      lockedWrite s vi (decide (i'.saveSize ≠ i.saveSize ∨ i'.saveBase ≠ i.saveBase)) fun s =>
        if s.plots.any (fun x => x.2.vi == vi) || decide (i.physSize < i'.saveBase.toNat + i'.saveSize.toNat) then s
        else s.setIface vi i')

/-! ## Registers that hold what is written (R12, R363, R367, R400, R437) -/

/-- REGISTER_WRITE: the value is stored, reserved bits as zero. -/
def execRegisterWrite (r : HostReg) (v : BitVec 64) (trusted : Bool) (s : State) : Out :=
  match r with
  | .root vi a => hostAccess s vi trusted fun s =>
      if a < (s.iface vi).acount then
        s.modIface vi fun i => { i with roots := mset i.roots a (v &&& ~~~0xFFFE#64) }
      else s
  | .invAddr vi => hostAccess s vi trusted fun s => s.modIface vi fun i => { i with invAddr := v }
  | .faultBase vi => hostAccess s vi trusted fun s => s.modIface vi fun i => { i with faultBase := v &&& ~~~0xFFF#64 }
  | .migDst vi => hostAccess s vi trusted fun s => s.modIface vi fun i => { i with migDst := v &&& 0x000FFFFFFFFF0000#64 }
  | .migVa vi => hostAccess s vi trusted fun s => s.modIface vi fun i => { i with migVa := v }
  | .migIova vi => hostAccess s vi trusted fun s => s.modIface vi fun i => { i with migIova := v }
  | .winBase vi => hostAccess s vi trusted fun s => s.modIface vi fun i => { i with winBase := v &&& 0x000FFFFF00000000#64 }
  | .queueBase vi i => queueAccess s vi i trusted fun s q => s.modQueue q fun x => { x with base := v &&& ~~~0xFFE#64 }
  | .queueHeadWb vi i => queueAccess s vi i trusted fun s q => s.modQueue q fun x => { x with headWb := v &&& ~~~7#64 }
  | .ctxPlot => .next { s with ctxPlot := v &&& 0x000003FFFFFFFFFF#64 }
  | .ctxTeams => .next { s with ctxTeams := v }
  | .telSel => .next { s with telSel := v &&& 0x00000000FFFFFFFF#64 }
  | .unlisted _ => .next s

end Sys2Proof.Machine
end

