-- ==== Sys2Proof/Machine/World.lean ====
section
/-! DEFINITION. Worlds and their hand-over (R410 to R413), sealed ranges (R419), TDISP (R431 to R436), and telemetry with
the observation log (R437 to R439). -/

namespace Sys2Proof.Machine

/-! ## Hand-over of a cluster (R412, R413) -/

/-- Whether a cluster is refused: an enabled interface names it, or a locked configuration does. -/
def State.clusterHeld (s : State) (c : Nat) : Bool :=
  s.ifaces.any fun x => x.2.clusters.testBit c && (x.2.en || x.2.tdi != .unlocked)

/-- Steps 1 and 2: the world map, and what each core of the cluster drops. -/
def State.beginHandover (s : State) (c w : Nat) : State :=
  let s1 := (List.range 4).foldl (fun (s : State) q => s.modCore (4 * c + q) fun co => { co with
    l1 := [], icache := [], tlb := [], victims := [], counters := [], tagTable := [], locks := [] }) s
  { s1 with worldMap := mset s1.worldMap c w, worldBusy := some (c, w), worldRefused := false, tlb2 := [] }

/-- WORLDREQ. -/
def execWorldreq (v : BitVec 64) (s : State) : Out :=
  let x := v.toNat
  let c := fieldOf x 6 0
  .next (if !v.getLsbD 63 || s.worldBusy.isSome then s
    else if 95 < c || fieldOf x 62 13 ≠ 0 || s.clusterHeld c then { s with worldRefused := true }
    else s.beginHandover c (fieldOf x 12 7))

/-- Step 3: the sweep zeroes what it voids, and the exchange areas (R413, R43). -/
def Core.cleanse (c : Core) : Core :=
  { c with
    scratch := [], scratchTags := [], xch0 := [], xch1 := [], xchTags0 := [], xchTags1 := []
    genSweeping := [], genRetired := [], sweeps := c.sweeps + 1 }

/-- HANDOVER_COMPLETE: the sweep, MEAS8 and the count (R413). -/
def execHandoverComplete (s : State) : Out :=
  .next (match s.worldBusy with
    | none => s
    | some (c, w) =>
      let s1 := (List.range 4).foldl (fun (s : State) q => s.modCore (4 * c + q) (·.cleanse)) s
      let s2 := s1.extendBy 8 (sm3 (leBytes 8 (w * 2 ^ 32 + c)))
      ({ s2 with worldBusy := none, worldDone := s2.worldDone + 1 } : State).count 0 2)

/-! ## Sealed ranges (R419) -/

/-- A range's first byte and length in its interface's memory; nothing when EN is 0. -/
def sealedSpan (v : BitVec 64) : Nat × Nat :=
  if v.getLsbD 63 then (fieldOf v.toNat 51 26 * 2 ^ 26, fieldOf v.toNat 25 12 * 2 ^ 26) else (0, 0)

def Iface.sealedSpans (i : Iface) : List (Nat × Nat) := i.sealedR.map sealedSpan

/-- Whether a span lies inside one range after another: every 64 MiB granule of it is sealed. -/
def Iface.sealedCovers (i : Iface) (a n : Nat) : Bool :=
  (List.range ((a + n + 2 ^ 26 - 1) / 2 ^ 26 - a / 2 ^ 26)).all fun k =>
    i.sealedSpans.any fun r => decide (r.1 ≤ (a / 2 ^ 26 + k) * 2 ^ 26) && decide ((a / 2 ^ 26 + k) * 2 ^ 26 < r.1 + r.2)

/-- Bytes sealed by every interface. -/
def State.sealedTotal (s : State) : Nat := (s.ifaces.map fun x => (x.2.sealedSpans.map (·.2)).sum).sum

/-- Whether a write of a range is ignored (R419). -/
def State.sealedBad (s : State) (vi k : Nat) (v : BitVec 64) : Bool :=
  let i := s.iface vi
  let (a, n) := sealedSpan v
  let others := (i.sealedSpans.zipIdx.filter fun x => x.2 != k).map (·.1)
  fieldOf v.toNat 62 52 != 0 || fieldOf v.toNat 11 0 != 0 || decide (i.physSize < a + n)
  || (n != 0 && others.any fun r => spansMeet a n r.1 r.2)
  || decide (96 * 2 ^ 30 < s.sealedTotal - ((i.sealedSpans.getD k (0, 0)).2) + n)

/-- Every unit that enters or leaves a range reads as zeros. -/
def State.zeroChanged (s : State) (base : Nat) (old new : Nat × Nat) : State :=
  let inside (r : Nat × Nat) (a : Nat) : Bool := decide (base + r.1 ≤ a) && decide (a < base + r.1 + r.2)
  let moved (a : Nat) : Bool := inside old a != inside new a
  { s with
    ram := s.ram.filter fun c => !moved c.1, poison := s.poison.filter fun x => !moved (32 * x)
    cores := mmap (fun _ (c : Core) => { c with l1 := mfilter (fun line _ => !moved (128 * line)) c.l1 }) s.cores
    replicas := s.replicas.filter fun x => !moved (128 * x.line) }

/-- SEALED_RANGE_WRITE. -/
def execSealedRangeWrite (vi k : Nat) (v : BitVec 64) (s : State) : Out :=
  .next (if 64 ≤ vi || 8 ≤ k then s
    else
      let i := s.iface vi
      let bad : State := { s with vierr := BitVec.ofNat 64 (vi + 256 * 5) }
      if i.tdi ≠ .unlocked then lockedWrite bad vi (decide (i.sealedR.getD k 0 ≠ v)) fun s => s
      else if s.sealedBad vi k v then bad
      else (s.zeroChanged i.physBase (sealedSpan (i.sealedR.getD k 0)) (sealedSpan v)).setIface vi
        { i with sealedR := updAt (fun _ => v) i.sealedR k })

/-! ## TDISP (R431 to R435) -/

/-- Whether a TDI's world is confidential (R410). -/
def Iface.confidential (i : Iface) : Bool := i.world != 0 && i.tdi != .unlocked

/-- The device-specific part of the interface report (R435). -/
def State.report (s : State) (vi : Nat) : Bytes :=
  let i := s.iface vi
  let terms := match i.terms with
    | some t => leBytes 2 t.allow.toNat ++ leBytes 2 t.log2 ++ leBytes 4 0 ++ leBytes 8 t.logOff
    | none => leBytes 16 0
  i.entry.flatMap (fun w => leBytes 8 w.toNat) ++ i.sealedR.flatMap (fun w => leBytes 8 w.toNat)
    ++ leBytes 8 i.saveBase.toNat ++ leBytes 8 i.saveSize.toNat ++ terms ++ regBytes (s.meas.getD 8 0)
    ++ leBytes 2 ((mget s.epochs i.world).getD 0)

/-- The conditions of LOCK (R433). -/
def State.mayLock (s : State) (vi : Nat) : Bool :=
  let i := s.iface vi
  i.en && i.world != 0 && !(s.ifaces.any fun x => x.1 != vi && x.2.en && x.2.world == i.world)
  && (List.range 96).all (fun c => !i.clusters.testBit c || (mget s.worldMap c).getD 0 == i.world)
  && i.ideSecure && !(s.plots.any fun x => x.2.vi == vi)
  && i.sealedCovers i.saveBase.toNat i.saveSize.toNat && i.terms.isSome

/-- A TDISP request: refused in recovery, answered with an error in ERROR unless it may be made there. -/
def tdisp (s : State) (vi : Nat) (inError : Bool) (body : State → State) : Out :=
  .next (if 64 ≤ vi || s.bootStat ≠ 0 then s
    else if (s.iface vi).tdi = .error && !inError then s.emit (.tdisp vi false [])
    else body s)

def State.tdispErr (s : State) (vi : Nat) : State := s.emit (.tdisp vi false [])

/-- GET_TDISP_VERSION. -/
def execGetTdispVersion (vi : Nat) (_pfSession : Bool) (s : State) : Out :=
  tdisp s vi false fun s => s.emit (.tdisp vi true [])

/-- GET_TDISP_CAPABILITIES. -/
def execGetTdispCapabilities (vi : Nat) (_pfSession : Bool) (s : State) : Out :=
  tdisp s vi false fun s => s.emit (.tdisp vi true [])

/-- LOCK's effects (R433). -/
def State.lockTdi (s : State) (vi : Nat) : State :=
  let w := (s.iface vi).world
  let n := Config.nonce s.free
  let s1 := (s.rekey vi).used
  let s2 : State := { s1 with epochs := mset s1.epochs w (((mget s1.epochs w).getD 0 + 1) % 65536) }
  let s3 := s2.extendBy 8 (regBytes (Config.reportDigest (s2.report vi)))
  let s4 := (s3.modIface vi fun i => { i with tdi := .locked, nonce := n }).count 0 3
  s4.emit (.tdisp vi true (regBytes n))

/-- LOCK_INTERFACE_REQUEST. -/
def execLockInterfaceRequest (vi : Nat) (pfSession : Bool) (s : State) : Out :=
  tdisp s vi false fun s =>
    if pfSession && (s.iface vi).tdi == .unlocked && s.mayLock vi then s.lockTdi vi else s.tdispErr vi

/-- GET_DEVICE_INTERFACE_REPORT. -/
def execGetDeviceInterfaceReport (vi : Nat) (_pfSession : Bool) (s : State) : Out :=
  tdisp s vi false fun s => s.emit (.tdisp vi true (s.report vi))

/-- The states as a response names them. -/
def TdiState.code : TdiState → Nat
  | .unlocked => 0 | .locked => 1 | .run => 2 | .error => 3

/-- GET_DEVICE_INTERFACE_STATE. -/
def execGetDeviceInterfaceState (vi : Nat) (_pfSession : Bool) (s : State) : Out :=
  tdisp s vi true fun s => s.emit (.tdisp vi true (leBytes 1 (TdiState.code (s.iface vi).tdi)))

/-- START_INTERFACE_REQUEST: RUN on the nonce of the LOCK, which is spent; ERROR on any other (R432). -/
def execStartInterfaceRequest (vi : Nat) (pfSession : Bool) (nonce : BitVec 256) (s : State) : Out :=
  tdisp s vi false fun s =>
    let i := s.iface vi
    if !pfSession || i.tdi ≠ .locked then s.tdispErr vi
    else if nonce = i.nonce then (s.setIface vi { i with tdi := .run, nonce := 0 }).emit (.tdisp vi true [])
    else (s.tdiError vi).tdispErr vi

/-- STOP_INTERFACE_REQUEST: the plots are killed, and once migrations are over the domain is retired (R434, R440). -/
def execStopInterfaceRequest (vi : Nat) (pfSession : Bool) (s : State) : Out :=
  tdisp s vi true fun s =>
    let i := s.iface vi
    if !pfSession then s.tdispErr vi
    else if i.tdi = .unlocked then s.emit (.tdisp vi true [])
    else if i.migs ≠ [] then
      ((s.killIface vi).modIface vi fun i => { i with stopDue := true }).emit (.tdisp vi true [])
    else (s.stopTdi vi).emit (.tdisp vi true [])

/-- Host-kind commands of an interface: the requests they have made on its stream fail (R383). -/
def State.failStream (s : State) (vi : Nat) : State :=
  let cs := s.cores.flatMap fun c => c.2.cmds.filter fun d =>
    (((d.plot.bind (mget s.plots)).map (·.vi)) == some vi) && (d.srcRec.kind == 2 || d.dstRec.kind == 2)
  cs.foldl (fun s c => s.failCmd c causePage (if c.srcRec.kind = 2 then c.srcRec.base else c.dstRec.base)) s

/-- IDE_STREAM_INSECURE: outstanding requests fail, and a locked or running TDI enters ERROR (R383, R432). -/
def execIdeStreamInsecure (vi : Nat) (s : State) : Out :=
  .next (if 64 ≤ vi then s
    else
      let s1 := (s.modIface vi fun i => { i with ideSecure := false }).failStream vi
      match (s1.iface vi).tdi with
      | .locked => s1.tdiError vi
      | .run => s1.tdiError vi
      | _ => s1)

/-- IDE_KM_REQUEST: the stream's keys are set and it is Secure (R361). -/
def execIdeKmRequest (vi : Nat) (s : State) : Out :=
  .next (if 64 ≤ vi then s else s.modIface vi fun i => { i with ideSecure := true })

/-- STATE_BLOCK_REWRITE_DONE: a domain's state blocks have all been rewritten (R417). -/
def execStateBlockRewriteDone (world : Nat) (s : State) : Out :=
  .next { s with rekeying := s.rekeying.filter (· != world) }

/-! ## Telemetry (R437, R438) -/

def telClass (sel : BitVec 32) : Nat := fieldOf sel.toNat 31 28
def telUnit (sel : BitVec 32) : Nat := fieldOf sel.toNat 27 16

/-- The clusters whose worlds an item reflects; a class that reflects every world names every cluster. -/
def telClusters (sel : BitVec 32) : List Nat :=
  match telClass sel with
  | 1 => (List.range 12).map (12 * telUnit sel + ·)
  | 2 => [telUnit sel / 4]
  | 3 => [telUnit sel / 4]
  | _ => []

/-- Whether an item reflects a world. -/
def State.reflects (s : State) (sel : BitVec 32) (w : Nat) : Bool :=
  match telClass sel with
  | 4 => true
  | 5 => true
  | 6 => w == Config.eventWorld sel
  | _ => (telClusters sel).any fun c => (mget s.worldMap c).getD 0 == w

/-- The interfaces whose worlds withhold an item: confidential, reflected, and not allowing its class. -/
def State.withholders (s : State) (sel : BitVec 32) : List Nat :=
  (s.ifaces.filter fun x => x.2.confidential && s.reflects sel x.2.world
    && !((x.2.terms.map Terms.allow).getD 0).getLsbD (telClass sel)).map (·.1)

/-- One millisecond of the reference (R166). -/
def telMerge : Nat := 3300000

/-- The bytes of a record of the observation log (R439). -/
def ObsRec.bytes (r : ObsRec) : Bytes :=
  leBytes 8 r.clock ++ leBytes 4 r.sel.toNat ++ leBytes 4 r.requester.toNat ++ leBytes 4 r.count ++ leBytes 12 0

/-- A withheld read is logged: merged into the newest record, or as one more. -/
def State.logWithheld (s : State) (requester : BitVec 16) (sel : BitVec 32) (vi : Nat) : State :=
  let i := s.iface vi
  match i.terms with
  | none => s
  | some t =>
    let base := i.physBase + t.logOff
    let place (x : Nat) : Nat := base + 64 + 32 * (x % 2 ^ t.log2)
    let fresh : State :=
      let r : ObsRec := ⟨s.clock, sel, requester, 1⟩
      ((s.ramWrite (place i.obsHead) (ObsRec.bytes r)).ramWrite base (leBytes 64 (i.obsHead + 1))).setIface vi
        { i with obsHead := i.obsHead + 1, obsNew := some r }
    match i.obsNew with
    | some r =>
      if r.requester = requester && r.sel == sel && decide (s.clock < r.clock + telMerge) then
        let r' := { r with count := r.count + 1 }
        (s.ramWrite (place (i.obsHead - 1)) (ObsRec.bytes r')).setIface vi { i with obsNew := some r' }
      else fresh
    | none => fresh

/-- Whether an item's class and unit exist. -/
def telKnown (sel : BitVec 32) : Bool :=
  match telClass sel with
  | 1 => decide (telUnit sel < 8)
  | 2 => decide (telUnit sel < 384)
  | 3 => decide (telUnit sel < 384)
  | n => decide (n < 8)

/-- A sample: its value and its status, with the logs of the worlds that withhold it. -/
def State.sample (s : State) (requester : BitVec 16) (sel : BitVec 32) : BitVec 64 × BitVec 8 × State :=
  if !telKnown sel then (0, 0xFF, s)
  else
    match s.withholders sel with
    | [] => if Config.hasItem sel then (Config.telemetry s.free sel, 0, s.used) else (0, 0xFF, s)
    | ws => (0, 0x1B, ws.foldl (fun s w => s.logWithheld requester sel w) s)

/-- TELDATA_READ, by the physical function (requester 0) or over the management path. -/
def execTeldataRead (requester : BitVec 16) (s : State) : Out :=
  .next (if s.bootStat ≠ 0 then s.emit (.readData 0 (leBytes 8 0))
    else
      let (v, st, s1) := s.sample requester (s.telSel.setWidth 32)
      let s2 : State := { s1 with telData := v, telStat := st }
      if requester = 0 then s2.emit (.readData 0 (leBytes 8 v.toNat)) else s2.emit (.mctp (leBytes 8 v.toNat)))

end Sys2Proof.Machine
end

