-- ==== Sys2Proof/Machine/Spdm.lean ====
section
/-! DEFINITION. Hyaluo's measurement registers as the table's events name them (R424), the DOE mailboxes (R426), and the
SPDM responder of each function (R427 to R430, R442, R443), with the messages of the worked responder. -/

namespace Sys2Proof.Machine

/-- MEAS_EXTEND (R424). -/
def execMeasExtend (i : BitVec 32) (s : State) : Out := .next (s.measExtend i.toNat)

/-- LOCKBOOT_WRITE (R424). -/
def execLockbootWrite (v : BitVec 32) (s : State) : Out := .next (s.lockBoot v.toNat)

/-- RSPLEN_WRITE (R426). -/
def execRsplenWrite (fn : Nat) (v : BitVec 32) (s : State) : Out := .next (if 65 ≤ fn then s else s.rspLen fn v.toNat)

/-! ## DOE (R426) -/

/-- The answer of discovery: the mailbox's data object types 0, 1 and 2, one for each index. -/
def doeDiscovery (index : Nat) : Bytes :=
  leBytes 2 1 ++ leBytes 2 0 ++ leBytes 4 3
    ++ (if index < 3 then leBytes 2 1 ++ leBytes 1 index ++ leBytes 1 ((index + 1) % 3) else leBytes 4 0xFFFF)

/-- DOE_REQUEST_ARRIVE: a data object reaches Hyaluo, is answered by hardware, or is turned away. -/
def execDoeRequestArrive (fn typ : Nat) (data : Bytes) (s : State) : Out :=
  .next (if 65 ≤ fn || s.bootStat ≠ 0 then s
    else if 32768 < data.length then s.emit (.doeError fn)
    else if (s.responder fn).reqLen ≠ 0 then s.emit (.doeBusy fn)
    else
      match typ with
      | 0 => s.emit (.doe fn (doeDiscovery (data.getD 8 0).toNat))
      | 1 => { s with hy := wrBytes s.hy (mailBase fn) data }.modResponder fn fun r =>
          { r with reqLen := BitVec.ofNat 32 data.length }
      | 2 => { s with hy := wrBytes s.hy (mailBase fn) data }.modResponder fn fun r =>
          { r with reqLen := BitVec.ofNat 32 data.length }
      | _ => s.emit (.doeError fn))

/-- DOE_ABORT. -/
def execDoeAbort (fn : Nat) (s : State) : Out :=
  .next (if 65 ≤ fn then s else s.modResponder fn fun r => { r with aborted := true, reqLen := 0 })

/-! ## Messages of the responder -/

def errVersion : Nat := 0x41
def errUnsupported : Nat := 0x07
def errInvalid : Nat := 0x01
def errUnexpected : Nat := 0x04

/-- An ERROR response: code and data. -/
def spdmError (code data : Nat) : Bytes := [0x12, 0x7F, BitVec.ofNat 8 code, BitVec.ofNat 8 data]

def versionRsp : Bytes := [0x10, 0x04, 0, 0, 0, 0x01, 0, 0x12]
def capabilitiesRsp : Bytes :=
  [0x12, 0x61, 0, 0, 0, 0x14, 0, 0, 0xD6, 0x62, 0, 0, 0, 0x70, 0, 0, 0, 0x70, 0, 0]
def algorithmsRsp : Bytes :=
  [0x12, 0x63, 0x04, 0, 0x34, 0, 0x01, 0, 0x80, 0, 0, 0, 0, 0x01, 0, 0, 0x40, 0, 0, 0] ++ List.replicate 16 0
    ++ [0x02, 0x20, 0x40, 0, 0x03, 0x20, 0x08, 0, 0x04, 0x20, 0, 0, 0x05, 0x20, 0x01, 0]

/-- The certificate chain of slot 0, its length in its first two bytes (R427). -/
def chainLen : Nat := 1412
def certChain : Bytes := leBytes 4 chainLen ++ (List.range (chainLen - 4)).map Config.chainByte

/-- Byte i of a message as a number. -/
def msgByte (m : Bytes) (i : Nat) : Nat := (m.getD i 0).toNat

/-- Whether a message has the length of its request, with or without the padding of its data object. -/
def lenOk (m : Bytes) (n : Nat) : Bool := m.length == n || m.length == roundUp n 4

/-- Whether NEGOTIATE_ALGORITHMS offers every algorithm of R427, in the layout of four structures. -/
def offersAll (m : Bytes) : Bool :=
  m.take 6 == [0x12, 0xE3, 0x04, 0, 0x30, 0] && msgByte m 28 == 0 && msgByte m 29 == 0
  && (List.range 4).all (fun k => msgByte m (32 + 4 * k) == k + 2 && msgByte m (33 + 4 * k) == 0x20)
  && (msgByte m 6).testBit 0 && (msgByte m 9).testBit 0 && (msgByte m 12).testBit 6
  && (msgByte m 34).testBit 6 && (msgByte m 38).testBit 3 && (msgByte m 46).testBit 0

/-- Whether a supported request is well formed. -/
def wellFormedReq (code : Nat) (m : Bytes) : Bool :=
  match code with
  | 0x84 => lenOk m 4 && m.take 4 == [0x10, 0x84, 0, 0]
  | 0xE1 => lenOk m 20
  | 0xE3 => lenOk m 48 && offersAll m
  | 0x82 => lenOk m 8 && msgByte m 2 == 0 && msgByte m 3 == 0 && decide (msgByte m 4 + 256 * msgByte m 5 < chainLen)
  | 0x83 => lenOk m 36 && msgByte m 2 == 0 && msgByte m 3 == 0
  | 0xE0 => lenOk m 37 && msgByte m 2 == 1 && msgByte m 36 == 0 && (decide (msgByte m 3 ≤ 16) || msgByte m 3 == 0xFF)
  | _ => true

/-- The supported codes, and those of a session's own messages, which R428 does not list. -/
def supportedCodes : List Nat := [0x84, 0xE1, 0xE3, 0x81, 0x82, 0x83, 0xE0, 0xE4]
def sessionCodes : List Nat := [0xE5, 0xE8, 0xE9, 0xEC, 0xFE]

/-- Whether a request is expected in a state (R428). -/
def expectedIn (code : Nat) (st : SpdmState) : Bool :=
  match code with
  | 0x84 => true
  | 0xE1 => st == .afterVersion
  | 0xE3 => st == .afterCaps
  | _ => st == .negotiated

/-! ## Signatures (R443) -/

/-- The public key of a private one, as its two coordinates. -/
def sm2Public (d : Nat) : Nat × Nat :=
  let p := ecMul d ⟨sm2Gx, sm2Gy, 1⟩ 256 ⟨1, 1, 0⟩
  let zi := invMod p.z sm2P
  (p.x * powMod zi 2 sm2P 2 1 % sm2P, p.y * powMod zi 3 sm2P 2 1 % sm2P)

/-- The coefficients of the curve. -/
def sm2A : Nat := sm2P - 3
def sm2B : Nat := 0x28E9FA9E9D9F5E344D5A9E4BCF6509A7F39789F515AB8F92DDBCBD414D940E93

/-- Bytes of a text. -/
def textBytes (x : String) : Bytes := x.toList.map fun c => BitVec.ofNat 8 c.toNat

/-- Z, the identity digest of a public key under the identity of R443. -/
def identityDigest (d : Nat) : Bytes :=
  let (x, y) := sm2Public d
  sm3 ([0x00, 0x80] ++ textBytes "1234567812345678" ++ beBytes 32 sm2A ++ beBytes 32 sm2B
    ++ beBytes 32 sm2Gx ++ beBytes 32 sm2Gy ++ beBytes 32 x ++ beBytes 32 y)

/-- P: the 100 bytes before the digest. -/
def contextBytes (chall : Bool) : Bytes :=
  let v := textBytes "dmtf-spdm-v1.2.*"
  v ++ v ++ v ++ v ++ (if chall then List.replicate 4 0 ++ textBytes "responder-challenge_auth signing"
    else List.replicate 6 0 ++ textBytes "responder-measurements signing")

/-- The signature of a transcript with the alias key. -/
def State.spdmSign (s : State) (chall : Bool) (t : Bytes) : Bytes :=
  match s.fusedKey 1 with
  | some d =>
    let (r, x) := sm2Sign d (sm3 (identityDigest d ++ contextBytes chall ++ sm3 t))
    beBytes 32 r ++ beBytes 32 x
  | none => []

/-! ## Responses -/

/-- 32 bytes of eight reads of the entropy word (R441). -/
def State.spdmNonce (s : State) : Bytes × State :=
  ((List.range 8).flatMap (fun i => leBytes 4 (Config.entropy (s.free + i)).toNat), { s with free := s.free + 8 })

/-- The DMTF value type of a measurement index (R429). -/
def measType (n : Nat) : Nat := if n = 1 then 0 else if n ≤ 5 then 1 else if n = 6 then 2 else 3

/-- A measurement block. -/
def State.measBlock (s : State) (n : Nat) : Bytes :=
  [BitVec.ofNat 8 n, 0x01, 0x23, 0, BitVec.ofNat 8 (measType n), 0x20, 0] ++ regBytes (s.meas.getD (n - 1) 0)

/-- The body of a response, and for a signed one whether it signs a challenge. -/
def State.spdmBody (s : State) (code : Nat) (m : Bytes) : Bytes × Option Bool × State :=
  match code with
  | 0x84 => (versionRsp, none, s)
  | 0xE1 => (capabilitiesRsp, none, s)
  | 0xE3 => (algorithmsRsp, none, s)
  | 0x82 =>
    let off := msgByte m 4 + 256 * msgByte m 5
    let n := min (min (msgByte m 6 + 256 * msgByte m 7) (chainLen - off)) 1024
    ([0x12, 0x02, 0, 0] ++ leBytes 2 n ++ leBytes 2 (chainLen - off - n) ++ (certChain.drop off).take n, none, s)
  | 0x83 =>
    let (e, s1) := s.spdmNonce
    ([0x12, 0x03, 0, 0x01] ++ sm3 certChain ++ e ++ [0, 0], some true, s1)
  | 0xE0 =>
    let (e, s1) := s.spdmNonce
    let n := msgByte m 3
    let head : Bytes :=
      if n = 0 then [0x12, 0x60, 0x10, 0, 0, 0, 0, 0]
      else if n = 0xFF then [0x12, 0x60, 0, 0, 0x10, 0x70, 0x02, 0] ++ (List.range 16).flatMap fun k => s.measBlock (k + 1)
      else [0x12, 0x60, 0, 0, 0x01, 0x27, 0, 0] ++ s.measBlock n
    (head ++ e ++ [0, 0], some false, s1)
  | 0x81 => ([0x12, 0x01] ++ Config.spdmBody s.free, none, s.used)
  | _ => ([0x12, 0x64] ++ Config.spdmBody s.free, none, s.used)

/-- The state after an answered request. -/
def nextSpdm (code : Nat) (st : SpdmState) : SpdmState :=
  match code with
  | 0x84 => .afterVersion
  | 0xE1 => .afterCaps
  | 0xE3 => .negotiated
  | _ => st

/-- A request answered without error: response, transcript and state (R442). -/
def State.spdmAnswer (s : State) (fn code : Nat) (m : Bytes) : State :=
  let r := s.responder fn
  let t0 := if code = 0x84 then [] else if code = 0xE0 then r.transcript.take r.a else r.transcript
  let (body, sig, s1) := s.spdmBody code m
  let n := match code with
    | 0x84 => 4 | 0xE1 => 20 | 0xE3 => 48 | 0x82 => 8 | 0x83 => 36 | 0xE0 => 37 | _ => m.length
  let t1 := t0 ++ m.take n ++ body
  let r' : Responder := { r with
    state := nextSpdm code r.state
    a := if code = 0xE3 then t1.length else r.a
    transcript := if sig.isSome then t1.take r.a else t1
    sessions := if code = 0xE4 then min 4 (r.sessions + 1) else r.sessions }
  let rsp := match sig with
    | some chall => body ++ s1.spdmSign chall t1
    | none => body
  { s1 with responders := mset s1.responders fn r' }.emit (.spdm fn rsp)

/-- What a responder does with a request: the first matching row of R428 decides. -/
def State.spdmRequest (s : State) (fn : Nat) (m : Bytes) : State :=
  let code := msgByte m 1
  let err (c d : Nat) : State := s.emit (.spdm fn (spdmError c d))
  if !(code == 0x84 && msgByte m 0 == 0x10) && msgByte m 0 != 0x12 then err errVersion 0
  else if !supportedCodes.contains code then err errUnsupported code
  else if !wellFormedReq code m then err errInvalid 0
  else if !expectedIn code (s.responder fn).state then err errUnexpected 0
  else s.spdmAnswer fn code m

/-- A request of a code reaches a function's responder; one of no supported code may reach it as any. In recovery Hyaluo
answers nothing (R425). -/
def spdm (s : State) (fn code : Nat) (m : Bytes) : Out :=
  let c := msgByte m 1
  .next (if 65 ≤ fn || s.bootStat ≠ 0 then s
    else if c = code || !(supportedCodes.contains c || sessionCodes.contains c) then s.spdmRequest fn m
    else s)

/-- GET_VERSION. -/
def execGetVersion (fn : Nat) (msg : Bytes) (s : State) : Out := spdm s fn 0x84 msg
/-- GET_CAPABILITIES. -/
def execGetCapabilities (fn : Nat) (msg : Bytes) (s : State) : Out := spdm s fn 0xE1 msg
/-- NEGOTIATE_ALGORITHMS. -/
def execNegotiateAlgorithms (fn : Nat) (msg : Bytes) (s : State) : Out := spdm s fn 0xE3 msg
/-- GET_DIGESTS. -/
def execGetDigests (fn : Nat) (msg : Bytes) (s : State) : Out := spdm s fn 0x81 msg
/-- GET_CERTIFICATE. -/
def execGetCertificate (fn : Nat) (msg : Bytes) (s : State) : Out := spdm s fn 0x82 msg
/-- CHALLENGE. -/
def execChallenge (fn : Nat) (msg : Bytes) (s : State) : Out := spdm s fn 0x83 msg
/-- GET_MEASUREMENTS. -/
def execGetMeasurements (fn : Nat) (msg : Bytes) (s : State) : Out := spdm s fn 0xE0 msg
/-- KEY_EXCHANGE. -/
def execKeyExchange (fn : Nat) (msg : Bytes) (s : State) : Out := spdm s fn 0xE4 msg

/-! ## Telemetry terms (R430) -/

/-- The terms that a well-formed payload sets, for the interface of a function. -/
def Iface.termsOf (i : Iface) (m : Bytes) : Option Terms :=
  let off := leNat ((m.drop 8).take 8)
  let log2 := msgByte m 6
  let inside := i.sealedSpans.any fun r => decide (r.1 ≤ off) && decide (off + 64 + 32 * 2 ^ log2 ≤ r.1 + r.2)
  if m.length = 16 && msgByte m 0 == 1 && msgByte m 1 == 0 && msgByte m 2 == 0 && msgByte m 3 == 0 && msgByte m 7 == 0
      && decide (4 ≤ log2) && decide (log2 ≤ 16) && off % 4096 == 0 && inside then
    some ⟨BitVec.ofNat 16 (leNat ((m.drop 4).take 2)), log2, off⟩
  else none

/-- SET_OBSERVATION: outside a secured session the answer is not this spec's, and nothing changes. -/
def execSetObservation (fn : Nat) (secured : Bool) (msg : Bytes) (s : State) : Out :=
  .next (if 65 ≤ fn || s.bootStat ≠ 0 then s
    else if !secured then s.used.emit (.spdm fn (Config.spdmBody s.free))
    else if fn = 0 then s.emit (.spdm fn (spdmError errInvalid 0))
    else
      let i := s.iface (fn - 1)
      match (if i.tdi = .unlocked then i.termsOf msg else none) with
      | some t =>
        (s.setIface (fn - 1) { i with terms := some t, obsHead := 0, obsNew := none }).emit (.spdm fn [0x12, 0x7E, 0, 0])
      | none => s.emit (.spdm fn (spdmError errInvalid 0)))

end Sys2Proof.Machine
end

