-- ==== Sys2Proof/Machine/Fleet.lean ====
section
/-! DEFINITION. The management path: fabric and roster commands (R444 to R448), the reseed log's operators (R347, R349),
lifetime records (R454, R455), and what happens to the whole package (R425, R456, R457, R461). -/

namespace Sys2Proof.Machine

/-! ## Command messages (R444) -/

/-- A completion code with the response's payload. -/
structure Reply where
  code : Nat
  data : Bytes
  deriving DecidableEq, Repr

/-- The response to a command: its tag repeated, the command ORed with 0x80, the completion code. -/
def State.respond (s : State) (cmd : Nat) (tag : BitVec 16) (r : Reply) : State :=
  s.emit (.mctp ([0, 0, 0, BitVec.ofNat 8 (cmd ||| 0x80)] ++ leBytes 2 tag.toNat ++ [BitVec.ofNat 8 r.code, 0] ++ r.data))

/-- A fabric or roster command: nothing is answered in recovery (R425); outside a secured session it is not authorised;
a payload of another length, or one that `bad` names, is malformed. `body` takes the payload. -/
def fleetCmd (s : State) (secured : Bool) (cmd : Nat) (tag : BitVec 16) (msg : Bytes) (bad : Bytes → Bool)
    (body : State → Bytes → Reply × State) : Out :=
  let m := msg.drop 8
  .next (if s.bootStat ≠ 0 then s
    else if !secured then s.respond cmd tag ⟨3, []⟩
    else if msg.length < 8 || bad m then s.respond cmd tag ⟨2, []⟩
    else
      let (r, s1) := body s m
      s1.respond cmd tag r)

/-- A command that is applied whole or refused by the device's state. -/
def applyIf (ok : Bool) (s t : State) : Reply × State := if ok then (⟨0, []⟩, t) else (⟨1, []⟩, s)

/-- The number in n bytes of a payload from byte i on. -/
def payload (m : Bytes) (i n : Nat) : Nat := leNat ((m.drop i).take n)

/-! ## Translation tables (R327 to R330, R445) -/

/-- The table entries that decide a rank's translation: exception-CAM slot, pod, member of a pod, path set. -/
inductive TableEntry where
  | cam (slot : Nat)
  | pod (p : Nat)
  | member (p m : Nat)
  | path (i : Nat)
  deriving DecidableEq, Repr

/-- The entries on which the translation of a rank rests. -/
def State.decides (s : State) (r : BitVec 18) : List TableEntry :=
  if r = s.rank then []
  else
    match s.cam.find? fun p => p.2.valid && p.2.rank == r with
    | some (k, e) => [.cam k, .path (fieldOf e.value.toNat 31 28)]
    | none =>
      let p := ((mget s.pods (podOf r).toNat).getD 0).toNat
      let entry : List TableEntry := [.pod (podOf r).toNat, .path (fieldOf p 19 16)]
      if fieldOf p 9 8 = 2 then entry ++ [.member (podOf r).toNat (memberOf r).toNat] else entry

/-- An entry is rewritten: every unacknowledged packet to a rank whose translation it decided, or now decides, fails
(R330). -/
def State.rewritten (s t : State) (e : TableEntry) : State :=
  let fences (cs : List Cmd) : List (BitVec 18) := (cs.filter (·.kind == .fencex)).map fun c => preryRank (c.dst.setWidth 64)
  let ranks := (t.outPkts.map (fun o => preryRank o.packet.addr) ++ t.outContribs.map (·.dst)
    ++ t.cores.flatMap (fun c => fences c.2.cmds) ++ t.saved.flatMap fun x => fences x.2.cmds).eraseDups
  (ranks.filter fun r => (s.decides r).contains e || (t.decides r).contains e).foldl (fun t r => t.failTo r) t

/-- SETRANK: refused while a plot of any interface is resident or saved. -/
def execSetrank (secured : Bool) (tag : BitVec 16) (msg : Bytes) (s : State) : Out :=
  fleetCmd s secured 0x01 tag msg (fun m => m.length != 4 || decide (2 ^ 18 ≤ leNat m)) fun s m =>
    applyIf (s.plots.isEmpty && s.saved.isEmpty) s { s with rank := BitVec.ofNat 18 (leNat m) }

/-- SETPOD: entry bits [15:10] and [7:0] are reserved, and a member table lies at a multiple of 8 KiB. -/
def execSetpod (secured : Bool) (tag : BitVec 16) (msg : Bytes) (s : State) : Out :=
  fleetCmd s secured 0x02 tag msg
    (fun m =>
      let e := payload m 2 16
      m.length != 18 || decide (512 ≤ payload m 0 2) || fieldOf e 15 10 != 0 || fieldOf e 7 0 != 0
      || (fieldOf e 9 8 == 2 && e / 2 ^ 64 % 8192 != 0))
    fun s m =>
      let t : State := { s with pods := mset s.pods (payload m 0 2) (BitVec.ofNat 128 (payload m 2 16)) }
      (⟨0, []⟩, s.rewritten t (.pod (payload m 0 2)))

/-- SETPATH. -/
def execSetpath (secured : Bool) (tag : BitVec 16) (msg : Bytes) (s : State) : Out :=
  fleetCmd s secured 0x03 tag msg (fun m => m.length != 3 || decide (16 ≤ payload m 0 1)) fun s m =>
    let t : State := { s with paths := mset s.paths (payload m 0 1) (BitVec.ofNat 16 (payload m 1 2)) }
    (⟨0, []⟩, s.rewritten t (.path (payload m 0 1)))

/-- SETCAM: a valid entry for the device's own rank is refused. -/
def execSetcam (secured : Bool) (tag : BitVec 16) (msg : Bytes) (s : State) : Out :=
  fleetCmd s secured 0x04 tag msg
    (fun m => m.length != 26 || decide (2048 ≤ payload m 0 2) || decide (2 ^ 19 ≤ payload m 2 4)
      || fieldOf (payload m 6 20) 25 0 != 0)
    fun s m =>
      let e : CamEntry := ⟨(payload m 2 4).testBit 18, BitVec.ofNat 18 (payload m 2 4), BitVec.ofNat 160 (payload m 6 20)⟩
      if e.valid && e.rank == s.rank then (⟨1, []⟩, s)
      else
        let t : State := { s with cam := mset s.cam (payload m 0 2) e }
        (⟨0, []⟩, s.rewritten t (.cam (payload m 0 2)))

/-- SETMEMBER: writes the member's address in the table of an indirect pod. -/
def execSetmember (secured : Bool) (tag : BitVec 16) (msg : Bytes) (s : State) : Out :=
  fleetCmd s secured 0x05 tag msg
    (fun m => m.length != 20 || decide (512 ≤ payload m 0 2) || decide (512 ≤ payload m 2 2))
    fun s m =>
      let e := ((mget s.pods (payload m 0 2)).getD 0).toNat
      if fieldOf e 9 8 ≠ 2 then (⟨1, []⟩, s)
      else
        let t := s.ramWrite (fieldOf e 127 64 + 16 * payload m 2 2) (m.drop 4)
        (⟨0, []⟩, s.rewritten t (.member (payload m 0 2) (payload m 2 2)))

/-! ## JOBSET (R341, R446) -/

/-- The numbers of the bits set in a bitmap of 512 bits. -/
def bitsOf (m : Bytes) : List Nat := let x := leNat m; (List.range 512).filter fun i => x.testBit i

/-- Members of the pods of a bitmap, from their member bitmaps: the first 256 pods have one each, a further pod is whole.
None when the image ends early. -/
def membersFrom : List Nat → Nat → Bytes → Option (List Nat × Bytes)
  | [], _, m => some ([], m)
  | p :: ps, n, m =>
    match n with
    | 0 => (membersFrom ps 0 m).map fun x => ((List.range 512).map (512 * p + ·) ++ x.1, x.2)
    | n + 1 =>
      if m.length < 64 then none
      else (membersFrom ps n (m.drop 64)).map fun x => ((bitsOf (m.take 64)).map (512 * p + ·) ++ x.1, x.2)

/-- One communicator of an image, with the rest of the image. -/
def commFrom (m : Bytes) : Option (List Nat × Bytes) :=
  if m.length < 64 then none else membersFrom (bitsOf (m.take 64)) 256 (m.drop 64)

/-- The communicators of an image, to its end: at most 64. -/
def commsFrom : Nat → Bytes → Option (List (List Nat))
  | _, [] => some []
  | 0, _ => none
  | n + 1, m => (commFrom m).bind fun x => (commsFrom n x.2).map (x.1 :: ·)

/-- The roster of an image: its first communicator is the whole roster, and every other is a subset of it. -/
def rosterFrom (version : Nat) (m : Bytes) : Option Roster :=
  match commsFrom 64 m with
  | some (all :: cs) =>
    if cs.all fun c => c.all all.contains then
      let comms : AMap (AMap Nat) := ((all :: cs).zipIdx).map fun x => (x.2, x.1.map fun r => (r, 0))
      some ⟨BitVec.ofNat 32 version, comms, comms⟩
    else none
  | _ => none

/-- Bytes of a ring of k slots. -/
def ringBytes (k : Nat) : Nat := 64 + 32896 * k

/-- Whether the header of a JOBSET may stand: k from 1 to 2^24, the ring inside a sealed range of the interface and
outside its save pool. -/
def State.jobHeaderBad (s : State) (m : Bytes) : Bool :=
  let v := payload m 4 2
  let ring := payload m 8 8
  let k := payload m 16 8
  decide (m.length < 60) || decide (64 ≤ v) || k == 0 || decide (2 ^ 24 < k)
  || !((s.iface v).sealedSpans.any fun r => decide (r.1 ≤ ring) && decide (ring + ringBytes k ≤ r.1 + r.2))
  || spansMeet ring (ringBytes k) (s.iface v).saveBase.toNat (s.iface v).saveSize.toNat

/-- Memory of a span reads as zeros. -/
def State.zeroSpan (s : State) (a n : Nat) : State :=
  let inside (x : Nat) : Bool := decide (a ≤ x) && decide (x < a + n)
  { s with ram := s.ram.filter fun c => !inside c.1, poison := s.poison.filter fun x => !inside (32 * x) }

/-- The job is bound at the last fragment: the ring is zeroed and its header written (R446, R347). -/
def State.bindJob (s : State) (m : Bytes) (r : Roster) : State :=
  let v := payload m 4 2
  let ring := (s.iface v).physBase + payload m 8 8
  let k := payload m 16 8
  let h0 := (m.drop 24).take 32
  let j : Job := ⟨BitVec.ofNat 32 (payload m 0 4), payload m 8 8, k, r, [], h0⟩
  ((s.zeroSpan ring (ringBytes k)).ramWrite ring
    (leBytes 8 1 ++ leBytes 8 1 ++ leBytes 8 0 ++ leBytes 8 k ++ h0)).modIface v fun i =>
      { i with job := some j, jobFrags := [] }

/-- JOBSET: the fragments come in order; the first one's header counts. -/
def execJobset (secured : Bool) (tag : BitVec 16) (msg : Bytes) (s : State) : Out :=
  fleetCmd s secured 0x06 tag msg (fun m => s.jobHeaderBad m) fun s m =>
    let v := payload m 4 2
    let n := payload m 6 2 % 2 ^ 15
    let frags := if n = 0 then [] else (s.iface v).jobFrags
    if n ≠ frags.length then (⟨2, []⟩, s)
    else if s.plots.any fun x => x.2.vi == v then (⟨1, []⟩, s)
    else
      let all := frags ++ [m]
      let head := all.headD []
      if (m.getD 7 0).toNat < 128 then (⟨0, []⟩, s.modIface v fun i => { i with jobFrags := all })
      else if s.jobHeaderBad head then (⟨2, []⟩, s)
      else
        match rosterFrom (payload head 56 4) (all.flatMap (·.drop 60)) with
        | some r => (⟨0, []⟩, s.bindJob head r)
        | none => (⟨2, []⟩, s)

/-! ## ROSTER (R342, R447, R448) -/

/-- An entry of a version. -/
structure RosterEntry where
  isAdmit : Bool
  rank : Nat
  join : Nat
  mask : Nat
  deriving DecidableEq, Repr

def rosterEntry (m : Bytes) : RosterEntry :=
  let w := payload m 0 4
  ⟨fieldOf w 31 30 == 2, fieldOf w 17 0, payload m 4 4, payload m 8 8⟩
def rosterEntries (m : Bytes) : List RosterEntry :=
  (List.range (m.length / 16)).map fun i => rosterEntry (m.drop (16 * i))

/-- Whether an entry of 16 bytes is malformed. -/
def rosterEntryBad (m : Bytes) : Bool :=
  let w := payload m 0 4
  let kind := fieldOf w 31 30
  (kind != 1 && kind != 2) || fieldOf w 29 18 != 0 || (kind == 1 && (payload m 4 4 != 0 || payload m 8 8 != 0))

/-- Whether a version is refused against the roster that it would follow. -/
def Roster.refuses (r : Roster) (es : List RosterEntry) : Bool :=
  es.any fun e => r.has 0 e.rank == e.isAdmit
    || (List.range 64).any fun c => decide (1 ≤ c) && e.mask.testBit c && (mget r.comms c).isNone

/-- An entry takes effect (R447): a rank keeps its first join sequence in the slot lists (R459). -/
def Roster.enter (r : Roster) (e : RosterEntry) : Roster :=
  if e.isAdmit then
    let named (c : Nat) : Bool := c == 0 || e.mask.testBit c
    let low (m : AMap Nat) : AMap Nat := mset m e.rank (min ((mget m e.rank).getD e.join) e.join)
    { r with
      comms := mmap (fun c m => if named c then mset m e.rank e.join else m) r.comms
      ever := mmap (fun c m => if named c then low m else m) r.ever }
  else { r with comms := mmap (fun _ m => mdel m e.rank) r.comms }

/-- The packets of departed ranks are refused from now on, also those that wait at the port, and their intervals'
entries are freed without a report (R342, R458, R461). -/
def State.departed (s : State) (vi : Nat) (job : BitVec 32) (ranks : List Nat) : State :=
  let s1 : State := { s with fenceTab := s.fenceTab.filter fun e => !(e.id.job == job && ranks.contains e.id.rank.toNat) }
  s1.retryPackets fun g p => g.vi == vi && ranks.contains p.src.toNat

/-- A version is applied: its entries together, one step (R342, R447). -/
def State.applyRoster (s : State) (vi : Nat) (j : Job) (es : List RosterEntry) : State :=
  let r := es.foldl (fun (r : Roster) e => r.enter e) j.roster
  let s1 := s.modIface vi fun i => { i with job := some { j with roster := { r with version := r.version + 1 } } }
  let gone := (es.filter fun e => !e.isAdmit).map (·.rank)
  (s1.departed vi j.id gone).rosterApplied j.id

/-- The next version, if it is buffered, is reached next. -/
def State.reachBuffered (s : State) (vi : Nat) : State :=
  match (s.iface vi).job with
  | some j => if (mget j.buffered (j.roster.version.toNat + 1)).isSome then
      { s with agenda := .rosterBufferedApply vi :: s.agenda } else s
  | none => s

/-- ROSTER: version v + 1 is applied at once, v + 2 to v + 16 are buffered and answered later. -/
def execRoster (secured : Bool) (tag : BitVec 16) (msg : Bytes) (s : State) : Out :=
  let m := msg.drop 8
  let es := m.drop 10
  let n := payload m 8 2
  let bad := decide (m.length < 10) || n == 0 || decide (64 < n) || es.length != 16 * n
    || (List.range n).any fun i => rosterEntryBad (es.drop (16 * i))
  if s.bootStat = 0 && secured && !bad && decide (8 ≤ msg.length) then
    let version := payload m 4 4
    match s.jobNo (BitVec.ofNat 32 (payload m 0 4)) with
    | none => .next (s.respond 0x07 tag ⟨1, []⟩)
    | some (vi, j) =>
      let v := j.roster.version.toNat
      .next (if version ≤ v then s.respond 0x07 tag ⟨0, []⟩
        else if v + 16 < version then s.respond 0x07 tag ⟨4, []⟩
        else if v + 1 < version then
          let old := (mget j.buffered version).getD []
          s.modIface vi fun i => { i with job := some { j with buffered := mset j.buffered version (old ++ [(es, tag)]) } }
        else if j.roster.refuses (rosterEntries es) then s.respond 0x07 tag ⟨1, []⟩
        else (((s.applyRoster vi j (rosterEntries es)).respond 0x07 tag ⟨0, []⟩)).reachBuffered vi)
  else fleetCmd s secured 0x07 tag msg (fun _ => true) fun s _ => (⟨2, []⟩, s)

/-- The commands buffered under the version that has been reached, in arrival order: the first valid one is applied, a
refused one is dropped, and one that comes after the applied one has no effect. -/
def State.tryBuffered (s : State) (vi : Nat) : List (Bytes × BitVec 16) → Bool → Bool × State
  | [], done => (done, s)
  | (_, tag) :: rest, true => (s.respond 0x07 tag ⟨0, []⟩).tryBuffered vi rest true
  | (es, tag) :: rest, false =>
    match (s.iface vi).job with
    | none => (false, s)
    | some j =>
      if j.roster.refuses (rosterEntries es) then (s.respond 0x07 tag ⟨1, []⟩).tryBuffered vi rest false
      else ((s.applyRoster vi j (rosterEntries es)).respond 0x07 tag ⟨0, []⟩).tryBuffered vi rest true

/-- ROSTER_BUFFERED_APPLY: the version after the applied one, if it is buffered, is tested and applied or dropped. -/
def execRosterBufferedApply (vi : Nat) (s : State) : Out :=
  .next (match (s.iface vi).job with
    | none => s
    | some j =>
      let v := j.roster.version.toNat + 1
      match mget j.buffered v with
      | none => s
      | some xs =>
        let s1 := s.modIface vi fun i => { i with job := some { j with buffered := mdel j.buffered v } }
        let (applied, s2) := s1.tryBuffered vi xs false
        if applied then s2.reachBuffered vi else s2)

/-! ## The reseed log (R347, R349, R445) -/

/-- LOGTAIL: TAIL advances, and the response carries H(new TAIL - 1): entry x holds its hash at byte 96. -/
def execLogtail (secured : Bool) (tag : BitVec 16) (msg : Bytes) (s : State) : Out :=
  fleetCmd s secured 0x08 tag msg (fun m => m.length != 12) fun s m =>
    match s.jobNo (BitVec.ofNat 32 (payload m 0 4)) with
    | none => (⟨1, []⟩, s)
    | some (vi, j) =>
      let ring := (s.iface vi).physBase + j.ring
      let t := payload m 4 8
      let tail := s.ramLE (ring + 8) 8
      if t < tail || s.ramLE ring 8 < t then (⟨1, []⟩, s)
      else
        let h := if t = tail then j.tailHash else s.ramRead (ring + 64 + 32896 * ((t - 1) % j.slots) + 96) 32
        (⟨0, h⟩, (s.ramWrite (ring + 8) (leBytes 8 t)).modIface vi fun i => { i with job := some { j with tailHash := h } })

/-- LOGINFO: the ring header's first 64 bytes. -/
def execLoginfo (secured : Bool) (tag : BitVec 16) (msg : Bytes) (s : State) : Out :=
  fleetCmd s secured 0x09 tag msg (fun m => m.length != 4) fun s m =>
    match s.jobNo (BitVec.ofNat 32 (leNat m)) with
    | none => (⟨1, []⟩, s)
    | some (vi, j) => (⟨0, s.ramRead ((s.iface vi).physBase + j.ring) 64⟩, s)

/-! ## Lifetime records (R454, R455) -/

/-- Size of a block, and of each of its counts, in bytes. -/
def lifeBlock (b : Nat) : Nat × Nat :=
  match b with
  | 0 => (40, 8)
  | 1 => (24576, 4)
  | 2 => (49152, 8)
  | 3 => (24576, 8)
  | 4 => (12288, 8)
  | 5 => (296, 8)
  | 6 => (32, 8)
  | _ => (0, 8)

/-- A count as it reads: the stored one plus what is not yet stored, saturated. -/
def State.lifeCount (s : State) (b i : Nat) : Nat :=
  let k := lifeKey b i
  min ((mget s.life.stored k).getD 0 + (mget s.life.live k).getD 0) (2 ^ (8 * (lifeBlock b).2) - 1)

/-- A byte of a block. -/
def State.lifeByte (s : State) (b i : Nat) : Byte :=
  BitVec.ofNat 8 (s.lifeCount b (i / (lifeBlock b).2) / 256 ^ (i % (lifeBlock b).2))

/-- GetLifetimeBlock: up to 1,024 bytes of a block, or ERROR_INVALID_DATA. -/
def execGetLifetimeBlock (block off : Nat) (s : State) : Out :=
  let size := (lifeBlock block).1
  .next (if size ≤ off then s.emit (.pldm 1 [2])
    else s.emit (.pldm 1 (0 :: (List.range (min 1024 (size - off))).map fun i => s.lifeByte block (off + i))))

/-- Live counts are added to the stored ones, which saturate. -/
def State.flushLife (s : State) : State :=
  { s with life :=
      { stored := s.life.live.foldl (fun m x => mset m x.1 (s.lifeCount (x.1 / 65536) (x.1 % 65536))) s.life.stored
        live := [] } }

/-- LIFETIME_FLUSH, every 60 s. -/
def execLifetimeFlush (s : State) : Out := .next s.flushLife

/-- ORDERLY_POWER_DOWN: live counts are stored, then the package is without power. -/
def execOrderlyPowerDown (s : State) : Out := .next { s.flushLife with lost := true }

/-! ## The whole package (R425, R456, R457, R461) -/

/-- Hyaluo's ROM and flash, which outlast a reset (R422). -/
def romFlash (m : Mem) : Mem :=
  m.filter fun c => decide (c.1 < 0x40000) || (decide (0x2_0000_0000 ≤ c.1) && decide (c.1 < 0x2_0400_0000))

/-- PACKAGE_RESET: everything is as after reset but Hyaluo's ROM and flash and the stored records; what stands outside
the package is untouched, and the boot is counted. -/
def execPackageReset (s : State) : Out :=
  .next (({ State.reset with
    agenda := s.agenda, free := s.free, next := s.next, hostMem := s.hostMem, hy := romFlash s.hy
    life := s.life, out := s.out } : State).count 0 1)

/-- THERMAL_THROTTLE and THROTTLE_END: the arithmetic clock, which is timing only. -/
def execThermalThrottle (s : State) : Out := .next { s with throttled := true }
def execThrottleEnd (s : State) : Out := .next { s with throttled := false }

/-- THERMAL_TRIP: the core rails are removed, and the trip is counted. -/
def execThermalTrip (s : State) : Out := .next (({ s with lost := true } : State).count 0 4)

/-- POWER_LOSS: the package is lost with the counts that it had not stored; nothing is sent. -/
def execPowerLoss (s : State) : Out := .next { s with lost := true, life := { s.life with live := [] } }

/-- LINK_RETRAIN: a retrain of one of the 37 links is counted. -/
def execLinkRetrain (link : Nat) (s : State) : Out :=
  .next (if link < 37 then (s.count 5 link).emit (.linkRetrained link) else s)

end Sys2Proof.Machine
end

