-- ==== Sys2Proof/Machine/Integer.lean ====
section
/-! DEFINITION. Integer arithmetic, constants, bit fields and unary operations (R179 to R184), in vector and scalar
form. Each result is a function of n-bit values, narrowed at the end. -/

namespace Sys2Proof.Machine

/-- Source k of a lane. -/
def arg (x : List Nat) (k : Nat) : Nat := x.getD k 0

/-! ## Results of n-bit operations (R179 to R184) -/

def subN (n a b : Nat) : Nat := (a + (2 ^ n - b % 2 ^ n)) % 2 ^ n
/-- The high n bits of a 2n-bit product (R180). -/
def mulHi (n : Nat) (signed : Bool) (a b : Nat) : Nat :=
  if signed then wrap n ((sext a n * sext b n) / (2 ^ n : Nat)) else a * b / 2 ^ n
/-- Quotient and remainder (R181). -/
def divRem (n : Nat) (signed : Bool) (a b : Nat) : Nat × Nat :=
  if b = 0 then (2 ^ n - 1, a)
  else if signed then
    let q := (sext a n).tdiv (sext b n)
    (wrap n q, wrap n (sext a n - q * sext b n))
  else (a / b, a % b)
/-- The smaller or larger of two values (R180). -/
def pick (n : Nat) (signed isMax : Bool) (a b : Nat) : Nat :=
  let le := if signed then sext a n ≤ sext b n else a ≤ b
  if le != isMax then a else b
/-- A right shift filling with the sign bit (R180). -/
def sarN (n a k : Nat) : Nat := wrap n (sext a n / (2 ^ (k % n) : Nat))
/-- A left shift (R179). -/
def shlN (n a k : Nat) : Nat := a * 2 ^ (k % n) % 2 ^ n
/-- A right shift filling with zeros (R179). -/
def shrN (n a k : Nat) : Nat := a / 2 ^ (k % n)
/-- A rotation to the left (R180). -/
def rotlN (n a k : Nat) : Nat := (a * 2 ^ (k % n)) % 2 ^ n + a / 2 ^ (n - k % n)
/-- A field of a cut at bit 31 (R183). -/
def bfxN (a pos len : Nat) (signed : Bool) : Nat :=
  let e := min (pos + len) 32
  let f := fieldOf a (e - 1) pos
  if signed then wrap 32 (sext f (e - pos)) else f
/-- d with a field replaced by the low bits of a (R183). -/
def bfiN (d a pos len : Nat) : Nat :=
  let e := min (pos + len) 32
  d - fieldOf d (e - 1) pos * 2 ^ pos + a % 2 ^ (e - pos) * 2 ^ pos
/-- The number of set bits (R184). -/
def popcN (a : Nat) : Nat := ((List.range 32).filter fun i => a.testBit i).length
/-- Bit i of the result is bit 31 − i of a (R184). -/
def brevN (a : Nat) : Nat := packNat 1 (fun i => (a.testBit (31 - i)).toNat) 32
/-- |a| modulo 2^32 (R184). -/
def absN (a : Nat) : Nat := if sext a 32 < 0 then subN 32 0 a else a

/-! ## Vector forms -/

def execIaddV (d a b : VReg) (g : PReg) (s : State) : Out :=
  vecInt s 0 d [a, b] g fun x => (arg x 0 + arg x 1) % 2 ^ 32
def execIsubV (d a b : VReg) (g : PReg) (s : State) : Out :=
  vecInt s 0 d [a, b] g fun x => subN 32 (arg x 0) (arg x 1)
def execImulV (d a b : VReg) (g : PReg) (s : State) : Out :=
  vecInt s 0 d [a, b] g fun x => arg x 0 * arg x 1 % 2 ^ 32
def execIaddiV (d a : VReg) (i : Imm7) (g : PReg) (s : State) : Out :=
  vecInt s 0 d [a] g fun x => wrap 32 (arg x 0 + sext i.toNat 7)
def execAndV (d a b : VReg) (g : PReg) (s : State) : Out :=
  vecInt s 0 d [a, b] g fun x => arg x 0 &&& arg x 1
def execOrV (d a b : VReg) (g : PReg) (s : State) : Out :=
  vecInt s 0 d [a, b] g fun x => arg x 0 ||| arg x 1
def execXorV (d a b : VReg) (g : PReg) (s : State) : Out :=
  vecInt s 0 d [a, b] g fun x => arg x 0 ^^^ arg x 1
def execShlV (d a b : VReg) (g : PReg) (s : State) : Out :=
  vecInt s 0 d [a, b] g fun x => shlN 32 (arg x 0) (arg x 1)
def execShrZ32V (d a b : VReg) (g : PReg) (s : State) : Out :=
  vecInt s 0 d [a, b] g fun x => shrN 32 (arg x 0) (arg x 1)
def execImulhV (sg : Bool) (d a b : VReg) (g : PReg) (s : State) : Out :=
  vecInt s 1 d [a, b] g fun x => mulHi 32 sg (arg x 0) (arg x 1)
def execIdivV (sg : Bool) (d a b : VReg) (g : PReg) (s : State) : Out :=
  vecInt s 1 d [a, b] g fun x => (divRem 32 sg (arg x 0) (arg x 1)).1
def execIremV (sg : Bool) (d a b : VReg) (g : PReg) (s : State) : Out :=
  vecInt s 1 d [a, b] g fun x => (divRem 32 sg (arg x 0) (arg x 1)).2
def execIminV (sg : Bool) (d a b : VReg) (g : PReg) (s : State) : Out :=
  vecInt s 1 d [a, b] g fun x => pick 32 sg false (arg x 0) (arg x 1)
def execImaxV (sg : Bool) (d a b : VReg) (g : PReg) (s : State) : Out :=
  vecInt s 1 d [a, b] g fun x => pick 32 sg true (arg x 0) (arg x 1)
def execShrS32V (d a b : VReg) (g : PReg) (s : State) : Out :=
  vecInt s 1 d [a, b] g fun x => sarN 32 (arg x 0) (arg x 1)
def execRotlV (d a b : VReg) (g : PReg) (s : State) : Out :=
  vecInt s 1 d [a, b] g fun x => rotlN 32 (arg x 0) (arg x 1)
/-- MOVL to a vector register: the payload sign-extended (R182). -/
def execMovlV (d : VReg) (v : BitVec 30) (g : PReg) (s : State) : Out :=
  vecInt s 1 d [] g fun _ => wrap 32 (sext v.toNat 30)
def execBfx (d a : VReg) (pos : BitVec 5) (len : BitVec 6) (sg : Bool) (g : PReg) (s : State) : Out :=
  vecInt s 1 d [a] g fun x => bfxN (arg x 0) pos.toNat len.toNat sg
/-- BFI also reads its destination (R183). -/
def execBfi (d a : VReg) (pos : BitVec 5) (len : BitVec 6) (g : PReg) (s : State) : Out :=
  vecInt s 1 d [d, a] g fun x => bfiN (arg x 0) (arg x 1) pos.toNat len.toNat

/-! ## Unary operations (R184) -/

def execMov (d a : VReg) (g : PReg) (s : State) : Out := vecInt s 0 d [a] g fun x => arg x 0
def execNot (d a : VReg) (g : PReg) (s : State) : Out := vecInt s 0 d [a] g fun x => 2 ^ 32 - 1 - arg x 0
def execNeg (d a : VReg) (g : PReg) (s : State) : Out := vecInt s 0 d [a] g fun x => subN 32 0 (arg x 0)
def execIabs (d a : VReg) (g : PReg) (s : State) : Out := vecInt s 0 d [a] g fun x => absN (arg x 0)
def execPopc (d a : VReg) (g : PReg) (s : State) : Out := vecInt s 0 d [a] g fun x => popcN (arg x 0)
def execClz (d a : VReg) (g : PReg) (s : State) : Out := vecInt s 0 d [a] g fun x => 32 - bitLen (arg x 0)
def execBrev (d a : VReg) (g : PReg) (s : State) : Out := vecInt s 0 d [a] g fun x => brevN (arg x 0)
def execSext8 (d a : VReg) (g : PReg) (s : State) : Out :=
  vecInt s 0 d [a] g fun x => wrap 32 (sext (arg x 0) 8)
def execSext16 (d a : VReg) (g : PReg) (s : State) : Out :=
  vecInt s 0 d [a] g fun x => wrap 32 (sext (arg x 0) 16)
def execLaneid (d : VReg) (g : PReg) (s : State) : Out :=
  vecRows s 0 d [] g fun _ _ grp l => (32 * grp + l, 0)

/-! ## Scalar forms (R179, R180) -/

/-- A 64-bit function of two scalars. -/
def scal2 (s : State) (lits : Nat) (d a b : SReg) (g : PReg) (fn : Nat → Nat → Nat) : Out :=
  scalOp s lits d [a, b] g fun x => BitVec.ofNat 64 (fn (x.getD 0 0).toNat (x.getD 1 0).toNat)

def execIaddS (d a b : SReg) (g : PReg) (s : State) : Out := scal2 s 0 d a b g fun x y => x + y
def execIsubS (d a b : SReg) (g : PReg) (s : State) : Out := scal2 s 0 d a b g fun x y => subN 64 x y
def execIaddiS (d a : SReg) (i : Imm7) (g : PReg) (s : State) : Out :=
  scalOp s 0 d [a] g fun x => x.getD 0 0 + i.signExtend 64
def execImulS (d a b : SReg) (g : PReg) (s : State) : Out := scal2 s 0 d a b g fun x y => x * y
/-- MOVL to a scalar register: the 60-bit literal value sign-extended (R182). -/
def execMovlS (d : SReg) (v : BitVec 60) (g : PReg) (s : State) : Out :=
  scalOp s 2 d [] g fun _ => v.signExtend 64
def execImulhS (sg : Bool) (d a b : SReg) (g : PReg) (s : State) : Out :=
  scal2 s 1 d a b g fun x y => mulHi 64 sg x y
def execIdivS (sg : Bool) (d a b : SReg) (g : PReg) (s : State) : Out :=
  scal2 s 1 d a b g fun x y => (divRem 64 sg x y).1
def execIremS (sg : Bool) (d a b : SReg) (g : PReg) (s : State) : Out :=
  scal2 s 1 d a b g fun x y => (divRem 64 sg x y).2
def execIminS (sg : Bool) (d a b : SReg) (g : PReg) (s : State) : Out :=
  scal2 s 1 d a b g fun x y => pick 64 sg false x y
def execImaxS (sg : Bool) (d a b : SReg) (g : PReg) (s : State) : Out :=
  scal2 s 1 d a b g fun x y => pick 64 sg true x y
def execShrS32S (d a b : SReg) (g : PReg) (s : State) : Out := scal2 s 1 d a b g fun x y => sarN 64 x y
def execRotlS (d a b : SReg) (g : PReg) (s : State) : Out := scal2 s 1 d a b g fun x y => rotlN 64 x y
def execAndS (d a b : SReg) (g : PReg) (s : State) : Out := scal2 s 1 d a b g fun x y => x &&& y
def execOrS (d a b : SReg) (g : PReg) (s : State) : Out := scal2 s 1 d a b g fun x y => x ||| y
def execXorS (d a b : SReg) (g : PReg) (s : State) : Out := scal2 s 1 d a b g fun x y => x ^^^ y
def execShlS (d a b : SReg) (g : PReg) (s : State) : Out := scal2 s 1 d a b g fun x y => shlN 64 x y
def execShrZ32S (d a b : SReg) (g : PReg) (s : State) : Out := scal2 s 1 d a b g fun x y => shrN 64 x y

end Sys2Proof.Machine
end

