-- ==== Sys2Proof/Machine/FloatInstr.lean ====
section
/-! DEFINITION. Floating-point arithmetic, compares, unary operations, conversions and packed operations (R193 to
R202). The online ones (R136) go through the furrow; the others wait for their sources and write at once. -/

namespace Sys2Proof.Machine

/-! ## Online instructions: short forms (R193, R195, R196) -/

def execFadd (d a b : VReg) (g : PReg) (s : State) : Out := onlineOp s (.fadd d a b g) 0 d [a, b] g
def execFmul (d a b : VReg) (g : PReg) (s : State) : Out := onlineOp s (.fmul d a b g) 0 d [a, b] g
def execFdiv (d a b : VReg) (g : PReg) (s : State) : Out := onlineOp s (.fdiv d a b g) 0 d [a, b] g
def execFmin (d a b : VReg) (g : PReg) (s : State) : Out := onlineOp s (.fmin d a b g) 0 d [a, b] g
def execFmax (d a b : VReg) (g : PReg) (s : State) : Out := onlineOp s (.fmax d a b g) 0 d [a, b] g
def execFmaxz (d a : VReg) (g : PReg) (s : State) : Out := onlineOp s (.fmaxz d a g) 0 d [a] g
def execFminz (d a : VReg) (g : PReg) (s : State) : Out := onlineOp s (.fminz d a g) 0 d [a] g
/-- The short FFMA's addend is v8 to v15 (R103). -/
def execFfma (k : BitVec 3) (d a b : VReg) (g : PReg) (s : State) : Out :=
  onlineOp s (.ffma k d a b g) 0 d [a, b, 8 + k.setWidth 7] g

def execFsetk (d a : VReg) (c : BitVec 4) (g : PReg) (s : State) : Out :=
  onlineOp s (.fsetk d a c g) 1 d [a] g

/-! ## Online instructions: long forms (R193, R194) -/

def execFaddLong (r : Rnd) (d a b : VReg) (g : PReg) (s : State) : Out :=
  onlineOp s (.faddLong r d a b g) 1 d [a, b] g
def execFsub (r : Rnd) (d a b : VReg) (g : PReg) (s : State) : Out :=
  onlineOp s (.fsub r d a b g) 1 d [a, b] g
def execFmulLong (r : Rnd) (d a b : VReg) (g : PReg) (s : State) : Out :=
  onlineOp s (.fmulLong r d a b g) 1 d [a, b] g
def execFfmaLong (r : Rnd) (d a b c : VReg) (g : PReg) (s : State) : Out :=
  onlineOp s (.ffmaLong r d a b c g) 1 d [a, b, c] g
def execFdivLong (r : Rnd) (d a b : VReg) (g : PReg) (s : State) : Out :=
  onlineOp s (.fdivLong r d a b g) 1 d [a, b] g
def execFfms (r : Rnd) (d a b c : VReg) (g : PReg) (s : State) : Out :=
  onlineOp s (.ffms r d a b c g) 1 d [a, b, c] g
def execFnma (r : Rnd) (d a b c : VReg) (g : PReg) (s : State) : Out :=
  onlineOp s (.fnma r d a b c g) 1 d [a, b, c] g
def execFminLong (r : Rnd) (d a b : VReg) (g : PReg) (s : State) : Out :=
  onlineOp s (.fminLong r d a b g) 1 d [a, b] g
def execFmaxLong (r : Rnd) (d a b : VReg) (g : PReg) (s : State) : Out :=
  onlineOp s (.fmaxLong r d a b g) 1 d [a, b] g
def execFsqrt (r : Rnd) (d a : VReg) (g : PReg) (s : State) : Out := onlineOp s (.fsqrt r d a g) 0 d [a] g
def execFrcp (r : Rnd) (d a : VReg) (g : PReg) (s : State) : Out := onlineOp s (.frcp r d a g) 0 d [a] g

/-! ## Compare (R198) and the unary operations that are not online (R199, R200) -/

def execFset (d : PReg) (a b : VReg) (c : BitVec 4) (g : PReg) (s : State) : Out :=
  predOp s 1 d [a, b] g fun x =>
    let u := Fmt.f32.decode (arg x 0)
    let v := Fmt.f32.decode (arg x 1)
    (fcond c.toNat (u.cmp v), if u.isSig || v.isSig then fInvalid else 0)

/-- A function of one FP32 value. -/
def unary (s : State) (d a : VReg) (g : PReg) (fn : FVal → FRes) : Out :=
  vecOp s 0 d [a] g fun x => fn (Fmt.f32.decode (arg x 0))

def execFrsq (r : Rnd) (d a : VReg) (g : PReg) (s : State) : Out := unary s d a g (Fmt.f32.rsqrt r.toNat)
def execFexp2 (r : Rnd) (d a : VReg) (g : PReg) (s : State) : Out := unary s d a g (fexp2 r.toNat)
def execFlog2 (r : Rnd) (d a : VReg) (g : PReg) (s : State) : Out := unary s d a g (flog2 r.toNat)
def execFsin (r : Rnd) (d a : VReg) (g : PReg) (s : State) : Out := unary s d a g (fsincos false r.toNat)
def execFcos (r : Rnd) (d a : VReg) (g : PReg) (s : State) : Out := unary s d a g (fsincos true r.toNat)
def execFtanh (r : Rnd) (d a : VReg) (g : PReg) (s : State) : Out := unary s d a g (ftanh r.toNat)
def execFrint (r : Rnd) (d a : VReg) (g : PReg) (s : State) : Out :=
  vecOp s 0 d [a] g fun x => frint r.toNat (arg x 0)
def execFabs (d a : VReg) (g : PReg) (s : State) : Out := vecOp s 0 d [a] g fun x => fabsNeg false (arg x 0)
def execFneg (d a : VReg) (g : PReg) (s : State) : Out := vecOp s 0 d [a] g fun x => fabsNeg true (arg x 0)

/-! ## Conversions (R201): the destination format first -/

/-- A narrow source in the low bits of the lane, widened exactly. -/
def widen (f : Fmt) (s : State) (d a : VReg) (g : PReg) : Out :=
  vecOp s 0 d [a] g fun x => Fmt.f32.ofVal 0 (f.decode (arg x 0 % 2 ^ f.width))

def execFcvtS32F32 (r : Rnd) (d a : VReg) (g : PReg) (s : State) : Out := unary s d a g (toInt32 true r.toNat)
def execFcvtZ32F32 (r : Rnd) (d a : VReg) (g : PReg) (s : State) : Out := unary s d a g (toInt32 false r.toNat)
def execFcvtF32S32 (r : Rnd) (d a : VReg) (g : PReg) (s : State) : Out :=
  vecOp s 0 d [a] g fun x => Fmt.f32.roundInt r.toNat false (sext (arg x 0) 32) 0
def execFcvtF32Z32 (r : Rnd) (d a : VReg) (g : PReg) (s : State) : Out :=
  vecOp s 0 d [a] g fun x => Fmt.f32.roundInt r.toNat false (arg x 0) 0
def execFcvtBf16F32 (r : Rnd) (d a : VReg) (g : PReg) (s : State) : Out := unary s d a g (Fmt.bf16.ofVal r.toNat)
def execFcvtF16F32 (r : Rnd) (d a : VReg) (g : PReg) (s : State) : Out := unary s d a g (Fmt.f16.ofVal r.toNat)
def execFcvtF32Bf16 (_r : Rnd) (d a : VReg) (g : PReg) (s : State) : Out := widen .bf16 s d a g
def execFcvtF32F16 (_r : Rnd) (d a : VReg) (g : PReg) (s : State) : Out := widen .f16 s d a g
def execFcvtE4m3F32 (r : Rnd) (d a : VReg) (g : PReg) (s : State) : Out := unary s d a g (Fmt.e4m3.ofVal r.toNat)
def execFcvtE5m2F32 (r : Rnd) (d a : VReg) (g : PReg) (s : State) : Out := unary s d a g (Fmt.e5m2.ofVal r.toNat)
def execFcvtF32E4m3 (_r : Rnd) (d a : VReg) (g : PReg) (s : State) : Out := widen .e4m3 s d a g
def execFcvtF32E5m2 (_r : Rnd) (d a : VReg) (g : PReg) (s : State) : Out := widen .e5m2 s d a g

/-! ## Packed 16-bit operations (R202) -/

/-- The element format of a packed operation. -/
def packedFmt (bf : Bool) : Fmt := if bf then .bf16 else .f16

/-- Both elements of a lane, each computed on its own, with the flags of both. -/
def packed (s : State) (bf : Bool) (d : VReg) (srcs : List VReg) (g : PReg) (fn : Fmt → List Nat → FRes) : Out :=
  vecOp s 1 d srcs g fun x =>
    let lo := fn (packedFmt bf) (x.map (· % 2 ^ 16))
    let hi := fn (packedFmt bf) (x.map (· / 2 ^ 16))
    (lo.1 + hi.1 * 2 ^ 16, lo.2 ||| hi.2)

def execHadd2 (bf : Bool) (r : Rnd) (d a b : VReg) (_c : VReg) (g : PReg) (s : State) : Out :=
  packed s bf d [a, b] g fun f x => f.add r.toNat (f.decode (arg x 0)) (f.decode (arg x 1))
def execHmul2 (bf : Bool) (r : Rnd) (d a b : VReg) (_c : VReg) (g : PReg) (s : State) : Out :=
  packed s bf d [a, b] g fun f x => f.mul r.toNat (f.decode (arg x 0)) (f.decode (arg x 1))
def execHfma2 (bf : Bool) (r : Rnd) (d a b c : VReg) (g : PReg) (s : State) : Out :=
  packed s bf d [a, b, c] g fun f x =>
    f.fma r.toNat (f.decode (arg x 0)) (f.decode (arg x 1)) (f.decode (arg x 2))
def execHmin2 (bf : Bool) (_r : Rnd) (d a b : VReg) (_c : VReg) (g : PReg) (s : State) : Out :=
  packed s bf d [a, b] g fun f x => f.minMax false (arg x 0) (arg x 1)
def execHmax2 (bf : Bool) (_r : Rnd) (d a b : VReg) (_c : VReg) (g : PReg) (s : State) : Out :=
  packed s bf d [a, b] g fun f x => f.minMax true (arg x 0) (arg x 1)

end Sys2Proof.Machine
end

