-- ==== Sys2Proof/Machine/LaneOps.lean ====
section
/-! DEFINITION. Compares and predicate logic (R185, R186) and the lane operations (R187 to R192). -/

namespace Sys2Proof.Machine

/-! ## Compares and predicate logic -/

def execIcmpV (d : PReg) (a b : VReg) (c : BitVec 4) (g : PReg) (s : State) : Out :=
  predOp s 1 d [a, b] g fun x => (icond c.toNat 32 (arg x 0) (arg x 1), 0)

/-- The scalar compare writes one truth into every participating lane (R185). -/
def execIcmpS (d : PReg) (a b : SReg) (c : BitVec 4) (g : PReg) (s : State) : Out :=
  let f := s.me.frame
  match (do
      let x ← f.sname a.toNat
      let y ← f.sname b.toNat
      pure (x, y) : Res (Nat × Nat)) with
  | .error t => flow s (.error t)
  | .ok (x, y) =>
    let m := s.me.part g
    done 1 s (if m = 0 then .ok s else do
      let u ← f.readS s.me.tagTrap x
      let v ← f.readS s.me.tagTrap y
      let truth := if icond c.toNat 64 u.toNat v.toNat then BitVec.allOnes 1024 else 0
      .ok (s.modMe fun r => r.setFrame (f.setPred d m truth)))

/-- Bit 2x + y of the table in every participating lane (R186). -/
def execPlog (d a b : PReg) (tt : BitVec 4) (g : PReg) (s : State) : Out :=
  let f := s.me.frame
  let p := f.pred a
  let q := f.pred b
  let sel (i : Nat) (m : Mask) : Mask := if tt.getLsbD i then m else 0
  let v := sel 0 (~~~p &&& ~~~q) ||| sel 1 (~~~p &&& q) ||| sel 2 (p &&& ~~~q) ||| sel 3 (p &&& q)
  done 1 s (.ok (s.modMe fun r => r.setFrame (f.setPred d (s.me.part g) v)))

/-! ## Votes and ballots (R187, R188) -/

/-- The number of set bits of a mask. -/
def countMask (m : Mask) (groups : Nat) : Nat :=
  (List.range groups).foldl (fun n g => n + popcN (groupMask m g).toNat) 0

def execVoteAny (d : SReg) (a : PReg) (g : PReg) (s : State) : Out :=
  scalGet s 0 d g fun s => .ok (if s.me.part g &&& s.me.frame.pred a ≠ 0 then 1 else 0)
def execVoteAll (d : SReg) (a : PReg) (g : PReg) (s : State) : Out :=
  scalGet s 0 d g fun s => .ok (if s.me.part g &&& ~~~(s.me.frame.pred a) = 0 then 1 else 0)
def execVoteCount (d : SReg) (a : PReg) (g : PReg) (s : State) : Out :=
  scalGet s 0 d g fun s => .ok (BitVec.ofNat 64 (countMask (s.me.part g &&& s.me.frame.pred a) s.me.groups))

def execBallot (d : VReg) (a : PReg) (g : PReg) (s : State) : Out :=
  vecRows s 0 d [] g fun m _ grp _ => ((groupMask (m &&& s.me.frame.pred a) grp).toNat, 0)

/-! ## Shuffles (R189) -/

/-- A shuffle: lane l of a group takes lane j of the a row. -/
def shuffle (s : State) (d a b : VReg) (g : PReg) (j : Nat → Nat → Nat) : Out :=
  vecRows s 1 d [a, b] g fun _ rows grp l =>
    ((lane ((rows.getD 0 []).getD grp 0) (j l (arg (laneSrc rows grp l) 1))).toNat, 0)

def execShfl (d a b : VReg) (g : PReg) (s : State) : Out := shuffle s d a b g fun _ x => x % 32
def execShflu (d a b : VReg) (g : PReg) (s : State) : Out :=
  shuffle s d a b g fun l x => if x ≤ l then l - x else l
def execShfld (d a b : VReg) (g : PReg) (s : State) : Out :=
  shuffle s d a b g fun l x => if l + x ≤ 31 then l + x else l
def execShflx (d a b : VReg) (g : PReg) (s : State) : Out := shuffle s d a b g fun l x => l ^^^ (x % 32)

/-! ## Group reductions (R190) -/

/-- The values of a group's participating lanes. -/
def groupVals (m : Mask) (rows : List (List Lanes)) (grp : Nat) : List Nat :=
  ((List.range 32).filter fun l => (groupMask m grp).getLsbD l).map fun l => arg (laneSrc rows grp l) 0

/-- A reduction of a group's values, written into each of its participating lanes. -/
def gred (s : State) (d a : VReg) (g : PReg) (fn : List Nat → FRes) : Out :=
  vecRows s 0 d [a] g fun m rows grp _ => fn (groupVals m rows grp)

/-- A reduction by a binary function. -/
def gredBy (s : State) (d a : VReg) (g : PReg) (fn : Nat → Nat → Nat) : Out :=
  gred s d a g fun xs => (match xs with
    | [] => 0
    | x :: xs => xs.foldl fn x, 0)

def execGredIadd (d a : VReg) (g : PReg) (s : State) : Out := gredBy s d a g fun x y => (x + y) % 2 ^ 32
def execGredIminS32 (d a : VReg) (g : PReg) (s : State) : Out := gredBy s d a g (pick 32 true false)
def execGredIminZ32 (d a : VReg) (g : PReg) (s : State) : Out := gredBy s d a g (pick 32 false false)
def execGredImaxS32 (d a : VReg) (g : PReg) (s : State) : Out := gredBy s d a g (pick 32 true true)
def execGredImaxZ32 (d a : VReg) (g : PReg) (s : State) : Out := gredBy s d a g (pick 32 false true)
def execGredAnd (d a : VReg) (g : PReg) (s : State) : Out := gredBy s d a g (· &&& ·)
def execGredOr (d a : VReg) (g : PReg) (s : State) : Out := gredBy s d a g (· ||| ·)
def execGredXor (d a : VReg) (g : PReg) (s : State) : Out := gredBy s d a g (· ^^^ ·)
def execGredFadd (d a : VReg) (g : PReg) (s : State) : Out :=
  gred s d a g fun xs => sumVals (xs.map Fmt.f32.decode)

/-- FMIN or FMAX over a list: any NaN gives the canonical NaN, a signalling one sets invalid (R190, R195). -/
def minMaxAll (isMax : Bool) : List Nat → FRes
  | [] => (0, 0)
  | x :: xs =>
    let vs := (x :: xs).map Fmt.f32.decode
    if vs.any FVal.isNan then Fmt.f32.nanRes (vs.any FVal.isSig)
    else (xs.foldl (fun acc y => (Fmt.f32.minMax isMax acc y).1) x, 0)

def execGredFmin (d a : VReg) (g : PReg) (s : State) : Out := gred s d a g (minMaxAll false)
def execGredFmax (d a : VReg) (g : PReg) (s : State) : Out := gred s d a g (minMaxAll true)

/-! ## Moves between lanes and scalars, and selection (R191, R192) -/

def execMovs (d : VReg) (a : SReg) (g : PReg) (s : State) : Out :=
  match s.me.frame.sname a.toNat with
  | .error t => flow s (.error t)
  | .ok x =>
    if s.me.part g = 0 then vecInt s 0 d [] g fun _ => 0
    else
      match s.me.frame.readS s.me.tagTrap x with
      | .error t =>
        match s.me.frame.vname d with
        | .error t' => flow s (.error t')
        | .ok _ => flow s (.error t)
      | .ok v => vecInt s 0 d [] g fun _ => v.toNat % 2 ^ 32

/-- RDLN reads its lane whether or not it is active; a group the role has not reads as zero (R191). -/
def execRdln (d : SReg) (a : VReg) (n : BitVec 10) (g : PReg) (s : State) : Out :=
  match s.me.frame.vname a with
  | .error t => flow s (.error t)
  | .ok x =>
    let s := if s.me.part g = 0 then s else s.modMe (·.settleFor [x])
    scalGet s 1 d g fun s => do
      let grp := n.toNat / 32
      if s.me.groups ≤ grp then .ok 0
      else do
        let row ← s.me.frame.readRow s.me.tagTrap x grp (1 <<< (n.toNat % 32))
        .ok ((lane row (n.toNat % 32)).setWidth 64)

def execSel (d a b : VReg) (p : PReg) (g : PReg) (s : State) : Out :=
  vecRows s 1 d [a, b] g fun _ rows grp l =>
    let x := laneSrc rows grp l
    (if (groupMask (s.me.frame.pred p) grp).getLsbD l then arg x 0 else arg x 1, 0)

end Sys2Proof.Machine
end

