-- ==== Sys2Proof/Machine/Dispatch.lean ====
section
/-! DEFINITION. What every instruction does: one arm per constructor of Instr, one call of its meaning. -/

namespace Sys2Proof.Machine

def exec (i : Instr) (s : State) : Host.Outcome State Fault Refusal :=
  match i with
  | .nop g => Sys2Proof.Machine.execNop g s
  | .bra t g => Sys2Proof.Machine.execBra t g s
  | .brcAny t g => Sys2Proof.Machine.execBrcAny t g s
  | .brcAll t g => Sys2Proof.Machine.execBrcAll t g s
  | .brcNone t g => Sys2Proof.Machine.execBrcNone t g s
  | .brx a g => Sys2Proof.Machine.execBrx a g s
  | .callf t dem g => Sys2Proof.Machine.execCallf t dem g s
  | .callx a dem g => Sys2Proof.Machine.execCallx a dem g s
  | .retf g => Sys2Proof.Machine.execRetf g s
  | .unwind n g => Sys2Proof.Machine.execUnwind n g s
  | .winb w g => Sys2Proof.Machine.execWinb w g s
  | .ifp a t g => Sys2Proof.Machine.execIfp a t g s
  | .elsep t => Sys2Proof.Machine.execElsep t s
  | .endif => Sys2Proof.Machine.execEndif s
  | .loop t => Sys2Proof.Machine.execLoop t s
  | .brk a g => Sys2Proof.Machine.execBrk a g s
  | .cont a g => Sys2Proof.Machine.execCont a g s
  | .endl t => Sys2Proof.Machine.execEndl t s
  | .serb => Sys2Proof.Machine.execSerb s
  | .sere t => Sys2Proof.Machine.execSere t s
  | .exit g => Sys2Proof.Machine.execExit g s
  | .trap c g => Sys2Proof.Machine.execTrap c g s
  | .svc n g => Sys2Proof.Machine.execSvc n g s
  | .bkpt g => Sys2Proof.Machine.execBkpt g s
  | .yield g => Sys2Proof.Machine.execYield g s
  | .waitf m g => Sys2Proof.Machine.execWaitf m g s
  | .rdsr d n g => Sys2Proof.Machine.execRdsr d n g s
  | .wrsr a n g => Sys2Proof.Machine.execWrsr a n g s
  | .clock d g => Sys2Proof.Machine.execClock d g s
  | .cacheIinv a g => Sys2Proof.Machine.execCacheIinv a g s
  | .cacheIinvall a g => Sys2Proof.Machine.execCacheIinvall a g s
  | .cacheL1inv a g => Sys2Proof.Machine.execCacheL1inv a g s
  | .hash d b g => Sys2Proof.Machine.execHash d b g s
  | .sign d a b g => Sys2Proof.Machine.execSign d a b g s
  | .drdv d a g => Sys2Proof.Machine.execDrdv d a g s
  | .dwrv d a g => Sys2Proof.Machine.execDwrv d a g s
  | .drds d a g => Sys2Proof.Machine.execDrds d a g s
  | .dwrs d a g => Sys2Proof.Machine.execDwrs d a g s
  | .drdt d a g => Sys2Proof.Machine.execDrdt d a g s
  | .dwrt d a g => Sys2Proof.Machine.execDwrt d a g s
  | .drda d a g => Sys2Proof.Machine.execDrda d a g s
  | .dwra d a g => Sys2Proof.Machine.execDwra d a g s
  | .drdg d a g => Sys2Proof.Machine.execDrdg d a g s
  | .dwrg d a g => Sys2Proof.Machine.execDwrg d a g s
  | .genrd d a g => Sys2Proof.Machine.execGenrd d a g s
  | .gencert d a g => Sys2Proof.Machine.execGencert d a g s
  | .iaddV d a b g => Sys2Proof.Machine.execIaddV d a b g s
  | .isubV d a b g => Sys2Proof.Machine.execIsubV d a b g s
  | .imulV d a b g => Sys2Proof.Machine.execImulV d a b g s
  | .iaddiV d a imm g => Sys2Proof.Machine.execIaddiV d a imm g s
  | .andV d a b g => Sys2Proof.Machine.execAndV d a b g s
  | .orV d a b g => Sys2Proof.Machine.execOrV d a b g s
  | .xorV d a b g => Sys2Proof.Machine.execXorV d a b g s
  | .shlV d a b g => Sys2Proof.Machine.execShlV d a b g s
  | .shrZ32V d a b g => Sys2Proof.Machine.execShrZ32V d a b g s
  | .imulhV sg d a b g => Sys2Proof.Machine.execImulhV sg d a b g s
  | .idivV sg d a b g => Sys2Proof.Machine.execIdivV sg d a b g s
  | .iremV sg d a b g => Sys2Proof.Machine.execIremV sg d a b g s
  | .iminV sg d a b g => Sys2Proof.Machine.execIminV sg d a b g s
  | .imaxV sg d a b g => Sys2Proof.Machine.execImaxV sg d a b g s
  | .shrS32V d a b g => Sys2Proof.Machine.execShrS32V d a b g s
  | .rotlV d a b g => Sys2Proof.Machine.execRotlV d a b g s
  | .movlV d v g => Sys2Proof.Machine.execMovlV d v g s
  | .bfx d a pos len sg g => Sys2Proof.Machine.execBfx d a pos len sg g s
  | .bfi d a pos len g => Sys2Proof.Machine.execBfi d a pos len g s
  | .mov d a g => Sys2Proof.Machine.execMov d a g s
  | .not d a g => Sys2Proof.Machine.execNot d a g s
  | .neg d a g => Sys2Proof.Machine.execNeg d a g s
  | .iabs d a g => Sys2Proof.Machine.execIabs d a g s
  | .popc d a g => Sys2Proof.Machine.execPopc d a g s
  | .clz d a g => Sys2Proof.Machine.execClz d a g s
  | .brev d a g => Sys2Proof.Machine.execBrev d a g s
  | .sext8 d a g => Sys2Proof.Machine.execSext8 d a g s
  | .sext16 d a g => Sys2Proof.Machine.execSext16 d a g s
  | .laneid d g => Sys2Proof.Machine.execLaneid d g s
  | .iaddS d a b g => Sys2Proof.Machine.execIaddS d a b g s
  | .isubS d a b g => Sys2Proof.Machine.execIsubS d a b g s
  | .iaddiS d a imm g => Sys2Proof.Machine.execIaddiS d a imm g s
  | .imulS d a b g => Sys2Proof.Machine.execImulS d a b g s
  | .movlS d v g => Sys2Proof.Machine.execMovlS d v g s
  | .imulhS sg d a b g => Sys2Proof.Machine.execImulhS sg d a b g s
  | .idivS sg d a b g => Sys2Proof.Machine.execIdivS sg d a b g s
  | .iremS sg d a b g => Sys2Proof.Machine.execIremS sg d a b g s
  | .iminS sg d a b g => Sys2Proof.Machine.execIminS sg d a b g s
  | .imaxS sg d a b g => Sys2Proof.Machine.execImaxS sg d a b g s
  | .shrS32S d a b g => Sys2Proof.Machine.execShrS32S d a b g s
  | .rotlS d a b g => Sys2Proof.Machine.execRotlS d a b g s
  | .andS d a b g => Sys2Proof.Machine.execAndS d a b g s
  | .orS d a b g => Sys2Proof.Machine.execOrS d a b g s
  | .xorS d a b g => Sys2Proof.Machine.execXorS d a b g s
  | .shlS d a b g => Sys2Proof.Machine.execShlS d a b g s
  | .shrZ32S d a b g => Sys2Proof.Machine.execShrZ32S d a b g s
  | .icmpV d a b c g => Sys2Proof.Machine.execIcmpV d a b c g s
  | .icmpS d a b c g => Sys2Proof.Machine.execIcmpS d a b c g s
  | .plog d a b tt g => Sys2Proof.Machine.execPlog d a b tt g s
  | .voteAny d a g => Sys2Proof.Machine.execVoteAny d a g s
  | .voteAll d a g => Sys2Proof.Machine.execVoteAll d a g s
  | .voteCount d a g => Sys2Proof.Machine.execVoteCount d a g s
  | .ballot d a g => Sys2Proof.Machine.execBallot d a g s
  | .shfl d a b g => Sys2Proof.Machine.execShfl d a b g s
  | .shflu d a b g => Sys2Proof.Machine.execShflu d a b g s
  | .shfld d a b g => Sys2Proof.Machine.execShfld d a b g s
  | .shflx d a b g => Sys2Proof.Machine.execShflx d a b g s
  | .gredIadd d a g => Sys2Proof.Machine.execGredIadd d a g s
  | .gredIminS32 d a g => Sys2Proof.Machine.execGredIminS32 d a g s
  | .gredIminZ32 d a g => Sys2Proof.Machine.execGredIminZ32 d a g s
  | .gredImaxS32 d a g => Sys2Proof.Machine.execGredImaxS32 d a g s
  | .gredImaxZ32 d a g => Sys2Proof.Machine.execGredImaxZ32 d a g s
  | .gredAnd d a g => Sys2Proof.Machine.execGredAnd d a g s
  | .gredOr d a g => Sys2Proof.Machine.execGredOr d a g s
  | .gredXor d a g => Sys2Proof.Machine.execGredXor d a g s
  | .gredFadd d a g => Sys2Proof.Machine.execGredFadd d a g s
  | .gredFmin d a g => Sys2Proof.Machine.execGredFmin d a g s
  | .gredFmax d a g => Sys2Proof.Machine.execGredFmax d a g s
  | .movs d a g => Sys2Proof.Machine.execMovs d a g s
  | .rdln d a n g => Sys2Proof.Machine.execRdln d a n g s
  | .sel d a b p g => Sys2Proof.Machine.execSel d a b p g s
  | .fadd d a b g => Sys2Proof.Machine.execFadd d a b g s
  | .fmul d a b g => Sys2Proof.Machine.execFmul d a b g s
  | .fdiv d a b g => Sys2Proof.Machine.execFdiv d a b g s
  | .fmin d a b g => Sys2Proof.Machine.execFmin d a b g s
  | .fmax d a b g => Sys2Proof.Machine.execFmax d a b g s
  | .fmaxz d a g => Sys2Proof.Machine.execFmaxz d a g s
  | .fminz d a g => Sys2Proof.Machine.execFminz d a g s
  | .fset d a b c g => Sys2Proof.Machine.execFset d a b c g s
  | .fsetk d a c g => Sys2Proof.Machine.execFsetk d a c g s
  | .faddLong r d a b g => Sys2Proof.Machine.execFaddLong r d a b g s
  | .fsub r d a b g => Sys2Proof.Machine.execFsub r d a b g s
  | .fmulLong r d a b g => Sys2Proof.Machine.execFmulLong r d a b g s
  | .ffmaLong r d a b c g => Sys2Proof.Machine.execFfmaLong r d a b c g s
  | .fdivLong r d a b g => Sys2Proof.Machine.execFdivLong r d a b g s
  | .ffms r d a b c g => Sys2Proof.Machine.execFfms r d a b c g s
  | .fnma r d a b c g => Sys2Proof.Machine.execFnma r d a b c g s
  | .fminLong r d a b g => Sys2Proof.Machine.execFminLong r d a b g s
  | .fmaxLong r d a b g => Sys2Proof.Machine.execFmaxLong r d a b g s
  | .fsqrt r d a g => Sys2Proof.Machine.execFsqrt r d a g s
  | .frsq r d a g => Sys2Proof.Machine.execFrsq r d a g s
  | .frcp r d a g => Sys2Proof.Machine.execFrcp r d a g s
  | .fexp2 r d a g => Sys2Proof.Machine.execFexp2 r d a g s
  | .flog2 r d a g => Sys2Proof.Machine.execFlog2 r d a g s
  | .fsin r d a g => Sys2Proof.Machine.execFsin r d a g s
  | .fcos r d a g => Sys2Proof.Machine.execFcos r d a g s
  | .ftanh r d a g => Sys2Proof.Machine.execFtanh r d a g s
  | .frint r d a g => Sys2Proof.Machine.execFrint r d a g s
  | .fabs d a g => Sys2Proof.Machine.execFabs d a g s
  | .fneg d a g => Sys2Proof.Machine.execFneg d a g s
  | .fcvtS32F32 r d a g => Sys2Proof.Machine.execFcvtS32F32 r d a g s
  | .fcvtZ32F32 r d a g => Sys2Proof.Machine.execFcvtZ32F32 r d a g s
  | .fcvtF32S32 r d a g => Sys2Proof.Machine.execFcvtF32S32 r d a g s
  | .fcvtF32Z32 r d a g => Sys2Proof.Machine.execFcvtF32Z32 r d a g s
  | .fcvtBf16F32 r d a g => Sys2Proof.Machine.execFcvtBf16F32 r d a g s
  | .fcvtF16F32 r d a g => Sys2Proof.Machine.execFcvtF16F32 r d a g s
  | .fcvtF32Bf16 r d a g => Sys2Proof.Machine.execFcvtF32Bf16 r d a g s
  | .fcvtF32F16 r d a g => Sys2Proof.Machine.execFcvtF32F16 r d a g s
  | .fcvtE4m3F32 r d a g => Sys2Proof.Machine.execFcvtE4m3F32 r d a g s
  | .fcvtE5m2F32 r d a g => Sys2Proof.Machine.execFcvtE5m2F32 r d a g s
  | .fcvtF32E4m3 r d a g => Sys2Proof.Machine.execFcvtF32E4m3 r d a g s
  | .fcvtF32E5m2 r d a g => Sys2Proof.Machine.execFcvtF32E5m2 r d a g s
  | .hadd2 bf r d a b c g => Sys2Proof.Machine.execHadd2 bf r d a b c g s
  | .hmul2 bf r d a b c g => Sys2Proof.Machine.execHmul2 bf r d a b c g s
  | .hfma2 bf r d a b c g => Sys2Proof.Machine.execHfma2 bf r d a b c g s
  | .hmin2 bf r d a b c g => Sys2Proof.Machine.execHmin2 bf r d a b c g s
  | .hmax2 bf r d a b c g => Sys2Proof.Machine.execHmax2 bf r d a b c g s
  | .ffma k d a b g => Sys2Proof.Machine.execFfma k d a b g s
  | .ld d a b g => Sys2Proof.Machine.execLd d a b g s
  | .ldLong d a b t pol g => Sys2Proof.Machine.execLdLong d a b t pol g s
  | .st d a b g => Sys2Proof.Machine.execSt d a b g s
  | .stLong d a b t pol g => Sys2Proof.Machine.execStLong d a b t pol g s
  | .ldp d a t g => Sys2Proof.Machine.execLdp d a t g s
  | .stp d a t g => Sys2Proof.Machine.execStp d a t g s
  | .lds d a t g => Sys2Proof.Machine.execLds d a t g s
  | .sts d a t g => Sys2Proof.Machine.execSts d a t g s
  | .lookup d a g => Sys2Proof.Machine.execLookup d a g s
  | .tagset d a g => Sys2Proof.Machine.execTagset d a g s
  | .taginv d a g => Sys2Proof.Machine.execTaginv d a g s
  | .atom d a b c op w g => Sys2Proof.Machine.execAtom d a b c op w g s
  | .atoms a b c op w g => Sys2Proof.Machine.execAtoms a b c op w g s
  | .cas d a b c e w g => Sys2Proof.Machine.execCas d a b c e w g s
  | .rlk a b g => Sys2Proof.Machine.execRlk a b g s
  | .runl a b g => Sys2Proof.Machine.execRunl a b g s
  | .wlk a b g => Sys2Proof.Machine.execWlk a b g s
  | .wunl a b g => Sys2Proof.Machine.execWunl a b g s
  | .fenceAr sc g => Sys2Proof.Machine.execFenceAr sc g s
  | .fenceAcq sc g => Sys2Proof.Machine.execFenceAcq sc g s
  | .fenceRel sc g => Sys2Proof.Machine.execFenceRel sc g s
  | .waitw d a b g => Sys2Proof.Machine.execWaitw d a b g s
  | .pref a b g => Sys2Proof.Machine.execPref a b g s
  | .hpush h a g => Sys2Proof.Machine.execHpush h a g s
  | .hpop d h g => Sys2Proof.Machine.execHpop d h g s
  | .arrv a sc g => Sys2Proof.Machine.execArrv a sc g s
  | .barw a sc g => Sys2Proof.Machine.execBarw a sc g s
  | .barc g => Sys2Proof.Machine.execBarc g s
  | .putp d a t g => Sys2Proof.Machine.execPutp d a t g s
  | .cpy d a b g => Sys2Proof.Machine.execCpy d a b g s
  | .cpys d a b g => Sys2Proof.Machine.execCpys d a b g s
  | .gath d a b g => Sys2Proof.Machine.execGath d a b g s
  | .scat d a b g => Sys2Proof.Machine.execScat d a b g s
  | .cpyb d g => Sys2Proof.Machine.execCpyb d g s
  | .waitb a g => Sys2Proof.Machine.execWaitb a g s
  | .put d a b g => Sys2Proof.Machine.execPut d a b g s
  | .get d a b g => Sys2Proof.Machine.execGet d a b g s
  | .ratom d a b c op w g => Sys2Proof.Machine.execRatom d a b c op w g s
  | .ctradd d a g => Sys2Proof.Machine.execCtradd d a g s
  | .ctrset d a g => Sys2Proof.Machine.execCtrset d a g s
  | .ctrwait d a g => Sys2Proof.Machine.execCtrwait d a g s
  | .ctrrd d a g => Sys2Proof.Machine.execCtrrd d a g s
  | .trig d a b c g => Sys2Proof.Machine.execTrig d a b c g s
  | .trigx d a b c g => Sys2Proof.Machine.execTrigx d a b c g s
  | .fencex a g => Sys2Proof.Machine.execFencex a g s
  | .coll d a b kind op log g => Sys2Proof.Machine.execColl d a b kind op log g s
  | .rgnreg d a g => Sys2Proof.Machine.execRgnreg d a g s
  | .rgnrev d a g => Sys2Proof.Machine.execRgnrev d a g s
  | .tcfg a g => Sys2Proof.Machine.execTcfg a g s
  | .trel a g => Sys2Proof.Machine.execTrel a g s
  | .trelDiscard a g => Sys2Proof.Machine.execTrelDiscard a g s
  | .mld d a b g => Sys2Proof.Machine.execMld d a b g s
  | .mst d a b g => Sys2Proof.Machine.execMst d a b g s
  | .accz d g => Sys2Proof.Machine.execAccz d g s
  | .accrd d a b g => Sys2Proof.Machine.execAccrd d a b g s
  | .accwr d a b g => Sys2Proof.Machine.execAccwr d a b g s
  | .mma d a b fb k2 g => Sys2Proof.Machine.execMma d a b fb k2 g s
  | .mmaSgn d a b fb k2 st g => Sys2Proof.Machine.execMmaSgn d a b fb k2 st g s
  | .mtrn d a g => Sys2Proof.Machine.execMtrn d a g s
  | .mprm d a b g => Sys2Proof.Machine.execMprm d a b g s
  | .mrsum d a g => Sys2Proof.Machine.execMrsum d a g s
  | .runStart core => Sys2Proof.Machine.execRunStart core s
  | .pipeWriteback role => Sys2Proof.Machine.execPipeWriteback role s
  | .loadReturn op ext => Sys2Proof.Machine.execLoadReturn op ext s
  | .storeRetire op => Sys2Proof.Machine.execStoreRetire op s
  | .pageWalkComplete role => Sys2Proof.Machine.execPageWalkComplete role s
  | .globalVerdictReceive role refused => Sys2Proof.Machine.execGlobalVerdictReceive role refused s
  | .hashComplete core => Sys2Proof.Machine.execHashComplete core s
  | .signComplete core => Sys2Proof.Machine.execSignComplete core s
  | .matrixQueueStart op => Sys2Proof.Machine.execMatrixQueueStart op s
  | .matrixComplete op => Sys2Proof.Machine.execMatrixComplete op s
  | .frameGrant core => Sys2Proof.Machine.execFrameGrant core s
  | .gleanerSpill core => Sys2Proof.Machine.execGleanerSpill core s
  | .spillStoreAck core => Sys2Proof.Machine.execSpillStoreAck core s
  | .harrowSweepComplete core => Sys2Proof.Machine.execHarrowSweepComplete core s
  | .claimPull core plot => Sys2Proof.Machine.execClaimPull core plot s
  | .coopClaimPull cluster plot => Sys2Proof.Machine.execCoopClaimPull cluster plot s
  | .localityDecay core => Sys2Proof.Machine.execLocalityDecay core s
  | .parkWake role ext => Sys2Proof.Machine.execParkWake role ext s
  | .contextSwitchOut core plot => Sys2Proof.Machine.execContextSwitchOut core plot s
  | .teamSwitchOut role => Sys2Proof.Machine.execTeamSwitchOut role s
  | .stallSwitchOut role => Sys2Proof.Machine.execStallSwitchOut role s
  | .stallHintSet dest => Sys2Proof.Machine.execStallHintSet dest s
  | .stallHintClear dest => Sys2Proof.Machine.execStallHintClear dest s
  | .engineStopAck core cls => Sys2Proof.Machine.execEngineStopAck core cls s
  | .headlandSave core => Sys2Proof.Machine.execHeadlandSave core s
  | .headlandSaveDone core => Sys2Proof.Machine.execHeadlandSaveDone core s
  | .contextResume core ctx => Sys2Proof.Machine.execContextResume core ctx s
  | .engineChunkDone cmd k ext => Sys2Proof.Machine.execEngineChunkDone cmd k ext s
  | .engineSourceDone cmd => Sys2Proof.Machine.execEngineSourceDone cmd s
  | .engineCommandComplete cmd => Sys2Proof.Machine.execEngineCommandComplete cmd s
  | .packetArrive p => Sys2Proof.Machine.execPacketArrive p s
  | .packetAckReceive pkt ack => Sys2Proof.Machine.execPacketAckReceive pkt ack s
  | .packetRetransmitTimeout pkt => Sys2Proof.Machine.execPacketRetransmitTimeout pkt s
  | .fenceArrive f n => Sys2Proof.Machine.execFenceArrive f n s
  | .fenceVerdictTimeout f => Sys2Proof.Machine.execFenceVerdictTimeout f s
  | .fenceVerdictReceive cmd placed => Sys2Proof.Machine.execFenceVerdictReceive cmd placed s
  | .fenceAbortReceive f => Sys2Proof.Machine.execFenceAbortReceive f s
  | .collContributionArrive c => Sys2Proof.Machine.execCollContributionArrive c s
  | .collChunkCommit coll k => Sys2Proof.Machine.execCollChunkCommit coll k s
  | .collResend coll => Sys2Proof.Machine.execCollResend coll s
  | .doorbellWrite vi q v trusted => Sys2Proof.Machine.execDoorbellWrite vi q v trusted s
  | .queueCfgWrite vi q v trusted => Sys2Proof.Machine.execQueueCfgWrite vi q v trusted s
  | .queueCtlResume vi q trusted => Sys2Proof.Machine.execQueueCtlResume vi q trusted s
  | .queueCtlSkip vi q trusted => Sys2Proof.Machine.execQueueCtlSkip vi q trusted s
  | .queueEntryNop q ext => Sys2Proof.Machine.execQueueEntryNop q ext s
  | .queueEntryLaunch q ext => Sys2Proof.Machine.execQueueEntryLaunch q ext s
  | .queueEntryWait q ext => Sys2Proof.Machine.execQueueEntryWait q ext s
  | .queueWaitRelease q => Sys2Proof.Machine.execQueueWaitRelease q s
  | .queueEntrySignal q ext => Sys2Proof.Machine.execQueueEntrySignal q ext s
  | .signalFire q => Sys2Proof.Machine.execSignalFire q s
  | .plotEnd plot => Sys2Proof.Machine.execPlotEnd plot s
  | .invcmdPages vi v trusted => Sys2Proof.Machine.execInvcmdPages vi v trusted s
  | .invcmdAsid vi v trusted => Sys2Proof.Machine.execInvcmdAsid vi v trusted s
  | .invcmdAll vi v trusted => Sys2Proof.Machine.execInvcmdAll vi v trusted s
  | .invalidationComplete vi => Sys2Proof.Machine.execInvalidationComplete vi s
  | .faulttailWrite vi v trusted => Sys2Proof.Machine.execFaulttailWrite vi v trusted s
  | .faultdoneRetry vi v trusted => Sys2Proof.Machine.execFaultdoneRetry vi v trusted s
  | .faultdoneFail vi v trusted => Sys2Proof.Machine.execFaultdoneFail vi v trusted s
  | .faultdoneMigrate vi v trusted => Sys2Proof.Machine.execFaultdoneMigrate vi v trusted s
  | .faultdoneResume vi v trusted => Sys2Proof.Machine.execFaultdoneResume vi v trusted s
  | .faultdoneKill vi v trusted => Sys2Proof.Machine.execFaultdoneKill vi v trusted s
  | .migcmdGo vi v trusted => Sys2Proof.Machine.execMigcmdGo vi v trusted s
  | .migrationComplete vi token ext => Sys2Proof.Machine.execMigrationComplete vi token ext s
  | .bar4Read vi off n trusted => Sys2Proof.Machine.execBar4Read vi off n trusted s
  | .bar4Write vi off data trusted => Sys2Proof.Machine.execBar4Write vi off data trusted s
  | .bar4Atomic vi off a trusted => Sys2Proof.Machine.execBar4Atomic vi off a trusted s
  | .atsTranslationCompletion who ok => Sys2Proof.Machine.execAtsTranslationCompletion who ok s
  | .priPageResponse who ok => Sys2Proof.Machine.execPriPageResponse who ok s
  | .atsInvalidateRequest vi lo hi => Sys2Proof.Machine.execAtsInvalidateRequest vi lo hi s
  | .atsInvalidateComplete vi => Sys2Proof.Machine.execAtsInvalidateComplete vi s
  | .pcieCompletionTimeout cmd => Sys2Proof.Machine.execPcieCompletionTimeout cmd s
  | .vientryWrite vi imm v => Sys2Proof.Machine.execVientryWrite vi imm v s
  | .functionLevelReset vi => Sys2Proof.Machine.execFunctionLevelReset vi s
  | .savepoolWrite vi size v => Sys2Proof.Machine.execSavepoolWrite vi size v s
  | .ctxcmdPreempt v => Sys2Proof.Machine.execCtxcmdPreempt v s
  | .ctxcmdResume v => Sys2Proof.Machine.execCtxcmdResume v s
  | .ctxcmdKill v => Sys2Proof.Machine.execCtxcmdKill v s
  | .registerWrite r v trusted => Sys2Proof.Machine.execRegisterWrite r v trusted s
  | .worldreq v => Sys2Proof.Machine.execWorldreq v s
  | .handoverComplete => Sys2Proof.Machine.execHandoverComplete s
  | .sealedRangeWrite vi imm v => Sys2Proof.Machine.execSealedRangeWrite vi imm v s
  | .measExtend imm => Sys2Proof.Machine.execMeasExtend imm s
  | .lockbootWrite v => Sys2Proof.Machine.execLockbootWrite v s
  | .doeRequestArrive fn typ data => Sys2Proof.Machine.execDoeRequestArrive fn typ data s
  | .rsplenWrite fn v => Sys2Proof.Machine.execRsplenWrite fn v s
  | .doeAbort fn => Sys2Proof.Machine.execDoeAbort fn s
  | .getVersion fn msg => Sys2Proof.Machine.execGetVersion fn msg s
  | .getCapabilities fn msg => Sys2Proof.Machine.execGetCapabilities fn msg s
  | .negotiateAlgorithms fn msg => Sys2Proof.Machine.execNegotiateAlgorithms fn msg s
  | .getDigests fn msg => Sys2Proof.Machine.execGetDigests fn msg s
  | .getCertificate fn msg => Sys2Proof.Machine.execGetCertificate fn msg s
  | .challenge fn msg => Sys2Proof.Machine.execChallenge fn msg s
  | .getMeasurements fn msg => Sys2Proof.Machine.execGetMeasurements fn msg s
  | .keyExchange fn msg => Sys2Proof.Machine.execKeyExchange fn msg s
  | .setObservation fn secured msg => Sys2Proof.Machine.execSetObservation fn secured msg s
  | .getTdispVersion vi pfSession => Sys2Proof.Machine.execGetTdispVersion vi pfSession s
  | .getTdispCapabilities vi pfSession => Sys2Proof.Machine.execGetTdispCapabilities vi pfSession s
  | .lockInterfaceRequest vi pfSession => Sys2Proof.Machine.execLockInterfaceRequest vi pfSession s
  | .getDeviceInterfaceReport vi pfSession => Sys2Proof.Machine.execGetDeviceInterfaceReport vi pfSession s
  | .getDeviceInterfaceState vi pfSession => Sys2Proof.Machine.execGetDeviceInterfaceState vi pfSession s
  | .startInterfaceRequest vi pfSession nonce => Sys2Proof.Machine.execStartInterfaceRequest vi pfSession nonce s
  | .stopInterfaceRequest vi pfSession => Sys2Proof.Machine.execStopInterfaceRequest vi pfSession s
  | .ideStreamInsecure vi => Sys2Proof.Machine.execIdeStreamInsecure vi s
  | .teldataRead requester => Sys2Proof.Machine.execTeldataRead requester s
  | .setrank secured tag msg => Sys2Proof.Machine.execSetrank secured tag msg s
  | .setpod secured tag msg => Sys2Proof.Machine.execSetpod secured tag msg s
  | .setpath secured tag msg => Sys2Proof.Machine.execSetpath secured tag msg s
  | .setcam secured tag msg => Sys2Proof.Machine.execSetcam secured tag msg s
  | .setmember secured tag msg => Sys2Proof.Machine.execSetmember secured tag msg s
  | .jobset secured tag msg => Sys2Proof.Machine.execJobset secured tag msg s
  | .roster secured tag msg => Sys2Proof.Machine.execRoster secured tag msg s
  | .rosterBufferedApply vi => Sys2Proof.Machine.execRosterBufferedApply vi s
  | .logtail secured tag msg => Sys2Proof.Machine.execLogtail secured tag msg s
  | .loginfo secured tag msg => Sys2Proof.Machine.execLoginfo secured tag msg s
  | .getLifetimeBlock block off => Sys2Proof.Machine.execGetLifetimeBlock block off s
  | .lifetimeFlush => Sys2Proof.Machine.execLifetimeFlush s
  | .orderlyPowerDown => Sys2Proof.Machine.execOrderlyPowerDown s
  | .packageReset => Sys2Proof.Machine.execPackageReset s
  | .thermalThrottle => Sys2Proof.Machine.execThermalThrottle s
  | .thermalTrip => Sys2Proof.Machine.execThermalTrip s
  | .decodeFault c => Sys2Proof.Machine.execDecodeFault c s
  | .issueCycle core => Sys2Proof.Machine.execIssueCycle core s
  | .invstatRead vi trusted => Sys2Proof.Machine.execInvstatRead vi trusted s
  | .faultcfgWrite vi v trusted => Sys2Proof.Machine.execFaultcfgWrite vi v trusted s
  | .powerLoss => Sys2Proof.Machine.execPowerLoss s
  | .linkRetrain link => Sys2Proof.Machine.execLinkRetrain link s
  | .throttleEnd => Sys2Proof.Machine.execThrottleEnd s
  | .stateBlockRewriteDone world => Sys2Proof.Machine.execStateBlockRewriteDone world s
  | .ideKmRequest vi => Sys2Proof.Machine.execIdeKmRequest vi s

end Sys2Proof.Machine
end

