-- ==== Sys2Proof/Machine/Issue.lean ====
section
/-! DEFINITION. The next instruction of a running role: its words, fetched with the run (R55), what the decoder makes of
them (R76), what Hyaluo refuses (R422), what an issue costs (R277), and how the host places an instruction where it is
issued next (log entry 50). -/

namespace Sys2Proof.Machine

/-- What the issue stage finds at a role's position. -/
inductive Issue where
  /-- an instruction, with the role's words from it on -/
  | instr (i : Instr) (ws : List Word)
  /-- the cause that its words or their fetch raise -/
  | fault (c : Imm8)
  /-- a walk must be made first -/
  | walk (va : Nat)
  /-- its words were not fetched with its run: the role resumes there -/
  | again
  deriving DecidableEq, Repr

/-- Whether Hyaluo refuses an instruction word: major codes 0x60 to 0x75, PUTP and BARC (R422). -/
def hyRefuses (w : Word) : Bool :=
  let m := (fMajor w).toNat
  !isLit w && !isHdr w && ((decide (0x60 ≤ m) && decide (m ≤ 0x75)) || m == 0x5F || (m == 0x5E && (fB w).toNat == 14))

/-- The words the head of a list needs: itself and its literals. -/
def wordsNeeded : List Word → Nat
  | [] => 1
  | w :: _ => 1 + (if isLit w || isHdr w then 0 else (litCount w).getD 0)

/-- What the words of a run from an instruction on give. -/
def decodeIssue (hy : Bool) (ws : List Word) : Issue :=
  match ws with
  | w :: _ => if hy && hyRefuses w then .fault causeIllop else
    match decode ws with
    | .ok (i, _) => .instr i ws
    | .error c => .fault c
  | [] => .fault causeBadhdr

/-- The instruction at a running role's position. A word that was not fetched with its run raises its fault, waits for its
walk, or is issued by the run that resumes there (R55, R65). -/
def State.issueAt (s : State) (k : Nat) : Issue :=
  let r := s.role k
  let left := hdrLen r.hdrWord + 1 - r.off
  if r.words.length = left || decide (wordsNeeded r.words ≤ r.words.length) && r.words != [] then
    decodeIssue r.plot.isNone r.words
  else
    let va := r.pc.toNat + 4 * r.words.length
    match (s.fetch r va).1 with
    | .fault c => .fault c
    | .miss => .walk va
    | .word _ => .again

/-- A cycle in which an instruction issues: the clock and the core's issue cycle, its plot's credit, and its words held
(R166, R277). -/
def State.issued (s : State) (k : Nat) (ws : List Word) : State :=
  let s1 := (s.cycle (s.role k).core).payIssue k
  { s1.modRole k fun r => { r with words := ws } with cur := k }

/-- A cycle in which a word is refused and none issues: it costs no credit (R277). -/
def State.refusedWord (s : State) (k : Nat) : State := { s.cycle (s.role k).core with cur := k }

/-- Whether an instruction waits in place: an access of OPFLAGS until the matrix work and COLLs before it are over
(R165), MMA and MMA.SGN until the registers of B that an earlier run left pending are written (R73). -/
def State.waitsInPlace (s : State) (k : Nat) (i : Instr) : Bool :=
  let r := s.role k
  let off (g : PReg) : Bool := r.part g == 0
  match i with
  | .rdsr _ n g => n == 0x0B#7 && !off g && s.opPending k
  | .wrsr _ n g => n == 0x0B#7 && !off g && s.opPending k
  | .mma d a vb fb k2 g => !off g && s.mmaWaits k d a vb fb k2 none
  | .mmaSgn d a vb fb k2 t g => !off g && s.mmaWaits k d a vb fb k2 (some t)
  | _ => false

/-- An instruction issues: the parity of what it reads is checked (R49), and a predicate it names may be lost (R44). A
hidden row that is poison stops it before its other checks (log entry 124). -/
def State.issueTo (s : State) (k : Nat) (i : Instr) (ws : List Word) : State × Option Trap :=
  let s1 := (s.checkUnits k 0 (s.readUnits k i)).issued k ws
  (s1, (s1.role k).predLoss (pNames i))

/-- A role resumes at a word that its run did not fetch: its run ends there. -/
def State.resumeAt (s : State) (k : Nat) : State := s.hold k 0 .start

/-- A role whose next word waits for a walk is held at its instruction (R374, R65). -/
def State.walkFirst (s : State) (k va : Nat) : State :=
  s.hold k 0 (.tlb (BitVec.ofNat 64 va) false Acc.ex.code)

/-- The role whose run holds the issue stage of the core whose turn it is. -/
def State.issuer (s : State) : Option Nat :=
  (s.core s.turn).running.filter fun k => (mget s.roles k).any fun r => r.status == .running

/-- Whether the arbiter of the core whose turn it is has a role to start. -/
def State.mayStart (s : State) : Bool := (s.choose s.turn).isSome

/-- Whether an event of the agenda has an effect: decode faults are the issue stage's own, and a package without power
takes a reset and what its records do only (R456, R461, log entry 18). -/
def State.takes (s : State) (i : Instr) : Bool :=
  match i with
  | .decodeFault _ => false
  | .packageReset => true
  | .lifetimeFlush => true
  | .getLifetimeBlock _ _ => true
  | .orderlyPowerDown => true
  | .powerLoss => true
  | _ => i.isEvent && !s.lost

/-! ## An instruction where it is issued next (log entry 50) -/

/-- The header of a run of the instruction's three words. -/
def probeHeader : Word := mkHeader 0 15 15 3 false

/-- The role that stands at the first word of such a run, at address 0. -/
def Role.placed (r : Role) (ws : List Word) : Role :=
  { r with status := .running, hdr := 0, hdrWord := probeHeader, off := 1, words := ws }

/-- The plot of the compute core's role that runs what Hyaluo refuses. -/
def probePlot : Plot where
  vi := 0; queue := 0; entryIdx := 0; asid := 0; weight := 1; priv := true; tagTrap := false; coop := false
  operr := false; irq := false; fpTrap := 0; thresh := 0; dieMask := 1; args := List.replicate 8 0; claim := 1
  grid := 1; privBase := 0; privSize := 0; compl := 0; entries := [0, 0, 0, 0]; shapes := [0, 0, 0, 0]; counters := 0
  regions := 0; escRes := 0; tagSlots := 0; scratch := 65536; work := 0; block := 0; traps := 0; killed := false
  stopping := false; ended := false

/-- The instruction's words at Hyaluo's position, in its ROM after a header, its role in the middle of that run. -/
def State.placeHyaluo (s : State) (ws : List Word) : State :=
  let r := (mget s.roles 0).getD Role.hyaluo
  let s1 : State := { s with
    agenda := [], lost := false, turn := hyCore, cur := 0
    roles := mset s.roles 0 (r.placed ws)
    hy := wrBytes s.hy 0 ((probeHeader :: ws).flatMap fun w => leBytes 4 w.toNat) }
  s1.modCore hyCore fun c => { c with running := some 0, lent := false }

/-- The instruction's words at the position of a role of a plot on core 0, at address 0 of its address space. -/
def State.placeCore (s : State) (ws : List Word) : State :=
  let k := s.next
  let r : Role := { Role.hyaluo with plot := some k, team := k, core := 0, args := List.replicate 8 0 }
  let s1 : State := { s with
    agenda := [], lost := false, turn := 0, cur := k, next := k + 1
    roles := mset s.roles k (r.placed ws)
    teams := mset s.teams k { Team.hyaluo with plot := some k, core := 0, live := [k] }
    plots := mset s.plots k probePlot
    ram := wrBytes s.ram 0 ((probeHeader :: ws).flatMap fun w => leBytes 4 w.toNat) }
  s1.modCore 0 fun c => { c with
    genCounter := 3, genLive := [3, 2], rowsUsed := [129, 0, 0, 0], gransUsed := 17
    plotSlots := mset c.plotSlots 0 k, slots := mset c.slots 0 k, running := some k, lent := false
    tlb := ⟨0, 0, 0, 0, true, true, true⟩ :: c.tlb }

end Sys2Proof.Machine
end

