-- ==== Sys2Proof/Machine/Step.lean ====
section
/-! DEFINITION. One step of the package: the agenda's next event, or the turn of a core (log entry 18). -/

namespace Sys2Proof.Machine

/-- The turn of a core: its running role issues the instruction at its position, or waits in place with it; without one,
its arbiter starts a run, or an issue cycle passes. -/
def stepCore (s : State) : Host.Outcome State Fault Refusal :=
  match s.issuer with
  | some k =>
    match s.issueAt k with
    | .instr i ws =>
      if s.waitsInPlace k i then .next s.tick
      else
        match s.issueTo k i ws with
        | (s1, none) => exec i s1
        | (s1, some t) => .next (takeTrap s1 k t)
    | .fault c => exec (.decodeFault c) (s.refusedWord k)
    | .walk va => .next (s.walkFirst k va)
    | .again => .next (s.resumeAt k)
  | none => if s.mayStart then exec (.runStart s.turn) s else exec (.issueCycle s.turn) s

/-- One step. -/
def step (s : State) : Host.Outcome State Fault Refusal :=
  match s.agenda with
  | i :: rest =>
    let s1 : State := { s with agenda := rest }
    if s.takes i then exec i s1 else .next s1
  | [] => if s.lost then .fault .powerOff else stepCore s

/-- The state with an instruction of the opcode table stored where the next step fetches: Hyaluo's, or for the words
that Hyaluo refuses a compute core's (log entry 50). -/
def State.withFetchWord (s : State) (nbits w : Nat) : State :=
  let ws := tableWords nbits w
  if hyRefuses (ws.headD 0) then s.placeCore ws else s.placeHyaluo ws

end Sys2Proof.Machine
end

