-- ==== Sys2Proof/Safety.lean ====
section
/-! DEFINITION. What counts as a safe run, and the words in which statements about the machine are put: what an
instruction answers, what it leaves alone, and what a register holds. -/

namespace Sys2Proof.Machine

/-- A step is safe when it answers a next state: the machine's one stop is the loss of its power. -/
def safeStep (s : State) : Prop := ∃ t, step s = .next t

/-- The instruction completes in s, and what holds of s and the state after it. -/
def answers (i : Instr) (s : State) (P : State → Prop) : Prop := ∃ t, exec i s = .next t ∧ P t

/-! ## What registers hold -/

/-- Lane n mod 32 of group n div 32 of a frame's vector register, as a read that does not trap gives it: a row that the
frame has not written reads as zero (R44). -/
def Frame.value (f : Frame) (x n : Nat) : BitVec 32 :=
  match mget f.rows (rowKey x (n / 32)) with
  | some r => if r.tag = f.gen then lane r.data (n % 32) else 0
  | none => 0

/-- A scalar register, as a read that does not trap gives it (R44). -/
def Frame.svalue (f : Frame) (n : Nat) : BitVec 64 :=
  match mget f.grans (n / 4) with
  | some r => if r.tag = f.gen then granReg r.data (n % 4) else 0
  | none => 0

/-- Lane n of captured rows. -/
def laneOfRows (rows : List Lanes) (n : Nat) : BitVec 32 := lane (rows.getD (n / 32) 0) (n % 32)

/-! ## What an instruction leaves alone -/

/-- A role but for where it stands in its run and whether it may go on. -/
def Role.still (r : Role) : Role :=
  { r with
    hdr := 0, off := 0, words := [], runNo := 0, status := .ready, readyAt := 0, yielded := false, able := false
    fetchEnd := none, verdict := none, walkFault := none }

/-- A role but for its place and its frames; and but for its FPFLAGS too. -/
def Role.besideFrames (r : Role) : Role := { r.still with frames := [] }
def Role.besideFlags (r : Role) : Role := { r.besideFrames with fpflags := 0 }

/-- The run of r went on n words, or ended past its last word and the role is ready at the header after it (R64, R68). -/
def Role.wentOn (n : Nat) (r r' : Role) : Prop :=
  if hdrLen r.hdrWord < r.off + n then r'.status = .ready ∧ r'.hdr = r.fallThrough ∧ r'.off = 0
  else r'.status = r.status ∧ r'.hdr = r.hdr ∧ r'.off = r.off + n ∧ r'.words = r.words.drop n

/-- The run ended and the role is ready at the header of a target (R67). -/
def Role.wentTo (target : BitVec 64) (r' : Role) : Prop := r'.status = .ready ∧ r'.hdr = target ∧ r'.off = 0

/-- The role stopped at an offset of its run. -/
def Role.stoppedAt (hdr : BitVec 64) (off : Nat) (r' : Role) : Prop :=
  r'.status = .stopped ∧ r'.hdr = hdr ∧ r'.off = off

/-- A frame but for its vector rows; but for its scalar granules; but for its predicates. -/
def Frame.besideRows (f : Frame) : Frame := { f with rows := [] }
def Frame.besideGrans (f : Frame) : Frame := { f with grans := [] }
def Frame.besidePreds (f : Frame) : Frame := { f with preds := [] }

/-- An outstanding operation, and a command, but for the destinations that a later instruction has written (R72). -/
def MemOp.pending (o : MemOp) : MemOp := { o with won := [], sdest := none }
def Cmd.pending (c : Cmd) : Cmd := { c with won := [] }

/-- A core but for which role holds its issue stage. -/
def Core.rest (c : Core) : Core := { c with running := none, lent := false, cmds := c.cmds.map Cmd.pending }

/-- A core but also for its instruction cache, which every fetch may fill. -/
def Core.besideFetch (c : Core) : Core := { c.rest with icache := [] }

/-- The package but for its roles, cores and outstanding operations, and the two numbers that the model counts up. -/
def State.beside (s : State) : State := { s with roles := [], cores := [], ops := [], next := 0, free := 0 }

/-- Every byte of every memory of the package reads as before. -/
def sameBytes (s t : State) : Prop :=
  ∀ a, rdByte t.ram a = rdByte s.ram a ∧ rdByte t.hostMem a = rdByte s.hostMem a ∧ rdByte t.hy a = rdByte s.hy a
    ∧ ∀ c, rdByte (t.core c).scratch a = rdByte (s.core c).scratch a ∧ rdByte (t.core c).xch0 a = rdByte (s.core c).xch0 a
      ∧ rdByte (t.core c).xch1 a = rdByte (s.core c).xch1 a

/-- Role k alone has changed, and the issue stage of its core: memory, the other roles, teams, plots, queues,
interfaces, cores, outstanding operations and everything else the package holds are as before. -/
def onlyRole (k : Nat) (s t : State) : Prop :=
  sameBytes s t ∧ (∀ j, j ≠ k → mget t.roles j = mget s.roles j) ∧ (∀ c, (t.core c).rest = (s.core c).rest)
    ∧ t.ops.map MemOp.pending = s.ops.map MemOp.pending
    ∧ t.beside = s.beside

/-- The same, but that a fetch may also have filled the instruction cache of a core (R55, R145). -/
def onlyRoleAndFetch (k : Nat) (s t : State) : Prop :=
  sameBytes s t ∧ (∀ j, j ≠ k → mget t.roles j = mget s.roles j)
    ∧ (∀ c, (t.core c).besideFetch = (s.core c).besideFetch) ∧ t.ops.map MemOp.pending = s.ops.map MemOp.pending
    ∧ t.beside = s.beside

end Sys2Proof.Machine
end

