-- ==== Sys2Proof/Certificates/Slice0/Obligations.lean ====
section
/-! DEFINITION. The statements for the provers. Says holds the words they share: the results of instructions, written
from the spec's tables over bit vectors, and what an instruction of each shape does with them. -/

open Sys2Proof Sys2Proof.Machine

/-! ## Words and instructions (R54 to R113) -/

/-- Decode and encode agree: the words of every well-formed program instruction, followed by any words, decode to that
instruction and to its number of words (R56, R61, R91 to R113). -/
def Obligations.DecodeOfEncode : Prop :=
  ∀ i : Instr, i.wf = true → i.isEvent = false →
    ∀ rest : List Word, decode (encode i ++ rest) = .ok (i, (encode i).length)

/-- What decodes is a well-formed program instruction, and its words are those the encoding tables give it: every bit of
them is determined (R56, R57, R76). -/
def Obligations.EncodeOfDecode : Prop :=
  ∀ (ws : List Word) (i : Instr) (n : Nat), decode ws = .ok (i, n) →
    i.wf = true ∧ i.isEvent = false ∧ n = (encode i).length ∧ ws.take n = encode i

/-- Words written out bit by bit from the spec's encodings, one or more of every kind of operation. -/
def Obligations.WorkedWords : Prop :=
  decode [0x00000000#32] = .ok (.nop 0, 1)
  ∧ decode [0x03008C00#32] = .ok (.brx 35 0, 1)
  ∧ decode [0x5A181680#32] = .ok (.waitw 12 5 0x50 0, 1)
  ∧ decode [0x1C700028#32] = .ok (.hash 56 5 0, 1)
  ∧ decode [0x1D70A020#32] = .ok (.sign 56 40 4 0, 1)
  ∧ decode [0x4C080810#32] = .ok (.ld 4 2 2 0, 1)
  ∧ decode [0x1A140000#32] = .ok (.clock 10 0, 1)
  ∧ decode [0b0_0100000_0000001_0000010_0000011_101#32] = .ok (.iaddV 1 2 3 5, 1)
  ∧ decode [0b0_0110010_0000111_0000000_0000000_000#32, 0b10_000000000000000000000000000101#32, 0x80000001#32]
      = .ok (.movlS 7 0x40000005 0, 3)
  ∧ decode [0b0_0111110_0000100_0000101_0000110_010#32] = .ok (.fadd 4 5 6 2, 1)
  ∧ decode [0b0_1111010_0000001_0000010_0000011_000#32] = .ok (.ffma 2 1 2 3 0, 1)
  ∧ decode [0b0_0000001_0000000_0000000_0000000_000#32, 0xBFFFFFFF#32] = .ok (.bra 0x3FFFFFFF 0, 2)
  ∧ decode [0b0_1100000_0000100_0001000_0000011_000#32] = .ok (.cpy 4 8 3 0, 1)
  ∧ decode [0b0_1110001_0000101_0000000_0000000_001#32] = .ok (.accz 5 1, 1)

/-- The three classes of words by their top bits (R54), and words that are refused, with their causes (R63, R76, R91). In
instruction position: a literal word, a header, an unassigned major code, a literal that is missing or past the run. In
header position: NOTHDR unless its class is a header's; BADHDR when a set-flag field is 12 to 14,
the length 0 or above 24, or a bit of [3:0] is set; else it is a
header, with its fields where R63 puts them. -/
def Obligations.RefusedWords : Prop :=
  (∀ w : Word, isLit w = (w.getLsbD 31 && !w.getLsbD 30) ∧ isHdr w = (w.getLsbD 31 && w.getLsbD 30)
    ∧ (w.getLsbD 31 = false ↔ isLit w = false ∧ isHdr w = false))
  ∧ (∀ (w : Word) (rest : List Word),
    (isLit w → decode (w :: rest) = .error causeStraylit)
    ∧ (isHdr w → decode (w :: rest) = .error causeBadhdr)
    ∧ (¬isLit w → ¬isHdr w → (fMajor w).toNat ∈ [0x1F, 0x4B, 0x76, 0x77] → decode (w :: rest) = .error causeIllop)
    ∧ (∀ n, ¬isLit w → ¬isHdr w → litCount w = some (n + 1) →
        (rest.length < n + 1 → decode (w :: rest) = .error causeBadhdr)
        ∧ (n + 1 ≤ rest.length → (rest.take (n + 1)).all isLit = false → decode (w :: rest) = .error causeIllop)))
  ∧ ((∀ w : Word, ¬isHdr w → headerFault w = some causeNothdr)
  ∧ ∀ (wait : BitVec 12) (a b : BitVec 4) (len : BitVec 5) (y : Bool) (low : BitVec 4),
      let w : Word := 3#2 ++ wait ++ a ++ b ++ len ++ BitVec.ofBool y ++ low
      hdrWait w = wait ∧ hdrSetA w = a ∧ hdrSetB w = b ∧ hdrLen w = len.toNat ∧ hdrYield w = y
      ∧ headerFault w = if a ∈ [12, 13, 14] ∨ b ∈ [12, 13, 14] ∨ len = 0 ∨ 24 < len.toNat ∨ low ≠ 0
          then some causeBadhdr else none)

/-! ## The step and the run (R55, R64 to R68, R76) -/

/-- A step runs the decoded instruction: the words of the running role's run that stand at its position decode to i,
which no unit refuses. An access of OPFLAGS or an MMA that must wait waits in place, and only the clock goes on (R73,
R165). Else the parity of what it reads is checked, a predicate that is lost stops the role (R44, R49), and the step is
exec of i. Where the frame carries no mismatch and no lost predicate, that is on a state in which only the clock, the
issue accounting of the core, and which role issues have changed. -/
def Obligations.StepRunsDecoded : Prop :=
  ∀ (s : State) (k : Nat) (r : Role) (i : Instr) (n : Nat),
    s.agenda = [] → s.lost = false → s.issuer = some k → mget s.roles k = some r →
    (r.words.length = hdrLen r.hdrWord + 1 - r.off ∨ wordsNeeded r.words ≤ r.words.length) →
    (r.plot.isNone = true → hyRefuses (r.words.headD 0) = false) →
    decode r.words = .ok (i, n) →
    (s.waitsInPlace k i = true → step s = .next s.tick)
    ∧ (s.waitsInPlace k i = false →
      (∀ (s1 : State) (t : Trap), s.issueTo k i r.words = (s1, some t) → step s = .next (takeTrap s1 k t))
      ∧ (∀ s1 : State, s.issueTo k i r.words = (s1, none) → step s = exec i s1)
      ∧ ((∀ f, r.frames[0]? = some f → f.flawless = true) →
          (∀ g, g < r.groups → r.frame.hiddenTag g ≠ poisonTag) →
        ∃ s1 : State, s.issueTo k i r.words = (s1, none) ∧ step s = exec i s1 ∧ s1.cur = k ∧ sameBytes s s1
          ∧ (∀ j, mget s1.roles j = mget s.roles j) ∧ s1.ops = s.ops ∧ s1.teams = s.teams ∧ s1.plots = s.plots))

/-- The other steps. An event of the agenda happens when the package may take it; without power the turn of a core is the
machine's one stop (log entry 18). Words that do not decode, and a word Hyaluo refuses, stop the running role with their
cause (R76, R77, R422). -/
def Obligations.StepTakesEventsAndDecodeFaults : Prop :=
  ((∀ (s : State) (i : Instr) (rest : List Instr), s.agenda = i :: rest →
    step s = if s.takes i then exec i { s with agenda := rest } else .next { s with agenda := rest })
  ∧ (∀ s : State, s.agenda = [] → s.lost = true → step s = .fault .powerOff)
  ∧ ∀ s : State, step s = .fault .powerOff → s.agenda = [] ∧ s.lost = true)
  ∧ (∀ (s : State) (k : Nat) (r : Role) (c : Imm8),
    s.agenda = [] → s.lost = false → s.issuer = some k → mget s.roles k = some r →
    r.words.length = hdrLen r.hdrWord + 1 - r.off → r.words ≠ [] →
    (if r.plot.isNone && hyRefuses (r.words.headD 0) then c = causeIllop else decode r.words = .error c) →
    step s = exec (.decodeFault c) (s.refusedWord k)
    ∧ ∃ t r', step s = .next t ∧ mget t.roles k = some r' ∧ Role.stoppedAt r.hdr r.off r'
        ∧ r'.frames = r.landLone.frames ∧ r'.mask = r.mask ∧ r'.stack = r.stack ∧ r'.flags = r.flags)

/-! ## Reset, and memory's form -/

/-- What the spec gives the package at reset: Hyaluo's one privileged team of one group, with 128 vector and 64 scalar
registers, about to start at ROM address 0; every interface and queue disabled (R422). The form of memory that every
step keeps holds there, and what is stored where the next step fetches keeps it. -/
def Obligations.ResetState : Prop :=
  ((∃ r, mget State.reset.roles 0 = some r ∧ r.priv = true ∧ r.plot = none ∧ r.groups = 1 ∧ r.frame.v = 128
    ∧ r.frame.sc = 64 ∧ r.frames.length = 1 ∧ r.hdr = 0 ∧ r.off = 0 ∧ r.status = .ready ∧ r.mask = fullMask 1
    ∧ r.fpflags = 0 ∧ r.opflags = 0 ∧ r.flags = List.replicate 12 0)
  ∧ (∀ k, k ≠ 0 → mget State.reset.roles k = none)
  ∧ (∀ v, (State.reset.iface v).en = false) ∧ (∀ q, State.reset.queue q = Queue.reset)
  ∧ State.reset.bootStat = 0 ∧ State.reset.meas = List.replicate 16 0 ∧ State.reset.clock = 0
  ∧ (∀ c, c ≠ hyCore → (State.reset.core c).genCounter = 1)
  ∧ (∀ a, rdByte State.reset.ram a = 0 ∧ rdByte State.reset.hostMem a = 0 ∧ rdByte State.reset.hy a = 0))
  ∧ (State.reset.memOk = true
  ∧ ∀ (s : State) (nbits w : Nat), s.memOk = true → (s.withFetchWord nbits w).memOk = true)

/-- Every step keeps the package's memories in their one canonical form: equal memories are equal data. -/
def Obligations.StepKeepsMemoryForm : Prop :=
  ∀ s t : State, s.memOk = true → step s = .next t → t.memOk = true


/-! ## Registers (R22, R26, R27, R44, R45) -/

/-- Register names (R26, R27): windowed names address frame register W + n, fixed names the outgoing block; a windowed name
that reaches the outgoing block, a scalar name at or above the frame's count, and a record base whose last register is
not in the frame raise REGFIELD; s60 is a record base only when S is 64. -/
def Obligations.RegisterNames : Prop :=
  (∀ (f : Frame) (n : VReg), 16 ≤ f.v →
    (n.toNat ≤ 119 → f.w + n.toNat < f.v - 8 → f.vname n = .ok (f.w + n.toNat))
    ∧ (120 ≤ n.toNat → f.vname n = .ok (f.v - 8 + (n.toNat - 120)) ∧ f.v - 8 ≤ f.v - 8 + (n.toNat - 120)
        ∧ f.v - 8 + (n.toNat - 120) < f.v))
  ∧ ((∀ (f : Frame) (n : VReg), n.toNat ≤ 119 → f.v - 8 ≤ f.w + n.toNat → f.vname n = .error { cause := causeRegfield })
  ∧ (∀ (f : Frame) (n : Nat), f.sname n = if n < f.sc then .ok n else .error { cause := causeRegfield })
  ∧ ∀ (f : Frame) (b : BufSel), f.bname b =
      if 4 * (b.toNat % 16) + 3 < f.sc then .ok (4 * (b.toNat % 16)) else .error { cause := causeRegfield })

/-- Reads and writes of vector registers (R44, R45). A read of a unit of the frame's generation gives its value; a void unit
or one of another generation gives zero, or TAGREAD in tag-trap mode when a lane is read; a poison unit raises REGLOSS
when a lane is. A write gives its lanes their values, the others keep theirs or read as zero when the unit was of another
generation; only a write that covers part of a poison unit is refused, with REGLOSS. -/
def Sys2Proof.Says.vectorReadsAndWrites : Prop :=
  (∀ (r : Role) (x : Nat) (m : Mask),
    (∀ rows, r.readReg x m = .ok rows →
      rows.length = r.groups ∧ ∀ n, n < 32 * r.groups → laneOfRows rows n = r.frame.value x n)
    ∧ (∀ t, r.readReg x m = .error t → ∃ g, g < r.groups ∧ groupMask m g ≠ 0 ∧
        (∀ row, mget r.frame.rows (rowKey x g) = some row → row.tag ≠ r.frame.gen) ∧
        (t.cause = causeRegloss ∧ (∃ row, mget r.frame.rows (rowKey x g) = some row ∧ row.tag = poisonTag)
          ∨ t.cause = causeTagread ∧ r.tagTrap = true))
    ∧ (∀ g, g < r.groups → groupMask m g ≠ 0 →
        (∀ row, mget r.frame.rows (rowKey x g) = some row → row.tag ≠ r.frame.gen) →
        (r.tagTrap = true ∨ ∃ row, mget r.frame.rows (rowKey x g) = some row ∧ row.tag = poisonTag) →
        ∃ t, r.readReg x m = .error t))
  ∧ (∀ (r : Role) (x : Nat) (m : Mask) (rows : List Lanes), rows.length = r.groups →
    (r.checkReg x m = .ok () →
      ∀ n, n < 32 * r.groups → (r.writeReg x m rows).frame.value x n =
        if m.getLsbD n then laneOfRows rows n else r.frame.value x n)
    ∧ (∀ y n, y ≠ x → r.groups ≤ 32 → n < 32 * r.groups → (r.writeReg x m rows).frame.value y n = r.frame.value y n)
    ∧ (r.writeReg x m rows).frame.besideRows = r.frame.besideRows
    ∧ (∀ t, r.checkReg x m = .error t → t.cause = causeRegloss ∧ ∃ g row, g < r.groups
        ∧ mget r.frame.rows (rowKey x g) = some row ∧ row.tag = poisonTag ∧ row.tag ≠ r.frame.gen
        ∧ groupMask m g ≠ 0 ∧ groupMask m g ≠ BitVec.allOnes 32))

/-- Scalar registers read and written in granules of four (R44, R45). -/
def Sys2Proof.Says.scalarReadsAndWrites : Prop :=
  ∀ (f : Frame) (trap : Bool) (n : Nat) (vs : List (BitVec 64)), f.gen ≠ poisonTag →
    (∀ v, f.readS trap n = .ok v → v = f.svalue n)
    ∧ (∀ t, f.readS trap n = .error t → t.cause = causeRegloss ∨ t.cause = causeTagread ∧ trap = true)
    ∧ (f.checkS n vs.length = .ok () → ∀ k, (f.writeSs n vs).svalue k =
        if n ≤ k ∧ k < n + vs.length then vs.getD (k - n) 0 else f.svalue k)
    ∧ (∀ g, (∀ k, k < vs.length → g ≠ (n + k) / 4) → mget (f.writeSs n vs).grans g = mget f.grans g)
    ∧ (f.writeSs n vs).besideGrans = f.besideGrans

/-- Vector and scalar registers as they read and are written (R21, R44, R45): a read gives what was written under the
frame's generation and zero for anything else, or traps in tag-trap mode; poison is lost only to a whole write; a write
changes its lanes, or its registers, and nothing else of the frame. -/
def Obligations.RegisterReadsAndWrites : Prop := Says.vectorReadsAndWrites ∧ Says.scalarReadsAndWrites

/-- p0 reads as true in every lane and ignores writes, and a write of another predicate changes its lanes of that one
alone; at CALLF and CALLX p1 to p7 of the callee read as false in every lane; at RETF and UNWIND the predicate set of the
frame returned to is the set it held when it made its call, which its spill record holds if it was spilled (R22, R39). -/
def Obligations.PredicateRegisters : Prop :=
  (∀ f : Frame, f.pred 0 = BitVec.allOnes 1024 ∧ ∀ m v, f.setPred 0 m v = f)
  ∧ (∀ (f : Frame) (p q : PReg) (m v : Mask), p ≠ 0 → p.toNat < f.preds.length →
      (f.setPred p m v).pred q = if q = p then (f.pred p &&& ~~~m) ||| (v &&& m) else f.pred q)
  ∧ (∀ (i : Instr) (tg : Target) (a : SReg) (dem : Demand) (g : PReg) (s t : State) (r r' : Role),
      (i = .callf tg dem g ∨ i = .callx a dem g) → mget s.roles s.cur = some r → exec i s = .next t →
      mget t.roles s.cur = some r' → r.frames.length < r'.frames.length →
      ∀ p : PReg, r'.frame.pred p = if p = 0 then BitVec.allOnes 1024 else 0)
  ∧ ∀ (i : Instr) (n : Imm7) (g : PReg) (s t : State) (r r' : Role) (f : Frame),
      (i = .retf g ∨ i = .unwind n g) → mget s.roles s.cur = some r → exec i s = .next t →
      mget t.roles s.cur = some r' → r'.frames.length < r.frames.length →
      r.frames[r.frames.length - r'.frames.length]? = some f →
      (f.spilled = none → ∀ p : PReg, r'.frame.pred p = f.pred p)
      ∧ ∀ base, f.spilled = some base → r'.frame.spilled = none → r.groups ≤ 32 →
        ∀ (p : PReg) (g l : Nat), p ≠ 0 → g < r.groups → l < 32 →
          (r'.frame.pred p).getLsbD (32 * g + l) = (t.homeRead r' (t.privPa r' (base + 2) g l) 4).testBit p.toNat


/-! ## Vector, scalar and predicate results -/

namespace Sys2Proof.Says

/-- A vector instruction as the spec gives it: destination, sources, scalar source, guard, and the value and conditions
of lane n (32g + l) from the role, the scalars, the participating lanes and the rows of the sources. -/
structure VecForm where
  d : VReg
  srcs : List VReg
  scal : List SReg := []
  g : PReg
  res : Role → List (BitVec 64) → Mask → List (List Lanes) → Nat → BitVec 32 × FFlags

/-- A predicate instruction: the truth and conditions of lane n. -/
structure PredForm where
  d : PReg
  srcs : List VReg
  scal : List SReg := []
  g : PReg
  res : Role → List (BitVec 64) → List (List Lanes) → Nat → Bool × FFlags

/-- A scalar instruction: its value from the role and the scalar sources. -/
structure ScalForm where
  d : SReg
  srcs : List SReg
  g : PReg
  val : Role → List (BitVec 64) → BitVec 64

/-- The values of scalar names, checked and read (R27, R44). -/
def scalars (r : Role) : List SReg → Res (List (BitVec 64))
  | [] => .ok []
  | n :: ns => do
    let x ← r.frame.sname n.toNat
    let v ← r.frame.readS r.tagTrap x
    let vs ← scalars r ns
    .ok (v :: vs)

/-- The conditions that FPFLAGS holds after an instruction (R124): those before, and those met in a participating lane. -/
def flagsAfter (r1 : Role) (m : Mask) (c : Nat → FFlags) (r' : Role) : Prop :=
  ∀ b, r'.fpflags.getLsbD b = true ↔
    r1.fpflags.getLsbD b = true ∨ ∃ n, n < 32 * r1.groups ∧ m.getLsbD n = true ∧ (c n).getLsbD b = true

/-- What an instruction with a vector destination does (R45, R60, R125, R176): the destination's participating lanes
take their results, its other lanes and every other register keep theirs, the conditions met are added to FPFLAGS, and
nothing but the issuing role changes. r1 is the role once the open instructions whose destinations are named have
written (R139, R140). -/
def vecDoesWhen (p : Role → Prop) (i : Instr) (f : VecForm) : Prop :=
  i.wf = true → ∀ (s : State) (r r1 : Role) (x : Nat) (xs : List Nat) (vs : List (BitVec 64)) (rows : List (List Lanes)),
    mget s.roles s.cur = some r → p r → r.frame.vnames (f.d :: f.srcs) = .ok (x :: xs) →
    scalars r f.scal = .ok vs → r1 = r.settleFor (x :: xs) →
    r1.readRegs (r1.part f.g) xs = .ok rows → r1.checkReg x (r1.part f.g) = .ok () →
    (∀ n, n < 32 * r1.groups → (r1.part f.g).getLsbD n = true →
      (f.res r1 vs (r1.part f.g) rows n).2 &&& r1.fpTrapEn = 0) →
    answers i s fun t => ∃ r', mget t.roles s.cur = some r' ∧ onlyRole s.cur s t
      ∧ r1.wentOn (encode i).length r' ∧ r'.besideFlags = r1.besideFlags
      ∧ flagsAfter r1 (r1.part f.g) (fun n => (f.res r1 vs (r1.part f.g) rows n).2) r'
      ∧ r'.frames.tail = r1.frames.tail ∧ r'.frame.besideRows = r1.frame.besideRows
      ∧ (∀ n, n < 32 * r1.groups → r'.frame.value x n =
          if (r1.part f.g).getLsbD n then (f.res r1 vs (r1.part f.g) rows n).1 else r1.frame.value x n)
      ∧ (∀ k, (∀ q, q < r1.groups → k ≠ rowKey x q) → mget r'.frame.rows k = mget r1.frame.rows k)

/-- The same in every state. -/
def vecDoes : Instr → VecForm → Prop := vecDoesWhen fun _ => True

/-- What an instruction with a predicate destination does (R22, R60, R125, R176). -/
def predDoes (i : Instr) (f : PredForm) : Prop :=
  i.wf = true → ∀ (s : State) (r r1 : Role) (xs : List Nat) (vs : List (BitVec 64)) (rows : List (List Lanes)),
    mget s.roles s.cur = some r → r.frame.vnames f.srcs = .ok xs → scalars r f.scal = .ok vs →
    r1 = r.settleFor xs → r1.readRegs (r1.part f.g) xs = .ok rows → r.groups ≤ 32 → r1.frame.preds.length = 8 →
    (∀ n, n < 32 * r1.groups → (r1.part f.g).getLsbD n = true → (f.res r1 vs rows n).2 &&& r1.fpTrapEn = 0) →
    answers i s fun t => ∃ r', mget t.roles s.cur = some r' ∧ onlyRole s.cur s t
      ∧ r1.wentOn (encode i).length r' ∧ r'.besideFlags = r1.besideFlags
      ∧ flagsAfter r1 (r1.part f.g) (fun n => (f.res r1 vs rows n).2) r'
      ∧ r'.frames.tail = r1.frames.tail ∧ r'.frame.besidePreds = r1.frame.besidePreds
      ∧ ∀ (q : PReg) (n : Nat), n < 1024 → (r'.frame.pred q).getLsbD n =
          if q = f.d ∧ q ≠ 0 ∧ (r1.part f.g).getLsbD n = true then (f.res r1 vs rows n).1
          else (r1.frame.pred q).getLsbD n

/-- What an instruction with a scalar destination does, a uniform effect (R60, R176): without a participating lane
nothing; else its result, under good names, operands and destination. -/
def scalDoes (i : Instr) (f : ScalForm) : Prop :=
  i.wf = true → ∀ (s : State) (r : Role) (vs : List (BitVec 64)),
    mget s.roles s.cur = some r → r.frame.gen ≠ poisonTag → f.d.toNat < r.frame.sc → scalars r f.srcs = .ok vs →
    r.frame.checkS f.d.toNat 1 = .ok () →
    answers i s fun t => ∃ r', mget t.roles s.cur = some r' ∧ onlyRole s.cur s t
      ∧ r.wentOn (encode i).length r' ∧ r'.besideFrames = r.besideFrames
      ∧ r'.frames.tail = r.frames.tail ∧ r'.frame.besideGrans = r.frame.besideGrans
      ∧ (r.part f.g = 0 → r'.frame = r.frame)
      ∧ (r.part f.g ≠ 0 → ∀ n, r'.frame.svalue n = if n = f.d.toNat then f.val r vs else r.frame.svalue n)
      ∧ ∀ k, k ≠ f.d.toNat / 4 → mget r'.frame.grans k = mget r.frame.grans k

/-- A lane's result that depends on the same lane of the sources only, and meets no condition. -/
def lanewise (d : VReg) (srcs : List VReg) (g : PReg) (fn : List (BitVec 32) → BitVec 32) : VecForm where
  d := d; srcs := srcs; g := g
  res _ _ _ rows n := (fn (rows.map fun y => laneOfRows y n), 0)

/-- Source k of a lane. -/
def src (x : List (BitVec 32)) (k : Nat) : BitVec 32 := x.getD k 0

/-- The vector integer instructions (R179 to R184). -/
def vectorInteger : Instr → Option VecForm
  | .iaddV d a b g => some (lanewise d [a, b] g fun x => src x 0 + src x 1)
  | .isubV d a b g => some (lanewise d [a, b] g fun x => src x 0 - src x 1)
  | .imulV d a b g => some (lanewise d [a, b] g fun x => src x 0 * src x 1)
  | .iaddiV d a i g => some (lanewise d [a] g fun x => src x 0 + i.signExtend 32)
  | .andV d a b g => some (lanewise d [a, b] g fun x => src x 0 &&& src x 1)
  | .orV d a b g => some (lanewise d [a, b] g fun x => src x 0 ||| src x 1)
  | .xorV d a b g => some (lanewise d [a, b] g fun x => src x 0 ^^^ src x 1)
  | .shlV d a b g => some (lanewise d [a, b] g fun x => src x 0 <<< ((src x 1).toNat % 32))
  | .shrZ32V d a b g => some (lanewise d [a, b] g fun x => src x 0 >>> ((src x 1).toNat % 32))
  | .imulhV true d a b g => some (lanewise d [a, b] g fun x =>
      (((src x 0).signExtend 64 * (src x 1).signExtend 64) >>> 32).setWidth 32)
  | .imulhV false d a b g => some (lanewise d [a, b] g fun x =>
      (((src x 0).setWidth 64 * (src x 1).setWidth 64) >>> 32).setWidth 32)
  | .idivV true d a b g => some (lanewise d [a, b] g fun x =>
      if src x 1 = 0 then BitVec.allOnes 32 else (src x 0).sdiv (src x 1))
  | .idivV false d a b g => some (lanewise d [a, b] g fun x =>
      if src x 1 = 0 then BitVec.allOnes 32 else src x 0 / src x 1)
  | .iremV true d a b g => some (lanewise d [a, b] g fun x =>
      if src x 1 = 0 then src x 0 else (src x 0).srem (src x 1))
  | .iremV false d a b g => some (lanewise d [a, b] g fun x => if src x 1 = 0 then src x 0 else src x 0 % src x 1)
  | .iminV true d a b g => some (lanewise d [a, b] g fun x => if (src x 1).slt (src x 0) then src x 1 else src x 0)
  | .iminV false d a b g => some (lanewise d [a, b] g fun x => if src x 1 < src x 0 then src x 1 else src x 0)
  | .imaxV true d a b g => some (lanewise d [a, b] g fun x => if (src x 0).slt (src x 1) then src x 1 else src x 0)
  | .imaxV false d a b g => some (lanewise d [a, b] g fun x => if src x 0 < src x 1 then src x 1 else src x 0)
  | .shrS32V d a b g => some (lanewise d [a, b] g fun x => (src x 0).sshiftRight ((src x 1).toNat % 32))
  | .rotlV d a b g => some (lanewise d [a, b] g fun x => (src x 0).rotateLeft ((src x 1).toNat % 32))
  | .movlV d v g => some (lanewise d [] g fun _ => v.signExtend 32)
  | .bfx d a pos len true g => some (lanewise d [a] g fun x =>
      ((src x 0).extractLsb' pos.toNat (min len.toNat (32 - pos.toNat))).signExtend 32)
  | .bfx d a pos len false g => some (lanewise d [a] g fun x =>
      ((src x 0).extractLsb' pos.toNat (min len.toNat (32 - pos.toNat))).setWidth 32)
  | .bfi d a pos len g =>
      let field : BitVec 32 := (BitVec.allOnes len.toNat).setWidth 32 <<< pos.toNat
      some (lanewise d [d, a] g fun x => (src x 0 &&& ~~~field) ||| ((src x 1 <<< pos.toNat) &&& field))
  | .mov d a g => some (lanewise d [a] g fun x => src x 0)
  | .not d a g => some (lanewise d [a] g fun x => ~~~(src x 0))
  | .neg d a g => some (lanewise d [a] g fun x => -(src x 0))
  | .iabs d a g => some (lanewise d [a] g fun x => if (src x 0).msb then -(src x 0) else src x 0)
  | .popc d a g => some (lanewise d [a] g fun x => BitVec.ofNat 32 ((List.range 32).countP (src x 0).getLsbD))
  | .clz d a g => some (lanewise d [a] g fun x => BitVec.ofNat 32 ((List.range 32).findIdx (src x 0).getMsbD))
  | .brev d a g => some (lanewise d [a] g fun x => (src x 0).reverse)
  | .sext8 d a g => some (lanewise d [a] g fun x => ((src x 0).setWidth 8).signExtend 32)
  | .sext16 d a g => some (lanewise d [a] g fun x => ((src x 0).setWidth 16).signExtend 32)
  | .laneid d g => some ⟨d, [], [], g, fun _ _ _ _ n => (BitVec.ofNat 32 n, 0)⟩
  | _ => none

/-- A scalar result of two scalars. -/
def scal2 (d a b : SReg) (g : PReg) (fn : BitVec 64 → BitVec 64 → BitVec 64) : ScalForm where
  d := d; srcs := [a, b]; g := g
  val _ vs := fn (vs.getD 0 0) (vs.getD 1 0)

/-- The scalar integer instructions (R179, R180, R182) and the votes (R187). -/
def scalarInteger : Instr → Option ScalForm
  | .iaddS d a b g => some (scal2 d a b g (· + ·))
  | .isubS d a b g => some (scal2 d a b g (· - ·))
  | .imulS d a b g => some (scal2 d a b g (· * ·))
  | .iaddiS d a i g => some ⟨d, [a], g, fun _ vs => vs.getD 0 0 + i.signExtend 64⟩
  | .movlS d v g => some ⟨d, [], g, fun _ _ => v.signExtend 64⟩
  | .imulhS true d a b g => some (scal2 d a b g fun x y => ((x.signExtend 128 * y.signExtend 128) >>> 64).setWidth 64)
  | .imulhS false d a b g => some (scal2 d a b g fun x y => ((x.setWidth 128 * y.setWidth 128) >>> 64).setWidth 64)
  | .idivS true d a b g => some (scal2 d a b g fun x y => if y = 0 then BitVec.allOnes 64 else x.sdiv y)
  | .idivS false d a b g => some (scal2 d a b g fun x y => if y = 0 then BitVec.allOnes 64 else x / y)
  | .iremS true d a b g => some (scal2 d a b g fun x y => if y = 0 then x else x.srem y)
  | .iremS false d a b g => some (scal2 d a b g fun x y => if y = 0 then x else x % y)
  | .iminS true d a b g => some (scal2 d a b g fun x y => if y.slt x then y else x)
  | .iminS false d a b g => some (scal2 d a b g fun x y => if y < x then y else x)
  | .imaxS true d a b g => some (scal2 d a b g fun x y => if x.slt y then y else x)
  | .imaxS false d a b g => some (scal2 d a b g fun x y => if x < y then y else x)
  | .shrS32S d a b g => some (scal2 d a b g fun x y => x.sshiftRight (y.toNat % 64))
  | .rotlS d a b g => some (scal2 d a b g fun x y => x.rotateLeft (y.toNat % 64))
  | .andS d a b g => some (scal2 d a b g (· &&& ·))
  | .orS d a b g => some (scal2 d a b g (· ||| ·))
  | .xorS d a b g => some (scal2 d a b g (· ^^^ ·))
  | .shlS d a b g => some (scal2 d a b g fun x y => x <<< (y.toNat % 64))
  | .shrZ32S d a b g => some (scal2 d a b g fun x y => x >>> (y.toNat % 64))
  | .voteAny d a g => some ⟨d, [], g, fun r _ =>
      if r.part g &&& r.frame.pred a = 0 then 0 else 1⟩
  | .voteAll d a g => some ⟨d, [], g, fun r _ =>
      if r.part g &&& ~~~(r.frame.pred a) = 0 then 1 else 0⟩
  | .voteCount d a g => some ⟨d, [], g, fun r _ =>
      BitVec.ofNat 64 ((List.range 1024).countP fun n => (r.part g).getLsbD n && (r.frame.pred a).getLsbD n)⟩
  | _ => none

/-- The condition codes of R109 over integers. -/
def holdsFor {w : Nat} (c : BitVec 4) (x y : BitVec w) : Bool :=
  match c.toNat with
  | 0 => x == y
  | 1 => x != y
  | 2 => x.slt y
  | 3 => !(y.slt x)
  | 4 => y.slt x
  | 5 => !(x.slt y)
  | 6 => x < y
  | 7 => !(y < x)
  | 8 => y < x
  | _ => !(x < y)

/-- Compares and predicate logic (R185, R186, R198). -/
def comparing : Instr → Option PredForm
  | .icmpV d a b c g => some ⟨d, [a, b], [], g, fun _ _ rows n =>
      (holdsFor c (laneOfRows (rows.getD 0 []) n) (laneOfRows (rows.getD 1 []) n), 0)⟩
  | .icmpS d a b c g => some ⟨d, [], [a, b], g, fun _ vs _ _ =>
      (holdsFor c (vs.getD 0 0) (vs.getD 1 0), 0)⟩
  | .plog d a b tt g => some ⟨d, [], [], g, fun r _ _ n =>
      (tt.getLsbD (2 * ((r.frame.pred a).getLsbD n).toNat + ((r.frame.pred b).getLsbD n).toNat), 0)⟩
  | .fset d a b c g => some ⟨d, [a, b], [], g, fun _ _ rows n =>
      let u := Fmt.f32.decode (laneOfRows (rows.getD 0 []) n).toNat
      let v := Fmt.f32.decode (laneOfRows (rows.getD 1 []) n).toNat
      (fcond c.toNat (u.cmp v), if u.isSig || v.isSig then fInvalid else 0)⟩
  | _ => none

/-- Lane j of the group of lane n. -/
def ofGroup (rows : List (List Lanes)) (k n j : Nat) : BitVec 32 := laneOfRows (rows.getD k []) (32 * (n / 32) + j)

/-- A shuffle: the lane of its group that lane l takes, from l and the lane's index operand (R189). -/
def shuffling (d a b : VReg) (g : PReg) (j : Nat → Nat → Nat) : VecForm where
  d := d; srcs := [a, b]; g := g
  res _ _ _ rows n := (ofGroup rows 0 n (j (n % 32) (laneOfRows (rows.getD 1 []) n).toNat), 0)

/-- Ballots, shuffles, moves and selection (R188, R189, R191, R192). -/
def acrossLanes : Instr → Option VecForm
  | .ballot d a g => some ⟨d, [], [], g, fun r _ m _ n =>
      (groupMask (m &&& r.frame.pred a) (n / 32), 0)⟩
  | .shfl d a b g => some (shuffling d a b g fun _ x => x % 32)
  | .shflu d a b g => some (shuffling d a b g fun l x => if x ≤ l then l - x else l)
  | .shfld d a b g => some (shuffling d a b g fun l x => if l + x ≤ 31 then l + x else l)
  | .shflx d a b g => some (shuffling d a b g fun l x => (l ^^^ x) % 32)
  | .movs d a g => some ⟨d, [], [a], g, fun _ vs _ _ _ =>
      ((vs.getD 0 0).setWidth 32, 0)⟩
  | .sel d a b p g => some ⟨d, [a, b], [], g, fun r _ _ rows n =>
      (laneOfRows (rows.getD (if (r.frame.pred p).getLsbD n then 0 else 1) []) n, 0)⟩
  | _ => none

/-- The values of the participating lanes of lane n's group, lowest lane first. -/
def groupValues (m : Mask) (rows : List (List Lanes)) (n : Nat) : List (BitVec 32) :=
  ((List.range 32).filter fun l => m.getLsbD (32 * (n / 32) + l)).map (ofGroup rows 0 n)

/-- A reduction of a group's values (R190). -/
def reducing (d a : VReg) (g : PReg) (fn : List (BitVec 32) → BitVec 32 × FFlags) : VecForm where
  d := d; srcs := [a]; g := g
  res _ _ m rows n := fn (groupValues m rows n)

/-- A reduction by an integer operation. -/
def reduceBy (d a : VReg) (g : PReg) (fn : BitVec 32 → BitVec 32 → BitVec 32) : VecForm :=
  reducing d a g fun xs => (match xs with
    | [] => 0
    | x :: xs => xs.foldl fn x, 0)

/-- An element's bits and conditions as a lane holds them. -/
def lane32 (x : FRes) : BitVec 32 × FFlags := (BitVec.ofNat 32 x.1, x.2)

/-- The group reductions (R190). -/
def groupReduction : Instr → Option VecForm
  | .gredIadd d a g => some (reduceBy d a g (· + ·))
  | .gredIminS32 d a g => some (reduceBy d a g fun x y => if y.slt x then y else x)
  | .gredIminZ32 d a g => some (reduceBy d a g fun x y => if y < x then y else x)
  | .gredImaxS32 d a g => some (reduceBy d a g fun x y => if x.slt y then y else x)
  | .gredImaxZ32 d a g => some (reduceBy d a g fun x y => if x < y then y else x)
  | .gredAnd d a g => some (reduceBy d a g (· &&& ·))
  | .gredOr d a g => some (reduceBy d a g (· ||| ·))
  | .gredXor d a g => some (reduceBy d a g (· ^^^ ·))
  | .gredFadd d a g => some (reducing d a g fun xs => lane32 (sumVals (xs.map fun x => Fmt.f32.decode x.toNat)))
  | .gredFmin d a g => some (reducing d a g fun xs => lane32 (minMaxAll false (xs.map (·.toNat))))
  | .gredFmax d a g => some (reducing d a g fun xs => lane32 (minMaxAll true (xs.map (·.toNat))))
  | _ => none

end Sys2Proof.Says

/-- The integer instructions: vector ones, constants and bit fields (R179 to R184), scalar ones and the votes (R179,
R180, R182, R187), compares and predicate logic (R185, R186, R198), which write a truth in every participating lane. -/
def Obligations.IntegerResults : Prop :=
  (∀ i f, Says.vectorInteger i = some f → Says.vecDoes i f) ∧ (∀ i f, Says.scalarInteger i = some f → Says.scalDoes i f)
  ∧ ∀ i f, Says.comparing i = some f → Says.predDoes i f

/-- Instructions across lanes: ballots, shuffles, moves from scalars and selection (R188, R189, R191, R192).
Group reductions (R190): every participating lane of a group takes the reduction of the group's participating
lanes.
RDLN reads its lane whether or not it is active; a group that the role has not reads as zero (R44, R191). -/
def Obligations.AcrossLaneResults : Prop :=
  (∀ i f, Says.acrossLanes i = some f → Says.vecDoes i f)
  ∧ (∀ i f, Says.groupReduction i = some f → Says.vecDoes i f)
  ∧ (∀ (d : SReg) (a : VReg) (n : BitVec 10) (g : PReg) (s : State) (r r1 : Role) (x : Nat),
    mget s.roles s.cur = some r → r.frame.gen ≠ poisonTag → r.frame.vname a = .ok x → d.toNat < r.frame.sc →
    r1 = (if r.part g = 0 then r else r.settleFor [x]) → r1.frame.checkS d.toNat 1 = .ok () →
    (n.toNat / 32 < r.groups → ∀ row, mget r1.frame.rows (rowKey x (n.toNat / 32)) = some row →
      row.tag = r1.frame.gen ∨ r.tagTrap = false ∧ row.tag ≠ poisonTag) →
    (n.toNat / 32 < r.groups → mget r1.frame.rows (rowKey x (n.toNat / 32)) = none → r.tagTrap = false) →
    answers (.rdln d a n g) s fun t => ∃ r', mget t.roles s.cur = some r' ∧ onlyRole s.cur s t
      ∧ r1.wentOn 2 r' ∧ r'.besideFlags = r1.besideFlags ∧ r'.fpflags = r1.fpflags
      ∧ r'.frames.tail = r1.frames.tail ∧ r'.frame.besideGrans = r1.frame.besideGrans
      ∧ (r.part g = 0 → r'.frame = r.frame)
      ∧ (r.part g ≠ 0 → ∀ k, r'.frame.svalue k = if k = d.toNat
          then (if n.toNat / 32 < r.groups then (r1.frame.value x n.toNat).setWidth 64 else 0) else r1.frame.svalue k))

namespace Sys2Proof.Says

/-- The instructions of a vector shape, whose sources are read and whose destination is written at once. -/
def atOnce (i : Instr) : Option VecForm :=
  (vectorInteger i).or ((acrossLanes i).or (groupReduction i))

end Sys2Proof.Says


/-! ## Floating point (R123 to R126, R136 to R143, R193 to R202) -/

namespace Sys2Proof.Says

/-- A lane's result from the same lane of the sources, as the functions of Machine/Float.lean give it. -/
def floatwise (d : VReg) (srcs : List VReg) (g : PReg) (fn : List Nat → FRes) : VecForm where
  d := d; srcs := srcs; g := g
  res _ _ _ rows n := lane32 (fn (rows.map fun y => (laneOfRows y n).toNat))

/-- A function of one FP32 value. -/
def ofValue (d a : VReg) (g : PReg) (fn : FVal → FRes) : VecForm :=
  floatwise d [a] g fun x => fn (Fmt.f32.decode (x.getD 0 0))

/-- An element of a narrower format in the low bits of the lane, widened. -/
def widening (f : Fmt) (d a : VReg) (g : PReg) : VecForm :=
  floatwise d [a] g fun x => Fmt.f32.ofVal 0 (f.decode (x.getD 0 0 % 2 ^ f.width))

/-- Both 16-bit elements of a lane, each on its own (R202). -/
def pairwise (bf : Bool) (d : VReg) (srcs : List VReg) (g : PReg) (fn : Fmt → List Nat → FRes) : VecForm :=
  let f := if bf then Fmt.bf16 else Fmt.f16
  floatwise d srcs g fun x =>
    ((fn f (x.map (· % 65536))).1 + 65536 * (fn f (x.map (· / 65536))).1,
     (fn f (x.map (· % 65536))).2 ||| (fn f (x.map (· / 65536))).2)

/-- The floating-point instructions that are not online (R199 to R202). -/
def directFloat : Instr → Option VecForm
  | .frsq r d a g => some (ofValue d a g (Fmt.f32.rsqrt r.toNat))
  | .fexp2 r d a g => some (ofValue d a g (fexp2 r.toNat))
  | .flog2 r d a g => some (ofValue d a g (flog2 r.toNat))
  | .fsin r d a g => some (ofValue d a g (fsincos false r.toNat))
  | .fcos r d a g => some (ofValue d a g (fsincos true r.toNat))
  | .ftanh r d a g => some (ofValue d a g (ftanh r.toNat))
  | .frint r d a g => some (floatwise d [a] g fun x => frint r.toNat (x.getD 0 0))
  | .fabs d a g => some (floatwise d [a] g fun x => fabsNeg false (x.getD 0 0))
  | .fneg d a g => some (floatwise d [a] g fun x => fabsNeg true (x.getD 0 0))
  | .fcvtS32F32 r d a g => some (ofValue d a g (toInt32 true r.toNat))
  | .fcvtZ32F32 r d a g => some (ofValue d a g (toInt32 false r.toNat))
  | .fcvtF32S32 r d a g => some (floatwise d [a] g fun x =>
      Fmt.f32.roundInt r.toNat false (BitVec.ofNat 32 (x.getD 0 0)).toInt 0)
  | .fcvtF32Z32 r d a g => some (floatwise d [a] g fun x => Fmt.f32.roundInt r.toNat false (x.getD 0 0) 0)
  | .fcvtBf16F32 r d a g => some (ofValue d a g (Fmt.bf16.ofVal r.toNat))
  | .fcvtF16F32 r d a g => some (ofValue d a g (Fmt.f16.ofVal r.toNat))
  | .fcvtE4m3F32 r d a g => some (ofValue d a g (Fmt.e4m3.ofVal r.toNat))
  | .fcvtE5m2F32 r d a g => some (ofValue d a g (Fmt.e5m2.ofVal r.toNat))
  | .fcvtF32Bf16 _ d a g => some (widening .bf16 d a g)
  | .fcvtF32F16 _ d a g => some (widening .f16 d a g)
  | .fcvtF32E4m3 _ d a g => some (widening .e4m3 d a g)
  | .fcvtF32E5m2 _ d a g => some (widening .e5m2 d a g)
  | .hadd2 bf r d a b _ g => some (pairwise bf d [a, b] g fun f x =>
      f.add r.toNat (f.decode (x.getD 0 0)) (f.decode (x.getD 1 0)))
  | .hmul2 bf r d a b _ g => some (pairwise bf d [a, b] g fun f x =>
      f.mul r.toNat (f.decode (x.getD 0 0)) (f.decode (x.getD 1 0)))
  | .hfma2 bf r d a b c g => some (pairwise bf d [a, b, c] g fun f x =>
      f.fma r.toNat (f.decode (x.getD 0 0)) (f.decode (x.getD 1 0)) (f.decode (x.getD 2 0)))
  | .hmin2 bf _ d a b _ g => some (pairwise bf d [a, b] g fun f x => f.minMax false (x.getD 0 0) (x.getD 1 0))
  | .hmax2 bf _ d a b _ g => some (pairwise bf d [a, b] g fun f x => f.minMax true (x.getD 0 0) (x.getD 1 0))
  | _ => none

/-- The online instructions (R136), each with its result (R193, R195, R196, R199). -/
def onlineFloat : Instr → Option VecForm
  | .fadd d a b g => some (floatwise d [a, b] g fun x => Fmt.f32.add 0 (v x 0) (v x 1))
  | .fmul d a b g => some (floatwise d [a, b] g fun x => Fmt.f32.mul 0 (v x 0) (v x 1))
  | .fdiv d a b g => some (floatwise d [a, b] g fun x => Fmt.f32.div 0 (v x 0) (v x 1))
  | .fmin d a b g => some (floatwise d [a, b] g fun x => Fmt.f32.minMax false (x.getD 0 0) (x.getD 1 0))
  | .fmax d a b g => some (floatwise d [a, b] g fun x => Fmt.f32.minMax true (x.getD 0 0) (x.getD 1 0))
  | .fmaxz d a g => some (floatwise d [a] g fun x => clamp 4 (x.getD 0 0))
  | .fminz d a g => some (floatwise d [a] g fun x => clamp 2 (x.getD 0 0))
  | .fsetk d a c g => some (floatwise d [a] g fun x => clamp c.toNat (x.getD 0 0))
  | .ffma k d a b g => some (floatwise d [a, b, 8 + k.setWidth 7] g fun x =>
      Fmt.f32.fma 0 (v x 0) (v x 1) (v x 2))
  | .faddLong r d a b g => some (floatwise d [a, b] g fun x => Fmt.f32.add r.toNat (v x 0) (v x 1))
  | .fsub r d a b g => some (floatwise d [a, b] g fun x => Fmt.f32.add r.toNat (v x 0) (v x 1).neg)
  | .fmulLong r d a b g => some (floatwise d [a, b] g fun x => Fmt.f32.mul r.toNat (v x 0) (v x 1))
  | .ffmaLong r d a b c g => some (floatwise d [a, b, c] g fun x => Fmt.f32.fma r.toNat (v x 0) (v x 1) (v x 2))
  | .fdivLong r d a b g => some (floatwise d [a, b] g fun x => Fmt.f32.div r.toNat (v x 0) (v x 1))
  | .ffms r d a b c g => some (floatwise d [a, b, c] g fun x => Fmt.f32.fma r.toNat (v x 0) (v x 1) (v x 2).neg)
  | .fnma r d a b c g => some (floatwise d [a, b, c] g fun x => Fmt.f32.fma r.toNat (v x 0).neg (v x 1) (v x 2))
  | .fminLong _ d a b g => some (floatwise d [a, b] g fun x => Fmt.f32.minMax false (x.getD 0 0) (x.getD 1 0))
  | .fmaxLong _ d a b g => some (floatwise d [a, b] g fun x => Fmt.f32.minMax true (x.getD 0 0) (x.getD 1 0))
  | .fsqrt r d a g => some (ofValue d a g (Fmt.f32.sqrt r.toNat))
  | .frcp r d a g => some (ofValue d a g (Fmt.f32.div r.toNat (.fin false 1 0)))
  | _ => none
where
  v (x : List Nat) (k : Nat) : FVal := Fmt.f32.decode (x.getD k 0)

/-- The clamps, whose producers a device may cancel in some lanes (R141). -/
def isClamp : Instr → Bool
  | .fmaxz _ _ _ => true
  | .fminz _ _ _ => true
  | .fsetk _ _ _ _ => true
  | _ => false

/-- The value of a finite FP32 encoding in units of 2^-149. -/
def units (x : Nat) : Option Int :=
  match Fmt.f32.decode x with
  | .fin neg m e => some ((if neg then -1 else 1) * (m * 2 ^ (e + 149).toNat : Nat))
  | _ => none

/-- x is the FP32 number to which exact, in units of 2^-(149 + k), rounds in a direction (R123): nearest with ties to an
even encoding, toward zero, toward +∞, toward −∞. -/
def roundsTo (rnd k : Nat) (exact : Int) (x : Nat) (at' : Int) : Prop :=
  let below (y : Nat) : Prop := at' * 2 ^ k ≤ exact ∧ ∀ z, units y = some z → z * 2 ^ k ≤ exact → z ≤ at'
  let above (y : Nat) : Prop := exact ≤ at' * 2 ^ k ∧ ∀ z, units y = some z → exact ≤ z * 2 ^ k → at' ≤ z
  match rnd with
  | 0 => ∀ y z, units y = some z → (at' * 2 ^ k - exact).natAbs ≤ (z * 2 ^ k - exact).natAbs
      ∧ ((at' * 2 ^ k - exact).natAbs = (z * 2 ^ k - exact).natAbs → z ≠ at' → x % 2 = 0)
  | 1 => ∀ y, if 0 ≤ exact then below y else above y
  | 2 => ∀ y, above y
  | _ => ∀ y, below y

/-- A result that is a finite number is the exact one rounded once, and it is inexact when it differs (R123, R124). -/
def roundedOnce (rnd k : Nat) (exact : Int) (res : FRes) : Prop :=
  ∀ x, units res.1 = some x → roundsTo rnd k exact res.1 x ∧ (res.2.getLsbD 4 = true ↔ x * 2 ^ k ≠ exact)

end Sys2Proof.Says

/-- Unary functions, conversions and packed operations (R199 to R202), and every online instruction under an enabled
floating-point trap (R125): the results, and the flags of R124. -/
def Obligations.DirectFloatResults : Prop :=
  (∀ i f, Says.directFloat i = some f → Says.vecDoes i f)
  ∧ ∀ i f, Says.onlineFloat i = some f → Says.vecDoesWhen (fun r => r.fpTrapEn ≠ 0) i f

/-- What stops an instruction of a vector shape before it has any effect (R27, R44, R45, R77): a name outside the frame,
an operand that cannot be read, a partial write of a poison unit. The role stops at the instruction with that cause.
An enabled condition met in a participating lane stops the role at the instruction with FPE, before any lane or flag
is written; the record's INFO holds every condition met (R125). -/
def Obligations.OperandAndConditionTraps : Prop :=
  (∀ (i : Instr) (f : Says.VecForm) (s : State) (r : Role) (t : Trap),
    Says.atOnce i = some f → f.scal = [] → mget s.roles s.cur = some r →
    (r.frame.vnames (f.d :: f.srcs) = .error t → exec i s = .next (takeTrap s s.cur t))
    ∧ ∀ x xs r1, r.frame.vnames (f.d :: f.srcs) = .ok (x :: xs) → r1 = r.settleFor (x :: xs) →
        (r1.readRegs (r1.part f.g) xs = .error t
          ∨ (∃ rows, r1.readRegs (r1.part f.g) xs = .ok rows) ∧ r1.checkReg x (r1.part f.g) = .error t) →
        exec i s = .next (takeTrap (s.setRole s.cur r1) s.cur t))
  ∧ (∀ (i : Instr) (f : Says.VecForm) (s : State) (r r1 : Role) (x : Nat) (xs : List Nat) (rows : List (List Lanes))
    (n : Nat),
    (Says.directFloat i = some f ∨ Says.onlineFloat i = some f) → i.wf = true → mget s.roles s.cur = some r →
    r.frame.vnames (f.d :: f.srcs) = .ok (x :: xs) → r1 = r.settleFor (x :: xs) →
    r1.readRegs (r1.part f.g) xs = .ok rows → r1.checkReg x (r1.part f.g) = .ok () → n < 32 * r1.groups →
    (r1.part f.g).getLsbD n = true → (f.res r1 [] (r1.part f.g) rows n).2 &&& r1.fpTrapEn ≠ 0 →
    ∃ met : FFlags, exec i s = .next (takeTrap (s.setRole s.cur r1) s.cur { cause := causeFpe, info := met.toNat })
      ∧ ∀ b, met.getLsbD b = true ↔ ∃ n, n < 32 * r1.groups ∧ (r1.part f.g).getLsbD n = true
          ∧ (f.res r1 [] (r1.part f.g) rows n).2.getLsbD b = true)

/-- An online instruction opens as a stage with its operands captured (R138, R139, R142): no register is written yet. The
role is as it was, or with the oldest of its open instructions written, those it had to wait for (R139, R140). -/
def Obligations.OnlineOpens : Prop :=
  ∀ (i : Instr) (f : Says.VecForm) (s : State) (r : Role) (x : Nat) (xs : List Nat) (rows : List (List Lanes)),
    Says.onlineFloat i = some f → i.wf = true → mget s.roles s.cur = some r → r.fpTrapEn = 0 →
    r.frame.vnames (f.d :: f.srcs) = .ok (x :: xs) → r.part f.g ≠ 0 →
    r.settle.readRegs (r.part f.g) xs = .ok rows → r.settle.checkReg x (r.part f.g) = .ok () →
    answers i s fun t => ∃ r' r2 old st, mget t.roles s.cur = some r' ∧ onlyRole s.cur s t
      ∧ (∃ n, n ≤ r.stages.length ∧ r2 = r.settleTo n) ∧ r2.wentOn (encode i).length r' ∧ r'.frames = r2.frames
      ∧ ({ r' with stages := [] } : Role).besideFrames = ({ r2 with stages := [] } : Role).besideFrames
      ∧ r'.stages = old ++ [st] ∧ old.map (fun p => (p.dest, p.lanes, p.residual)) =
          r2.stages.map (fun p => (p.dest, p.lanes, p.residual))
      ∧ st.instr = i ∧ st.dest = x ∧ st.lanes = r.part f.g ∧ st.cancelled = 0
      ∧ (r.stages = [] → st.residual = rows ∧ st.joined = false)

/-- An instruction of a furrow gives what it would give after every earlier instruction (R138, R140, R141): once the open
instructions have written, its destination holds its result from the values that its sources had in program order, in
every lane in which no earlier stage is cancelled; every other register holds what it holds without it; and an
instruction that is no clamp adds its conditions to FPFLAGS. -/
def Obligations.FurrowKeepsProgramOrder : Prop :=
  ∀ (i : Instr) (f : Says.VecForm) (s t : State) (r r' : Role) (x : Nat) (xs : List Nat) (rows : List (List Lanes)),
    Says.onlineFloat i = some f → i.wf = true → mget s.roles s.cur = some r → r.fpTrapEn = 0 →
    r.frame.vnames (f.d :: f.srcs) = .ok (x :: xs) → r.part f.g ≠ 0 →
    r.settle.readRegs (r.part f.g) xs = .ok rows → r.settle.checkReg x (r.part f.g) = .ok () →
    exec i s = .next t → mget t.roles s.cur = some r' →
    (∀ n, n < 32 * r.groups → (r.part f.g).getLsbD n = true → (∀ st ∈ r.stages, st.cancelled.getLsbD n = false) →
      r'.settle.frame.value x n = (f.res r [] (r.part f.g) rows n).1)
    ∧ (∀ n, n < 32 * r.groups → (r.part f.g).getLsbD n = false →
      r'.settle.frame.value x n = r.settle.frame.value x n)
    ∧ (∀ k, (∀ q, q < r.groups → k ≠ rowKey x q) → mget r'.settle.frame.rows k = mget r.settle.frame.rows k)
    ∧ r'.settle.frames.tail = r.settle.frames.tail ∧ r'.settle.frame.besideRows = r.settle.frame.besideRows
    ∧ (Says.isClamp i = false → (∀ st ∈ r.stages, st.cancelled = 0) →
      Says.flagsAfter r.settle (r.part f.g) (fun n => (f.res r [] (r.part f.g) rows n).2) r'.settle)

/-- PIPE_WRITEBACK (R137, R141, R142): the oldest open instruction of a role that is not stopped, parked or saved writes
its destination in the lanes it was not cancelled in, and adds its flags. -/
def Obligations.OldestStageLands : Prop :=
  ∀ (k : Nat) (s : State) (r : Role) (st : Stage) (rest : List Stage),
    mget s.roles k = some r → r.stages = st :: rest → r.checkReg st.dest st.lanes = .ok () →
    (∀ w, r.status ≠ .parked w) → r.status ≠ .stopped → (∀ w, r.status ≠ .saved w) →
    answers (.pipeWriteback k) s fun t => ∃ r', mget t.roles k = some r' ∧ onlyRole k s t
      ∧ r'.stages.length = rest.length ∧ r'.frames.tail = r.frames.tail
      ∧ (∀ n, n < 32 * r.groups → st.lanes.getLsbD n = true → st.cancelled.getLsbD n = false →
          r'.frame.value st.dest n = laneOfRows (st.results r.groups) n)
      ∧ (∀ n, n < 32 * r.groups → (st.lanes.getLsbD n = false ∨ st.cancelled.getLsbD n = true
            ∧ ∀ row, mget r.frame.rows (rowKey st.dest (n / 32)) = some row → row.tag ≠ poisonTag) →
          r'.frame.value st.dest n = r.frame.value st.dest n)
      ∧ (∀ q, (∀ g, g < r.groups → q ≠ rowKey st.dest g) → mget r'.frame.rows q = mget r.frame.rows q)
      ∧ (∀ n, n < 32 * r.groups → st.lanes.getLsbD n = true → laneOfRows (st.results r.groups) n =
          BitVec.ofNat 32 (onlineFn st.instr (st.residual.map fun y => (laneOfRows y n).toNat)).1)

/-- Sums, products and fused products of finite FP32 numbers (R123, R124, R193): the exact result rounded once in the
direction of the rounding field; any NaN operand gives the canonical NaN (R117). -/
def Obligations.SumsAndProductsRoundOnce : Prop :=
  (∀ (r : Rnd) (x y z : BitVec 32) (p q t : Int),
    Says.units x.toNat = some p → Says.units y.toNat = some q → Says.units z.toNat = some t →
    Says.roundedOnce r.toNat 0 (p + q) (Fmt.f32.add r.toNat (Fmt.f32.decode x.toNat) (Fmt.f32.decode y.toNat))
    ∧ Says.roundedOnce r.toNat 149 (p * q) (Fmt.f32.mul r.toNat (Fmt.f32.decode x.toNat) (Fmt.f32.decode y.toNat))
    ∧ Says.roundedOnce r.toNat 149 (p * q + t * 2 ^ 149)
        (Fmt.f32.fma r.toNat (Fmt.f32.decode x.toNat) (Fmt.f32.decode y.toNat) (Fmt.f32.decode z.toNat)))
  ∧ ∀ (r : Rnd) (b : Bool) (v : FVal),
    (Fmt.f32.add r.toNat (.nan b) v).1 = 0x7FC00000 ∧ (Fmt.f32.add r.toNat v (.nan b)).1 = 0x7FC00000
    ∧ (Fmt.f32.mul r.toNat (.nan b) v).1 = 0x7FC00000 ∧ (Fmt.f32.mul r.toNat v (.nan b)).1 = 0x7FC00000

/-! ## Transfers, calls, divergence, ends and traps (R145 to R164, R388 to R391) -/

namespace Sys2Proof.Says

/-- The role after a structured divergence or a transfer, but for its place, mask and mask stack. -/
def besideMask (r : Role) : Role := { r with mask := 0, stack := [], presence := 0 }.besideFrames

/-- When a transfer to a literal target is taken (R146). -/
def branching : Instr → Option (Target × (Role → Bool))
  | .bra t g => some (t, fun r => r.active &&& r.frame.pred g != 0)
  | .brcAny t g => some (t, fun r => r.active &&& r.frame.pred g != 0)
  | .brcAll t g => some (t, fun r => r.active != 0 && r.active &&& ~~~(r.frame.pred g) == 0)
  | .brcNone t g => some (t, fun r => r.active &&& r.frame.pred g == 0)
  | _ => none

/-- A target's address: a word offset from the instruction's own word (R62). -/
def targetAt (r : Role) (t : Target) : BitVec 64 := r.hdr + BitVec.ofNat 64 (4 * r.off) + 4 * t.signExtend 64

/-- The target is a multiple of 4, mapped with execute permission, and a well-formed header (R145). -/
def goodTarget (s : State) (r : Role) (a : Nat) : Prop :=
  a % 4 = 0 ∧ ∃ w, (s.fetch r a).1 = .word w ∧ headerFault w = none

/-- The first check of R145 that a target fails. -/
def badTarget (s : State) (r : Role) (a : Nat) (c : Imm8) : Prop :=
  if a % 4 ≠ 0 then c = causeAlign
  else (s.fetch r a).1 = .fault c ∨ ∃ w, (s.fetch r a).1 = .word w ∧ headerFault w = some c

/-- The lanes of a mask with the lowest one only, and without it (R158). -/
def lowestOnly (m : Mask) : Mask := m &&& -m

/-- A structured divergence instruction (R156 to R158): from the mask, the mask stack (newest entry first) above the
frame's mask base, and the entries below it, the new mask and stack, with the target when it is taken; none for a
mask-stack fault. c holds the lanes where predicate and guard are true. -/
def divergence (r : Role) : Instr → Option (Option (Mask × List MaskEntry × Option Target))
  | .ifp a t g =>
    let c := r.mask &&& r.frame.pred a &&& r.frame.pred g
    some (if 32 ≤ r.stack.length then none
      else some (c, ⟨.ifK, r.mask, r.mask &&& ~~~c, false⟩ :: r.stack, if c = 0 then some t else none))
  | .elsep t => some (match above, r.stack with
    | true, ⟨.ifK, saved, pend, false⟩ :: rest =>
      some (pend, ⟨.ifK, saved, 0, true⟩ :: rest, if pend = 0 then some t else none)
    | _, _ => none)
  | .endif => some (match above, r.stack with
    | true, ⟨.ifK, saved, _, _⟩ :: rest => some (saved, rest, none)
    | _, _ => none)
  | .loop t => some (if 32 ≤ r.stack.length then none
      else if r.mask = 0 then some (0, r.stack, some t)
      else some (r.mask, ⟨.loopK, r.mask, 0, false⟩ :: r.stack, none))
  | .brk a g => some (leave (r.mask &&& r.frame.pred a &&& r.frame.pred g) false)
  | .cont a g => some (leave (r.mask &&& r.frame.pred a &&& r.frame.pred g) true)
  | .endl t => some (match above, r.stack with
    | true, ⟨.loopK, saved, pend, e⟩ :: rest =>
      if r.mask ||| pend = 0 then some (saved, rest, none)
      else some (r.mask ||| pend, ⟨.loopK, saved, 0, e⟩ :: rest, some t)
    | _, _ => none)
  | .serb => some (if 32 ≤ r.stack.length then none
      else some (lowestOnly r.mask, ⟨.serK, r.mask, r.mask &&& ~~~(lowestOnly r.mask), false⟩ :: r.stack, none))
  | .sere t => some (match above, r.stack with
    | true, ⟨.serK, saved, pend, e⟩ :: rest =>
      if pend = 0 then some (saved, rest, none)
      else some (lowestOnly pend, ⟨.serK, saved, pend &&& ~~~(lowestOnly pend), e⟩ :: rest, some t)
    | _, _ => none)
  | _ => none
where
  above : Bool := r.frame.link.maskBase < r.stack.length
  leave (x : Mask) (toPend : Bool) : Option (Mask × List MaskEntry × Option Target) :=
    let upper := r.stack.take (r.stack.length - r.frame.link.maskBase)
    let ifs := upper.takeWhile fun e => e.kind == .ifK
    match upper.drop ifs.length with
    | ⟨.loopK, saved, pend, e⟩ :: _ =>
      some (r.mask &&& ~~~x,
        ifs.map (fun e => { e with saved := e.saved &&& ~~~x, pend := e.pend &&& ~~~x })
          ++ ⟨.loopK, saved, if toPend then pend ||| x else pend, e⟩ :: r.stack.drop (ifs.length + 1), none)
    | _ => none

/-- The role holds this mask and stack, with presence bit g set exactly when group g has a lane (R154). -/
def masked (r r' : Role) (m : Mask) (st : List MaskEntry) : Prop :=
  r'.mask = m ∧ r'.stack = st ∧ besideMask r' = besideMask r ∧ r'.frames = r.frames
    ∧ (r.groups ≤ 32 → ∀ g, g < r.groups → r'.presence.getLsbD g = (groupMask m g != 0))

end Sys2Proof.Says

/-- BRA, BRC and BRX (R62, R67, R145 to R147): the words of BRA and BRC, b values 3 to 127 of which raise ILLOP; not
taken, the run goes on; taken to a good target, the run ends and the role is ready at it; a target that fails a check stops
the role at the transfer with the address. -/
def Obligations.Branches : Prop :=
  (∀ (t : Target) (g : PReg) (b : BitVec 7) (rest : List Word),
    decode ((0#1 ++ 0x01#7 ++ 0#21 ++ g) :: (2#2 ++ t) :: rest) = .ok (.bra t g, 2)
    ∧ decode ((0#1 ++ 0x02#7 ++ 0#14 ++ b ++ g) :: (2#2 ++ t) :: rest) = (match b.toNat with
      | 0 => .ok (.brcAny t g, 2)
      | 1 => .ok (.brcAll t g, 2)
      | 2 => .ok (.brcNone t g, 2)
      | _ => .error causeIllop))
  ∧ (∀ (i : Instr) (t : Target) (taken : Role → Bool) (s : State) (r : Role),
    Says.branching i = some (t, taken) → mget s.roles s.cur = some r →
    (taken r = false → answers i s fun u => ∃ r', mget u.roles s.cur = some r' ∧ onlyRole s.cur s u
        ∧ r'.still = r.still ∧ r.wentOn 2 r')
    ∧ (taken r = true → Says.goodTarget s r (Says.targetAt r t).toNat →
        answers i s fun u => ∃ r', mget u.roles s.cur = some r' ∧ onlyRoleAndFetch s.cur s u
          ∧ r'.still = r.still ∧ Role.wentTo (Says.targetAt r t) r')
    ∧ ∀ c, taken r = true → Says.badTarget s r (Says.targetAt r t).toNat c →
        ∃ s1, onlyRoleAndFetch s.cur s s1 ∧ mget s1.roles s.cur = some r ∧
          exec i s = .next (takeTrap s1 s.cur { cause := c, addr := some (Says.targetAt r t).toNat }))
  ∧ ∀ (a : SReg) (g : PReg) (s : State) (r : Role), mget s.roles s.cur = some r → a.toNat < r.frame.sc →
    (r.part g = 0 → answers (.brx a g) s fun u => ∃ r', mget u.roles s.cur = some r' ∧ onlyRole s.cur s u
        ∧ r'.still = r.still ∧ r.wentOn 1 r')
    ∧ ∀ v, r.part g ≠ 0 → r.frame.readS r.tagTrap a.toNat = .ok v →
      (Says.goodTarget s r v.toNat → answers (.brx a g) s fun u => ∃ r', mget u.roles s.cur = some r'
          ∧ onlyRoleAndFetch s.cur s u ∧ r'.still = r.still ∧ Role.wentTo v r')
      ∧ ∀ c, Says.badTarget s r v.toNat c → ∃ s1, onlyRoleAndFetch s.cur s s1 ∧ mget s1.roles s.cur = some r
          ∧ exec (.brx a g) s = .next (takeTrap s1 s.cur { cause := c, addr := some v.toNat })

namespace Sys2Proof.Says

/-- A call with its demand (R148, R149): V, S and where the target comes from. -/
def calling : Instr → Option (Demand × PReg × (Role → Option (BitVec 64)))
  | .callf t dem g => some (dem, g, fun r => some (targetAt r t))
  | .callx a dem g => some (dem, g, fun r => match r.frame.sname a.toNat with
    | .ok x => (r.frame.readS r.tagTrap x).toOption
    | .error _ => none)
  | _ => none

/-- V and S of a demand (R148). -/
def demandOf (dem : Demand) : Nat × Nat := (8 * (dem.extractLsb' 0 7).toNat, 4 * (dem.extractLsb' 7 5).toNat)

/-- What a call asks of the state (R148): a participating lane, no flag-A operation outstanding, a target that is read,
a caller with 64 scalars. -/
def callReady (s : State) (r : Role) (g : PReg) : Prop :=
  mget s.roles s.cur = some r ∧ r.part g ≠ 0 ∧ s.flagAOut s.cur = false

/-- The number of frames that a return pops (R150, R151). -/
def returning : Instr → Option (Int × PReg)
  | .retf g => some (1, g)
  | .unwind n g => some (n.toInt, g)
  | _ => none

end Sys2Proof.Says

/-- CALLF and CALLX (R20, R28, R31 to R33, R148, R149): with a target, rows and a generation at hand, a frame of the
demand is pushed under a generation no one holds, the caller keeps its mask and mask stack, and the run ends at the
target; without rows the role parks on a frame request. What is not allowed stops the role with nothing allocated. -/
def Obligations.Calls : Prop :=
  ∀ (i : Instr) (dem : Demand) (g : PReg) (at' : Role → Option (BitVec 64)) (s : State) (r r2 : Role) (a : BitVec 64)
    (v sc : Nat),
    Says.calling i = some (dem, g, at') → Says.callReady s r g → at' r = some a → (v, sc) = Says.demandOf dem →
    r2 = r.settle →
    (r2.frame.sc = 64 → r2.frames.length < 62 → (∀ b, r2.budget = some b → r2.liveV + v ≤ b) →
      Says.goodTarget s r a.toNat → (s.core r.core).frameReqs = [] →
      (∀ gen c, (s.core r.core).fits r.core (callNeed r.groups v sc) = true → (s.core r.core).nextGen = some (gen, c) →
        answers i s fun t => ∃ r', mget t.roles s.cur = some r' ∧ Role.wentTo a r'
          ∧ sameBytes s t ∧ (∀ j, j ≠ s.cur → mget t.roles j = mget s.roles j) ∧ t.ops = s.ops
          ∧ r'.frames = r2.frame.callee s.free r.groups v sc gen (r.hdr + BitVec.ofNat 64 (4 * (hdrLen r.hdrWord + 1)))
              (r2.frames.length + 1) r.stack.length :: r2.frame.withoutOut :: r2.frames.tail
          ∧ r'.mask = r.mask ∧ r'.stack = r.stack ∧ r'.stages = []
          ∧ (t.core r.core).genLive = gen :: (s.core r.core).genLive)
      ∧ ((s.core r.core).fits r.core (callNeed r.groups v sc) = false →
        answers i s fun t => ∃ r' ret, mget t.roles s.cur = some r' ∧ r'.status = .parked (.frame (.call v sc a ret))
          ∧ r'.frames = r2.frames ∧ (t.core r.core).frameReqs = [s.cur]))
    ∧ (r2.frame.sc ≠ 64 → exec i s = .next (takeTrap (s.setRole s.cur r2) s.cur { cause := causeRegfield }))
    ∧ (r2.frame.sc = 64 → 62 ≤ r2.frames.length →
        exec i s = .next (takeTrap (s.setRole s.cur r2) s.cur { cause := causeFramelimit }))
    ∧ (r2.frame.sc = 64 → r2.frames.length < 62 → ∀ b, r2.budget = some b → b < r2.liveV + v →
        exec i s = .next (takeTrap (s.setRole s.cur r2) s.cur { cause := causeFramelimit, info := 1 }))

/-- The argument overlap (R32, R34): v0 to v7 and s0 to s7 of a callee are the caller's v120 to v127 and s56 to s63, the
rest of its frame reads as zero; a return gives the caller back that block as the callee left it, and all else as it
was. A passed row that the frame passing it has not written is void. -/
def Obligations.ArgumentOverlap : Prop :=
  ∀ (f c : Frame) (use groups v sc : Nat) (gen : BitVec 16) (ret : BitVec 64) (depth base : Nat),
    groups ≤ 32 → sortedFrom none f.rows = true → sortedFrom none c.rows = true →
    sortedFrom none f.grans = true → sortedFrom none c.grans = true →
    16 ≤ f.v → f.gen ≠ poisonTag → f.gen ≠ voidTag →
    gen ≠ poisonTag → gen ≠ voidTag → c.gen ≠ poisonTag → c.gen ≠ voidTag →
    (∀ x n, x < 8 → n < 32 * groups →
      (f.callee use groups v sc gen ret depth base).value x n = f.value (f.v - 8 + x) n)
    ∧ (∀ x n, 8 ≤ x → n < 1024 → (f.callee use groups v sc gen ret depth base).value x n = 0)
    ∧ (∀ x n, x < 8 → n < 32 * groups → (f.takeBack c use groups).value (f.v - 8 + x) n = c.value x n)
    ∧ (∀ x n, x < f.v - 8 → n < 1024 → (f.takeBack c use groups).value x n = f.value x n)
    ∧ (∀ k, k < 8 → (f.callee use groups v sc gen ret depth base).svalue k = f.svalue (56 + k))
    ∧ (∀ k, 8 ≤ k → (f.callee use groups v sc gen ret depth base).svalue k = 0)
    ∧ (∀ k, k < 8 → (f.takeBack c use groups).svalue (56 + k) = c.svalue k)
    ∧ (∀ k, k < 56 → (f.takeBack c use groups).svalue k = f.svalue k)
    ∧ (∀ x g, x < 8 → g < groups → mget f.rows (rowKey (f.v - 8 + x) g) = none →
      (mget (f.callee use groups v sc gen ret depth base).rows (rowKey x g)).map (·.tag) = some voidTag)
    ∧ (∀ x g, x < 8 → g < groups → mget c.rows (rowKey x g) = none →
      (mget (f.takeBack c use groups).rows (rowKey (f.v - 8 + x) g)).map (·.tag) = some voidTag)

/-- RETF and UNWIND (R34, R35, R150, R151, R159): the frames above the one returned to go and their generations retire,
the mask stack is cut back to the outermost popped frame's base with the mask it saved, and the run ends at its return
point; a link record that is lost stops the role with REGLOSS (R44); UNWIND of a number out of range stops with
FRAMELIMIT; WINB sets the window base (R152). -/
def Obligations.ReturnsAndWindows : Prop :=
  (∀ (i : Instr) (n : Int) (k : Nat) (g : PReg) (s : State) (r : Role) (outer caller : Frame),
    Says.returning i = some (n, g) → mget s.roles s.cur = some r → r.part g ≠ 0 → s.flagAOut s.cur = false →
    n = k → 0 < k → r.frames[k - 1]? = some outer → r.frames[k]? = some caller → caller.spilled = none →
    Says.goodTarget s r outer.link.ret.toNat →
    (outer.hiddenTag linkUnit = poisonTag →
      exec i s = .next (takeTrap (s.setRole s.cur r.settle) s.cur { cause := causeRegloss }))
    ∧ (outer.hiddenTag linkUnit ≠ poisonTag → (s.core r.core).spill.map (·.gen) ≠ some caller.gen →
    answers i s fun t => ∃ r', mget t.roles s.cur = some r' ∧ Role.wentTo outer.link.ret r'
      ∧ sameBytes s t ∧ (∀ j, j ≠ s.cur → mget t.roles j = mget s.roles j) ∧ t.ops = s.ops
      ∧ r'.frames.length = r.frames.length - k ∧ r'.frames.tail = r.frames.drop (k + 1)
      ∧ r'.frame.gen = caller.gen ∧ r'.frame.v = caller.v ∧ r'.frame.sc = caller.sc ∧ r'.frame.w = caller.w
      ∧ r'.frame.preds = caller.preds
      ∧ (∀ f ∈ r.frames.take k, f.gen ∈ (t.core r.core).genRetired)
      ∧ (if outer.link.maskBase < r.stack.length then
          r'.stack = r.stack.drop (r.stack.length - outer.link.maskBase)
            ∧ ∀ e, r.stack[r.stack.length - 1 - outer.link.maskBase]? = some e → r'.mask = e.saved
        else r'.stack = r.stack ∧ r'.mask = r.mask)))
  ∧ (∀ (n : Imm7) (g : PReg) (s : State) (r : Role), mget s.roles s.cur = some r → r.part g ≠ 0 →
      s.flagAOut s.cur = false → (n.toInt < 1 ∨ (r.frames.length : Int) - 1 < n.toInt) → 0 < r.frames.length →
      exec (.unwind n g) s = .next (takeTrap (s.setRole s.cur r.settle) s.cur { cause := causeFramelimit, info := 4 }))
  ∧ ∀ (w : Imm7) (g : PReg) (s : State) (r : Role), mget s.roles s.cur = some r → r.part g ≠ 0 → 16 ≤ r.frame.v →
      (w.toInt < 0 ∨ (r.frame.v : Int) - 16 < 8 * w.toInt →
        exec (.winb w g) s = .next (takeTrap s s.cur { cause := causeRegfield }))
      ∧ (0 ≤ w.toInt → 8 * w.toInt ≤ (r.frame.v : Int) - 16 → s.flagAOut s.cur = false →
        answers (.winb w g) s fun t => ∃ r', mget t.roles s.cur = some r' ∧ onlyRole s.cur s t ∧ r.wentOn 1 r'
          ∧ r'.frame = { r.settle.frame with w := 8 * w.toNat } ∧ r'.frames.tail = r.frames.tail ∧ r'.stages = [])

/-- The structured divergence instructions (R154 to R158), whether or not a lane is active: mask and mask stack as
divergence gives them; a mask-stack fault stops the role with nothing changed. -/
def Obligations.StructuredDivergence : Prop :=
  ∀ (i : Instr) (x : Option (Mask × List MaskEntry × Option Target)) (s : State) (r : Role),
    mget s.roles s.cur = some r → Says.divergence r i = some x →
    match x with
    | none => exec i s = .next (takeTrap s s.cur { cause := causeFramelimit, info := 3 })
    | some (m, st, none) => answers i s fun t => ∃ r', mget t.roles s.cur = some r' ∧ onlyRole s.cur s t
        ∧ Says.masked r r' m st ∧ r.wentOn (encode i).length r'
    | some (m, st, some tg) => Says.goodTarget s r (Says.targetAt r tg).toNat →
        answers i s fun t => ∃ r', mget t.roles s.cur = some r' ∧ onlyRoleAndFetch s.cur s t
          ∧ Says.masked r r' m st ∧ Role.wentTo (Says.targetAt r tg) r'

/-- EXIT, and RETF of a root frame (R160): without an outstanding flag-A operation the role ends, its generations
retire and its slot is free; with one the role is held at the instruction (R65, R74). -/
def Sys2Proof.Says.exitEndsTheRole : Prop :=
  ∀ (i : Instr) (g : PReg) (s : State) (r : Role),
    (i = .exit g ∨ i = .retf g ∧ r.frames.length ≤ 1) → mget s.roles s.cur = some r →
    (i = .exit g → r.part g = 0 → answers i s fun t => ∃ r', mget t.roles s.cur = some r' ∧ onlyRole s.cur s t
        ∧ r'.still = r.still ∧ r.wentOn 1 r')
    ∧ (r.part g ≠ 0 → s.flagAOut s.cur = false → answers i s fun t =>
        mget t.roles s.cur = none ∧ (∀ f ∈ r.frames, f.gen ∈ (t.core r.core).genRetired)
        ∧ (∀ p ∈ (t.core r.core).slots, p.2 ≠ s.cur) ∧ (t.core r.core).running ≠ some s.cur)
    ∧ (r.part g ≠ 0 → s.flagAOut s.cur = true → answers i s fun t => ∃ r', mget t.roles s.cur = some r'
        ∧ r'.status = .held .start ∧ r'.hdr = r.hdr ∧ r'.off = r.off ∧ r'.frames = r.frames)

/-- NOP, YIELD and WAITF (R64, R66, R68, R69, R163, R164): NOP has no effect; an instruction that goes on takes its role
to the next word, and past the last word of the run to the header that follows it, ready. YIELD ends the run after itself
and the role stays ready, its start after that of others; WAITF goes on when every flag of its mask is clear and parks
on them otherwise; neither has another effect, and without a participating lane none. -/
def Sys2Proof.Says.nopsYieldsAndFlagWaits : Prop :=
  (∀ (g : PReg) (s : State) (r : Role), mget s.roles s.cur = some r →
    answers (.nop g) s fun t => ∃ r', mget t.roles s.cur = some r' ∧ onlyRole s.cur s t
      ∧ r'.still = r.still ∧ r.wentOn 1 r')
  ∧ (∀ (g : PReg) (m : BitVec 12) (s : State) (r : Role), mget s.roles s.cur = some r →
    (r.part g ≠ 0 → answers (.yield g) s fun t => ∃ r', mget t.roles s.cur = some r' ∧ onlyRole s.cur s t
      ∧ r'.still = r.still ∧ r'.yielded = true ∧ r'.status = .ready
      ∧ if hdrLen r.hdrWord < r.off + 1 then r'.hdr = r.fallThrough ∧ r'.off = 0
        else r'.hdr = r.hdr ∧ r'.off = r.off + 1)
    ∧ (r.part g = 0 → answers (.yield g) s fun t => ∃ r', mget t.roles s.cur = some r' ∧ onlyRole s.cur s t
      ∧ r'.still = r.still ∧ r.wentOn 1 r')
    ∧ (r.part g = 0 ∨ (∀ f, f < 12 → m.getLsbD f = true → r.flags.getD f 0 = 0) →
      answers (.waitf m g) s fun t => ∃ r', mget t.roles s.cur = some r' ∧ onlyRole s.cur s t
        ∧ r'.still = r.still ∧ r.wentOn 2 r')
    ∧ (r.part g ≠ 0 → (∃ f, f < 12 ∧ m.getLsbD f = true ∧ r.flags.getD f 0 ≠ 0) →
      answers (.waitf m g) s fun t => ∃ r', mget t.roles s.cur = some r' ∧ onlyRole s.cur s t
        ∧ r'.status = .parked (.flags m) ∧ r'.hdr = r.hdr ∧ r'.off = r.off))

/-- TRAP, SVC and BKPT (R161, R162, R388, R390) complete in every state: with a participating lane the trap is their own
effect, and the role stands where it resumes: at TRAP, past SVC's literal, past BKPT. INFO is 1 for TRAP and SVC's number
for SVC. Without a participating lane they go on and do nothing else. -/
def Sys2Proof.Says.softwareTraps : Prop :=
  ∀ (c : Imm7) (n : BitVec 30) (g : PReg) (s : State) (r : Role), mget s.roles s.cur = some r →
    (r.part g = 0 → ∀ i, i = .trap c g ∨ i = .svc n g ∨ i = .bkpt g → ∃ t r', exec i s = .next t
      ∧ mget t.roles s.cur = some r' ∧ onlyRole s.cur s t ∧ r'.still = r.still ∧ r.wentOn (encode i).length r')
    ∧ (r.part g ≠ 0 →
      (∃ t r', exec (.trap c g) s = .next t ∧ mget t.roles s.cur = some r' ∧ Role.stoppedAt r.hdr r.off r'
          ∧ t = takeTrap s s.cur { cause := c.setWidth 8, info := 1 })
      ∧ (∃ t r', exec (.svc n g) s = .next t ∧ mget t.roles s.cur = some r' ∧ Role.stoppedAt r.hdr (r.off + 2) r'
          ∧ t = takeTrap s s.cur { cause := causeSvc, info := n.toNat, resume := some (r.off + 2) })
      ∧ (∃ t r', exec (.bkpt g) s = .next t ∧ mget t.roles s.cur = some r' ∧ Role.stoppedAt r.hdr (r.off + 1) r'
          ∧ t = takeTrap s s.cur { cause := causeBkpt, resume := some (r.off + 1) }))

/-- Taking a trap (R77, R142, R388, R390, R391): the role stops with its registers, mask, flags and furrow stages as they
are; the trap record in its block holds the address of the faulting word, the cause, the lane, the address and INFO;
and its interface has an unanswered record under a fresh token, written to the fault ring when that has a place; a memory
that keeps its form is otherwise as before. -/
def Sys2Proof.Says.takingATrap : Prop :=
  ∀ (s : State) (k : Nat) (r : Role) (t : Trap),
    mget s.roles k = some r → t.deferred = false → t.source = none → t.detail = [] → t.info < 2 ^ 64 →
    (∃ r', mget (takeTrap s k t).roles k = some r' ∧ Role.stoppedAt r.hdr (t.resume.getD r.off) r'
      ∧ r'.frames = r.landLone.frames ∧ r'.stages = r.landLone.stages ∧ r'.mask = r.mask ∧ r'.stack = r.stack
      ∧ r'.flags = r.flags ∧ r'.deferred = r.deferred)
    ∧ (∀ j, j ≠ k → mget (takeTrap s k t).roles j = mget s.roles j)
    ∧ (takeTrap s k t).ops = s.ops
    ∧ ∀ b p, r.block = some b → r.plot.bind (mget s.plots) = some p → s.poison = [] → s.memOk = true →
      let m := (takeTrap s k t).ram
      let i := s.iface p.vi
      rdLE m b 8 = r.pc.toNat ∧ rdByte m (b + 8) = t.cause
      ∧ rdByte m (b + 9) = BitVec.ofNat 8 (2 * t.lane.isSome.toNat + 4 * t.addr.isSome.toNat + 8 * t.more.toNat)
      ∧ rdLE m (b + 12) 4 = t.lane.getD 0 % 2 ^ 32 ∧ rdLE m (b + 16) 8 = t.addr.getD 0 % 2 ^ 64
      ∧ rdLE m (b + 24) 8 = t.info ∧ rdLE m (b + 0x100) 8 = r.hdr.toNat
      ∧ rdByte m (b + 0x108) = BitVec.ofNat 8 (t.resume.getD r.off)
      ∧ (∀ a, a < b → rdByte m a = rdByte s.ram a)
      ∧ (r.stack.length ≤ 32 → r.flags.length = 12 → r.landLone.stages = [] →
        ∀ a, b + 0x10000 ≤ a → rdByte m a = rdByte s.ram a)
      ∧ ∃ tok, tok < 65536 ∧ (i.faults.length < 65536 → ∀ f ∈ i.faults, f.token ≠ tok)
        ∧ ((takeTrap s k t).iface p.vi).faults = i.faults ++ [⟨tok, p.asid, 0, 5, some k, []⟩]

/-- Going on, waiting on flags, yielding and ending (R64 to R69, R160, R163, R164): NOP only goes on, YIELD ends the run,
WAITF parks until its flags are clear, EXIT ends the role and gives back what it held. -/
def Obligations.NopYieldWaitfAndExit : Prop := Says.nopsYieldsAndFlagWaits ∧ Says.exitEndsTheRole

/-- Traps (R77, R142, R161, R162, R388, R390, R391): the software traps, and what taking any trap does. -/
def Obligations.SoftwareTrapsAndTakingATrap : Prop := Says.softwareTraps ∧ Says.takingATrap

/-! ## System registers, caches, the crypto engines and the debug path (R44, R47, R107, R127, R165 to R174, R229) -/

namespace Sys2Proof.Says

/-- Scalar registers from n on hold new values, and nothing else of the role has changed but its place. -/
def wroteS (r r' : Role) (n : Nat) (vs : List (BitVec 64)) : Prop :=
  r'.besideFrames = r.besideFrames ∧ r'.frames.tail = r.frames.tail ∧ r'.frame.besideGrans = r.frame.besideGrans
    ∧ ∀ k, r'.frame.svalue k = if n ≤ k ∧ k < n + vs.length then vs.getD (k - n) 0 else r.frame.svalue k

/-- The value of a system register (R107). -/
def sysValue (s : State) (r : Role) (n : Imm7) : BitVec 64 :=
  match n.toNat with
  | 0x00 => BitVec.ofNat 64 r.roleId
  | 0x01 => BitVec.ofNat 64 r.frame.w
  | 0x02 => BitVec.ofNat 64 r.frames.length
  | 0x03 => BitVec.ofNat 64 (64 * (r.core / 48) + 4 * (r.core % 48 / 4) + r.core % 4)
  | 0x04 => BitVec.ofNat 64 r.relocs
  | 0x05 => BitVec.ofNat 64 r.slot
  | 0x06 => BitVec.ofNat 64 r.groups
  | 0x07 => BitVec.ofNat 64 r.teamIdx
  | 0x08 => BitVec.ofNat 64 r.gridSize
  | 0x09 => BitVec.ofNat 64 ((s.core r.core).slotOf r.plot)
  | 0x0A => r.fpflags.setWidth 64
  | 0x0B => r.opflags.setWidth 64
  | 0x0C => r.frame.gen.setWidth 64
  | 0x0D => s.rank.setWidth 64
  | 0x0E => BitVec.ofNat 64 (s.rosterVer r)
  | 0x0F => (BitVec.ofBool r.tagTrap).setWidth 64
  | _ => r.args.getD (n.toNat - 16) 0

/-- The role at which an access of a system register is made: FPFLAGS waits for the open instructions (R127). -/
def sysRole (r : Role) (n : Imm7) : Role := if n = 0x0A then r.settle else r

/-- A core but also for its L1 and what R281 counts of it. -/
def besideL1 (c : Core) : Core := { c.rest with l1 := [], victims := [], lost := [] }

/-- Role k alone has changed, and the L1 of cores. -/
def onlyRoleAndL1 (k : Nat) (s t : State) : Prop :=
  sameBytes s t ∧ (∀ j, j ≠ k → mget t.roles j = mget s.roles j) ∧ (∀ c, besideL1 (t.core c) = besideL1 (s.core c))
    ∧ t.ops.map MemOp.pending = s.ops.map MemOp.pending ∧ t.beside = s.beside

end Sys2Proof.Says

/-- RDSR, WRSR and CLOCK (R107, R127, R165, R166): RDSR writes the register's value, GENCUR under privilege only; WRSR
replaces FPFLAGS or OPFLAGS; CLOCK writes the die's clock. FPFLAGS is reached once open instructions have written, OPFLAGS
once matrix work and COLLs have finished,
the instruction waiting in place until then; without a participating lane nothing happens. -/
def Obligations.SystemRegisters : Prop :=
  ∀ (d a : SReg) (n : Imm7) (g : PReg) (s : State) (r r1 : Role),
    mget s.roles s.cur = some r → r.frame.gen ≠ poisonTag → r1 = Says.sysRole r n →
    d.toNat < r.frame.sc → a.toNat < r.frame.sc → (Instr.rdsr d n g).wf = true →
    (r.part g = 0 → ∀ i, (i = .rdsr d n g ∨ i = .wrsr a n g ∨ i = .clock d g) → answers i s fun t =>
        ∃ r', mget t.roles s.cur = some r' ∧ onlyRole s.cur s t ∧ r'.still = r.still ∧ r.wentOn 1 r')
    ∧ (r.part g ≠ 0 → r.frame.checkS d.toNat 1 = .ok () →
        answers (.clock d g) s fun t => ∃ r', mget t.roles s.cur = some r' ∧ onlyRole s.cur s t ∧ r.wentOn 1 r'
          ∧ Says.wroteS r r' d.toNat [BitVec.ofNat 64 s.clock])
    ∧ (r.part g ≠ 0 → r.frame.checkS d.toNat 1 = .ok () → (n = 0x0C → r.priv = true) →
        (n = 0x0B → s.opPending s.cur = false) →
        answers (.rdsr d n g) s fun t => ∃ r', mget t.roles s.cur = some r' ∧ onlyRole s.cur s t ∧ r1.wentOn 1 r'
          ∧ Says.wroteS r1 r' d.toNat [Says.sysValue s r1 n])
    ∧ (r.part g ≠ 0 → r.priv = false →
        exec (.rdsr d 0x0C g) s = .next (takeTrap s s.cur { cause := causePerm }))
    ∧ (∀ v, r.part g ≠ 0 → r.frame.readS r.tagTrap a.toNat = .ok v →
        (n = 0x0A → answers (.wrsr a n g) s fun t => ∃ r', mget t.roles s.cur = some r' ∧ onlyRole s.cur s t
          ∧ r1.wentOn 1 r' ∧ r'.fpflags = v.setWidth 5 ∧ r'.besideFlags = r1.besideFlags ∧ r'.frames = r1.frames)
        ∧ (n = 0x0B → s.opPending s.cur = false → answers (.wrsr a n g) s fun t => ∃ r',
          mget t.roles s.cur = some r' ∧ onlyRole s.cur s t ∧ r1.wentOn 1 r'
          ∧ r'.still = { r1.still with opflags := v.setWidth 2 })
        ∧ (n = 0x0B → s.opPending s.cur = true → ∀ i, i = .rdsr d n g ∨ i = .wrsr a n g → exec i s = .next s))

/-- The cache instructions and PREF (R55, R167, R227, R229) complete in every state whose operands can be read: IINV drops
the named line of the issuing core's instruction cache and no other, IINVALL all of them, L1INV its first-level lines; PREF
fills the first-level cache and traps for nothing but its names. None changes a register, and none a byte of memory but PREF
where a page is first reached. -/
def Obligations.CachesAndPrefetch : Prop :=
  ∀ (a : SReg) (x : VReg) (b : BufSel) (g : PReg) (s : State) (r : Role), mget s.roles s.cur = some r →
    (∀ v, a.toNat < r.frame.sc → r.part g ≠ 0 → r.frame.readS r.tagTrap a.toNat = .ok v →
      ∃ t r', exec (.cacheIinv a g) s = .next t ∧ mget t.roles s.cur = some r' ∧ onlyRoleAndFetch s.cur s t
        ∧ r'.still = r.still ∧ r.wentOn 1 r'
        ∧ (v.toNat < 2 ^ 52 → mget (t.core r.core).icache (lineKey (s.space r) v.toNat) = none)
        ∧ (∀ k, k ≠ lineKey (s.space r) v.toNat → mget (t.core r.core).icache k = mget (s.core r.core).icache k)
        ∧ ∀ c, c ≠ r.core → (t.core c).icache = (s.core c).icache)
    ∧ (a.toNat < r.frame.sc → r.part g = 0 → ∃ t r', exec (.cacheIinv a g) s = .next t ∧ mget t.roles s.cur = some r'
        ∧ onlyRole s.cur s t ∧ r'.still = r.still ∧ r.wentOn 1 r')
    ∧ (∃ t r', exec (.cacheIinvall a g) s = .next t ∧ mget t.roles s.cur = some r' ∧ onlyRoleAndFetch s.cur s t
        ∧ r'.still = r.still ∧ r.wentOn 1 r' ∧ (r.part g ≠ 0 → (t.core r.core).icache = [])
        ∧ ∀ c, c ≠ r.core ∨ r.part g = 0 → (t.core c).icache = (s.core c).icache)
    ∧ (∃ t r', exec (.cacheL1inv a g) s = .next t ∧ mget t.roles s.cur = some r' ∧ Says.onlyRoleAndL1 s.cur s t
        ∧ r'.still = r.still ∧ r.wentOn 1 r' ∧ (r.part g ≠ 0 → (t.core r.core).l1 = [])
        ∧ ∀ c, c ≠ r.core ∨ r.part g = 0 → (t.core c).l1 = (s.core c).l1)
    ∧ (∀ base y r1, r.frame.bname b = .ok base → r.frame.vname x = .ok y → r1 = r.settleFor [y] →
      ∃ t r', exec (.pref x b g) s = .next t ∧ mget t.roles s.cur = some r' ∧ r'.still = r1.still ∧ r1.wentOn 1 r'
        ∧ (∀ j, j ≠ s.cur → mget t.roles j = mget s.roles j) ∧ t.ops = s.ops
        ∧ ((∀ rc rows l va, r1.readRec base = .ok rc → r1.readReg y (r1.part g) = .ok rows →
            (s.setRole s.cur r1).laneOut r1 { acc := .rd, size := 1, via := .record rc false, locks := false } l
              (indexOf rows l) ≠ .walk va false) → Says.onlyRoleAndL1 s.cur s t))

namespace Sys2Proof.Says

/-- The role is held past an instruction of one word, its run ended there (R65). -/
def heldPast (r r' : Role) (h : HoldOn) : Prop :=
  r'.status = .held h ∧ r'.still = r.still
    ∧ if hdrLen r.hdrWord < r.off + 1 then r'.hdr = r.fallThrough ∧ r'.off = 0 else r'.hdr = r.hdr ∧ r'.off = r.off + 1

/-- The instruction completes: its request joins the end of its engine's queue and its role is held past it (R170). -/
def cryptoEnters (i : Instr) (s : State) (r : Role) (q : CryptoReq) : Prop :=
  ∃ t r', exec i s = .next t ∧ mget t.roles s.cur = some r' ∧ heldPast r r' (if q.sign then .sign else .hash)
    ∧ sameBytes s t ∧ (∀ j, j ≠ s.cur → mget t.roles j = mget s.roles j) ∧ t.ops = s.ops
    ∧ (t.core r.core).hashQ = (s.core r.core).hashQ ++ (if q.sign then [] else [q])
    ∧ (t.core r.core).signQ = (s.core r.core).signQ ++ (if q.sign then [q] else [])

/-- A request at the head of its engine's queue is served once earlier accesses have been performed: its bytes are read,
its result written, and its role goes on (R168 to R170). -/
def cryptoServed (i : Instr) (core : Nat) (s : State) (q : CryptoReq) (queue : Core → List CryptoReq)
    (rest : List CryptoReq) : Prop :=
  (s.released q.role core q.upto 6 = false → exec i s = .next s)
  ∧ ∀ r bs s1, s.released q.role core q.upto 6 = true → mget s.roles q.role = some r → r.frame.gen ≠ poisonTag →
    (if q.ord then s.acquire core q.scope else s).readSpans r q.alloc q.spans = (bs, s1) →
    r.frame.checkS q.dst.toNat (q.result bs).length = .ok () →
    ∃ t r', exec i s = .next t ∧ mget t.roles q.role = some r' ∧ sameBytes s t
      ∧ (∀ j, j ≠ q.role → mget t.roles j = mget s.roles j) ∧ queue (t.core core) = rest
      ∧ r'.status = .ready ∧ wroteS r r' q.dst.toNat (q.result bs)

end Sys2Proof.Says

/-- HASH and SIGN (R168 to R170) complete: with a good record whose bytes can be reached, the request joins its engine's
queue with its operands, and the role is held past the instruction; when the engine serves it, the result is in the scalars
and the role goes on. A bad mode is ILLOP, a bad extent BOUNDS, bytes that cannot be reached their own trap; without a
participating lane nothing happens. A message hashed in parts has the digest of the whole. -/
def Obligations.HashAndSign : Prop :=
  (∀ (d : SReg) (b : BufSel) (g : PReg) (s : State) (r : Role) (base : Nat) (rc : Rec) (old : List (BitVec 64)),
    mget s.roles s.cur = some r → r.frame.bname b = .ok base → d.toNat + 3 < r.frame.sc →
    (r.part g = 0 → ∃ t r', exec (.hash d b g) s = .next t ∧ mget t.roles s.cur = some r' ∧ onlyRole s.cur s t
      ∧ r'.still = r.still ∧ r.wentOn 1 r')
    ∧ (r.part g ≠ 0 → r.readRec base = .ok rc →
    (if rc.format = 2 ∨ rc.format = 3 then r.frame.readSs r.tagTrap d.toNat 4 = .ok old else old = []) →
    r.frame.checkS d.toNat 4 = .ok () → rc.check r [0, 3] (selRec b) = .ok () →
    (4 ≤ rc.format → exec (.hash d b g) s = .next (takeTrap s s.cur { cause := causeIllop }))
    ∧ (rc.format < 4 → (65536 < rc.extent ∨ ((rc.format = 1 ∨ rc.format = 2) ∧ rc.extent % 64 ≠ 0)
        ∨ rc.format = 3 ∧ (rc.stride1 * 2 ^ 24 + rc.stride0) % 64 ≠ 0) →
        exec (.hash d b g) s = .next (takeTrap s s.cur { cause := causeBounds, info := selRec b }))
    ∧ (rc.format < 4 → rc.extent ≤ 65536 → (rc.format = 1 ∨ rc.format = 2 → rc.extent % 64 = 0) →
        (rc.format = 3 → (rc.stride1 * 2 ^ 24 + rc.stride0) % 64 = 0) →
        (∀ x, s.spanAt r rc (selRec b) rc.extent = .bad x → exec (.hash d b g) s = .next (takeTrap s s.cur x))
        ∧ ∀ ps, s.spanAt r rc (selRec b) rc.extent = .at' ps →
          Says.cryptoEnters (.hash d b g) s r
            ⟨s.cur, d, false, rc.format, rc.stride1 * 2 ^ 24 + rc.stride0, old, none, ps, rc.policy % 4 != 1, selOrd b,
              s.scopeOf b rc, s.next⟩)))
  ∧ (∀ (d a : SReg) (b : BufSel) (g : PReg) (s : State) (r : Role) (base : Nat) (rc : Rec) (dig : List (BitVec 64)),
    mget s.roles s.cur = some r → r.frame.bname b = .ok base → a.toNat + 3 < r.frame.sc → d.toNat + 7 < r.frame.sc →
    (r.part g = 0 → ∃ t r', exec (.sign d a b g) s = .next t ∧ mget t.roles s.cur = some r' ∧ onlyRole s.cur s t
      ∧ r'.still = r.still ∧ r.wentOn 1 r')
    ∧ (r.part g ≠ 0 → r.readRec base = .ok rc → r.frame.readSs r.tagTrap a.toNat 4 = .ok dig →
    r.frame.checkS d.toNat 8 = .ok () → rc.check r [0, 3] (selRec b) = .ok () →
    (rc.extent ≠ 32 → exec (.sign d a b g) s = .next (takeTrap s s.cur { cause := causeBounds, info := selRec b }))
    ∧ (rc.extent = 32 → r.plot.isSome = true →
        (∀ x, s.spanAt r rc (selRec b) 32 = .bad x → exec (.sign d a b g) s = .next (takeTrap s s.cur x))
        ∧ ∀ ps, s.spanAt r rc (selRec b) 32 = .at' ps →
          Says.cryptoEnters (.sign d a b g) s r
            ⟨s.cur, d, true, 0, 0, dig, none, ps, rc.policy % 4 != 1, selOrd b, s.scopeOf b rc, s.next⟩)
    ∧ (rc.extent = 32 → r.plot = none → ∀ n key, n < 8 → rc.base = keyWindow + 32 * n → s.fusedKey n = some key →
        Says.cryptoEnters (.sign d a b g) s r ⟨s.cur, d, true, 0, 0, dig, some key, [], false, false, 2, s.next⟩)))
  ∧ (∀ (core : Nat) (s : State) (q : CryptoReq) (rest : List CryptoReq),
    ((s.core core).hashQ = q :: rest → Says.cryptoServed (.hashComplete core) core s q Core.hashQ rest)
    ∧ ((s.core core).signQ = q :: rest → Says.cryptoServed (.signComplete core) core s q Core.signQ rest))
  ∧ ∀ a b : Bytes, a.length % 64 = 0 →
      hashResult 3 a.length (toRegs (hashResult 1 0 [] a)) b = hashResult 0 0 [] (a ++ b)

namespace Sys2Proof.Says

/-- A debug instruction (R171): the unit it reaches, whether it writes, its data register, its selector, its guard. -/
def debugging : Instr → Option (DbgUnit × Bool × SReg × SReg × PReg)
  | .drdv d a g => some (.vec, false, d, a, g)
  | .dwrv d a g => some (.vec, true, d, a, g)
  | .drds d a g => some (.gran, false, d, a, g)
  | .dwrs d a g => some (.gran, true, d, a, g)
  | .drdt d a g => some (.tile, false, d, a, g)
  | .dwrt d a g => some (.tile, true, d, a, g)
  | .drda d a g => some (.acc, false, d, a, g)
  | .dwra d a g => some (.acc, true, d, a, g)
  | .drdg d a g => some (.scr, false, d, a, g)
  | .dwrg d a g => some (.scr, true, d, a, g)
  | _ => none

/-- What stops a debug access before its unit is looked at (R172, R173): a reserved selector bit, another world, or a slot
without a stopped role. -/
def debugStatus (s : State) (r : Role) (sel : BitVec 64) (c : Nat) : Prop :=
  if sel.toNat / 2 ^ 41 ≠ 0 then c = badSel
  else if (mget s.worldMap (r.core / 4)).getD 0 ≠ s.worldOf r then c = dbgRefused
  else (mget (s.core r.core).slots (sel.toNat % 64)).all (fun k => (s.role k).status != .stopped) ∧ c = notStopped

/-- 64 bits of a unit of the role v that a selector names, and its raw tag: a row or granule of its current frame, a tile
or accumulator of its team, or a scratchpad granule of the core (R47, R172). -/
def unitHolds (s : State) (core : Nat) (v : Role) (u : DbgUnit) (sel : BitVec 64) (x : BitVec 64) (tag : BitVec 16) :
    Prop :=
  let word := sel.toNat / 2 ^ 29 % 2 ^ 12
  let group := sel.toNat / 2 ^ 24 % 2 ^ 5
  let unit := sel.toNat / 2 ^ 12 % 2 ^ 12
  match u with
  | .vec => sel.toNat / 64 % 64 = 0 ∧ v.frame.spilled = none ∧ v.frames ≠ [] ∧ unit < v.frame.v ∧ group < v.groups
      ∧ word < 16 ∧ ∃ row, mget v.frame.rows (rowKey unit group) = some row
        ∧ x = row.data.extractLsb' (64 * word) 64 ∧ tag = row.tag
  | .gran => sel.toNat / 64 % 64 = 0 ∧ v.frame.spilled = none ∧ v.frames ≠ [] ∧ unit < v.frame.sc / 4 ∧ word < 4
      ∧ ∃ gr, mget v.frame.grans unit = some gr ∧ x = gr.data.extractLsb' (64 * word) 64 ∧ tag = gr.tag
  | .scr => sortedFrom none (s.core core).scratch = true ∧ word < 16
      ∧ x = BitVec.ofNat 64 (rdLE (s.core core).scratch (128 * unit + 8 * word) 8)
      ∧ tag = (mget (s.core core).scratchTags unit).getD voidTag
  | .tile => ∃ cfg tu, (s.team v.team).tcfg = some cfg ∧ word < 1024 ∧ cfg.word.getLsbD (24 + group % 4) = true
      ∧ unit < fieldOf cfg.word.toNat 4 0 ∧ mget cfg.tiles (16 * (group % 4) + unit) = some tu
      ∧ sortedFrom none tu.data = true ∧ x = BitVec.ofNat 64 (rdLE tu.data (8 * word) 8) ∧ tag = tu.tag
  | .acc => ∃ cfg au, (s.team v.team).tcfg = some cfg ∧ cfg.word.getLsbD (24 + group % 4) = true
      ∧ unit < fieldOf cfg.word.toNat 11 8 ∧ mget cfg.accs (8 * (group % 4) + unit) = some au
      ∧ sortedFrom none au.data = true ∧ x = BitVec.ofNat 64 (rdLE au.data (8 * word) 8) ∧ tag = au.tag

end Sys2Proof.Says

/-- The debug path and the generation instructions (R47, R171 to R174) complete under privilege, and raise PERM without it,
whatever their selector: a selector that names
nothing the path reaches answers its status; a read of a unit of a stopped role writes its contents and raw tag, a write
changes those 64 bits and no tag. GENRD writes the core's generation counter; GENCERT holds the role until a sweep that
begins after its issue has completed. -/
def Obligations.DebugAndGenerations : Prop :=
  (∀ (i : Instr) (u : DbgUnit) (w : Bool) (d a : SReg) (g : PReg) (s : State) (r : Role) (sel : BitVec 64),
    Says.debugging i = some (u, w, d, a, g) → mget s.roles s.cur = some r → d.toNat + 1 < r.frame.sc →
    a.toNat < r.frame.sc →
    (r.part g = 0 → ∃ t r', exec i s = .next t ∧ mget t.roles s.cur = some r' ∧ onlyRole s.cur s t
      ∧ r'.still = r.still ∧ r.wentOn 1 r')
    ∧ (r.part g ≠ 0 → r.priv = false → exec i s = .next (takeTrap s s.cur { cause := causePerm }))
    ∧ (r.part g ≠ 0 → r.frame.readS r.tagTrap a.toNat = .ok sel → ∀ v, r.priv = true → r.frame.gen ≠ poisonTag →
      (w = true → r.frame.readS r.tagTrap d.toNat = .ok v) →
        r.frame.checkS d.toNat 2 = .ok () →
        (∀ c, Says.debugStatus s r sel c → ∃ t r', exec i s = .next t ∧ mget t.roles s.cur = some r'
          ∧ onlyRole s.cur s t ∧ r.wentOn 1 r' ∧ Says.wroteS r r' d.toNat [0, BitVec.ofNat 64 (65536 * c)])
        ∧ ∀ k y x tag, sel.toNat / 2 ^ 41 = 0 → (mget s.worldMap (r.core / 4)).getD 0 = s.worldOf r →
          mget (s.core r.core).slots (sel.toNat % 64) = some k → mget s.roles k = some y → y.status = .stopped →
          k ≠ s.cur → Says.unitHolds s r.core y u sel x tag →
          (w = false → ∃ t r', exec i s = .next t ∧ mget t.roles s.cur = some r' ∧ onlyRole s.cur s t ∧ r.wentOn 1 r'
            ∧ Says.wroteS r r' d.toNat [x, tag.setWidth 64])
          ∧ (w = true → ∃ t r' y', exec i s = .next t ∧ mget t.roles s.cur = some r' ∧ mget t.roles k = some y'
            ∧ r.wentOn 1 r' ∧ Says.wroteS r r' (d.toNat + 1) [tag.setWidth 64]
            ∧ Says.unitHolds t r.core y' u sel v tag
            ∧ (∀ q, q ≠ sel.toNat / 2 ^ 12 % 2 ^ 12 → mget y'.frame.grans q = mget y.frame.grans q)
            ∧ ∀ j, j ≠ s.cur → j ≠ k → mget t.roles j = mget s.roles j)))
  ∧ ∀ (d a : SReg) (g : PReg) (s : State) (r : Role), mget s.roles s.cur = some r →
      (r.part g = 0 → d.toNat + 1 < r.frame.sc → ∀ i, i = .genrd d a g ∨ i = .gencert d a g → ∃ t r',
        exec i s = .next t ∧ mget t.roles s.cur = some r' ∧ onlyRole s.cur s t ∧ r'.still = r.still ∧ r.wentOn 1 r')
      ∧ (d.toNat + 1 < r.frame.sc → r.part g ≠ 0 →
        (r.priv = false → exec (.genrd d a g) s = .next (takeTrap s s.cur { cause := causePerm }))
        ∧ (r.priv = true → r.frame.gen ≠ poisonTag → r.frame.checkS d.toNat 1 = .ok () →
          ∃ t r', exec (.genrd d a g) s = .next t ∧ mget t.roles s.cur = some r' ∧ onlyRole s.cur s t ∧ r.wentOn 1 r'
            ∧ Says.wroteS r r' d.toNat [(s.core r.core).genCounter.setWidth 64]))
      ∧ (r.part g ≠ 0 → r.priv = false → exec (.gencert d a g) s = .next (takeTrap s s.cur { cause := causePerm }))
      ∧ (r.part g ≠ 0 → r.priv = true → ∃ t r', exec (.gencert d a g) s = .next t ∧ mget t.roles s.cur = some r'
        ∧ onlyRole s.cur s t ∧ r'.still = r.still ∧ r'.status = .held (.sweep ((s.core r.core).sweeps + 2)))

/-! ## Thread accesses (R69 to R73, R204 to R223, R298 to R304) -/

namespace Sys2Proof.Says

/-- A thread access as the spec's tables give it: literals, destination and source names (the address first), its record,
how a lane's address is formed, the access, the operation, how many registers of data a lane carries, and the scope at
which it retires when no record names one. -/
structure AccessForm where
  lits : Nat
  dests : List VReg
  srcs : List VReg
  buf : Option BufSel
  via : Rec → Via
  acc : Acc
  size : Nat
  kind : OpKind
  data : Nat
  scope : Nat := 2
  g : PReg

/-- Bytes of a type code, and whether a narrower value is extended by its sign (R111, R215). -/
def bytesOf (t : TypeCode) : Nat := [1, 1, 2, 2, 4, 8, 16].getD t.toNat 16
def extends_ (t : TypeCode) : Bool := t.toNat == 1 || t.toNat == 3

/-- Consecutive registers, from one on. -/
def span (d : VReg) (n : Nat) : List VReg := (List.range n).map fun k => d + BitVec.ofNat 7 k

/-- The thread accesses (R214, R217, R219, R221). -/
def accessing : Instr → Option AccessForm
  | .ld d a b g => some ⟨0, [d], [a], some b, fun x => .record x false, .rd, 4, .load false 4, 0, 2, g⟩
  | .ldLong d a b t _ g => some ⟨1, span d ((bytesOf t + 3) / 4), [a], some b, fun x => .record x false, .rd, bytesOf t,
      .load (extends_ t) (bytesOf t), 0, 2, g⟩
  | .st d a b g => some ⟨0, [], [a, d], some b, fun x => .record x false, .wr, 4, .store 4, 1, 2, g⟩
  | .stLong d a b t _ g => some ⟨1, [], a :: span d ((bytesOf t + 3) / 4), some b, fun x => .record x false, .wr,
      bytesOf t, .store (bytesOf t), (bytesOf t + 3) / 4, 2, g⟩
  | .ldp d a t g => some ⟨0, span d ((bytesOf t + 3) / 4), [a], none, fun _ => .priv, .rd, bytesOf t,
      .load (extends_ t) (bytesOf t), 0, 2, g⟩
  | .stp d a t g => some ⟨0, [], a :: span d ((bytesOf t + 3) / 4), none, fun _ => .priv, .wr, bytesOf t,
      .store (bytesOf t), (bytesOf t + 3) / 4, 2, g⟩
  | .lds d a t g => some ⟨0, span d ((bytesOf t + 3) / 4), [a], none, fun _ => .scratch, .rd, bytesOf t,
      .load (extends_ t) (bytesOf t), 0, 2, g⟩
  | .sts d a t g => some ⟨0, [], a :: span d ((bytesOf t + 3) / 4), none, fun _ => .scratch, .wr, bytesOf t,
      .store (bytesOf t), (bytesOf t + 3) / 4, 2, g⟩
  | .putp d a t g => some ⟨0, [], a :: span d ((bytesOf t + 3) / 4), none, fun _ => .putp, .wr, bytesOf t,
      .store (bytesOf t), (bytesOf t + 3) / 4, 3, g⟩
  | .atom d a b c op w g =>
      let n := if w then 2 else 1
      some ⟨1, span d n, a :: span c n, some b, fun x => .record x false, .at', 4 * n, .atomic op (4 * n) true, n, 2, g⟩
  | .atoms a b c op w g =>
      let n := if w then 2 else 1
      some ⟨1, [], a :: span c n, some b, fun x => .record x false, .at', 4 * n, .atomic op (4 * n) false, n, 2, g⟩
  | .cas d a b c e w g =>
      let n := 2 ^ w.toNat
      some ⟨1, span d n, a :: (span c n ++ span e n), some b, fun x => .record x false, .at', 4 * n, .cas (4 * n), n, 2, g⟩
  | _ => none

/-- What a thread access finds ready: its names, a participating lane, its record and its rows. -/
def accessReady (f : AccessForm) (s : State) (r r1 : Role) (base : Nat) (ds xs : List Nat) (rc : Rec)
    (rows : List (List Lanes)) : Prop :=
  mget s.roles s.cur = some r ∧ (∀ b, f.buf = some b → r.frame.bname b = .ok base) ∧ r.frame.vnames f.dests = .ok ds
    ∧ r.frame.vnames f.srcs = .ok xs ∧ r1 = r.settleFor (ds ++ xs) ∧ r1.part f.g ≠ 0
    ∧ (f.buf.isSome → r1.readRec base = .ok rc) ∧ (f.buf = none → rc = ⟨0⟩)
    ∧ r1.readRegs (r1.part f.g) xs = .ok rows ∧ r1.checkRegs (r1.part f.g) ds = .ok ()
    ∧ (∀ b, f.buf = some b → rc.check r1 [0, 1, 2, 3] (selRec b) = .ok ())
    ∧ (f.via rc = .putp → (s.team r.team).set.isSome)

/-- The access that every lane makes. -/
def laneAccess (f : AccessForm) (rc : Rec) : Access :=
  { acc := f.acc, size := f.size, via := f.via rc, info := (f.buf.map selRec).getD 0 }

/-- The scope an access through a record acts at (R59, R207, R311): no wider than its kind reaches, which is the device for
local memory, the pod or the system for another rank's by its path, the system for host memory, the core for scratchpad; an
ordered atomic of host kind acts at the system's. -/
def scopeReached (f : AccessForm) (s : State) (b : BufSel) (rc : Rec) : Nat :=
  if f.acc = .at' ∧ selOrd b = true ∧ rc.kind = 2 then 6
  else min (selScope b) (match rc.kind with
    | 0 => 4
    | 1 => match s.route (preryRank (BitVec.ofNat 64 rc.base)) with
      | .self => 4
      | .ual _ _ => 5
      | _ => 6
    | 2 => 6
    | _ => 2)

/-- The operation a thread access leaves outstanding (R70 to R73). -/
def leaves (f : AccessForm) (s : State) (r1 : Role) (ds : List Nat) (rc : Rec) (rows : List (List Lanes))
    (lanes : List (Nat × List Piece)) (o : MemOp) : Prop :=
  o.kind = f.kind ∧ o.role = s.cur ∧ o.core = r1.core ∧ o.dests = ds ∧ o.won = []
    ∧ o.ord = (f.buf.map selOrd).getD false ∧ o.scope = (f.buf.map fun b => scopeReached f s b rc).getD f.scope
    ∧ o.flag = r1.kindFlag o.kind.isA ∧ o.level = .core ∧ o.key = rc.key
    ∧ o.lanes.map (fun l => (l.lane, l.off, l.len, l.place)) =
        lanes.flatMap (fun p => p.2.map fun q => (p.1, q.off, q.len, q.place))
    ∧ ∀ l ∈ o.lanes, ∀ k, k < f.data →
        l.value.extractLsb' (32 * k) 32 = laneOfRows (rows.getD (1 + k) []) l.lane
          ∧ (f.kind = .cas f.size → l.value2.extractLsb' (32 * k) 32 = laneOfRows (rows.getD (1 + f.data + k) []) l.lane)

/-- The operations outstanding after one more has issued: a register that it is to write, in the lanes it takes, is no
longer written by those before it (R72). -/
def joins (s t : State) (o : MemOp) : Prop :=
  ∃ ops, t.ops = ops ++ [o] ∧ ops.map MemOp.pending = s.ops.map MemOp.pending ∧ (o.dests = [] → o.sdest = none → ops = s.ops)
    ∧ ∀ p ∈ ops, ∀ x ∈ o.dests, p.role = s.cur → x ∈ p.dests → ∀ l ∈ o.lanes, l.lane < 1024 →
        ((mget p.won x).getD 0).getLsbD l.lane = true

/-- What issuing an operation does to its role: its flag counts, its run goes on, all else stays (R69, R71). -/
def issuedOver (n : Nat) (o : MemOp) (r1 r' : Role) : Prop :=
  r1.wentOn n r' ∧ r'.flags = (r1.addFlag o.flag).flags
    ∧ { r'.still with flags := [] } = { r1.still with flags := [] }

end Sys2Proof.Says

/-- Loads, stores and atomics as they issue (R69 to R73, R212, R214, R217, R219, R221): once every lane's checks have
passed the operation is outstanding with its places and data, its flag counts it, registers it is to write are no longer
written by earlier operations, and nothing is read or written yet, but that an access of the own rank's exported memory has
reached its pages, and an ordered system-wide write asks the host's port for a flush of earlier writes (R301); the first
check that fails stops the role with nothing issued; PUTP outside a cooperative set raises PERM. -/
def Obligations.ThreadAccessesIssue : Prop :=
  (∀ (i : Instr) (f : Says.AccessForm) (s s1 : State) (r r1 : Role) (base : Nat) (ds xs : List Nat) (rc : Rec)
      (rows : List (List Lanes)),
    Says.accessing i = some f → i.wf = true → Says.accessReady f s r r1 base ds xs rc rows →
    s1 = s.setRole s.cur r1 →
    let found := checkLanes (fun l => s1.laneOut r1 (Says.laneAccess f rc) l (laneOfRows (rows.getD 0 []) l).toNat)
      f.size (laneList (r1.part f.g)) false
    (∀ lanes, found = .ok lanes →
      (∀ p ∈ lanes, ∀ q ∈ p.2, isScratch q.place = true →
        let tag := (s.core (placeCore r.core q.place)).scrTag q.place
        tag = s.placeGen r1 q.place ∨ tag ≠ poisonTag ∧ (f.acc = .wr ∨ r.tagTrap = false)) →
      answers i s fun t => ∃ r' o, mget t.roles s.cur = some r' ∧ Says.joins s t o
        ∧ Says.leaves f s r1 ds rc rows lanes o ∧ Says.issuedOver (1 + f.lits) o r1 r'
        ∧ (∀ j, j ≠ s.cur → mget t.roles j = mget s.roles j)
        ∧ ((f.buf.isSome → rc.kind = 1 → s.route (preryRank (BitVec.ofNat 64 rc.base)) ≠ .self) →
          sameBytes s t ∧ (∀ c, (t.core c).rest = (s.core c).rest)
            ∧ t.beside = (if o.ord = true ∧ o.kind.writes = true then s.flushHost r o.scope else s).beside))
    ∧ (∀ tr, found = .bad tr → exec i s = .next (takeTrap s1 s.cur tr)))
  ∧ (∀ (d a : VReg) (t : TypeCode) (g : PReg) (s : State) (r r1 : Role) (xs : List Nat) (rows : List (List Lanes)),
      mget s.roles s.cur = some r → (s.team r.team).set = none → r.part g ≠ 0 →
      r.frame.vnames (a :: Says.span d ((Says.bytesOf t + 3) / 4)) = .ok xs → (Instr.putp d a t g).wf = true →
      r1 = r.settleFor xs → r1.readRegs (r1.part g) xs = .ok rows →
      exec (.putp d a t g) s = .next (takeTrap (s.setRole s.cur r1) s.cur { cause := causePerm }))
  ∧ ∀ (i : Instr) (d a : VReg) (g : PReg) (s : State) (r r1 : Role) (x y : Nat) (key slot : List Lanes),
      mget s.roles s.cur = some r → r.frame.vnames [a, d] = .ok [x, y] → r1 = r.settleFor [x, y] → r1.part g ≠ 0 →
      r1.readReg x (r1.part g) = .ok key →
      (i = .lookup d a g → r.settleFor [y, x] = r1 → r1.checkReg y (r1.part g) = .ok () →
        answers i s fun t => ∃ r' o, mget t.roles s.cur = some r' ∧ Says.joins s t o ∧ o.kind = .lookup
          ∧ o.dests = [y] ∧ o.flag = r1.kindFlag true ∧ Says.issuedOver 1 o r1 r' ∧ sameBytes s t)
      ∧ ((i = .tagset d a g ∨ i = .taginv d a g) → r1.readReg y (r1.part g) = .ok slot →
        ((∀ l ∈ laneList (r1.part g), (laneOfRows slot l).toNat < (s.team r.team).tagSlots) →
          answers i s fun t => ∃ r' o, mget t.roles s.cur = some r' ∧ t.ops = s.ops ++ [o]
            ∧ o.kind = (if i = .tagset d a g then .tagset else .taginv) ∧ o.flag = r1.kindFlag false
            ∧ (∀ l ∈ o.lanes, l.value.toNat = (laneOfRows key l.lane).toNat
              ∧ l.value2.toNat = (laneOfRows slot l.lane).toNat)
            ∧ o.lanes.map OpLane.lane = laneList (r1.part g) ∧ Says.issuedOver 1 o r1 r' ∧ sameBytes s t)
        ∧ ∀ l, (laneList (r1.part g)).find? (fun l => (s.team r.team).tagSlots ≤ (laneOfRows slot l).toNat) = some l →
          exec i s = .next (takeTrap (s.setRole s.cur r1) s.cur { cause := causeBounds, lane := some l }))

namespace Sys2Proof.Says

/-- The 32-bit register value of a loaded number of a size (R215). -/
def extended (sgn : Bool) (size n : Nat) : BitVec 32 :=
  if size < 4 ∧ sgn = true then (BitVec.ofNat (8 * size) n).signExtend 32 else BitVec.ofNat 32 n

/-- What an integer atomic writes over an old value (R222). -/
def atomResult {w : Nat} (op : BitVec 5) (old c : BitVec w) : Option (BitVec w) :=
  match op.toNat with
  | 0 => some (old + c)
  | 1 => some (if c.slt old then c else old)
  | 2 => some (if c < old then c else old)
  | 3 => some (if old.slt c then c else old)
  | 4 => some (if old < c then c else old)
  | 5 => some (old &&& c)
  | 6 => some (old ||| c)
  | 7 => some (old ^^^ c)
  | 8 => some c
  | 10 => some (if c ≤ old then 0 else old + 1)
  | 11 => some (if old = 0 ∨ c < old then c else old - 1)
  | _ => none

/-- An operation at the point where it may be performed. -/
def performable (s : State) (op : Nat) (o : MemOp) : Prop :=
  s.ops.find? (fun p => p.id == op) = some o ∧ o.id = op ∧ s.mayPerform o = true

/-- The windows have room for all of an operation's requests to other ranks, or for none (R335). -/
def roomForAll (s : State) (o : MemOp) : Prop :=
  (∀ p ∈ s.outPkts, p.packet.seq < s.next)
    ∧ ∀ x ∈ o.remote, s.roomTo (preryRank (BitVec.ofNat 64 x.1)) o.remote.length = true
def roomForNone (s : State) (o : MemOp) : Prop :=
  (∀ p ∈ s.outPkts, p.cmd ≠ o.id) ∧ ∀ x ∈ o.remote, s.roomTo (preryRank (BitVec.ofNat 64 x.1)) 1 = false

/-- The operation has retired: it is gone from the list and its flag counts one less. -/
def retired (s t : State) (o : MemOp) (r r' : Role) : Prop :=
  t.ops = s.ops.filter (fun p => p.id != o.id) ∧ r'.flags = (r.retireFlag o.flag).flags

end Sys2Proof.Says

/-- LOAD_RETURN (R71, R72, R215, R222): before the issuing run has ended, or before order admits it, nothing happens;
an operation on another rank's memory first sends its requests, as its windows have room, and returns at a later event;
then a load of device memory writes its lanes as they are read through L1 or memory, or for a REP load from a replica of
its plot (R294), narrower values extended,
in the lanes no later instruction has written; a returning atomic or CAS also changes its bytes, and those only; the flag's
contribution retires. -/
def Sys2Proof.Says.loadsReturn : Prop :=
  ∀ (op : Nat) (ext : Bytes) (s : State) (o : MemOp) (r : Role),
    s.ops.find? (fun p => p.id == op) = some o → mget s.roles o.role = some r → o.kind.isA = true →
    ((s.runOver o = false ∨ s.mayPerform o = false) → exec (.loadReturn op ext) s = .next s)
    ∧ (Says.performable s op o → s.runOver o = true →
      (o.leaves = true → o.level = .core → (Says.roomForNone s o → exec (.loadReturn op ext) s = .next s)
        ∧ (Says.roomForAll s o → answers (.loadReturn op ext) s fun t =>
          t.ops = s.ops.map (fun p => if p.id = o.id then { p with level := .egress } else p) ∧ sameBytes s t
            ∧ (∀ j, j ≠ o.role → mget t.roles j = mget s.roles j)
            ∧ ∃ r', mget t.roles o.role = some r' ∧ r'.frames = r.frames ∧ r'.flags = r.flags))
      ∧ ((o.leaves = false ∨ o.level ≠ .core) →
        answers (.loadReturn op ext) s fun t => ∃ r', mget t.roles o.role = some r' ∧ Says.retired s t o r r'
        ∧ (∀ j, j ≠ o.role → mget t.roles j = mget s.roles j) ∧ r'.mask = r.mask ∧ r'.stack = r.stack
        ∧ r'.status = r.status ∧ r'.frames.tail = r.frames.tail ∧ r'.frame.preds = r.frame.preds)
      ∧ (∀ sgn size x, o.kind = .load sgn size → (size = 1 ∨ size = 2 ∨ size = 4) → o.dests = [x] →
        (o.lanes.map OpLane.lane).Nodup →
        (∀ l ∈ o.lanes, l.lane < 1024 ∧ l.off = 0 ∧ l.len = size ∧ ∃ a, l.place = .ram a) → s.poison = [] →
        answers (.loadReturn op ext) s fun t => ∃ r', mget t.roles o.role = some r' ∧ sameBytes s t
          ∧ (∀ n, n < 32 * r.groups → (∀ l ∈ o.lanes, l.lane ≠ n) → r'.frame.value x n = r.frame.value x n)
          ∧ (∀ y n, y ≠ x → r.groups ≤ 32 → n < 32 * r.groups → r'.frame.value y n = r.frame.value y n)
          ∧ ∀ l ∈ o.lanes, ∀ a, l.lane < 32 * r.groups → l.place = .ram a → o.won = [] → r.checkReg x (maskOf o) = .ok () →
            ∃ bs, r'.frame.value x l.lane = Says.extended sgn size (leNat bs)
              ∧ (∀ c, o.l1 = true → (s.core o.core).l1Bytes a size = some c → bs = c)
              ∧ ((o.l1 = false ∨ (s.core o.core).l1Bytes a size = none) → bs = rdBytes s.ram a size
                ∨ o.rep = true ∧ ∃ y ∈ s.replicas, some y.plot = r.plot ∧ y.die = dieOf o.core ∧ y.line = a / 128
                  ∧ bs = (List.range size).map fun i => y.data.extractLsb' (8 * (a % 128 + i)) 8))
      ∧ (∀ (w : Nat) (f : BitVec 5) (l : OpLane) (a x : Nat) (v : BitVec (8 * w)),
        o.kind = .atomic f w true → w = 4 ∨ w = 8 → o.dests = (List.range (w / 4)).map (x + ·) → o.won = [] →
        o.lanes = [l] → l.place = .ram a → l.len = w → l.lane < 32 * r.groups → s.poison = [] → s.memOk = true →
        Says.atomResult f (BitVec.ofNat (8 * w) (rdLE s.ram a w)) (l.value.setWidth (8 * w)) = some v →
        (∀ k, k < w / 4 → r.checkReg (x + k) (maskOf o) = .ok ()) →
        answers (.loadReturn op ext) s fun t => ∃ r', mget t.roles o.role = some r'
          ∧ rdLE t.ram a w = v.toNat ∧ (∀ b, (b < a ∨ a + w ≤ b) → rdByte t.ram b = rdByte s.ram b)
          ∧ ∀ k, k < w / 4 → r.groups ≤ 32 →
            r'.frame.value (x + k) l.lane = BitVec.ofNat 32 (rdLE s.ram (a + 4 * k) 4))
      ∧ (∀ (w : Nat) (l : OpLane) (a : Nat), o.kind = .cas w → o.lanes = [l] → l.place = .ram a → l.len = w → w ≤ 16 →
        s.poison = [] → s.memOk = true →
        answers (.loadReturn op ext) s fun t =>
          rdLE t.ram a w = (if rdLE s.ram a w = l.value.toNat % 2 ^ (8 * w) then l.value2.toNat % 2 ^ (8 * w)
            else rdLE s.ram a w)
          ∧ ∀ b, (b < a ∨ a + w ≤ b) → rdByte t.ram b = rdByte s.ram b)
      ∧ (∀ i d, o.kind = .ctrrd i → o.sdest = some d → r.frame.gen ≠ poisonTag → r.frame.checkS d 1 = .ok () →
        answers (.loadReturn op ext) s fun t => ∃ r', mget t.roles o.role = some r' ∧ sameBytes s t
          ∧ ∀ k, r'.frame.svalue k =
            if k = d then ((s.core o.core).counter i.toNat).setWidth 64 else r.frame.svalue k))
where
  maskOf (o : MemOp) : Mask := o.lanes.foldl (fun m l => m ||| (1#1024 <<< l.lane)) 0

/-- STORE_RETIRE (R71, R298, R302): a store on its way to device memory first reaches the egress queue; then its bytes
are written, where lanes overlap those of the later lane, and every other byte is as before; it leaves the list and its
flag's contribution retires once it is performed at its scope. -/
def Sys2Proof.Says.storesRetire : Prop :=
  ∀ (op : Nat) (s : State) (o : MemOp) (r : Role) (size : Nat),
    s.ops.find? (fun p => p.id == op) = some o → o.id = op → o.kind = .store size → mget s.roles o.role = some r →
    s.mayPerform o = true → o.lanes ≠ [] → (∀ l ∈ o.lanes, ∃ a, l.place = .ram a) →
    (o.level = .core → answers (.storeRetire op) s fun t => sameBytes s t
      ∧ t.ops.map MemOp.id = s.ops.map MemOp.id
      ∧ (∃ p, t.ops.find? (fun p => p.id == op) = some p ∧ p.level = .egress ∧ p.lanes = o.lanes
        ∧ p.flag = if o.scope ≤ 3 then none else o.flag)
      ∧ ∃ r', mget t.roles o.role = some r' ∧ r'.frames = r.frames
        ∧ r'.flags = if o.scope ≤ 3 then (r.retireFlag o.flag).flags else r.flags)
    ∧ (o.level ≠ .core → s.poison = [] → s.memOk = true → answers (.storeRetire op) s fun t =>
      (∃ r', mget t.roles o.role = some r' ∧ Says.retired s t o r r' ∧ r'.frames = r.frames ∧ r'.mask = r.mask)
      ∧ (∀ j, j ≠ o.role → mget t.roles j = mget s.roles j)
      ∧ (∀ a, rdByte t.ram a =
        match o.lanes.reverse.find? (covers a) with
        | some l => l.value.extractLsb' (8 * (l.off + (a - base l))) 8
        | none => rdByte s.ram a)
      ∧ ∀ a, rdByte t.hostMem a = rdByte s.hostMem a ∧ rdByte t.hy a = rdByte s.hy a)
where
  base (l : OpLane) : Nat := match l.place with
    | .ram a => a
    | _ => 0
  covers (a : Nat) (l : OpLane) : Bool := decide (base l ≤ a) && decide (a < base l + l.len)

/-- The ends of outstanding thread operations (R71, R72, R215, R222, R298, R302): loads and returning atomics land, stores
are written, each once order admits it. -/
def Obligations.LoadsReturnAndStoresRetire : Prop := Says.loadsReturn ∧ Says.storesRetire

/-! ## Lock words, fences, word waits, handoff registers and barriers (R225 to R234) -/

namespace Sys2Proof.Says

/-- A uniform access ready to be made (R225, R228): the names, the lowest participating lane, the record and that lane's
address are good, its one place is device memory at a or a scratchpad place of the team's generation, and its scope is no
wider than that reaches (R59). -/
def uniReady (s s1 : State) (r r1 : Role) (d : List VReg) (a : VReg) (b : BufSel) (g : PReg) (acc : Acc) (size : Nat)
    (locks : Bool) (ds : List Nat) (q : OpLane) (scope : Nat) : Prop :=
  ∃ base x rc rows p, mget s.roles s.cur = some r ∧ r.frame.bname b = .ok base ∧ r.frame.vnames d = .ok ds
    ∧ r.frame.vname a = .ok x ∧ r1 = r.settleFor (x :: ds) ∧ s1 = s.setRole s.cur r1
    ∧ lowestLane (r1.part g) = some q.lane ∧ r1.readRec base = .ok rc
    ∧ r1.readReg x (1#1024 <<< q.lane) = .ok rows ∧ r1.checkRegs (r1.part g) ds = .ok () ∧ rc.kind ≠ 1
    ∧ rc.check r1 [0, 3] (selRec b) = .ok ()
    ∧ s1.laneOut r1 { acc := acc, size := size, via := .record rc true, locks := locks, xch := true, info := selRec b }
        q.lane (laneOfRows rows q.lane).toNat = .go [p] ∧ scope = min (selScope b) (if rc.kind = 0 then 4 else 2)
    ∧ q = ⟨q.lane, p.off, p.len, p.place, s.placeGen r1 p.place, 0, 0⟩
    ∧ (isScratch p.place = true → (s.core (placeCore r.core p.place)).scrTag p.place = q.gen)

/-- The memory that a place at p is in, of device memory and the core's scratchpad. -/
def memAt (s : State) (core : Nat) (q : Place) (p : Nat) (m : Mem) : Prop :=
  q = .ram p ∧ m = s.ram ∨ q = .scratch p ∧ m = (s.core core).scratch

/-- The lock instructions by number (R225). -/
def locking : Instr → Option (Nat × VReg × BufSel × PReg)
  | .rlk a b g => some (0, a, b, g)
  | .runl a b g => some (1, a, b, g)
  | .wlk a b g => some (2, a, b, g)
  | .wunl a b g => some (3, a, b, g)
  | _ => none

/-- A lock operation on a word (R225, R226): the word afterwards, and whether the team goes on. -/
def lockWord (op : Nat) (counted : Bool) (w : BitVec 64) : BitVec 64 × Bool :=
  let prefers := w.getLsbD 63
  let held := w.getLsbD 62
  let waiting := w.extractLsb' 32 30
  let readers := w.extractLsb' 0 32
  match op with
  | 0 => if held = false ∧ (prefers = false ∨ waiting = 0) ∧ readers ≠ BitVec.allOnes 32 then (w + 1, true) else (w, false)
  | 1 => (if readers = 0 then w else w - 1, true)
  | 2 =>
    if held = false ∧ readers = 0 then
      ((w ||| 1#64 <<< 62) - (if counted = true ∧ waiting ≠ 0 then 1#64 <<< 32 else 0), true)
    else (if counted = true ∨ waiting = BitVec.allOnes 30 then w else w + 1#64 <<< 32, false)
  | _ => (w &&& ~~~(1#64 <<< 62), true)

end Sys2Proof.Says

/-- RLK, RUNL, WLK and WUNL (R225, R226): the word in device memory becomes what the operation makes of it, in one step
and with no other byte changed; a role that acquires goes on past the literal, its core's L1 dropped, one that does not
parks on the word, a writer counted. Until the order admits the operation the role is held at it. -/
def Obligations.LockWords : Prop :=
  ∀ (i : Instr) (op : Nat) (a : VReg) (b : BufSel) (g : PReg) (s s1 : State) (r r1 : Role) (q : OpLane) (scope p : Nat)
    (m : Mem) (w : BitVec 64),
    Says.locking i = some (op, a, b, g) → Says.uniReady s s1 r r1 [] a b g .at' 8 true [] q scope →
    Says.memAt s r.core q.place p m →
    (s1.mayPerform (s1.nowOp (.atomic 0 8 true) (op = 1 ∨ op = 3) scope q) = false →
      answers i s fun t => ∃ r', mget t.roles s.cur = some r' ∧ sameBytes s t ∧ r'.hdr = r.hdr ∧ r'.off = r.off
        ∧ r'.status = .held (.fence 2 6 s.next))
    ∧ (s1.mayPerform (s1.nowOp (.atomic 0 8 true) (op = 1 ∨ op = 3) scope q) = true → s.poison = [] →
      s.memOk = true → sortedFrom none m = true → w = BitVec.ofNat 64 (rdLE m p 8) →
      answers i s fun t => ∃ r' m', mget t.roles s.cur = some r' ∧ Says.memAt t r.core q.place p m'
        ∧ rdLE m' p 8 = (Says.lockWord op (r1.counted == some q.place) w).1.toNat
        ∧ (∀ x, (x < p ∨ p + 8 ≤ x) → rdByte m' x = rdByte m x)
        ∧ (∀ x, q.place ≠ .ram p → rdByte t.ram x = rdByte s.ram x)
        ∧ (∀ x c, q.place = .ram p ∨ c ≠ r.core → rdByte (t.core c).scratch x = rdByte (s.core c).scratch x)
        ∧ (∀ j, j ≠ s.cur → mget t.roles j = mget s.roles j) ∧ t.ops = s.ops ∧ r'.frames.tail = r1.frames.tail
        ∧ if (Says.lockWord op (r1.counted == some q.place) w).2 = true then
            r1.wentOn 2 r' ∧ r'.frame = r1.frame ∧ (op = 2 → r'.counted ≠ some q.place)
              ∧ (op = 0 ∨ op = 2 → 3 ≤ scope → (t.core r.core).l1 = [])
          else r'.status = .parked (.lock q.place op scope) ∧ r'.hdr = r.hdr ∧ r'.off = r.off
            ∧ (op = 2 → r'.counted = some q.place))

/-- FENCE (R65, R227, R299, R302): it ends its run and holds the team at the next word; a release is complete once every
write of the core and of the role issued before it is performed at its scope and every earlier load of the role has written,
an acquire once those loads have; a release asks the host's port for a flush of earlier host writes at system scope (R301);
without a participating lane it has no effect. WAITW (R228): a word that differs is written to
every participating lane and the role goes on, else the role parks on the word. -/
def Obligations.FencesAndWordWaits : Prop :=
  (∀ (i : Instr) (kind : Nat) (sc : BitVec 3) (g : PReg) (s : State) (r : Role), mget s.roles s.cur = some r →
    (i = .fenceAr sc g ∧ kind = 0 ∨ i = .fenceAcq sc g ∧ kind = 1 ∨ i = .fenceRel sc g ∧ kind = 2) →
    (r.part g = 0 → answers i s fun t => ∃ r', mget t.roles s.cur = some r' ∧ onlyRole s.cur s t
      ∧ r'.still = r.still ∧ r.wentOn 1 r')
    ∧ (r.part g ≠ 0 → answers i s fun t => ∃ r', mget t.roles s.cur = some r'
      ∧ onlyRole s.cur (if kind = 1 then s else s.flushHost r sc.toNat) t
      ∧ r'.still = r.still ∧ r'.status = .held (.fence kind sc.toNat s.next)
      ∧ if hdrLen r.hdrWord < r.off + 1 then r'.hdr = r.fallThrough ∧ r'.off = 0
        else r'.hdr = r.hdr ∧ r'.off = r.off + 1))
  ∧ (∀ (s : State) (k kind scope upto : Nat) (r : Role), mget s.roles k = some r →
      (s.fenceDone k kind scope upto = true ↔
        (∀ o ∈ s.ops, o.id < upto → o.role = k → o.kind.isA = false)
        ∧ (kind ≠ 1 → ∀ o ∈ s.ops, o.id < upto → o.kind.writes = true → (o.core = r.core ∨ o.role = k) →
          s.performed o scope = true)))
  ∧ ∀ (d a : VReg) (b : BufSel) (g : PReg) (s s1 : State) (r r1 : Role) (y : Nat) (q : OpLane) (scope p : Nat)
      (m : Mem) (old : List Lanes),
      Says.uniReady s s1 r r1 [d] a b g .rd 4 false [y] q scope → Says.memAt s r.core q.place p m → s.poison = [] →
      r1.readReg y (1#1024 <<< q.lane) = .ok old →
      (s1.mayPerform (s1.nowOp (.load false 4) false 2 q) = false →
        answers (.waitw d a b g) s fun t => ∃ r', mget t.roles s.cur = some r' ∧ sameBytes s t ∧ r'.hdr = r.hdr
          ∧ r'.off = r.off ∧ r'.status = .held (.fence 2 6 s.next))
      ∧ (s1.mayPerform (s1.nowOp (.load false 4) false 2 q) = true →
      (laneOfRows old q.lane ≠ BitVec.ofNat 32 (rdLE m p 4) →
        answers (.waitw d a b g) s fun t => ∃ r', mget t.roles s.cur = some r' ∧ Says.onlyRoleAndL1 s.cur s t
          ∧ r1.wentOn 1 r' ∧ r'.besideFrames = r1.besideFrames ∧ r'.frames.tail = r1.frames.tail
          ∧ r'.frame.besideRows = r1.frame.besideRows ∧ (selOrd b = true → 3 ≤ scope → (t.core r.core).l1 = [])
          ∧ ∀ n, n < 32 * r1.groups → r'.frame.value y n =
              if (r1.part g).getLsbD n then BitVec.ofNat 32 (rdLE m p 4) else r1.frame.value y n)
      ∧ (laneOfRows old q.lane = BitVec.ofNat 32 (rdLE m p 4) →
        answers (.waitw d a b g) s fun t => ∃ r', mget t.roles s.cur = some r' ∧ Says.onlyRoleAndL1 s.cur s t
          ∧ r'.status = .parked (.word q.place (BitVec.ofNat 32 (rdLE m p 4)) y (r1.part g)
              (if selOrd b then some scope else none))
          ∧ r'.hdr = r.hdr ∧ r'.off = r.off))

/-- HPUSH and HPOP (R24, R230, R231): a push appends an entry with the participating lanes of every group of the pushing
role and zero elsewhere, and makes the role a producer; a pop removes the oldest entry and writes it to the participating
lanes; a role parks on a frame request while its yoke has no handoff rows,
on a full queue while another role lives and on an empty one while a push can come, and traps with
HANDOFF otherwise. -/
def Obligations.HandoffRegisters : Prop :=
  ∀ (h : HReg) (a : VReg) (g : PReg) (s : State) (r r1 : Role) (x : Nat) (tm : Team),
    mget s.roles s.cur = some r → mget s.teams r.team = some tm → r.frame.vname a = .ok x → r1 = r.settleFor [x] →
    r1.part g ≠ 0 →
    (tm.handoffHeld = true → s.released s.cur r.core s.next 2 = true →
      (∀ rows, (tm.queueOf h).length < 4 → r1.readReg x (r1.part g) = .ok rows →
        answers (.hpush h a g) s fun t => ∃ r' tm' entry, mget t.roles s.cur = some r' ∧ mget t.teams r.team = some tm'
          ∧ sameBytes s t ∧ r'.still = r1.still ∧ r1.wentOn 1 r' ∧ tm'.queueOf h = tm.queueOf h ++ [entry]
          ∧ entry.length = tm.gmax ∧ (h.toNat, r.roleId) ∈ tm'.producers
          ∧ ∀ n, n < 1024 → n < 32 * tm.gmax → laneOfRows entry n =
              if n < 32 * r1.groups ∧ (r1.part g).getLsbD n = true then laneOfRows rows n else 0)
      ∧ (∀ rows, r1.readReg x (r1.part g) = .ok rows → 4 ≤ (tm.queueOf h).length → (tm.live.any (· != s.cur)) = true →
        answers (.hpush h a g) s fun t => ∃ r', mget t.roles s.cur = some r' ∧ onlyRole s.cur s t
          ∧ r'.status = .parked (.push h x (r1.part g)) ∧ r'.hdr = r.hdr ∧ r'.off = r.off)
      ∧ (∀ rows, r1.readReg x (r1.part g) = .ok rows → 4 ≤ (tm.queueOf h).length → (tm.live.any (· != s.cur)) = false →
        exec (.hpush h a g) s = .next (takeTrap (s.setRole s.cur r1) s.cur { cause := causeHandoff, info := h.toNat })))
    ∧ (∀ rows, tm.handoffHeld = false → r1.readReg x (r1.part g) = .ok rows →
        (s.core r.core).fits r.core (handoffNeed tm.gmax) = false →
        answers (.hpush h a g) s fun t => ∃ r', mget t.roles s.cur = some r' ∧ r'.status = .parked (.frame .handoff)
          ∧ r'.hdr = r.hdr ∧ r'.off = r.off ∧ (t.core r.core).frameReqs = (s.core r.core).frameReqs ++ [s.cur])
    ∧ (∀ entry rest, tm.queueOf h = entry :: rest → r1.checkReg x (r1.part g) = .ok () →
      answers (.hpop a h g) s fun t => ∃ r' tm', mget t.roles s.cur = some r' ∧ mget t.teams r.team = some tm'
        ∧ sameBytes s t ∧ r1.wentOn 1 r' ∧ r'.besideFrames = r1.besideFrames ∧ r'.frames.tail = r1.frames.tail
        ∧ tm'.queueOf h = rest ∧ tm'.producers = tm.producers
        ∧ ∀ n, n < 32 * r1.groups → r'.frame.value x n =
            if (r1.part g).getLsbD n then laneOfRows entry n else r1.frame.value x n)
    ∧ (tm.queueOf h = [] → r1.checkReg x (r1.part g) = .ok () → answers (.hpop a h g) s fun t => ∃ r',
      mget t.roles s.cur = some r' ∧
        if s.popWaits s.cur h = true then r'.status = .parked (.pop h x (r1.part g)) ∧ r'.hdr = r.hdr ∧ r'.off = r.off
        else t = takeTrap (s.setRole s.cur r1) s.cur { cause := causeHandoff, info := h.toNat })

namespace Sys2Proof.Says

/-- An arrival at a barrier word (R232, R233). -/
def arrived (w : BitVec 64) : BitVec 64 :=
  if w.extractLsb' 0 24 ≤ 1 then (w.extractLsb' 48 16 + 1) ++ w.extractLsb' 24 24 ++ w.extractLsb' 24 24 else w - 1

end Sys2Proof.Says

/-- ARRV, BARW and BARC (R232 to R234): ARRV leaves an ordered arrival outstanding, which on retiring changes the word and
records its phase; BARW goes on without an arrival there, is held until the arrival retires, parks while the phase is
the arrival's, and goes on after; BARC parks its role until every live role of the set has arrived, and then the halves
of the cluster's four cores swap and every role goes on; outside a set it is PERM. -/
def Obligations.BarrierInstructions : Prop :=
  (∀ (a : SReg) (sc : BitVec 3) (g : PReg) (s : State) (r : Role) (v : BitVec 64) (q : OpLane) (p : Nat),
    mget s.roles s.cur = some r → a.toNat < r.frame.sc → r.part g ≠ 0 → r.frame.readS r.tagTrap a.toNat = .ok v →
    q.place = .scratch p → (s.core r.core).scrTag (.scratch p) = q.gen →
    (s.barrierWord .at' (v.toNat % 2 ^ 32) = .ok q →
      answers (.arrv a sc g) s fun t => ∃ r' o, mget t.roles s.cur = some r' ∧ t.ops = s.ops ++ [o] ∧ sameBytes s t
        ∧ o.kind = .arrv (v.setWidth 32) ∧ o.lanes = [q] ∧ o.ord = true ∧ o.scope = sc.toNat
        ∧ o.flag = r.kindFlag false ∧ r.wentOn 1 r' ∧ r'.frames = r.frames ∧ r'.arrivalOp = some o.id
        ∧ r'.arrival.map (·.1) = some (v.setWidth 32))
    ∧ (s.barrierWord .rd (v.toNat % 2 ^ 32) = .ok q →
      ((∀ x, r.arrival = some x → x.1 ≠ v.setWidth 32) →
        answers (.barw a sc g) s fun t => ∃ r', mget t.roles s.cur = some r' ∧ onlyRole s.cur s t
          ∧ r'.still = r.still ∧ r.wentOn 1 r')
      ∧ ∀ ph, r.arrival = some (v.setWidth 32, ph) →
        (r.arrivalOp.isSome = true → answers (.barw a sc g) s fun t => ∃ r', mget t.roles s.cur = some r'
          ∧ onlyRole s.cur s t ∧ r'.still = r.still ∧ r'.status = .held .barwArrv ∧ r'.off = r.off)
        ∧ (r.arrivalOp = none → s.mayPerform (s.nowOp (.load false 8) false 2 q) = true →
          answers (.barw a sc g) s fun t => ∃ r', mget t.roles s.cur = some r' ∧ Says.onlyRoleAndL1 s.cur s t
            ∧ if (BitVec.ofNat 64 (rdLE (s.core r.core).scratch p 8)).extractLsb' 48 16 = ph then
                r'.status = .parked (.barrier (v.setWidth 32) ph sc.toNat) ∧ r'.off = r.off
              else r'.still = { r.still with arrival := none } ∧ r.wentOn 1 r')))
  ∧ (∀ (op : Nat) (s : State) (o : MemOp) (r : Role) (q : OpLane) (addr : BitVec 32) (p : Nat) (w : BitVec 64),
    s.ops.find? (fun x => x.id == op) = some o → o.id = op → o.kind = .arrv addr → o.lanes = [q] → q.place = .scratch p →
    s.mayPerform o = true → mget s.roles o.role = some r → r.arrivalOp = some op →
    (mget s.teams o.team).map (fun x => decide (x.live ≠ [])) = some true →
    p / 128 = (p + 7) / 128 → (s.core o.core).scrTag (.scratch p) = q.gen → sortedFrom none (s.core o.core).scratch = true →
    w = BitVec.ofNat 64 (rdLE (s.core o.core).scratch p 8) →
    answers (.storeRetire op) s fun t => ∃ r', mget t.roles o.role = some r' ∧ Says.retired s t o r r'
      ∧ rdLE (t.core o.core).scratch p 8 = (Says.arrived w).toNat
      ∧ r'.arrival = some (addr, w.extractLsb' 48 16) ∧ r'.arrivalOp = none)
  ∧ ∀ (g : PReg) (s : State) (r : Role), mget s.roles s.cur = some r → r.part g ≠ 0 →
      ((s.team r.team).set = none → exec (.barc g) s = .next (takeTrap s s.cur { cause := causePerm }))
      ∧ ∀ sk cs, (s.team r.team).set = some sk → mget s.sets sk = some cs → s.released s.cur r.core s.next 3 = true →
        sortedFrom none s.roles = true → cs.out = false → (∀ x ∈ s.saved, ∀ c, x.2.ofSet sk c = false) →
        ((∃ j r2, mget s.roles j = some r2 ∧ j ≠ s.cur ∧ (s.team r2.team).set = some sk ∧ r2.barcArrived = false) →
          answers (.barc g) s fun t => ∃ r', mget t.roles s.cur = some r' ∧ onlyRole s.cur s t
            ∧ r'.status = .parked .barc ∧ r'.barcArrived = true ∧ r'.hdr = r.hdr ∧ r'.off = r.off)
        ∧ ((∀ j r2, mget s.roles j = some r2 → j ≠ s.cur → (s.team r2.team).set = some sk → r2.barcArrived = true) →
          answers (.barc g) s fun t =>
            (∀ c, (t.core c).xchCur = if c / 4 = cs.cluster then !(s.core c).xchCur else (s.core c).xchCur)
            ∧ (∀ c, c / 4 = cs.cluster → (t.core c).l1 = [])
            ∧ ∀ j r2, mget s.roles j = some r2 → (s.team r2.team).set = some sk → ∃ r', mget t.roles j = some r'
              ∧ r'.barcArrived = false ∧ (j = s.cur ∨ r2.status = .parked .barc → r'.status = .ready)
              ∧ (r'.hdr, r'.off) = if hdrLen r2.hdrWord < r2.off + 1 then (r2.fallThrough, 0) else (r2.hdr, r2.off + 1))

/-! ## Engine commands, batches, counters and regions (R236 to R256) -/

namespace Sys2Proof.Says

/-- An engine instruction's operands, good and read (R236, R239): the record of its B field, the records and descriptor
that its scalar groups hold, and the rows of its vector sources. -/
def engineReady (s s1 : State) (r r1 : Role) (fours : List Nat) (vecs : List VReg) (b : BufSel) (g : PReg) (rc : Rec)
    (rs : List Rec) (rows : List (List Lanes)) : Prop :=
  ∃ base xs, mget s.roles s.cur = some r ∧ r.frame.bname b = .ok base ∧ (∀ n ∈ fours, n + 3 < r.frame.sc)
    ∧ r.frame.vnames vecs = .ok xs ∧ r1 = r.settleFor xs ∧ s1 = s.setRole s.cur r1 ∧ r1.part g ≠ 0
    ∧ r1.readRec base = .ok rc ∧ fours.mapM r1.readRec = .ok rs ∧ r1.readRegs (r1.part g) xs = .ok rows

/-- Every unit of a configuration may be read (R44, R261): it carries its generation, an earlier instruction is still to
write it, or it is not lost and the role does not trap on tags. -/
def unitsReadable (s : State) (r : Role) (c : Tcfg) : Prop :=
  ∀ u, c.unitTag u = c.gen ∨ s.unitComing r.team u = true ∨ r.tagTrap = false ∧ c.unitTag u ≠ poisonTag

/-- A checked command with its range locks (R236, R239, R240, R247): it enters the issuing core's queue with what it has
captured, its locks are registered, registers it writes are no longer written by earlier operations (R72), and the run goes
on; without room its role is held at the instruction. -/
def accepts (i : Instr) (s s1 : State) (r1 : Role) (lits : Nat) (c : Cmd) (ls : List RangeLock) (joins : Bool) : Prop :=
  ((s.core r1.core).cmds.length < 256 → (s.core r1.core).locks.length + ls.length ≤ 64 →
    answers i s fun t => ∃ r' c' cs, mget t.roles s.cur = some r' ∧ (t.core r1.core).cmds = cs ++ [c']
      ∧ cs.map Cmd.pending = (s1.core r1.core).cmds.map Cmd.pending
      ∧ t.ops.map MemOp.pending = s.ops.map MemOp.pending
      ∧ (c.dests = [] → cs = (s1.core r1.core).cmds ∧ t.ops = s.ops)
      ∧ c' = { c with
          id := c'.id, role := s.cur, core := r1.core, plot := r1.plot, team := r1.team, teamIdx := r1.teamIdx
          roleId := r1.roleId, runNo := r1.runNo, half := (s.core r1.core).xchCur
          batch := if joins then r1.batchOpen else 0, after := if selOrd c.bsel then some s.next else none }
      ∧ (t.core r1.core).locks = (s1.core r1.core).locks ++ ls.map (fun l => { l with cmd := c'.id })
      ∧ sameBytes s t ∧ r1.wentOn (1 + lits) r'
      ∧ r'.still = { r1.still with fences := r'.fences }
      ∧ ∀ j, j ≠ s.cur → mget t.roles j = mget s.roles j)
  ∧ ((256 ≤ (s.core r1.core).cmds.length ∨ 64 < (s.core r1.core).locks.length + ls.length) →
    answers i s fun t => ∃ r', mget t.roles s.cur = some r' ∧ onlyRole s.cur s t ∧ r'.still = r1.still
      ∧ r'.status = .held (.engineFull ls.length false) ∧ r'.hdr = r1.hdr ∧ r'.off = r1.off)

/-- The 256 bits of a record or descriptor. -/
def bits (x : Rec) : BitVec 256 := BitVec.ofNat 256 x.n

/-- The range that ranges of one space span (R240). -/
def hull (xs : List (Option (LockSpace × Nat × Nat))) : Option (LockSpace × Nat × Nat) :=
  (xs.filterMap id).foldl (fun acc x => match acc with
    | none => some x
    | some y => some (y.1, min y.2.1 x.2.1, max y.2.2 x.2.2)) none

/-- The commands of two records and a descriptor (R238, R248, R249): the kinds each record may have, whether packets are
used, the kind of command, and its operands. -/
def copying : Instr → Option (CmdKind × List Nat × List Nat × Bool × SReg × SReg × BufSel × PReg)
  | .cpy d a b g => some (.cpy, [0, 2, 3], [0, 2, 3], false, d, a, b, g)
  | .put d a b g => some (.put, [0, 2, 3], [1], true, d, a, b, g)
  | .get d a b g => some (.get, [1], [0, 3], true, d, a, b, g)
  | _ => none

end Sys2Proof.Says

/-- Engine commands as they issue (R236 to R241, R244, R246, R247, R252 to R255, R262): each captures its operands and
enters the queue in the open batch, once its checks pass and no stall hint meets it; a failed check stops the role with
nothing issued. RGNREV also takes the region from the table, FENCEX closes the interval. -/
def Obligations.EngineCommandsIssue : Prop :=
  (∀ (i : Instr) (k : CmdKind) (sk dk : List Nat) (pk : Bool) (d a : SReg) (b : BufSel) (g : PReg) (s s1 : State)
      (r r1 : Role) (src dst x : Rec),
    Says.copying i = some (k, sk, dk, pk, d, a, b, g) →
    Says.engineReady s s1 r r1 [d.toNat, a.toNat] [] b g src [dst, x] [] →
    (∀ t, s1.copyChecks src dst (selRec b) (d.toNat / 4) sk dk ⟨x.n⟩ pk none = .error t →
      exec i s = .next (takeTrap s1 s.cur t))
    ∧ ∀ ls, s1.copyChecks src dst (selRec b) (d.toNat / 4) sk dk ⟨x.n⟩ pk none = .ok ls →
      (∀ y, (y = src ∨ y = dst) → y.kind = 1 → s1.stalled (preryRank (BitVec.ofNat 64 y.base)) = none) →
      Says.accepts i s s1 r1 0
        { Cmd.plain k with src := Says.bits src, dst := Says.bits dst, desc := Says.bits x, bsel := b } ls true)
  ∧ (∀ (gather : Bool) (d : SReg) (a : VReg) (b : BufSel) (g : PReg) (s s1 : State) (r r1 : Role) (src dst : Rec)
      (rows : List Lanes) (spans far : List (Option (LockSpace × Nat × Nat))),
    let i := if gather then Instr.gath d a b g else .scat d a b g
    let near := if gather then dst else src
    let other := if gather then src else dst
    let e := near.stride0
    Says.engineReady s s1 r r1 [d.toNat] [a] b g src [dst] [rows] →
    src.check r1 [0, 2, 3] (selRec b) = .ok () → dst.check r1 [0, 2, 3] (d.toNat / 4) = .ok () →
    0 < e → e ≤ 4096 →
    (laneList (r1.part g)).mapM (fun l => s1.rowsCheck r1 near ⟨l * e, 1, e, e⟩ (if gather then d.toNat / 4 else selRec b))
      = .ok spans →
    (laneList (r1.part g)).mapM (fun l => s1.rowsCheck r1 other
        ⟨(laneOfRows rows l).toNat * (if other.stride0 = 0 then e else other.stride0), 1, e, e⟩
        (if gather then selRec b else d.toNat / 4)) = .ok far →
    let whole := s1.extentRange r1 other
    let reads := if gather then whole else Says.hull spans
    let writes := if gather then Says.hull spans else whole
    ownOverlap reads writes = false →
    Says.accepts i s s1 r1 0
      { Cmd.plain (if gather then .gath else .scat) with
        src := Says.bits src, dst := Says.bits dst, bsel := b
        lanes := (laneList (r1.part g)).map fun l => (l, (laneOfRows rows l).setWidth 64, 0) }
      (reads.toList.map (lockOf false) ++ writes.toList.map (lockOf true)) true)
  ∧ (∀ (d a : SReg) (b : BufSel) (g : PReg) (s s1 : State) (r r1 : Role) (src x : Rec) (w : BitVec 64) (c : Tcfg)
      (span : Option (LockSpace × Nat × Nat)),
    Says.engineReady s s1 r r1 [a.toNat] [] b g src [x] [] → d.toNat < r.frame.sc → (s.team r.team).tcfg = some c →
    r.frame.readS r.tagTrap d.toNat = .ok w → src.check r1 [0, 2, 3] (selRec b) = .ok () → src.format = 9 →
    (CopyDesc.mk x.n).bad false false = false → w.toNat / 2 ^ 20 % 2 ^ 44 = 0 → w.toNat / 2 ^ 13 % 8 = 0 →
    (CopyDesc.mk x.n).cntS = false → (CopyDesc.mk x.n).cntD = false →
    (∀ u ∈ cpysSubs w.toNat, u ∈ c.subs) → cpysOff w.toNat % 2 = 0 → (CopyDesc.mk x.n).rowBytes % 2 = 0 →
    s1.rowsCheck r1 src ((CopyDesc.mk x.n).srcRows src) (selRec b) = .ok span →
    cpysOff w.toNat + (CopyDesc.mk x.n).rows * (CopyDesc.mk x.n).rowBytes ≤ c.scaleBytes →
    Says.accepts (.cpys d a b g) s s1 r1 0
      { Cmd.plain .cpys with
        src := Says.bits src, dst := w.setWidth 256, desc := Says.bits x, bsel := b, lanes := [(0, r.pc, 0)] }
      (span.toList.map (lockOf false)) true)
  ∧ (∀ (load : Bool) (tl : TReg) (a : VReg) (b : BufSel) (g : PReg) (s s1 : State) (r r1 : Role) (x : Rec)
      (rows : List Lanes) (l : Nat) (c : Tcfg) (span : Option (LockSpace × Nat × Nat)),
    let i := if load then Instr.mld tl a b g else .mst tl a b g
    let i0 := (laneOfRows rows l).toNat
    Says.engineReady s s1 r r1 [] [a] b g x [] [rows] → (s.team r.team).tcfg = some c → tl.toNat < c.nt →
    lowestLane (r1.part g) = some l → (load = true ∨ Says.unitsReadable s1 r1 c) → x.check r1 [0, 2, 3] (selRec b) = .ok () →
    (∃ k, k < 10 ∧ x.stride0 = 16 * 2 ^ k) →
    s1.rowsCheck r1 x ⟨i0 * (if x.stride1 = 0 then x.stride0 else x.stride1),
      (if load then 1 else c.subs.length) * (8192 / x.stride0), if x.stride1 = 0 then x.stride0 else x.stride1, x.stride0⟩
      (selRec b) = .ok span →
    Says.accepts i s s1 r1 0
      { Cmd.plain (if load then .mld tl else .mst tl) with
        src := if load then Says.bits x else 0, dst := if load then 0 else Says.bits x
        desc := BitVec.ofNat 256 (i0 + 2 ^ 64 * r1.pc.toNat), bsel := b }
      (span.toList.map (lockOf (!load))) false)
  ∧ (∀ (d a : VReg) (b : BufSel) (cv : VReg) (op : BitVec 5) (w : Bool) (g : PReg) (s s1 : State) (r r1 : Role)
      (base : Nat) (ds xs : List Nat) (rc : Rec) (rows : List (List Lanes)),
    let n := if w then 2 else 1
    let addr : Nat → Nat := fun l => rc.base + (laneOfRows (rows.getD 0 []) l).toNat * (if rc.stride0 = 0 then 4 * n else
      rc.stride0)
    mget s.roles s.cur = some r → r.frame.bname b = .ok base → r.frame.vnames (Says.span d n) = .ok ds →
    r.frame.vnames (a :: Says.span cv n) = .ok xs → r1 = r.settleFor (ds ++ xs) → s1 = s.setRole s.cur r1 →
    r1.part g ≠ 0 → r1.readRec base = .ok rc → r1.readRegs (r1.part g) xs = .ok rows →
    r1.checkRegs (r1.part g) ds = .ok () → rc.check r1 [1] (selRec b) = .ok () → rc.bounds = 0 →
    (∀ l ∈ laneList (r1.part g), addr l - rc.base + 4 * n ≤ rc.extent ∧ addr l / 2 ^ 40 = rc.base / 2 ^ 40
      ∧ addr l < 2 ^ 64 ∧ addr l % (4 * n) = 0 ∧ s1.stalled (preryRank (BitVec.ofNat 64 (addr l))) = none) →
    Says.accepts (.ratom d a b cv op w g) s s1 r1 1
      { Cmd.plain (.ratom op w d) with
        src := Says.bits rc, bsel := b, dests := ds
        lanes := (laneList (r1.part g)).map fun l => (l, BitVec.ofNat 64 (addr l),
          (if w then laneOfRows (rows.getD 2 []) l else 0) ++ laneOfRows (rows.getD 1 []) l) } [] false)
  ∧ ∀ (d a : SReg) (g : PReg) (s : State) (r : Role) (v : BitVec 64), mget s.roles s.cur = some r →
      a.toNat < r.frame.sc → r.part g ≠ 0 → r.frame.readS r.tagTrap a.toNat = .ok v →
      (∀ rank, rank = preryRank v →
        Says.accepts (.fencex a g) s s r 0
          { Cmd.plain .fencex with
            dst := v.setWidth 256, desc := BitVec.ofNat 256 (r.interval rank.toNat).count
            fence := some ⟨s.rank, s.jobOf r.plot, s.cur, (r.interval rank.toNat).num⟩
            lanes := (r.interval rank.toNat).ranges.zipIdx.map fun x =>
              (x.2, BitVec.ofNat 64 x.1.1, BitVec.ofNat 64 x.1.2) } [] true
        ∧ ((s.core r.core).cmds.length < 256 → (s.core r.core).locks.length ≤ 64 →
          answers (.fencex a g) s fun t => ∃ r', mget t.roles s.cur = some r'
            ∧ r'.interval rank.toNat = ⟨(r.interval rank.toNat).num + 1, 0, []⟩))
      ∧ (s.regionGranted r (v.toNat % 64) = false →
          exec (.rgnrev d a g) s = .next (takeTrap s s.cur { cause := causePerm }))
      ∧ (s.regionGranted r (v.toNat % 64) = true →
        Says.accepts (.rgnrev d a g) s s r 0 { Cmd.plain .rgnrev with desc := BitVec.ofNat 256 (v.toNat % 64) } [] true
        ∧ ((s.core r.core).cmds.length < 256 → (s.core r.core).locks.length ≤ 64 →
          answers (.rgnrev d a g) s fun t => mget t.regions (v.toNat % 64) = none))

namespace Sys2Proof.Says

/-- A counter instruction (R243): its index and value operands are good and its counter is granted. -/
def counterReady (s : State) (r : Role) (d a : SReg) (g : PReg) (i v : BitVec 64) (readsD : Bool) : Prop :=
  mget s.roles s.cur = some r ∧ d.toNat < r.frame.sc ∧ a.toNat < r.frame.sc ∧ r.part g ≠ 0
    ∧ r.frame.readS r.tagTrap a.toNat = .ok i ∧ s.granted r (i.toNat % 256) = true
    ∧ if readsD then r.frame.readS r.tagTrap d.toNat = .ok v else r.frame.checkS d.toNat 1 = .ok ()

end Sys2Proof.Says

/-- CPYB, WAITB and the counter instructions (R243, R247): CPYB gives the open batch's number and opens the next; WAITB
goes on once every batch up to the number is complete and parks otherwise; CTRADD, CTRSET and CTRRD are outstanding
operations, in their role's order; CTRWAIT goes on once the counter is there and parks otherwise. A counter that is not
granted is PERM. RGNREG enters a region, and is held while the command queue is full (R239, R255). -/
def Obligations.BatchesCountersAndRegions : Prop :=
  (∀ (d : SReg) (g : PReg) (s : State) (r : Role), mget s.roles s.cur = some r → d.toNat < r.frame.sc → r.part g ≠ 0 →
    r.frame.gen ≠ poisonTag → r.frame.checkS d.toNat 1 = .ok () →
    answers (.cpyb d g) s fun t => ∃ r', mget t.roles s.cur = some r' ∧ onlyRole s.cur s t ∧ r.wentOn 1 r'
      ∧ r'.batchOpen = r.batchOpen + 1
      ∧ ∀ k, r'.frame.svalue k = if k = d.toNat then r.batchOpen else r.frame.svalue k)
  ∧ (∀ (a : SReg) (g : PReg) (s : State) (r : Role) (v : BitVec 64) (n : Nat), mget s.roles s.cur = some r →
    a.toNat < r.frame.sc → r.part g ≠ 0 → r.frame.readS r.tagTrap a.toNat = .ok v →
    n = min v.toNat (r.batchOpen.toNat - 1) →
    (n = 0 ∨ s.batchDone s.cur n = true → answers (.waitb a g) s fun t => ∃ r', mget t.roles s.cur = some r'
      ∧ Says.onlyRoleAndL1 s.cur s t ∧ r'.still = r.still ∧ r.wentOn 1 r' ∧ (n ≠ 0 → (t.core r.core).l1 = []))
    ∧ (n ≠ 0 → s.batchDone s.cur n = false → answers (.waitb a g) s fun t => ∃ r', mget t.roles s.cur = some r'
      ∧ onlyRole s.cur s t ∧ r'.status = .parked (.batch (BitVec.ofNat 64 n)) ∧ r'.hdr = r.hdr ∧ r'.off = r.off))
  ∧ (∀ (d a : SReg) (g : PReg) (s : State) (r : Role) (i v : BitVec 64),
    (Says.counterReady s r d a g i v true →
      (∀ x k, (x = Instr.ctradd d a g ∧ k = OpKind.ctradd (i.setWidth 8) (v.setWidth 48)
          ∨ x = .ctrset d a g ∧ k = .ctrset (i.setWidth 8) (v.setWidth 48)) →
        answers x s fun t => ∃ r' o, mget t.roles s.cur = some r' ∧ t.ops = s.ops ++ [o] ∧ o.kind = k ∧ o.role = s.cur
          ∧ o.core = r.core ∧ o.flag = r.kindFlag false ∧ Says.issuedOver 1 o r r' ∧ sameBytes s t)
      ∧ (s.ctrReady s.cur (i.setWidth 8) (v.setWidth 48) = true →
        answers (.ctrwait d a g) s fun t => ∃ r', mget t.roles s.cur = some r' ∧ Says.onlyRoleAndL1 s.cur s t
          ∧ r'.still = r.still ∧ r.wentOn 1 r' ∧ (t.core r.core).l1 = [])
      ∧ (s.ctrReady s.cur (i.setWidth 8) (v.setWidth 48) = false →
        answers (.ctrwait d a g) s fun t => ∃ r', mget t.roles s.cur = some r' ∧ onlyRole s.cur s t
          ∧ r'.status = .parked (.counter (i.setWidth 8) (v.setWidth 48)) ∧ r'.hdr = r.hdr ∧ r'.off = r.off))
    ∧ (Says.counterReady s r d a g i v false →
        answers (.ctrrd d a g) s fun t => ∃ r' o, mget t.roles s.cur = some r' ∧ Says.joins s t o
          ∧ (∀ p ∈ t.ops, p.id ≠ o.id → p.role = s.cur → p.sdest ≠ some d.toNat)
          ∧ o.kind = .ctrrd (i.setWidth 8) ∧ o.sdest = some d.toNat ∧ o.flag = r.kindFlag true
          ∧ Says.issuedOver 1 o r r' ∧ sameBytes s t)
    ∧ (mget s.roles s.cur = some r → d.toNat < r.frame.sc → a.toNat < r.frame.sc → r.part g ≠ 0 →
        r.frame.readS r.tagTrap a.toNat = .ok i → r.frame.readS r.tagTrap d.toNat = .ok v →
        s.granted r (i.toNat % 256) = false → ∀ x, (x = .ctradd d a g ∨ x = .ctrset d a g ∨ x = .ctrwait d a g) →
        exec x s = .next (takeTrap s s.cur { cause := causePerm })))
  ∧ ∀ (d a : SReg) (g : PReg) (s : State) (r : Role) (base ext w : BitVec 64) (vi asid plot : Nat),
      mget s.roles s.cur = some r → d.toNat + 1 < r.frame.sc → a.toNat < r.frame.sc → r.part g ≠ 0 →
      r.frame.readS r.tagTrap d.toNat = .ok base → r.frame.readS r.tagTrap (d.toNat + 1) = .ok ext →
      r.frame.readS r.tagTrap a.toNat = .ok w → w.extractLsb' 51 13 = 0 → w.extractLsb' 40 8 = 0 →
      w.extractLsb' 6 2 = 0 → base.toNat % 65536 = 0 → ext ≠ 0 → ext.toNat ≤ 2 ^ 40 →
      s.space r = some (vi, asid) → r.plot = some plot →
      (s.regionGranted r (w.toNat % 64) = true →
        (256 ≤ (s.core r.core).cmds.length ∨ 64 < (s.core r.core).locks.length) →
        answers (.rgnreg d a g) s fun t => ∃ r', mget t.roles s.cur = some r' ∧ onlyRole s.cur s t
          ∧ r'.status = .held (.engineFull 0 false) ∧ r'.hdr = r.hdr ∧ r'.off = r.off)
      ∧ (s.regionGranted r (w.toNat % 64) = true → (s.core r.core).cmds.length < 256 →
        (s.core r.core).locks.length ≤ 64 → answers (.rgnreg d a g) s fun t => ∃ r',
        mget t.roles s.cur = some r' ∧ r'.still = r.still ∧ r.wentOn 1 r' ∧ sameBytes s t
        ∧ mget t.regions (w.toNat % 64) = some
          { plot := plot, core := r.core, vi := vi, asid := asid, base := base.toNat, extent := ext.toNat
            key := w.extractLsb' 8 32, wr := w.getLsbD 48, rd := w.getLsbD 49, at' := w.getLsbD 50 })
      ∧ (s.regionGranted r (w.toNat % 64) = false → exec (.rgnreg d a g) s = .next (takeTrap s s.cur { cause := causePerm }))

/-- TRIG and TRIGX (R239, R248): a counter that is not granted is PERM before the bounds and overlap are looked at; a
checked send is armed on its counter with its threshold, in the open batch, and fires at once
when the counter is already there; TRIGX takes its threshold from the counter when it fires. COLL (R256, R460): a
checked collective of a group that lists this rank is a command and an open collective. -/
def Obligations.TriggersAndCollectives : Prop :=
  (∀ (sub : Bool) (d a : SReg) (b : BufSel) (c : BitVec 8) (g : PReg) (s s1 : State) (r r1 : Role) (src dst x : Rec)
      (ls : List RangeLock),
    let i := if sub then Instr.trigx d a b c g else .trig d a b c g
    let co := s.core r.core
    Says.engineReady s s1 r r1 [d.toNat, a.toNat] [] b g src [dst, x] [] →
    let found := s1.copyChecks src dst (selRec b) (d.toNat / 4) [0, 2, 3] [1] ⟨x.n⟩ true (some c.toNat)
    (∀ tr, found = .error tr → exec i s = .next (takeTrap s1 s.cur tr))
    ∧ (src.check r1 [0, 2, 3] (selRec b) = .ok () → dst.check r1 [1] (d.toNat / 4) = .ok () →
      (CopyDesc.mk x.n).bad true true = false → s.granted r c.toNat = false →
      exec i s = .next (takeTrap s1 s.cur { cause := causePerm }))
    ∧ (found = .ok ls → s1.stalled (preryRank (BitVec.ofNat 64 dst.base)) = none → co.cmds.length < 256 →
      co.locks.length + ls.length ≤ 64 → co.triggers.length < 64 → co.triggers.all (fun u => u.counter != c) = true →
      co.headland = [] → (∀ u ∈ co.triggers, u.cmd.id ≠ s.next) →
      answers i s fun t => ∃ r' cmd, mget t.roles s.cur = some r' ∧ r1.wentOn 2 r' ∧ r'.still = r1.still ∧ sameBytes s t
        ∧ cmd.kind = .put ∧ cmd.role = s.cur ∧ cmd.src = Says.bits src ∧ cmd.dst = Says.bits dst
        ∧ cmd.desc = Says.bits x ∧ cmd.batch = r1.batchOpen
        ∧ (t.core r.core).locks = co.locks ++ ls.map (fun l => { l with cmd := cmd.id })
        ∧ if (CopyDesc.mk x.n).threshold ≤ (co.counter c.toNat).toNat then
            (t.core r.core).cmds = co.cmds ++ [cmd] ∧ (t.core r.core).triggers = co.triggers
              ∧ (t.core r.core).counter c.toNat =
                co.counter c.toNat - (if sub then BitVec.ofNat 48 (CopyDesc.mk x.n).threshold else 0)
          else (t.core r.core).cmds = co.cmds
            ∧ (t.core r.core).triggers = co.triggers ++ [⟨cmd, c, BitVec.ofNat 48 (CopyDesc.mk x.n).threshold, sub⟩]
            ∧ (t.core r.core).counters = co.counters))
  ∧ ∀ (d a : SReg) (b : BufSel) (kind op : BitVec 4) (log : Bool) (g : PReg) (s s1 : State) (r r1 : Role)
      (src dst x : Rec) (v : Nat) (j : Job) (c : Cmd) (coll : Coll) (from' to' : Option (LockSpace × Nat × Nat)),
      Says.engineReady s s1 r r1 [d.toNat, a.toNat] [] b g src [dst, x] [] →
      src.check r1 [0, 3] (selRec b) = .ok () → dst.check r1 [0, 3] (d.toNat / 4) = .ok () →
      s1.plotJob r1.plot = some (v, j) →
      c = { Cmd.plain (.coll kind op log) with
        src := Says.bits src, dst := Says.bits dst, desc := Says.bits x, bsel := b } →
      coll = ⟨c, v, j.id, BitVec.ofNat 32 c.collGroup, BitVec.ofNat 32 c.collSeq, j.slotList c.collGroup c.collSeq,
        j.members c.collGroup c.collSeq, []⟩ →
      c.collBad = false → (mget j.roster.comms c.collGroup).isSome = true →
      (kind = 2 → c.collCount % max 1 coll.slots.length = 0) → s.granted r dst.counter.toNat = true →
      (if coll.srcBytes s.rank.toNat = 0 then from' = none else
        s1.rowsCheck r1 src ⟨0, 1, coll.srcBytes s.rank.toNat, coll.srcBytes s.rank.toNat⟩ (selRec b) = .ok from') →
      (if coll.dstBytes s.rank.toNat = 0 then to' = none else
        s1.rowsCheck r1 dst ⟨0, 1, coll.dstBytes s.rank.toNat, coll.dstBytes s.rank.toNat⟩ (d.toNat / 4) = .ok to') →
      ownOverlap from' to' = false → coll.first.contains s.rank.toNat = true →
      s.collOf j.id coll.group coll.seq = none → (∀ m ∈ coll.first, s1.stalled (BitVec.ofNat 18 m) = none) →
      (s.core r.core).cmds.length < 256 → (s.core r.core).locks.length + (locksOf from' to').length ≤ 64 →
      s.contribs = [] → (∀ p ∈ s.cores, ∀ u ∈ p.2.cmds, u.id ≠ s.next) →
      answers (.coll d a b kind op log g) s fun t => ∃ r' cmd y, mget t.roles s.cur = some r' ∧ r1.wentOn 2 r'
        ∧ r'.still = r1.still ∧ sameBytes s t ∧ cmd.kind = .coll kind op log ∧ cmd.batch = r1.batchOpen
        ∧ (t.core r.core).cmds = (s.core r.core).cmds ++ [cmd] ∧ mget t.colls cmd.id = some y
        ∧ y.cmd = cmd ∧ y.job = j.id ∧ y.group = coll.group ∧ y.seq = coll.seq ∧ y.first = coll.first ∧ y.chunks = []

/-! ## Tile configurations and the matrix arrays (R259 to R270, R318) -/

/-- TCFG and TREL (R259, R260): a bad word is ILLOP, a cluster of another world PERM, unfinished matrix work TILEBUSY;
otherwise the old configuration is
released, its generation retired, and a new one is made under a generation of its own with nothing written, or the role
parks on its request; TREL releases, at once when it discards. -/
def Obligations.TileConfigurations : Prop :=
  ∀ (a : SReg) (g : PReg) (s : State) (r : Role) (w : BitVec 64) (tm : Team),
    mget s.roles s.cur = some r → mget s.teams r.team = some tm → tm.core = r.core → a.toNat < r.frame.sc →
    r.part g ≠ 0 → r.frame.readS r.tagTrap a.toNat = .ok w →
    (tcfgBad w.toNat = true → exec (.tcfg a g) s = .next (takeTrap s s.cur { cause := causeIllop }))
    ∧ (tcfgBad w.toNat = false → r.plot.isSome = true → (mget s.worldMap (r.core / 4)).getD 0 ≠ s.worldOf r →
        exec (.tcfg a g) s = .next (takeTrap s s.cur { cause := causePerm }))
    ∧ (tm.tcfg.isSome = true → s.matrixBusy r.team = true →
        exec (.trel a g) s = .next (takeTrap s s.cur { cause := causeTilebusy }))
    ∧ ((r.plot = none ∨ (mget s.worldMap (r.core / 4)).getD 0 = s.worldOf r) →
    (tcfgBad w.toNat = false → tm.tcfg.isSome = true → s.matrixBusy r.team = true →
        exec (.tcfg a g) s = .next (takeTrap s s.cur { cause := causeTilebusy }))
    ∧ (∀ p gen co x, tcfgBad w.toNat = false → tm.tcfg = none → (s.core r.core).frameReqs = [] →
        (s.core r.core).fits r.core (tcfgNeed w) = true → (s.core r.core).nextGen = some (gen, co) →
        tm.plot.bind (mget s.plots) = some p → s.reserve p.vi (tileBlockSize w) = some x →
        answers (.tcfg a g) s fun t => ∃ r' tm', mget t.roles s.cur = some r' ∧ r'.still = r.still ∧ r.wentOn 1 r'
          ∧ sameBytes s t ∧ mget t.teams r.team = some tm' ∧ { tm' with tcfg := none } = tm
          ∧ tm'.tcfg = some ⟨w, gen, [], [], [], some (x.1, tileBlockSize w)⟩
          ∧ (t.core r.core).genLive = gen :: (s.core r.core).genLive)
    ∧ (tcfgBad w.toNat = false → tm.tcfg = none → (s.core r.core).frameReqs = [] →
        (s.core r.core).fits r.core (tcfgNeed w) = false →
        answers (.tcfg a g) s fun t => ∃ r', mget t.roles s.cur = some r' ∧ sameBytes s t
          ∧ r'.status = .parked (.frame (.tcfg w)) ∧ r'.hdr = r.hdr ∧ r'.off = r.off
          ∧ (t.core r.core).frameReqs = [s.cur]))
    ∧ (∀ c, tm.tcfg = some c → answers (.trelDiscard a g) s fun t => ∃ r' tm', mget t.roles s.cur = some r'
        ∧ r.wentOn 1 r' ∧ mget t.teams r.team = some tm' ∧ tm'.tcfg = none ∧ c.gen ∈ (t.core r.core).genRetired
        ∧ (∀ o ∈ t.mats, o.team ≠ r.team) ∧ ∀ d ∈ (t.core r.core).cmds, ¬(d.team = r.team ∧ d.isMatrix = true))
    ∧ (∀ c, tm.tcfg = some c → ∀ i, (i = .trel a g ∧ s.matrixBusy r.team = false
          ∨ i = .trelDiscard a g ∧ ∀ o ∈ s.mats, o.team = r.team → o.started = false) →
        answers i s fun t => ∃ r' tm', mget t.roles s.cur = some r' ∧ r'.still = r.still ∧ r.wentOn 1 r'
          ∧ sameBytes s t ∧ mget t.teams r.team = some tm' ∧ tm' = { tm with tcfg := none }
          ∧ c.gen ∈ (t.core r.core).genRetired)
    ∧ (tm.tcfg = none → ∀ i, (i = .trel a g ∨ i = .trelDiscard a g) → answers i s fun t =>
        ∃ r', mget t.roles s.cur = some r' ∧ onlyRole s.cur s t ∧ r'.still = r.still ∧ r.wentOn 1 r')

namespace Sys2Proof.Says

/-- A matrix instruction enters the queues of its sub-partitions (R261, R318), or its role is held until they have
room. -/
def queued (i : Instr) (s s1 : State) (r1 : Role) (c : Tcfg) (kind : MatKind) (b : List (List Lanes)) : Prop :=
  (s1.queueFull r1.core c.subs = false → answers i s fun t => ∃ r' o, mget t.roles s.cur = some r'
    ∧ t.mats = s.mats ++ [o] ∧ o.kind = kind ∧ o.subp = c.subs ∧ o.b = b ∧ o.team = r1.team ∧ o.role = s.cur
    ∧ o.core = r1.core ∧ o.addr = r1.pc ∧ o.started = false ∧ o.folded = 0 ∧ sameBytes s t ∧ t.teams = s.teams
    ∧ t.ops = s.ops ∧ r'.still = r1.still ∧ r1.wentOn 2 r')
  ∧ (s1.queueFull r1.core c.subs = true → answers i s fun t => ∃ r', mget t.roles s.cur = some r'
    ∧ onlyRole s.cur s t ∧ r'.still = r1.still ∧ r'.status = .held .matrixFull ∧ r'.hdr = r1.hdr ∧ r'.off = r1.off)

/-- ACCRD and ACCWR join the unfinished matrix work in issue order, and their role is held past them (R261, R263). -/
def moves (i : Instr) (s : State) (r1 : Role) (c : Tcfg) (kind : MatKind) : Prop :=
  answers i s fun t => ∃ r' o, mget t.roles s.cur = some r' ∧ t.mats = s.mats ++ [o] ∧ o.kind = kind ∧ o.subp = c.subs
    ∧ o.team = r1.team ∧ o.role = s.cur ∧ o.core = r1.core ∧ o.started = false ∧ sameBytes s t ∧ t.teams = s.teams
    ∧ t.ops = s.ops ∧ heldPast r1 r' (.accMove o.id)

/-- A team's configuration, and a participating lane. -/
def matrixReady (s : State) (r : Role) (g : PReg) (tm : Team) (c : Tcfg) : Prop :=
  mget s.roles s.cur = some r ∧ mget s.teams r.team = some tm ∧ tm.tcfg = some c ∧ r.part g ≠ 0

end Sys2Proof.Says

/-- The matrix instructions as they issue (R261, R263, R265, R266, R270): without a configuration, or a unit in it,
REGFIELD; MMA needs a group for every sub-partition, or is MMAGROUP, and legal formats, or is ILLOP; what passes enters
the queues with its operands captured, after it has waited in place for registers of B that an earlier run left pending
(R73). ACCZ makes the accumulator zero once nothing earlier uses it; ACCRD and ACCWR end their run and hold their role until
they have taken effect. -/
def Obligations.MatrixInstructionsIssue : Prop :=
  (∀ (d : AReg) (a : TReg) (vb : VReg) (fb : SReg) (k2 : Bool) (sgn : Option TReg) (g : PReg) (s : State) (r : Role)
      (tm : Team),
    let i := match sgn with
      | none => Instr.mma d a vb fb k2 g
      | some t => .mmaSgn d a vb fb k2 t g
    let blocks := if k2 then 2 else 1
    mget s.roles s.cur = some r → mget s.teams r.team = some tm → fb.toNat + 1 < r.frame.sc →
    r.part g ≠ 0 →
    (tm.tcfg = none → exec i s = .next (takeTrap s s.cur { cause := causeRegfield }))
    ∧ ∀ c, tm.tcfg = some c →
      (c.na ≤ d.toNat ∨ c.nt ≤ a.toNat → exec i s = .next (takeTrap s s.cur { cause := causeRegfield }))
      ∧ (d.toNat < c.na → a.toNat < c.nt → (∀ t, sgn = some t → t.toNat < c.nt) →
        ((∃ u ∈ c.subs, r.groups ≤ u) → exec i s = .next (takeTrap s s.cur { cause := causeMmagroup }))
        ∧ ∀ fa fx, (∀ u ∈ c.subs, u < r.groups) → r.frame.readS r.tagTrap fb.toNat = .ok fa →
          r.frame.readS r.tagTrap (fb.toNat + 1) = .ok fx →
          (fbPairBad fa fx = true → exec i s = .next (takeTrap s s.cur { cause := causeIllop }))
          ∧ (fbPairBad fa fx = false →
            (c.nt < a.toNat + aTiles fa blocks → exec i s = .next (takeTrap s s.cur { cause := causeRegfield }))
            ∧ ∀ xs, a.toNat + aTiles fa blocks ≤ c.nt →
              r.frame.bNames vb (bRegs (fbFmt fx) (fbLen fx) blocks c.subs.length) = .ok xs →
              (fbOff fa % 2 ≠ 0 ∨ fbOff fx % 2 ≠ 0 → exec i s = .next (takeTrap s s.cur { cause := causeAlign }))
              ∧ (fbOff fa % 2 = 0 → fbOff fx % 2 = 0 →
                (fbScaled fa = true ∧ c.scaleBytes < fbOff fa + 256 * blocks
                    ∨ fbScaled fx = true ∧ c.scaleBytes < fbOff fx + 128 * blocks →
                  exec i s = .next (takeTrap s s.cur { cause := causeBounds }))
                ∧ ((fbScaled fa = true → fbOff fa + 256 * blocks ≤ c.scaleBytes) →
                  (fbScaled fx = true → fbOff fx + 128 * blocks ≤ c.scaleBytes) →
                  (s.pendingBefore s.cur xs = true → exec i s = .next s)
                  ∧ ∀ r1 rows, s.pendingBefore s.cur xs = false → r1 = r.settleFor xs → Says.unitsReadable s r c →
                    c.subs.mapM (fun u => r1.readGroup u xs) = .ok rows →
                    Says.queued i s (s.setRole s.cur r1) r1 c (.mma d a fa fx blocks sgn) rows)))))
  ∧ (∀ (d a : TReg) (da : AReg) (v : VReg) (g : PReg) (s : State) (r r1 : Role) (tm : Team) (c : Tcfg) (x : Nat)
      (row : List Lanes),
    Says.matrixReady s r g tm c → Says.unitsReadable s r c →
    (d.toNat < c.nt → a.toNat < c.nt → Says.queued (.mtrn d a g) s s r c (.mtrn d a) [[]])
    ∧ (da.toNat < c.na → a.toNat < c.nt → Says.queued (.mrsum da a g) s s r c (.mrsum da a) [[]])
    ∧ (d.toNat < c.nt → a.toNat < c.nt → r.frame.vname v = .ok x → r1 = r.settleFor [x] →
        r1.readGroup 0 [x] = .ok row → Says.queued (.mprm d a v g) s (s.setRole s.cur r1) r1 c (.mprm d a) [row]))
  ∧ ∀ (d : AReg) (v : VReg) (b : SReg) (g : PReg) (s : State) (r r1 : Role) (tm : Team) (c : Tcfg) (x : Nat)
      (i0 : BitVec 64),
      Says.matrixReady s r g tm c → d.toNat < c.na →
      let units := c.subs.map fun u => accUnit u d.toNat
      (s.unitsBusy r.team s.next units = true → answers (.accz d g) s fun t => ∃ r' o, mget t.roles s.cur = some r'
        ∧ t.mats = s.mats ++ [o] ∧ o.kind = .accz d ∧ o.subp = c.subs ∧ t.teams = s.teams ∧ sameBytes s t
        ∧ r'.still = r.still ∧ r.wentOn 1 r')
      ∧ (s.unitsBusy r.team s.next units = false → answers (.accz d g) s fun t => ∃ r' tm' c',
        mget t.roles s.cur = some r' ∧ mget t.teams r.team = some tm' ∧ tm'.tcfg = some c' ∧ t.mats = s.mats
        ∧ sameBytes s t ∧ r'.still = r.still ∧ r.wentOn 1 r' ∧ c'.tiles = c.tiles ∧ c'.scales = c.scales
        ∧ c'.gen = c.gen ∧ (∀ u ∈ c.subs, ∀ j n, unitBytes c'.accs (8 * u + d.toNat) c.gen j n = List.replicate n 0)
        ∧ ∀ k, (∀ u ∈ c.subs, k ≠ 8 * u + d.toNat) → mget c'.accs k = mget c.accs k)
      ∧ (r.frame.vname v = .ok x → b.toNat < r.frame.sc → r1 = r.settleFor [x] →
        r1.frame.readS r.tagTrap b.toNat = .ok i0 →
        (Says.unitsReadable s r c → r1.checkReg x (r1.part g &&& ownedMask r1 c) = .ok () →
          Says.moves (.accrd v d b g) s r1 c (.accrd d i0 (r1.part g &&& ownedMask r1 c) x))
        ∧ ∀ rows, r1.readReg x (r1.part g &&& ownedMask r1 c) = .ok rows → (∀ u, c.isPoison u = false) →
          Says.moves (.accwr d v b g) s r1 c (.accwr d i0 (r1.part g &&& ownedMask r1 c) rows))

/-- The arrays (R131, R133, R261, R263, R267, R270, R318): the head of its queues starts once nothing earlier uses its
units; a started entry, and work that is no queue entry once nothing earlier uses its units, completes with its effect on its
team's configuration and nothing else; an MMA changes its accumulator alone, each element folded with one rounding; MTRN and
MPRM give the tile's bytes transposed, or its rows permuted; ACCRD writes the slice that i0 names to the lanes of owned
sub-partitions, ACCWR those lanes to the slice. -/
def Obligations.MatrixArrays : Prop :=
  (∀ (op : Nat) (s : State) (o : MatOp), s.mats.find? (fun p => p.id == op) = some o → o.id = op →
    let ready := if o.kind.queued = true then o.started = true else s.unitsBusy o.team op o.units = false
    (answers (.matrixQueueStart op) s fun t => sameBytes s t ∧ t.roles = s.roles ∧ t.teams = s.teams
      ∧ if s.atHead o = true ∧ s.unitsBusy o.team op o.units = false
        then t.mats.find? (fun p => p.id == op) = some { o with started := true } else t = s)
    ∧ (∀ tm c, ready → s.dormant o = false → mget s.teams o.team = some tm →
      tm.live ≠ [] → tm.tcfg = some c → o.errors c = [] →
      answers (.matrixComplete op) s fun t => sameBytes s t ∧ ((∀ a i m x, o.kind ≠ .accrd a i m x) → t.roles = s.roles)
        ∧ t.mats = s.mats.filter (fun p => p.id != op) ∧ mget t.teams o.team = some { tm with tcfg := some (o.effect c) }
        ∧ (∀ k, k ≠ o.team → mget t.teams k = mget s.teams k) ∧ t.ops.map MemOp.pending = s.ops.map MemOp.pending
        ∧ ∀ a i0 m x r, o.kind = .accrd a i0 m x → mget s.roles o.role = some r → r.checkReg x m = .ok () →
          r.groups ≤ 32 → ∃ r', mget t.roles o.role = some r' ∧ (∀ j, j ≠ o.role → mget t.roles j = mget s.roles j)
            ∧ r'.still = { r.still with frames := r'.frames } ∧ r'.status = r.status ∧ r'.frames.tail = r.frames.tail
            ∧ r'.frame.besideRows = r.frame.besideRows
            ∧ ∀ n, n < 32 * r.groups → r'.frame.value x n =
              if m.getLsbD n = true then BitVec.ofNat 32 (leNat (unitBytes c.accs (8 * (n / 32 % 4) + a.toNat) c.gen
                (128 * ((i0.toNat + n / 128) % 256) + 4 * (n % 32)) 4)) else r.frame.value x n)
    ∧ ((¬ready ∨ s.dormant o = true) → exec (.matrixComplete op) s = .next s))
  ∧ (∀ (o : MatOp) (c : Tcfg), (o.effect c).gen = c.gen ∧ (o.effect c).word = c.word ∧ (o.effect c).scales = c.scales
      ∧ (∀ acc tile fa fb n, o.kind = .mma acc tile fa fb n none → (o.effect c).tiles = c.tiles
          ∧ ∀ k, (∀ u ∈ o.subp, k ≠ 8 * u + acc.toNat) → mget (o.effect c).accs k = mget c.accs k)
      ∧ (∀ acc tile fa fb n t, o.kind = .mma acc tile fa fb n (some t) → (o.effect c).accs = c.accs
          ∧ ∀ k, (∀ u ∈ o.subp, k ≠ 16 * u + t.toNat) → mget (o.effect c).tiles k = mget c.tiles k)
      ∧ (∀ d a, (o.kind = .mtrn d a ∨ o.kind = .mprm d a) → (o.effect c).accs = c.accs
          ∧ ∀ k, (∀ u ∈ o.subp, k ≠ 16 * u + d.toNat) → mget (o.effect c).tiles k = mget c.tiles k)
      ∧ (∀ d a, o.kind = .mrsum d a → (o.effect c).tiles = c.tiles
          ∧ ∀ k, (∀ u ∈ o.subp, k ≠ 8 * u + d.toNat) → mget (o.effect c).accs k = mget c.accs k)
      ∧ (∀ a i m x, o.kind = .accrd a i m x → o.effect c = c)
      ∧ ∀ a i0 m rows, o.kind = .accwr a i0 m rows → (o.effect c).tiles = c.tiles
          ∧ (∀ k, (∀ u, u < 4 → k ≠ 8 * u + a.toNat) → mget (o.effect c).accs k = mget c.accs k)
          ∧ ((∀ p ∈ c.accs, sortedFrom none p.2.data = true) → ∀ n, n < 1024 → m.getLsbD n = true →
            leNat (unitBytes (o.effect c).accs (8 * (n / 32 % 4) + a.toNat) c.gen
              (128 * ((i0.toNat + n / 128) % 256) + 4 * (n % 32)) 4) = (laneOfRows rows n).toNat))
  ∧ (∀ (t : Bytes) (q : Lanes) (i j : Nat), t.length = 8192 → i < 128 → j < 64 →
      (transposed t).getD (128 * j + i) 0 = t.getD (64 * i + j) 0
      ∧ (permuted t q).getD (64 * i + j) 0 =
          if (q.extractLsb' (8 * i) 8).toNat < 128 then t.getD (64 * (q.extractLsb' (8 * i) 8).toNat + j) 0 else 0)
  ∧ (∀ (xs : List Int) (keep : Nat), alignBlock true keep (xs.map intVal) = some (xs, 0))
  ∧ ∀ (acc : BitVec 32) (k p q : Int) (res : Nat), Says.units acc.toNat = some p →
      res = foldCell acc.toNat (some (k, -149)) scaleOne scaleOne → Says.units res = some q →
      Says.roundsTo 0 0 (p + k) res q

/-! ## Runs, generations and waits (R37 to R43, R65, R79, R276 to R283, R374 to R378) -/

/-- A frame after a harrow visit (R48, R49): a row, granule or hidden unit keeps its tag and contents, unless a mismatch
stood over it while it held its frame's generation, when it may be poison, and a lost hidden row takes its group's
predicates with it; everything else of the frame is as before. -/
def Sys2Proof.Says.sweptFrame (f f' : Frame) : Prop :=
  { f' with rows := f.rows, grans := f.grans, hidden := f.hidden, hiddenFlaws := f.hiddenFlaws, preds := f.preds } = f
  ∧ f'.preds.length = f.preds.length
  ∧ (∀ p n, n < 1024 → (f'.preds.getD p 0).getLsbD n = (f.preds.getD p 0).getLsbD n
      ∨ n / 32 ∈ f.hiddenFlaws ∧ f.hiddenTag (n / 32) = f.gen ∧ f'.hiddenTag (n / 32) = poisonTag)
  ∧ (∀ k, mget f.rows k = none → mget f'.rows k = none)
  ∧ (∀ k, mget f.grans k = none → mget f'.grans k = none)
  ∧ (∀ k x, mget f.rows k = some x → ∃ x', mget f'.rows k = some x' ∧
      (x'.tag = x.tag ∧ x'.data = x.data ∨ x.flaw = true ∧ x.tag = f.gen ∧ x'.tag = poisonTag))
  ∧ (∀ k x, mget f.grans k = some x → ∃ x', mget f'.grans k = some x' ∧
      (x'.tag = x.tag ∧ x'.data = x.data ∨ x.flaw = true ∧ x.tag = f.gen ∧ x'.tag = poisonTag))
  ∧ ∀ i, f'.hiddenTag i = f.hiddenTag i ∨ i ∈ f.hiddenFlaws ∧ f.hiddenTag i = f.gen ∧ f'.hiddenTag i = poisonTag

/-- What the arbiter's look at its roles changes (R279): whether each could start, since when, and the next number. -/
def Sys2Proof.Says.looked (s t : State) : Prop :=
  { t with roles := s.roles, next := s.next } = s
  ∧ ∀ k, (mget t.roles k).map (fun r => { r with able := false, readyAt := 0 })
      = (mget s.roles k).map fun r => { r with able := false, readyAt := 0 }

/-- The arbiter's events (R43, R65, R79, R276 to R281, R389) and generations (R42, R43): looking for a role to start
changes nothing but when each became able; only a startable role of a core
with a free issue stage starts, at the word where it stands; a pending deferred cause is taken there first; an issue cycle
of a core where no run waits in place moves the rotation pointer and earns its owner a credit, at most 24; a rotation
period halves lost-locality scores, and
caches may have given up lines by then; a sweep certifies what was retired before it, and a live register over which a
mismatch stood may be lost, which is then poison (R49). A generation
that is issued is no one's, is neither void nor poison, and is
then live. -/
def Obligations.RunsAndGenerations : Prop :=
  (∀ (core : Nat) (s s0 : State), s.noteReady core = s0 →
    Says.looked s s0
    ∧ (s0.choose core = none → exec (.runStart core) s = .next s)
    ∧ (∀ k lent, s0.choose core = some (k, lent) → (s0.core core).running = none ∧ s0.startable k = true)
    ∧ ∀ k lent r hdr h off is, s0.choose core = some (k, lent) → mget s0.roles k = some r → r.core = core →
      r.status = .ready → r.frame.spilled = none → s0.runView k = .run hdr h off is →
      (r.deferred = [] → answers (.runStart core) s fun t => ∃ r', mget t.roles k = some r' ∧ sameBytes s t
        ∧ r'.status = .running ∧ r'.hdr = hdr ∧ r'.hdrWord = h ∧ r'.off = off ∧ r'.frames = r.frames ∧ r'.mask = r.mask
        ∧ (t.core core).running = some k ∧ t.turn = core ∧ t.cur = k ∧ t.ops = s.ops)
      ∧ ∀ d, firstDeferred r.deferred = some d → answers (.runStart core) s fun t => ∃ r', mget t.roles k = some r'
        ∧ Role.stoppedAt hdr (if off = 1 then 0 else off) r' ∧ r'.deferred = r.deferred.erase d ∧ r'.mask = r.mask
        ∧ (t.core core).running = none ∧ ∀ e ∈ r.deferred, d.cause.toNat ≤ e.cause.toNat)
  ∧ (∀ (core : Nat) (s : State),
      (∀ k, (s.core core).running = some k → exec (.issueCycle core) s = .next { s with turn := core, cur := k })
      ∧ ((s.core core).running = none → answers (.issueCycle core) s fun t => sameBytes s t ∧ t.ops = s.ops
        ∧ (∀ k, (mget t.roles k).map (fun r => { r with able := false, readyAt := 0 })
            = (mget s.roles k).map fun r => { r with able := false, readyAt := 0 })
        ∧ t.turn = core ∧ (t.core core).pointer = ((s.core core).pointer + 1) % 64
        ∧ (∀ slot, s.dealt core (((s.core core).pointer + 1) % 64) = some slot →
            (t.core core).creditOf slot = min ((s.core core).creditOf slot + 1) 24
            ∧ ∀ x, x ≠ slot → (t.core core).creditOf x = (s.core core).creditOf x)
        ∧ (s.dealt core (((s.core core).pointer + 1) % 64) = none → (t.core core).credit = (s.core core).credit)
        ∧ ∀ c, c ≠ core → t.core c = s.core c))
  ∧ (∀ (core : Nat) (s : State), sortedFrom none (s.core core).l1 = true →
      answers (.localityDecay core) s fun t => sameBytes s t ∧ t.roles = s.roles
      ∧ t.ops = s.ops ∧ (∀ slot, (mget (t.core core).lost slot).getD 0 = (mget (s.core core).lost slot).getD 0 / 2)
      ∧ (∀ k x, mget (t.core core).l1 k = some x → mget (s.core core).l1 k = some x)
      ∧ (∀ x ∈ (t.core core).tlb, x ∈ (s.core core).tlb) ∧ (∀ x ∈ t.tlb2, x ∈ s.tlb2)
      ∧ ∀ c, c ≠ core → t.core c = s.core c)
  ∧ (∀ (core : Nat) (s : State), sortedFrom none s.roles = true →
      answers (.harrowSweepComplete core) s fun t => sameBytes s t
      ∧ (∀ j, mget s.roles j = none → mget t.roles j = none)
      ∧ (∀ j r, mget s.roles j = some r → ∃ r', mget t.roles j = some r' ∧ (r.core ≠ core → r' = r)
        ∧ { r' with frames := r.frames } = r ∧ r'.frames.length = r.frames.length
        ∧ ∀ (i : Nat) (f : Frame), r.frames[i]? = some f → ∃ f', r'.frames[i]? = some f' ∧ Says.sweptFrame f f')
      ∧ t.ops = s.ops ∧ (t.core core).sweeps = (s.core core).sweeps + 1
      ∧ (t.core core).genSweeping = (s.core core).genRetired ∧ (t.core core).genRetired = []
      ∧ (t.core core).genLive = (s.core core).genLive
      ∧ (∀ g ∈ (s.core core).genSweeping, g ∉ (s.core core).genRetired → g ∉ (s.core core).genLive →
          (t.core core).genFree g = true)
      ∧ ∀ c, c ≠ core → t.core c = s.core c)
  ∧ ∀ (c c' : Core) (g : BitVec 16), c.nextGen = some (g, c') →
      g ≠ 0 ∧ g ≠ voidTag ∧ g ≠ poisonTag ∧ g ∉ c.genLive ∧ g ∉ c.genRetired ∧ g ∉ c.genSweeping
      ∧ c'.genLive = g :: c.genLive ∧ c'.genCounter = g

/-- The role stands so many words on, past its run's end in the header position after it (R67, R79). -/
def Sys2Proof.Says.standsOn (n : Nat) (r r' : Role) : Prop :=
  (r'.hdr, r'.off) = if hdrLen r.hdrWord < r.off + n then (r.fallThrough, 0) else (r.hdr, r.off + n)

/-- The ends of waits (R33, R36 to R40, R53, R55, R212, R228, R232, R283, R376 to R378): a walk that finds its leaf caches
it and lets the held instruction issue again, one that finds nothing parks the role on fault service with a record, one
that finds a malformed entry, or one of an unzeroed page that does not permit the access, makes the fault the
instruction's; a walk for later words of a run that fails lets the run start without them; verdicts come back the same
way; a parked role whose condition holds
becomes ready and one whose does not stays; the oldest frame request is met when it fits; a spilled record's frame has
given up its rows once the stores are acknowledged, and a frame that is gone stays gone. -/
def Obligations.WaitsEnd : Prop :=
  (∀ (k vi asid access : Nat) (va : BitVec 64) (s : State) (r : Role), mget s.roles k = some r →
    r.status = .held (.tlb va false access) → s.space r = some (vi, asid) →
    let page := va.toNat / 65536
    let late := access = Acc.ex.code ∧ r.firstWord / 65536 ≠ page ∧ r.hdr.toNat / 65536 ≠ page
    let absent := s.migrating vi asid page = true ∨ s.walk vi asid va.toNat = .notPresent
      ∨ ∃ e at', s.walk vi asid va.toNat = .owner e at'
    let denied (e : Pte) := e.z = true ∧ accOk access e = false
    (∀ l, leafIn s.tlb2 vi asid va.toNat = some l → answers (.pageWalkComplete k) s fun t => ∃ r',
      mget t.roles k = some r' ∧ sameBytes s t ∧ r'.status = .ready ∧ r'.still = r.still
      ∧ (t.core r.core).tlb.head? = some l)
    ∧ (leafIn s.tlb2 vi asid va.toNat = none →
      (absent → ¬late → answers (.pageWalkComplete k) s fun t => ∃ r', mget t.roles k = some r'
        ∧ r'.status = .parked (.fault vi asid page) ∧ r'.faultVa = some va.toNat ∧ r'.hdr = r.hdr ∧ r'.off = r.off
        ∧ (s.migrating vi asid page = false → ∃ f ∈ (t.iface vi).faults, f.asid = asid ∧ f.page = page))
      ∧ (s.migrating vi asid page = false →
        (s.walk vi asid va.toNat = .malformed → ¬late → answers (.pageWalkComplete k) s fun t => ∃ r',
          mget t.roles k = some r' ∧ r'.status = .ready ∧ r'.walkFault = some (false, page, causePage)
          ∧ r'.frames = r.frames)
        ∧ ∀ e level at', s.walk vi asid va.toNat = .leaf e level at' →
          (denied e → ¬late → answers (.pageWalkComplete k) s fun t => ∃ r', mget t.roles k = some r'
            ∧ r'.status = .ready ∧ r'.walkFault = some (false, page, causePerm) ∧ r'.frames = r.frames ∧ sameBytes s t)
          ∧ (¬denied e → answers (.pageWalkComplete k) s fun t => ∃ r' l,
            mget t.roles k = some r' ∧ r'.status = .ready ∧ r'.still = r.still ∧ (t.core r.core).tlb.head? = some l
            ∧ l.vi = vi ∧ l.asid = asid ∧ l.page = page ∧ (l.r, l.w, l.x) = (e.r, e.w, e.x)))
      ∧ ((absent ∨ s.migrating vi asid page = false ∧ (s.walk vi asid va.toNat = .malformed
          ∨ ∃ e level at', s.walk vi asid va.toNat = .leaf e level at' ∧ denied e)) → late →
        answers (.pageWalkComplete k) s fun t => ∃ r', mget t.roles k = some r' ∧ onlyRole k s t
          ∧ r'.status = .ready ∧ r'.fetchEnd = some page ∧ r'.still = r.still)))
  ∧ (∀ (k : Nat) (refused : Option Nat) (s : State) (r : Role), mget s.roles k = some r →
    (r.status = .held .verdict → answers (.globalVerdictReceive k refused) s fun t => ∃ r', mget t.roles k = some r'
      ∧ onlyRole k s t ∧ r'.status = .ready ∧ r'.verdict = some refused ∧ r'.still = r.still)
    ∧ (r.status ≠ .held .verdict → exec (.globalVerdictReceive k refused) s = .next s))
  ∧ (∀ (k : Nat) (ext : Bytes) (s : State) (r : Role), mget s.roles k = some r →
    ((∀ w, r.status ≠ .parked w) → exec (.parkWake k ext) s = .next s)
    ∧ (∀ m, r.status = .parked (.flags m) →
      ((∀ f, f < 12 → m.getLsbD f = true → r.flags.getD f 0 = 0) →
        answers (.parkWake k ext) s fun t => ∃ r', mget t.roles k = some r' ∧ onlyRole k s t ∧ r'.status = .ready
          ∧ r'.still = r.still ∧ Says.standsOn 2 r r')
      ∧ ((∃ f, f < 12 ∧ m.getLsbD f = true ∧ r.flags.getD f 0 ≠ 0) → exec (.parkWake k ext) s = .next s))
    ∧ (∀ w ends, r.status = .parked w →
      ((∃ i v, w = .counter i v ∧ ends = s.ctrReady k i v) ∨ ∃ n, w = .batch n ∧ ends = s.batchDone k n.toNat) →
      if ends = true then answers (.parkWake k ext) s fun t => ∃ r', mget t.roles k = some r'
          ∧ Says.onlyRoleAndL1 k s t ∧ r'.status = .ready ∧ (t.core r.core).l1 = [] ∧ Says.standsOn 1 r r'
      else exec (.parkWake k ext) s = .next s)
    ∧ (∀ addr phase scope, r.status = .parked (.barrier addr phase scope) →
      if s.phaseOf r addr.toNat = phase.toNat then exec (.parkWake k ext) s = .next s
      else answers (.parkWake k ext) s fun t => ∃ r', mget t.roles k = some r' ∧ Says.onlyRoleAndL1 k s t
        ∧ r'.status = .ready ∧ r'.still = { r.still with arrival := none } ∧ Says.standsOn 1 r r')
    ∧ (∀ p v x m acq, r.status = .parked (.word (.ram p) v x m acq) → s.poison = [] →
      if s.mayPerform (s.opNow k (.load false 4) false 2 (s.laneAt r (.ram p) 4)) = true then
        (BitVec.ofNat 32 (rdLE s.ram p 4) = v →
          answers (.parkWake k ext) s fun t => Says.onlyRoleAndL1 k s t ∧ t.roles = s.roles)
        ∧ (BitVec.ofNat 32 (rdLE s.ram p 4) ≠ v → r.checkReg x m = .ok () → r.groups ≤ 32 →
          answers (.parkWake k ext) s fun t => ∃ r', mget t.roles k = some r' ∧ Says.onlyRoleAndL1 k s t
            ∧ r'.status = .ready ∧ r'.still = { r.still with frames := r'.frames } ∧ r'.frames.tail = r.frames.tail
            ∧ r'.frame.besideRows = r.frame.besideRows ∧ Says.standsOn 1 r r'
            ∧ ∀ n, n < 32 * r.groups → r'.frame.value x n =
                if m.getLsbD n = true then BitVec.ofNat 32 (rdLE s.ram p 4) else r.frame.value x n)
      else exec (.parkWake k ext) s = .next s)
    ∧ (∀ d, r.status = .parked (.stall d) →
      if d ∈ s.stall then exec (.parkWake k ext) s = .next s
      else answers (.parkWake k ext) s fun t => ∃ r', mget t.roles k = some r' ∧ onlyRole k s t ∧ r'.status = .ready
        ∧ r'.still = r.still ∧ Says.standsOn 0 r r')
    ∧ ∀ vi asid page, r.status = .parked (.fault vi asid page) →
      (s.faultOpen vi asid page = true → exec (.parkWake k ext) s = .next s)
      ∧ (s.faultOpen vi asid page = false → (∀ q ∈ r.reserve, s.faultOpen vi asid q = false) →
        answers (.parkWake k ext) s fun t => ∃ r', mget t.roles k = some r' ∧ onlyRole k s t ∧ r'.status = .ready
          ∧ r'.still = { r.still with reserve := [] }))
  ∧ (∀ (core k v sc : Nat) (target ret : BitVec 64) (ks : List Nat) (gen : BitVec 16) (c : Core) (s : State) (r : Role),
    (s.core core).frameReqs = k :: ks → mget s.roles k = some r → r.core = core →
    r.status = .parked (.frame (.call v sc target ret)) →
    (s.core core).fits core (callNeed r.groups v sc) = true → (s.core core).nextGen = some (gen, c) →
    answers (.frameGrant core) s fun t => ∃ r', mget t.roles k = some r' ∧ Role.wentTo target r' ∧ sameBytes s t
      ∧ r'.frames = r.frame.callee s.free r.groups v sc gen ret (r.frames.length + 1) r.stack.length
          :: r.frame.withoutOut :: r.frames.tail
      ∧ r'.mask = r.mask ∧ r'.stack = r.stack ∧ k ∉ (t.core core).frameReqs
      ∧ ∀ j, j ≠ k → mget t.roles j = mget s.roles j)
  ∧ (∀ (core k v sc u y i : Nat) (target ret : BitVec 64) (ks us : List Nat) (s s1 : State) (r victim : Role) (f : Frame),
    (s.core core).spill = none → (s.core core).frameReqs = k :: ks → mget s.roles k = some r →
    r.status = .parked (.frame (.call v sc target ret)) → s.shortOf core (callNeed r.groups v sc) = u :: us →
    ((∃ j ∈ s.rolesOn core, s.mayReturn (u :: us) j = true) → exec (.gleanerSpill core) s = .next s)
    ∧ ((∀ j ∈ s.rolesOn core, s.mayReturn (u :: us) j = false) →
      (s.victim core u k = none → answers (.gleanerSpill core) s fun t => ∃ r', mget t.roles k = some r'
        ∧ Role.stoppedAt r.hdr r.off r' ∧ ∀ j, j ≠ k → mget t.roles j = mget s.roles j)
      ∧ (s.victim core u k = some y → mget s.roles y = some victim → victim.spillable = some i →
        victim.frames[i]? = some f → f.flawless = true →
        (s.modCore core fun c => { c with victim := some (y, k) }).devSpan victim .wr
          (victim.privAddr (victim.recordBase i) 0 0)
          (pagesOf (victim.privAddr (victim.recordBase i) 0 0) (128 * victim.groups * f.recordWords)) = (none, s1) →
        s1.roles = s.roles →
        answers (.gleanerSpill core) s fun t => t.roles = s.roles ∧ t.ops = s1.ops
          ∧ (t.core core).spill = some ⟨y, f.link.depth, f.gen, victim.recordBase i⟩)))
  ∧ ∀ (core : Nat) (s : State) (x : Spill) (r : Role), (s.core core).spill = some x →
      mget s.roles x.role = some r → r.core = core →
      ((∀ f ∈ r.frames, f.gen = x.gen → f.link.depth = x.depth → f.spilled ≠ none) →
        exec (.spillStoreAck core) s = .next (s.modCore core fun c => { c with spill := none }))
      ∧ ∀ i f, 1 ≤ i → r.frames[i]? = some f → f.gen = x.gen → f.link.depth = x.depth → f.spilled = none →
        (∀ g ∈ r.frames.take i, g.gen = x.gen → g.link.depth = x.depth → g.spilled ≠ none) →
        answers (.spillStoreAck core) s fun t => ∃ r' f', mget t.roles x.role = some r' ∧ sameBytes s t
          ∧ r'.frames[i]? = some f' ∧ f'.spilled = some x.word ∧ f'.rows = [] ∧ f'.grans = [] ∧ f'.gen = f.gen
          ∧ f'.link = f.link ∧ r'.frames.length = r.frames.length
          ∧ { r'.frame with ownsIn := r.frame.ownsIn } = r.frame ∧ (1 < i → r'.frame = r.frame)
          ∧ (t.core core).spill = none ∧ (t.core core).gransUsed = (s.core core).gransUsed - (f.sc / 4 - 1)

/-! ## Claims, switch-outs, saves and resumption (R272 to R289, R339, R401 to R404) -/

namespace Sys2Proof.Says

/-- Only what the package sent has changed; only one core; only one interface, and what was sent; only one queue, and
what was sent. -/
def onlySent (ms : List OutMsg) (s t : State) : Prop := { t with out := s.out } = s ∧ t.out = s.out ++ ms
def onlyCore (core : Nat) (s t : State) : Prop := { t with cores := s.cores } = s ∧ ∀ c, c ≠ core → t.core c = s.core c
def onlyIface (vi : Nat) (ms : List OutMsg) (s t : State) : Prop :=
  { t with ifaces := s.ifaces, out := s.out } = s ∧ t.out = s.out ++ ms ∧ ∀ v, v ≠ vi → t.iface v = s.iface v
def onlyQueue (q : Nat) (ms : List OutMsg) (s t : State) : Prop :=
  { t with queues := s.queues, out := s.out } = s ∧ t.out = s.out ++ ms ∧ ∀ k, k ≠ q → t.queue k = s.queue k

/-- A memory after bytes have been written from an address on. -/
def wrote (m m' : Mem) (a : Nat) (bs : Bytes) : Prop :=
  ∀ x, rdByte m' x = if a ≤ x ∧ x < a + bs.length then bs.getD (x - a) 0 else rdByte m x

/-- A core's collector has one more stop to make, and nothing else has changed. -/
def stopSent (core : Nat) (h : Headland) (s t : State) : Prop :=
  onlyCore core s t ∧ t.core core = { s.core core with headland := (s.core core).headland ++ [h] }

end Sys2Proof.Says

/-- Claims and switch-outs (R272 to R275, R284, R285, R288, R289, R339, R401 to R404): a claim that starts moves the
plot's work counter past its teams, and a started role stands at its entry with every lane active and nothing else set; a
plot over its threshold, a role that makes room and a role parked on a stall hint are stopped; a class acknowledges
once it has stopped; the save begins when every class has and no page is missing, and its end frees the core; what may
come back does so in one step, before any new claim and after what the core serves before it (R286). -/
def Obligations.ClaimsAndSwitches : Prop :=
  ((∀ (core plot : Nat) (s s1 : State) (p : Plot), mget s.plots plot = some p → p.coop = false →
      ((s.grants plot = false ∨ s.workWaits core = true) → exec (.claimPull core plot) s = .next s)
      ∧ (s.grants plot = true → s.workWaits core = false → (s.startOn core plot (p.range p.claim) none = none →
        exec (.claimPull core plot) s = .next s)
        ∧ (s.startOn core plot (p.range p.claim) none = some s1 → answers (.claimPull core plot) s fun t =>
          { t with plots := s1.plots } = s1 ∧ (∀ j, j ≠ plot → mget t.plots j = mget s1.plots j)
          ∧ ∀ p1, mget s1.plots plot = some p1 →
            mget t.plots plot = some { p1 with work := p1.work + min p.claim (p.grid - p.work) })))
    ∧ (∀ (core plot tk n : Nat) (p : Plot) (x : RoleSpec) (s s1 : State), s.startRole core plot tk n p x = some s1 →
      ∃ r g, mget s1.roles s.next = some r ∧ r.plot = some plot ∧ r.team = tk ∧ r.core = core ∧ r.roleId = x.roleId
        ∧ r.teamIdx = n ∧ r.hdr = x.entry ∧ r.off = 0 ∧ r.status = .ready ∧ r.groups = x.groups
        ∧ r.mask = fullMask x.groups ∧ r.stack = [] ∧ r.flags = List.replicate 12 0 ∧ r.fpflags = 0 ∧ r.opflags = 0
        ∧ r.frames = [Frame.root x.v x.sc g] ∧ r.args = p.args ∧ r.priv = p.priv ∧ r.tagTrap = p.tagTrap
        ∧ r.fpTrapEn = p.fpTrap ∧ mget (s1.core core).slots r.slot = some s.next)
    ∧ ∀ (cluster plot : Nat) (s s1 s2 : State) (p : Plot) (sk : Nat), mget s.plots plot = some p → p.coop = true →
      s.grants plot = true → cluster < 96 → (∀ x ∈ s.sets, x.2.cluster = cluster → x.2.out = true) →
      (∀ q, q < 4 → s.workWaits (4 * cluster + q) = false) → s.startSet cluster plot = some (sk, s1) → (∀ q, q < 4 →
        s.inCoreSet p (4 * cluster + q) = true) →
      (List.range 4).foldlM (fun (s : State) q => s.startOn (4 * cluster + q) plot
        ((p.range (4 * p.claim)).filter fun t => (t - p.work) % 4 == q) (some sk)) s1 = some s2 →
      (∃ g, mget s1.sets sk = some ⟨plot, cluster, g, false⟩ ∧ ∀ q, q < 4 → g ∈ (s1.core (4 * cluster + q)).genLive)
      ∧ answers (.coopClaimPull cluster plot) s fun t =>
        { t with plots := s2.plots } = s2 ∧ (∀ j, j ≠ plot → mget t.plots j = mget s2.plots j)
        ∧ ∀ p1, mget s2.plots plot = some p1 →
          mget t.plots plot = some { p1 with work := p1.work + min (4 * p.claim) (p.grid - p.work) })
  ∧ ((∀ (core plot : Nat) (s : State) (p : Plot), mget s.plots plot = some p →
      (∀ h ∈ (s.core core).headland, h.plot ≠ plot) →
      (64 * (s.parkedOf core plot true).length ≤ p.thresh * (s.plotRoles core (some plot)).length →
        exec (.contextSwitchOut core plot) s = .next s)
      ∧ (p.thresh * (s.plotRoles core (some plot)).length < 64 * (s.parkedOf core plot true).length →
        ((∀ x ∈ s.sets, x.2.plot = plot → x.2.cluster = clusterOf core → x.2.out = true) →
          answers (.contextSwitchOut core plot) s
            (Says.stopSent core ⟨plot, s.plotRoles core (some plot), true, false, [], false⟩ s))
        ∧ ((∃ x ∈ s.sets, x.2.plot = plot ∧ x.2.cluster = clusterOf core ∧ x.2.out = false) →
          answers (.contextSwitchOut core plot) s fun t => { t with cores := s.cores } = s ∧ ∀ q, q < 4 →
            (t.core (4 * clusterOf core + q)).headland = (s.core (4 * clusterOf core + q)).headland
              ++ if s.plotRoles (4 * clusterOf core + q) (some plot) = []
                  ∧ (s.core (4 * clusterOf core + q)).hosts plot = false then []
                else [⟨plot, s.plotRoles (4 * clusterOf core + q) (some plot), true, false, [], false⟩])))
    ∧ (∀ (k plot : Nat) (s : State) (r : Role) (p : Plot) (before after : List Nat) (x : Nat × SavedCtx),
      mget s.roles k = some r → r.plot = some plot → mget s.plots plot = some p → s.stopping k = false →
      x ∈ s.saved → x.2.plot = plot → x.2.core = r.core ∨ x.2.whole = true → s.canResume x.2 = true →
      (s.slotsFor r.core plot = true → exec (.teamSwitchOut k) s = .next s)
      ∧ (s.slotsFor r.core plot = false → s.parkedOf r.core plot false = before ++ k :: after →
      (∀ j ∈ before, r.readyAt < (s.role j).readyAt) → (∀ j ∈ after, r.readyAt ≤ (s.role j).readyAt) →
      p.thresh * (s.plotRoles r.core (some plot)).length < 64 * (s.parkedOf r.core plot false).length →
      answers (.teamSwitchOut k) s (Says.stopSent r.core ⟨plot, [k], false, false, [], false⟩ s)))
    ∧ (∀ (k plot : Nat) (d : FabricDest) (s : State) (r : Role), mget s.roles k = some r → r.plot = some plot →
      r.status = .parked (.stall d) → s.stopping k = false →
      answers (.stallSwitchOut k) s (Says.stopSent r.core ⟨plot, [k], false, false, [], false⟩ s))
    ∧ ∀ (d : FabricDest) (s : State),
      (answers (.stallHintSet d) s fun t => { t with stall := s.stall } = s ∧ ∀ e, e ∈ t.stall ↔ e ∈ s.stall ∨ e = d)
      ∧ answers (.stallHintClear d) s fun t =>
        { t with stall := s.stall } = s ∧ ∀ e, e ∈ t.stall ↔ e ∈ s.stall ∧ e ≠ d)
  ∧ ((∀ (core : Nat) (cls : EngineClass) (s : State) (h : Headland) (rest : List Headland),
      (s.core core).headland = h :: rest →
      ((cls ∈ h.acks ∨ s.classStopped core h cls = false) → exec (.engineStopAck core cls) s = .next s)
      ∧ (cls ∉ h.acks → s.classStopped core h cls = true → answers (.engineStopAck core cls) s fun t =>
        (t.core core).headland = { h with acks := h.acks ++ [cls] } :: rest
        ∧ (cls ≠ .mma → sameBytes s t ∧ ∀ j, j ∉ h.roles → mget t.roles j = mget s.roles j)
        ∧ ∀ k ∈ h.roles, ∀ r kind scope upto, mget s.roles k = some r → r.status = .held (.fence kind scope upto) →
          cls = .issue → ∃ r', mget t.roles k = some r' ∧ r'.status = .ready ∧ r'.still = r.still))
    ∧ (∀ (core : Nat) (s s1 : State) (h : Headland) (rest : List Headland), (s.core core).headland = h :: rest →
      ((h.saving = true ∨ ∃ c, c ∈ allClasses ∧ c ∉ h.acks) → exec (.headlandSave core) s = .next s)
      ∧ (h.saving = false → (∀ c, c ∈ allClasses → c ∈ h.acks) →
        (∀ bad, s.saveFaults h.roles = (true, bad, s1) → exec (.headlandSave core) s = .next s1)
        ∧ (s.saveFaults h.roles = (false, [], s1) → (s1.core core).headland = h :: rest →
          h.roles ≠ [] ∨ s1.bare core h = true →
          (∀ k ∈ h.roles, k ∈ s1.rolesOn core) →
          answers (.headlandSave core) s fun t => (t.core core).headland = { h with saving := true } :: rest
            ∧ t.roles = s1.roles ∧ t.ops = s1.ops ∧ t.ram = s1.ram)))
    ∧ (∀ (core : Nat) (s s1 : State) (h : Headland) (rest : List Headland) (p : Plot), (s.core core).headland = h :: rest →
      (h.saving = false → exec (.headlandSaveDone core) s = .next s)
      ∧ (h.saving = true → s.saveFaults h.roles = (false, [], s1) → mget s1.plots h.plot = some p →
        (∀ k ∈ h.roles, ∃ r, mget s1.roles k = some r ∧ r.core = core) →
        answers (.headlandSaveDone core) s fun t =>
          (∀ k ∈ h.roles, ∀ r, mget s1.roles k = some r → ∃ r', mget t.roles k = some r'
            ∧ r'.status = .saved r.status.waits ∧ r'.slot = r.slot ∧ r'.mask = r.mask ∧ r'.stack = r.stack)
          ∧ (∀ x ∈ (t.core core).slots, x.2 ∉ h.roles)
          ∧ ∃ key x, mget t.saved key = some x ∧ x.plot = h.plot ∧ x.core = core ∧ x.roles = h.roles ∧ x.whole = h.whole))
    ∧ ∀ (core ctx : Nat) (s t : State) (x : SavedCtx), mget s.saved ctx = some x →
      (((s.canResume x = false) ∨ ∃ y ∈ s.saved, s.servedBefore y.2 x = true ∧ (s.comes core y).isSome = true) →
        exec (.contextResume core ctx) s = .next s)
      ∧ (s.canResume x = true → core = x.core → x.set = none → x.roles.Nodup → s.loadCtx ctx core x = some t →
        (∀ y ∈ s.saved, s.servedBefore y.2 x = true → s.comes core y = none) →
        exec (.contextResume core ctx) s = .next t ∧ mget t.saved ctx = none
        ∧ ∀ k ∈ x.roles, ∀ r, mget s.roles k = some r → ∃ r', mget t.roles k = some r' ∧ r'.core = core
          ∧ (∀ op, r.status = .saved (some (.accMove op)) → r'.status = .held (.accMove op))
          ∧ ((∀ op, r.status ≠ .saved (some (.accMove op))) →
              r'.status = if r.trapToken.isSome = true then .stopped else .ready)
          ∧ r'.plot = r.plot ∧ r'.team = r.team))

/-! ## Engine commands at work, and collectives (R238 to R245, R256 to R258, R343, R344, R359, R360) -/

namespace Sys2Proof.Says

/-- A command has changed, and nothing else of the command queue of its core; and it has changed by one chunk more that
is done. -/
def cmdChanged (c : Cmd) (f : Cmd → Cmd) (s t : State) : Prop :=
  (t.core c.core).cmds = (s.core c.core).cmds.map fun d => if d.id = c.id then f d else d
def chunkDone (c : Cmd) (k : Nat) (s t : State) : Prop :=
  cmdChanged c (fun d => { d with done := d.done ++ [k], part := d.part.filter fun x => x.1 != k }) s t

/-- A command has failed: it is gone with its ranges, and its cause is pending at its role (R239). -/
def cmdFailed (c : Cmd) (cause : Imm8) (a : BitVec 64) (s t : State) : Prop :=
  (∀ d ∈ (t.core c.core).cmds, d.id ≠ c.id) ∧ (∀ l ∈ (t.core c.core).locks, l.cmd ≠ c.id)
  ∧ ∀ r, mget s.roles c.role = some r → ∃ r' d, mget t.roles c.role = some r' ∧ r'.deferred = r.deferred ++ [d]
    ∧ d.cause = cause ∧ d.batch = c.batch ∧ d.addr = a

/-- No role has changed but that a counter's new value may have ended its wait (R283). -/
def rolesStand (s t : State) : Prop :=
  ∀ j, mget t.roles j = mget s.roles j
    ∨ ∃ r i v, mget s.roles j = some r ∧ mget t.roles j = some { r with status := r.status.reached i v }

/-- The source and destination parts of chunk k of a CPY (R238, R239). -/
def copyParts (c : Cmd) (k : Nat) : List (Option Nat × Nat) × List (Option Nat × Nat) :=
  let n := min 4096 (c.copy.rows * c.copy.rowBytes - 4096 * k)
  (c.srcRec.parts (c.copy.srcRows c.srcRec) (4096 * k) n, c.dstRec.parts (c.copy.dstRows c.dstRec) (4096 * k) n)

/-- A chunk of a collective, its contributions all folded or rejected (R343). -/
def settled (x : Coll) (members : List Nat) (k : Nat) : Prop :=
  ∀ m ∈ x.contributors members, (mget (x.chunk k).folded m).isSome = true ∨ m ∈ (x.chunk k).rejected

end Sys2Proof.Says

/-- Engine commands at work (R239 to R245, R306): a chunk of a command that must wait, or that is done, is not done again; a
chunk of a copy reads its source and writes its destination, whole or atom by atom, and a page that cannot be supplied
fails the command; when
the source has been read its range is released and CNTS counts; a complete command is gone, with its ranges, and CNTD
counts. -/
def Obligations.EnginesComplete : Prop :=
  (∀ (cmd k : Nat) (ext : Bytes) (atom : Option Nat) (s : State) (c : Cmd), s.cmd cmd = some c →
    (s.cmdRuns c = false → exec (.engineChunkDone cmd ⟨k, atom⟩ ext) s = .next s)
    ∧ (c.kind = .cpy → (s.cmdChunks c ≤ k ∨ k ∈ c.done) → exec (.engineChunkDone cmd ⟨k, atom⟩ ext) s = .next s)
    ∧ (c.kind = .cpy → s.cmdRuns c = true → k < s.cmdChunks c → s.sentPkt c k = false →
      (∀ s1, s.cmdRead c c.srcRec.kind 0 (Says.copyParts c k).1 ext = (.wait, s1) →
        exec (.engineChunkDone cmd ⟨k, atom⟩ ext) s = .next s1)
      ∧ (∀ s1 cause a, s.cmdRead c c.srcRec.kind 0 (Says.copyParts c k).1 ext = (.fail cause a, s1) →
        answers (.engineChunkDone cmd ⟨k, atom⟩ ext) s (Says.cmdFailed c cause (BitVec.ofNat 64 a) s1))
      ∧ (∀ s1 s2 bs bad ws, s.cmdRead c c.srcRec.kind 0 (Says.copyParts c k).1 ext = (.ok (bs, bad), s1) →
        let pick (i : Nat) : Bool := !((((s1.cmdAny c.id).getD c).part).contains (k, i)) && atom.all (· == i)
        let pieces := enginePieces c.dstRec.kind (Says.copyParts c k).2
        (∀ cause a, s1.cmdWrite c c.dstRec.kind pick 0 pieces bs = (.fail cause a, ws, s2) →
          answers (.engineChunkDone cmd ⟨k, atom⟩ ext) s (Says.cmdFailed c cause (BitVec.ofNat 64 a) s2))
        ∧ (s1.cmdWrite c c.dstRec.kind pick 0 pieces bs = (.ok (), ws, s2) →
          answers (.engineChunkDone cmd ⟨k, atom⟩ ext) s fun t => { t with cores := s2.cores } = s2
            ∧ (atom = none → Says.chunkDone c k s2 t)
            ∧ (atom ≠ none → Says.cmdChanged c (fun d => { d with part := d.part ++ ws.map fun i => (k, i) }) s2 t)))
      ∧ ∀ (a b n plot : Nat) (p : Plot) (la lb : Leaf), Says.copyParts c k = ([(some a, n)], [(some b, n)]) →
        a % 128 + n ≤ 128 → b % 128 + n ≤ 128 → (∀ x ∈ c.part, x.1 ≠ k) →
        c.srcRec.kind = 0 → c.dstRec.kind = 0 → c.plot = some plot → mget s.plots plot = some p →
        s.migrating p.vi p.asid (a / 65536) = false → s.migrating p.vi p.asid (b / 65536) = false →
        s.findLeaf c.core p.vi p.asid a = some la → la.r = true →
        s.findLeaf c.core p.vi p.asid b = some lb → lb.w = true → (∀ q, s.egressLine c.core q = false) →
        s.poison = [] → s.memOk = true →
        answers (.engineChunkDone cmd ⟨k, none⟩ ext) s fun t =>
          Says.wrote s.ram t.ram (lb.base + b % 65536) (rdBytes s.ram (la.base + a % 65536) n)
          ∧ { t with cores := s.cores, ram := s.ram, watch := s.watch } = s ∧ Says.chunkDone c k s t))
  ∧ (∀ (cmd : Nat) (s : State) (c : Cmd), s.cmd cmd = some c →
    ((s.sourceRead c = false ∨ c.srcDone = true) → exec (.engineSourceDone cmd) s = .next s)
    ∧ (s.sourceRead c = true → c.srcDone = false → answers (.engineSourceDone cmd) s fun t =>
      Says.rolesStand s t ∧ ((∀ p, c.plot = some p → (s.core c.core).hosts p = true) → t.ram = s.ram)
      ∧ (t.core c.core).locks = (s.core c.core).locks.filter (fun l => !(l.cmd == c.id && !l.isDst))
      ∧ ((s.core c.core).triggers = [] → Says.cmdChanged c (fun d => { d with srcDone := true }) s t)
      ∧ ∀ p i, c.plot = some p → (s.core c.core).hosts p = true → (s.core c.core).triggers = [] →
        (t.core c.core).counter i = (s.core c.core).counter i +
          if (c.kind = .cpy ∨ c.kind = .cpys) ∧ c.copy.cntS = true ∧ c.srcRec.counter.toNat = i then 1 else 0))
  ∧ ∀ (cmd : Nat) (s : State) (c : Cmd), s.cmd cmd = some c →
    ((s.cmdRuns c = false ∨ s.mayComplete c = false) → exec (.engineCommandComplete cmd) s = .next s)
    ∧ (s.cmdRuns c = true → s.mayComplete c = true → c.srcDone = true → (s.core c.core).triggers = [] →
      answers (.engineCommandComplete cmd) s fun t =>
        (∀ d ∈ (t.core c.core).cmds, d.id ≠ c.id) ∧ (∀ l ∈ (t.core c.core).locks, l.cmd ≠ c.id)
        ∧ (c.failed = false → Says.rolesStand s t
          ∧ ((∀ p, c.plot = some p → (s.core c.core).hosts p = true) → t.ram = s.ram))
        ∧ ∀ p i, c.plot = some p → (s.core c.core).hosts p = true →
          (t.core c.core).counter i = (s.core c.core).counter i +
            if c.kind = .cpy ∧ c.copy.cntD = true ∧ c.dstRec.counter.toNat = i
              ∨ c.kind = .cpys ∧ c.copy.cntD = true ∧ c.srcRec.counter.toNat = i then 1 else 0)

/-- Collectives at this member (R257, R258, R343, R344, R359, R360): a contribution of no job or no member is dropped, one
to a collective not yet issued is kept, one that matches is folded, and one that is poisoned, disagrees or comes twice is
rejected; a chunk commits only when every member's contribution is settled, and its entry stands at COMMIT + 16k; a new
fold drops what the departed node had acknowledged. -/
def Obligations.CollectivesFoldAndCommit : Prop :=
  (∀ (b : Contribution) (s : State),
    (s.jobNo b.job = none → exec (.collContributionArrive b) s = .next s)
    ∧ ∀ vi j, s.jobNo b.job = some (vi, j) →
      (j.roster.has 0 b.rank.toNat = false → exec (.collContributionArrive b) s = .next s)
      ∧ (j.roster.has 0 b.rank.toNat = true →
        (s.collOf b.job b.group b.seq = none → answers (.collContributionArrive b) s fun t =>
          { t with contribs := s.contribs } = s ∧ t.contribs = s.contribs ++ [b])
        ∧ ∀ id x, s.collOf b.job b.group b.seq = some (id, x) → (x.chunk b.chunk).committed = false →
          (x.chunk b.chunk).result = none → b.chunk < x.chunkCount → (x.chunk b.chunk).staged = [] →
          answers (.collContributionArrive b) s fun t => { t with colls := s.colls } = s
            ∧ (∀ i, i ≠ id → mget t.colls i = mget s.colls i) ∧ ∃ y, mget t.colls id = some y
            ∧ (∀ n, n ≠ b.chunk → y.chunk n = x.chunk n)
            ∧ y.chunk b.chunk =
              if b.matched = false ∨ b.rank.toNat ∉ x.contributors (j.members x.group.toNat x.seq.toNat) then
                { x.chunk b.chunk with staged := [(b.rank.toNat, b)] }
              else if b.poisoned = true ∨ x.agrees b = false ∨ (mget (x.chunk b.chunk).folded b.rank.toNat).isSome = true then
                { x.chunk b.chunk with rejected := (x.chunk b.chunk).rejected ++ [b.rank.toNat] }
              else { x.chunk b.chunk with folded := mset (x.chunk b.chunk).folded b.rank.toNat b.data }))
  ∧ (∀ (coll k vi : Nat) (atom : Option Nat) (s : State) (x : Coll) (c : Cmd) (j : Job),
    mget s.colls coll = some x → s.cmd coll = some c → s.jobNo x.job = some (vi, j) →
    let members := j.members x.group.toNat x.seq.toNat
    ((s.cmdRuns c = false ∨ x.chunkCount ≤ k ∨ (x.chunk k).committed = true
      ∨ (x.chunk k).result = none ∧ ¬Says.settled x members k) → exec (.collChunkCommit coll ⟨k, atom⟩) s = .next s)
    ∧ (s.cmdRuns c = true → k < x.chunkCount → (x.chunk k).committed = false →
      ∀ (res : CollResult) (ver : Nat) (s0 s1 s2 : State) (pa : Nat),
      ((x.chunk k).result = some (res, ver) ∨ (x.chunk k).result = none ∧ Says.settled x members k
        ∧ x.result members s.rank.toNat k = res ∧ j.roster.version.toNat = ver) →
      ({ s with colls := mset s.colls coll (x.setChunk k { x.chunk k with result := some (res, ver) }) } : State) = s0 →
      ((s0.cmdStore c k 0 c.dstRec.kind atom (c.collParts res.writes) (res.writes.flatMap (·.2)) = (.wait, s1)
          ∨ s0.cmdStore c k 0 c.dstRec.kind atom (c.collParts res.writes) (res.writes.flatMap (·.2)) = (.ok false, s1)) →
        exec (.collChunkCommit coll ⟨k, atom⟩) s = .next s1)
      ∧ (s0.cmdStore c k 0 c.dstRec.kind atom (c.collParts res.writes) (res.writes.flatMap (·.2)) = (.ok true, s1) →
        s1.cmdPlace c 0 .wr ((c.collCommit + 16 * k) % 2 ^ 64) = (.ok (.ram pa), s2) → c.collLog = false →
        s2.poison = [] → s2.memOk = true → (∀ p, c.plot = some p → (s2.core c.core).hosts p = true) →
        answers (.collChunkCommit coll ⟨k, atom⟩) s fun t =>
          Says.wrote s2.ram t.ram pa (leBytes 4 res.contrib ++ leBytes 4 ver
            ++ leBytes 4 (x.chunk k).rejected.length
            ++ leBytes 4 (res.sat.toNat + if (x.chunk k).rejected = [] then 0 else 2))
          ∧ t.outPkts = s2.outPkts
          ∧ (∀ y, mget t.colls coll = some y → (y.chunk k).committed = true)
          ∧ ((∃ i, i < x.chunkCount ∧ i ≠ k ∧ (x.chunk i).committed = false) → (mget t.colls coll).isSome = true)
          ∧ ((∀ i, i < x.chunkCount → i ≠ k → (x.chunk i).committed = true) → (s2.core c.core).triggers = [] →
            mget t.colls coll = none ∧ ∀ d ∈ (t.core c.core).cmds, d.id ≠ c.id))))
  ∧ (∀ (x : Coll) (members : List Nat) (me k : Nat), x.cmd.collKind = 5 →
      mget (x.chunk k).folded x.cmd.collRoot = none → x.result members me k = ⟨0, false, []⟩)
  ∧ ∀ (coll : Nat) (s : State) (x : Coll) (c : Cmd), mget s.colls coll = some x → s.cmd coll = some c →
      (∀ k ∈ c.done, (x.chunk k).committed = true ∨ (x.chunk k).result.isSome = true) → answers (.collResend coll) s fun t =>
        { t with colls := s.colls, outContribs := s.outContribs } = s
        ∧ mget t.colls coll = some { x with chunks := x.chunks.filter fun k => k.2.committed || k.2.result.isSome }
        ∧ (∀ i, i ≠ coll → mget t.colls i = mget s.colls i)
        ∧ ∀ o, o ∈ t.outContribs ↔ o ∈ s.outContribs ∧ o.coll ≠ coll

/-! ## Packets and fences between ranks (R242, R251 to R254, R330, R331, R335, R337, R352, R408, R458) -/

/-- Packets (R242, R251, R254, R307, R330, R331, R335, R337, R352, R458): the target admits a packet by its region's job,
key, extent, permission and counter; one placed before is only answered again, one refused changes nothing, one that
waits stays at the port, and a copy of it tries it again; an admitted write, read or atomic acts on its bytes and no
others, in one step with its answer, and a write may also come into memory atom by atom.
At the source an acknowledged part of a PUT is done, and the last one releases the ranges; a refused one fails the
command; and a packet over Ultra Ethernet is sent at most 16 times, sends that the target has asked for apart. -/
def Obligations.PacketsArriveAndReturn : Prop :=
  ((∀ (p : Packet) (s : State) (g : Region), s.admitted p = some g ↔
      mget s.regions (preryRegion p.addr) = some g
      ∧ (∀ j, (s.iface g.vi).job = some j → j.roster.has 0 p.src.toNat = true)
      ∧ g.key = p.key ∧ ((packetSpan p.op).2.1 = 0 ∨ preryOff p.addr + (packetSpan p.op).2.1 ≤ g.extent)
      ∧ g.permits (packetSpan p.op).2.2 = true
      ∧ (p.counts = true → ∃ q, mget s.plots g.plot = some q ∧ q.counters.getLsbD p.counter.toNat = true))
    ∧ ∀ (p : Packet) (atom : Option Nat) (s : State),
      let span (g : Region) (s : State) := s.regionSpan g (packetSpan p.op).2.2
        (lineSpans (g.base + preryOff p.addr + (packetSpan p.op).1) ((packetSpan p.op).2.1 - (packetSpan p.op).1))
      let waits (w : WaitPkt) (s1 t : State) := { t with waitPkts := s1.waitPkts, out := s1.out } = s1
        ∧ t.waitPkts = s1.waitPkts ++ [w]
        ∧ ((∃ a q, s1.route p.src = .uet a q) → t.out = s1.out ++ [.packetAck p.src p.seq .later])
        ∧ ((∀ a q, s1.route p.src ≠ .uet a q) → t.out = s1.out)
      (p.src = s.rank → exec (.packetArrive ⟨p, atom⟩) s = .next s)
      ∧ (p.src ≠ s.rank → (∀ x, s.placed.find? (fun x => x.1 == p.src.toNat && x.2.1 == p.seq) = some x →
          answers (.packetArrive ⟨p, atom⟩) s (Says.onlySent [.packetAck p.src p.seq (.placed x.2.2)] s))
        ∧ (s.placed.find? (fun x => x.1 == p.src.toNat && x.2.1 == p.seq) = none →
          (∀ w s1, s.waitPkts.find? (fun w => w.packet.src == p.src && w.packet.seq == p.seq) = some w →
            w.packet = p → span w.region { s with waitPkts := s.waitPkts.erase w } = (.wait, s1) → s1.rank = s.rank →
            answers (.packetArrive ⟨p, atom⟩) s (waits w s1))
          ∧ ((∀ w ∈ s.waitPkts, ¬(w.packet.src = p.src ∧ w.packet.seq = p.seq)) →
            ((s.admitted p = none ∨ ∃ f, p.interval = some f ∧ s.fenceClosed f = true) →
              answers (.packetArrive ⟨p, atom⟩) s (Says.onlySent [.packetAck p.src p.seq .refused] s))
            ∧ ∀ g, s.admitted p = some g → p.interval = none →
              (∀ s1, span g s = (.fail, s1) → s1.rank = s.rank →
                answers (.packetArrive ⟨p, atom⟩) s (Says.onlySent [.packetAck p.src p.seq .refused] s1))
              ∧ (∀ s1, span g s = (.wait, s1) → s1.rank = s.rank →
                answers (.packetArrive ⟨p, atom⟩) s (waits ⟨g, p, []⟩ s1))
              ∧ ∀ pa, p.counts = false → s.poison = [] → s.memOk = true →
                (∀ bs : Bytes, bs ≠ [] → p.op = .write bs (List.replicate bs.length true) →
                  s.regionSpan g .wr (lineSpans (g.base + preryOff p.addr) bs.length) = (.ok [(pa, bs.length)], s) →
                  (atom = none → answers (.packetArrive ⟨p, atom⟩) s fun t => Says.wrote s.ram t.ram pa bs
                    ∧ { t with ram := s.ram, watch := s.watch, placed := s.placed, out := s.out } = s
                    ∧ t.placed = s.placed ++ [(p.src.toNat, p.seq, [])]
                    ∧ t.out = s.out ++ [.packetAck p.src p.seq (.placed [])])
                  ∧ ∀ i, atom = some i → answers (.packetArrive ⟨p, atom⟩) s fun t =>
                    { t with ram := s.ram, watch := s.watch, waitPkts := s.waitPkts } = s
                    ∧ t.waitPkts = s.waitPkts ++ [⟨g, p, [i]⟩]
                    ∧ ∀ x, rdByte t.ram x =
                        if pa ≤ x ∧ x < pa + bs.length ∧ packetAtom p.addr.toNat (x - pa) = i then bs.getD (x - pa) 0
                        else rdByte s.ram x)
                ∧ (∀ n, p.op = .read n →
                  s.regionSpan g .rd (lineSpans (g.base + preryOff p.addr) n) = (.ok [(pa, n)], s) →
                  answers (.packetArrive ⟨p, atom⟩) s fun t => { t with placed := s.placed, out := s.out } = s
                    ∧ t.placed = s.placed ++ [(p.src.toNat, p.seq, rdBytes s.ram pa n)]
                    ∧ t.out = s.out ++ [.packetAck p.src p.seq (.placed (rdBytes s.ram pa n))])
                ∧ ∀ (op : BitVec 5) (v : BitVec 64) (w : BitVec 32), p.op = .atomic op false [(0, v)] →
                  s.regionSpan g .at' (lineSpans (g.base + preryOff p.addr) 4) = (.ok [(pa, 4)], s) →
                  Says.atomResult op (BitVec.ofNat 32 (rdLE s.ram pa 4)) (v.setWidth 32) = some w →
                  answers (.packetArrive ⟨p, atom⟩) s fun t => Says.wrote s.ram t.ram pa (leBytes 4 w.toNat)
                    ∧ { t with ram := s.ram, watch := s.watch, placed := s.placed, out := s.out } = s
                    ∧ t.out = s.out ++ [.packetAck p.src p.seq (.placed (rdBytes s.ram pa 4))]))))
  ∧ (∀ (pkt : Nat) (a : PacketAck) (atom : Option Nat) (s : State),
      (∀ o, s.outContribs.find? (fun o => o.seq == pkt) = some o →
        exec (.packetAckReceive pkt ⟨.later, atom⟩) s = .next s
        ∧ answers (.packetAckReceive pkt ⟨.placed [], atom⟩) s fun t => { t with outContribs := s.outContribs } = s
          ∧ ∀ x, x ∈ t.outContribs ↔ x ∈ s.outContribs ∧ x.seq ≠ o.seq)
      ∧ (s.outContribs.find? (fun o => o.seq == pkt) = none →
        (∀ c, s.fenceOut pkt = some c → answers (.packetAckReceive pkt ⟨a, atom⟩) s fun t =>
          t = s.modCmd c fun d => { d with sends := 0 })
        ∧ (s.fenceOut pkt = none →
        (s.outPkts.find? (fun o => o.packet.seq == pkt) = none → exec (.packetAckReceive pkt ⟨a, atom⟩) s = .next s)
        ∧ ∀ o, s.outPkts.find? (fun o => o.packet.seq == pkt) = some o → o.got = none →
          (s.route (preryRank o.packet.addr) = .self → exec (.packetAckReceive pkt ⟨a, atom⟩) s = .next s)
          ∧ (s.route (preryRank o.packet.addr) ≠ .self →
            (answers (.packetAckReceive pkt ⟨.later, atom⟩) s fun t => { t with outPkts := s.outPkts } = s
              ∧ t.outPkts = s.outPkts.map fun q => if q.packet.seq = pkt then { q with later := true } else q)
            ∧ ∀ c, s.cmd o.cmd = some c → c.kind = .put →
              (c.copy.cntS = false → (∀ q ∈ s.outPkts, q.cmd = o.cmd → q.idx = o.idx → q.packet.seq = pkt) →
                ∀ data, answers (.packetAckReceive pkt ⟨.placed data, atom⟩) s fun t => Says.chunkDone c o.idx s t
                  ∧ t.roles = s.roles ∧ t.ram = s.ram ∧ t.outPkts = s.outPkts.filter (fun q => q.packet.seq != pkt)
                  ∧ ((∃ i, i < c.copy.packets ∧ i ≠ o.idx ∧ i ∉ c.done) →
                      { t with cores := s.cores, outPkts := s.outPkts } = s)
                  ∧ ((∀ i, i < c.copy.packets → i = o.idx ∨ i ∈ c.done) →
                      ∀ l ∈ (t.core c.core).locks, l.cmd ≠ c.id))
              ∧ answers (.packetAckReceive pkt ⟨.refused, atom⟩) s fun t => Says.cmdFailed c causeRkey o.packet.addr s t
                ∧ ∀ q ∈ t.outPkts, q.cmd ≠ c.id))))
  ∧ ∀ (pkt : Nat) (s : State) (o : OutPkt), s.outPkts.find? (fun o => o.packet.seq == pkt) = some o → o.got = none →
      (∀ m q, s.route (preryRank o.packet.addr) = .ual m q → exec (.packetRetransmitTimeout pkt) s = .next s)
      ∧ ∀ a q, s.route (preryRank o.packet.addr) = .uet a q →
        (o.sends < 16 ∨ o.later = true → answers (.packetRetransmitTimeout pkt) s fun t =>
          ∃ path, { t with outPkts := s.outPkts, out := s.out } = s ∧ t.out = s.out ++ [.packet o.packet path]
          ∧ t.outPkts = s.outPkts.map fun p => if p.packet.seq = pkt then { p with
              sends := if o.later = true then o.sends else o.sends + 1, path := path, later := false } else p)
        ∧ ∀ c, 16 ≤ o.sends → o.later = false → s.cmd o.cmd = some c → c.kind = .put →
          answers (.packetRetransmitTimeout pkt) s fun t => (∀ d ∈ (t.core c.core).cmds, d.id ≠ c.id)
            ∧ (∀ q ∈ t.outPkts, q.packet.seq ≠ pkt) ∧ t.regions = s.regions

/-- Fence intervals (R253, R337, R390, R408): a fence that comes before its packets waits in its entry, one whose packets
are all placed is answered with their number at once, the rest by the timeout with the number placed so far; a given
verdict closes the interval for good, and so does an abort, which reports nothing. At the source a verdict ends its
FENCEX, and another number than the one sent raises COUNTMISMATCH. -/
def Obligations.FencesAreAnswered : Prop :=
  (∀ (f : FenceId) (n : Nat) (s : State),
    (s.fenceClosed f = true → exec (.fenceArrive f n) s = .next s)
    ∧ ((∀ e ∈ s.fenceTab, e.id ≠ f) → 0 < n → answers (.fenceArrive f n) s fun t =>
      { t with fenceTab := s.fenceTab } = s ∧ t.fenceTab = s.fenceTab ++ [⟨f, none, 0, some n, false⟩])
    ∧ ∀ e, s.fenceTab.find? (fun e => e.id == f && !e.closed) = some e → s.fenceClosed f = false →
      (e.count < n → answers (.fenceArrive f n) s fun t => { t with fenceTab := s.fenceTab } = s
        ∧ t.fenceTab = s.fenceTab.map fun x => if x.id = f then { x with fence := some n } else x)
      ∧ (e.count = n → f.rank ≠ s.rank → answers (.fenceArrive f n) s fun t =>
        { t with fenceTab := s.fenceTab, out := s.out } = s ∧ t.out = s.out ++ [.fenceVerdict f n]
        ∧ t.fenceClosed f = true))
  ∧ (∀ (f : FenceId) (s : State),
    (s.fenceTab.find? (fun e => e.id == f && !e.closed) = none → exec (.fenceVerdictTimeout f) s = .next s)
    ∧ ∀ e n, s.fenceTab.find? (fun e => e.id == f && !e.closed) = some e → e.fence = some n → f.rank ≠ s.rank →
      (e.count = n ∨ e.plot = none) → answers (.fenceVerdictTimeout f) s fun t =>
        { t with fenceTab := s.fenceTab, out := s.out } = s ∧ t.out = s.out ++ [.fenceVerdict f e.count]
        ∧ t.fenceClosed f = true)
  ∧ (∀ (cmd placed : Nat) (s : State) (c : Cmd), s.cmd cmd = some c → c.kind = .fencex →
    ((0 ∉ c.done ∨ 1 ∈ c.done) → exec (.fenceVerdictReceive cmd placed) s = .next s)
    ∧ (0 ∈ c.done → 1 ∉ c.done → answers (.fenceVerdictReceive cmd placed) s fun t =>
      Says.cmdChanged c (fun _ => { c with done := [0, 1] }) s t
      ∧ (placed = c.desc.toNat → { t with cores := s.cores } = s)
      ∧ (placed ≠ c.desc.toNat → ∀ r, mget s.roles c.role = some r → ∃ r' d, mget t.roles c.role = some r'
        ∧ r'.deferred = r.deferred ++ [d] ∧ d.cause = causeCountmismatch ∧ d.batch = c.batch ∧ sameBytes s t
        ∧ d.detail.drop 8 = leBytes 4 c.desc.toNat ++ leBytes 4 placed
          ++ c.lanes.flatMap fun l => leBytes 8 l.2.1.toNat ++ leBytes 8 l.2.2.toNat)))
  ∧ ∀ (f : FenceId) (s : State),
    ((∀ e ∈ s.fenceTab, e.id ≠ f) → exec (.fenceAbortReceive f) s = .next s)
    ∧ ((∃ e ∈ s.fenceTab, e.id = f) → answers (.fenceAbortReceive f) s fun t =>
      { t with fenceTab := s.fenceTab } = s ∧ t.fenceClosed f = true)

/-! ## Work queues (R363, R367 to R373, R433, R436) -/

namespace Sys2Proof.Says

/-- A host access to queue register i of an interface that is not refused reaches queue q (R363, R436). -/
def queueReady (s : State) (vi i : Nat) (trusted : Bool) (q : Nat) : Prop :=
  vi < 64 ∧ (s.iface vi).refuses trusted = false ∧ i < (s.iface vi).qcount ∧ q = (s.iface vi).qbase + i

/-- Queue q reads the entry at its HEAD (R367): its words, and the state after the read. -/
def entryRead (s : State) (q : Nat) (ext : Bytes) (vi : Nat) (e : Option (List (BitVec 64))) (s1 : State) : Prop :=
  s.queueVi q = some vi ∧ (s.queue q).reads = true ∧ (s.iface vi).tdi ≠ .error ∧ s.entryHeld vi q = false
  ∧ s.readEntry vi q ext = (e, s1)

/-- HEAD goes on past an entry and is written to HEADWB; the queue `x` but for its HEAD is what it becomes (R367). -/
def wentPast (q : Nat) (x : Queue) (s t : State) : Prop :=
  t.queue q = { x with head := (s.queue q).head + 1 } ∧ (∀ k, k ≠ q → t.queue k = s.queue k)
  ∧ (if (s.queue q).headWb = 0 then t.hostMem = s.hostMem
    else s.memOk = true →
      wrote s.hostMem t.hostMem (s.queue q).headWb.toNat (leBytes 8 ((s.queue q).head + 1).toNat))

/-- The queue stops with an error code at the entry at HEAD, and its vector is raised (R368, R372). -/
def queueStops (vi q err : Nat) (s t : State) : Prop :=
  onlyQueue q [.msix (vi + 1) (s.queue q).vector] s t ∧ (t.queue q).stopped = true ∧ (t.queue q).err = err
  ∧ (t.queue q).status.extractLsb' 0 32 = (s.queue q).head ∧ (t.queue q).head = (s.queue q).head
  ∧ (t.queue q).tail = (s.queue q).tail

end Sys2Proof.Says

/-- The registers of a queue and its entries other than a launch (R367 to R369, R372): a doorbell past the ring stops the
queue; setting EN starts it afresh; RESUME clears STOPPED, SKIP also goes past the refused entry; a WAIT holds the queue
until the launches before it have ended, a SIGNAL is armed behind them and then writes its word; an entry in a page that is migrating is not read
(R310). -/
def Obligations.QueueRegistersAndEntries : Prop :=
  ((∀ (vi i q : Nat) (v : BitVec 64) (trusted : Bool) (s : State), Says.queueReady s vi i trusted q →
      (answers (.doorbellWrite vi i v trusted) s fun t =>
        if v.setWidth 32 ≠ (s.queue q).tail ∧ (s.queue q).size < (v.setWidth 32 - (s.queue q).head).toNat then
          Says.queueStops vi q 0x0D s t
        else Says.onlyQueue q [] s t ∧ t.queue q = { s.queue q with tail := v.setWidth 32 })
      ∧ (answers (.queueCfgWrite vi i v trusted) s fun t => Says.onlyQueue q [] s t
        ∧ (v.getLsbD 63 = true → 12 < (v.extractLsb' 16 4).toNat → t.queue q = s.queue q)
        ∧ (v.getLsbD 63 = true → (v.extractLsb' 16 4).toNat ≤ 12 → (s.queue q).en = false →
          (t.queue q).cfg = v &&& 0x8000FFFF000F0000#64 ∧ (t.queue q).head = 0 ∧ (t.queue q).tail = 0
          ∧ (t.queue q).status = 0 ∧ (t.queue q).base = (s.queue q).base ∧ (t.queue q).launches = (s.queue q).launches)
        ∧ (v.getLsbD 63 = false → (t.queue q).en = false ∧ (t.queue q).head = (s.queue q).head))
      ∧ (answers (.queueCtlResume vi i trusted) s fun t => Says.onlyQueue q [] s t ∧ (t.queue q).stopped = false
        ∧ t.queue q = { s.queue q with status := (t.queue q).status })
      ∧ ((s.queue q).stopped = false → exec (.queueCtlSkip vi i trusted) s = .next s)
      ∧ ((s.queue q).stopped = true → (s.queue q).err ≠ 0x0D → (s.queue q).refused.getD 6 0 = 0 →
        answers (.queueCtlSkip vi i trusted) s fun t => t.plots = s.plots ∧ t.roles = s.roles
          ∧ (t.queue q).stopped = false ∧ (t.queue q).head = (s.queue q).head + 1
          ∧ ∀ k, k ≠ q → t.queue k = s.queue k))
    ∧ ∀ (vi i q : Nat) (trusted : Bool) (s : State) (c : BitVec 64), Says.queueReady s vi i trusted q →
      (s.queue q).stopped = true → (s.queue q).err ≠ 0x0D → (s.queue q).refused.getD 6 0 = c → c ≠ 0 →
      c.getLsbD 0 = false → (s.queue q).headWb = 0 → (s.iface vi).tdi ≠ .error → s.memOk = true →
      c.toNat / 16 * 16 / 4096 ∈ (s.iface vi).atc → (s.next, c.toNat / 16 * 16 / 4096) ∉ (s.iface vi).atsFailed →
      answers (.queueCtlSkip vi i trusted) s fun t => (t.queue q).head = (s.queue q).head + 1
        ∧ Says.wrote s.hostMem t.hostMem (c.toNat / 16 * 16)
          (leBytes 8 s.clock ++ leBytes 4 2 ++ leBytes 4 (s.queue q).err))
  ∧ ((∀ (q : Nat) (ext : Bytes) (s : State) (vi : Nat) (i : Instr), s.queueVi q = some vi → s.entryHeld vi q = true →
      i ∈ [.queueEntryNop q ext, .queueEntryLaunch q ext, .queueEntryWait q ext, .queueEntrySignal q ext] →
      exec i s = .next s)
    ∧ (∀ (q : Nat) (ext : Bytes) (s s1 : State) (vi : Nat) (e : List (BitVec 64)),
      Says.entryRead s q ext vi (some e) s1 →
      (entryType e = 0 → answers (.queueEntryNop q ext) s fun t => Says.wentPast q (s1.queue q) s1 t
        ∧ t.plots = s1.plots ∧ t.roles = s1.roles ∧ t.ram = s1.ram)
      ∧ (entryType e = 2 → answers (.queueEntryWait q ext) s fun t => Says.onlyQueue q [] s1 t
        ∧ t.queue q = { s1.queue q with waiting := some (s1.queue q).launches })
      ∧ (entryType e = 3 → answers (.queueEntrySignal q ext) s fun t =>
        Says.wentPast q { s1.queue q with signals := (s1.queue q).signals ++
          [⟨e.getD 7 0, e.getD 6 0, (e.getD 0 0).getLsbD 39, (s1.queue q).launches⟩] } s1 t
        ∧ t.plots = s1.plots ∧ t.roles = s1.roles ∧ t.ram = s1.ram))
    ∧ (∀ (q : Nat) (s : State) (ps : List Nat), (s.queue q).waiting = some ps → (s.queue q).en = true →
      (s.queue q).stopped = false →
      ((∃ p ∈ ps, p ∈ (s.queue q).launches) → exec (.queueWaitRelease q) s = .next s)
      ∧ ((∀ p ∈ ps, p ∉ (s.queue q).launches) → answers (.queueWaitRelease q) s fun t =>
        Says.wentPast q { s.queue q with waiting := none } s t ∧ t.plots = s.plots ∧ t.roles = s.roles ∧ t.ram = s.ram))
    ∧ ∀ (q vi : Nat) (s : State) (g : Signal), s.queueVi q = some vi →
      ((s.queue q).signals.find? (fun g => !(g.after.any (s.queue q).launches.contains)) = none →
        exec (.signalFire q) s = .next s)
      ∧ ((s.queue q).signals.find? (fun g => !(g.after.any (s.queue q).launches.contains)) = some g →
        (g.compl = 0 → answers (.signalFire q) s fun t => t.hostMem = s.hostMem ∧ t.ram = s.ram
          ∧ (t.queue q).signals = (s.queue q).signals.erase g
          ∧ t.out = s.out ++ if g.irq = true then [.msix (vi + 1) (s.queue q).vector] else [])
        ∧ (g.compl ≠ 0 → g.compl.getLsbD 0 = false → (s.iface vi).tdi ≠ .error → s.memOk = true →
          g.compl.toNat / 16 * 16 / 4096 ∈ (s.iface vi).atc →
          (s.next, g.compl.toNat / 16 * 16 / 4096) ∉ (s.iface vi).atsFailed →
          answers (.signalFire q) s fun t =>
            Says.wrote s.hostMem t.hostMem (g.compl.toNat / 16 * 16) (leBytes 8 g.value.toNat)
            ∧ (t.queue q).signals = (s.queue q).signals.erase g ∧ t.ram = s.ram
            ∧ t.out = s.out ++ if g.irq = true then [.msix (vi + 1) (s.queue q).vector] else [])))

/-- Launches and the ends of plots (R310, R370 to R373, R393, R394): the checks in their order, each with its code; the
launch waits while its descriptor or arguments migrate; one that passes the checks adds one plot as its entry, descriptor and arguments give it and HEAD goes on; a plot with anything left to do
stays; one that has ended is gone, with its regions and its place in its queue. -/
def Obligations.LaunchesAndEnds : Prop :=
  (∀ (q : Nat) (ext : Bytes) (s s1 : State) (vi : Nat) (e : Option (List (BitVec 64))),
    Says.entryRead s q ext vi e s1 →
    (e = none → answers (.queueEntryLaunch q ext) s (Says.queueStops vi q 0x0E s1))
    ∧ (∀ w, e = some w → 3 < entryType w → answers (.queueEntryLaunch q ext) s (Says.queueStops vi q 0x01 s1))
    ∧ ∀ w asid, e = some w → entryType w = 1 → asid = ((w.getD 0 0).extractLsb' 44 8).toNat →
      (((s1.iface vi).acount ≤ asid ∨ ((mget (s1.iface vi).roots asid).getD 0).getLsbD 0 = false) →
        answers (.queueEntryLaunch q ext) s (Says.queueStops vi q 0x02 s1))
      ∧ (asid < (s1.iface vi).acount → ((mget (s1.iface vi).roots asid).getD 0).getLsbD 0 = true →
        ((s1.migrating vi asid ((w.getD 1 0).toNat / 65536) = true ∨ s1.migrating vi asid ((w.getD 2 0).toNat / 65536) = true) →
          exec (.queueEntryLaunch q ext) s = .next s1)
        ∧ ∀ (d a : Option (List (BitVec 64))) (s2 s3 : State),
          s1.migrating vi asid ((w.getD 1 0).toNat / 65536) = false →
          s1.migrating vi asid ((w.getD 2 0).toNat / 65536) = false →
          s1.readBlock vi asid (w.getD 1 0).toNat 256 = (d, s2) → s2.readBlock vi asid (w.getD 2 0).toNat 64 = (a, s3) →
          ((d = none ∨ a = none) → answers (.queueEntryLaunch q ext) s (Says.queueStops vi q 0x03 s3))
          ∧ ∀ d' a' p, d = some d' → a = some a' → p = launchPlot vi q (s1.queue q).head.toNat w d' a' →
            (∀ err, launchFault (s1.iface vi) w d' p = some err → err < 256 →
              answers (.queueEntryLaunch q ext) s (Says.queueStops vi q err s3))
            ∧ (launchFault (s1.iface vi) w d' p = none →
              (s3.reserve vi 4096 = none → answers (.queueEntryLaunch q ext) s (Says.queueStops vi q 0x0F s3))
              ∧ ∀ b s4, s3.reserve vi 4096 = some (b, s4) → answers (.queueEntryLaunch q ext) s fun t => ∃ k,
                mget t.plots k = some { p with block := b } ∧ t.roles = s3.roles
                ∧ (∀ j, j ≠ k → mget t.plots j = mget s3.plots j)
                ∧ t.queue q = { s3.queue q with head := (s3.queue q).head + 1, launches := (s3.queue q).launches ++ [k] })))
  ∧ (∀ (vi queue idx : Nat) (e d args : List (BitVec 64)) (p : Plot), p = launchPlot vi queue idx e d args →
      p.vi = vi ∧ p.queue = queue ∧ p.entryIdx = idx ∧ p.args = args ∧ p.work = 0 ∧ p.killed = false
      ∧ p.asid = ((e.getD 0 0).extractLsb' 44 8).toNat
      ∧ p.weight = (if (e.getD 0 0).extractLsb' 52 8 = 0 then 1 else ((e.getD 0 0).extractLsb' 52 8).toNat)
      ∧ p.priv = (e.getD 0 0).getLsbD 43 ∧ p.coop = (e.getD 0 0).getLsbD 41 ∧ p.operr = (e.getD 0 0).getLsbD 40
      ∧ p.irq = (e.getD 0 0).getLsbD 39 ∧ p.tagTrap = ((e.getD 0 0).getLsbD 42 || (d.getD 14 0).getLsbD 0)
      ∧ p.fpTrap = (e.getD 0 0).extractLsb' 34 5 ∧ p.thresh = ((e.getD 0 0).extractLsb' 27 7).toNat
      ∧ p.dieMask = (e.getD 0 0).extractLsb' 19 8 ∧ p.privBase = (e.getD 4 0).toNat ∧ p.privSize = (e.getD 5 0).toNat
      ∧ p.compl = e.getD 6 0
      ∧ p.grid = (if (e.getD 3 0).extractLsb' 0 32 = 0 then ((d.getD 15 0).extractLsb' 0 32).toNat
          else ((e.getD 3 0).extractLsb' 0 32).toNat)
      ∧ p.claim = (if (e.getD 3 0).extractLsb' 32 8 = 0 then ((d.getD 15 0).extractLsb' 32 8).toNat
          else ((e.getD 3 0).extractLsb' 32 8).toNat))
  ∧ ∀ (plot : Nat) (s : State) (p : Plot), mget s.plots plot = some p →
      ((p.ended = true ∨ s.plotOver plot p = false ∨ s.writesLeft = true) → exec (.plotEnd plot) s = .next s)
      ∧ (p.ended = false → s.plotOver plot p = true → s.writesLeft = false → p.compl = 0 →
        answers (.plotEnd plot) s fun t => mget t.plots plot = none
          ∧ plot ∉ (t.queue p.queue).launches ∧ (∀ x ∈ t.regions, x.2.plot ≠ plot) ∧ t.roles = s.roles
          ∧ t.ram = s.ram ∧ t.hostMem = s.hostMem ∧ t.waitPkts = s.waitPkts
          ∧ t.out = s.out ++ if p.irq = true then [.msix (p.vi + 1) (s.queue p.queue).vector] else [])

/-! ## Translation and its host side (R310, R363, R376 to R387, R392, R403, R407, R458) -/

namespace Sys2Proof.Says

/-- A host access to an interface that is not refused (R363, R436). -/
def hostReady (s : State) (vi : Nat) (trusted : Bool) : Prop := vi < 64 ∧ (s.iface vi).refuses trusted = false

/-- A FAULTDONE value for a record of the interface with this outcome (R378). -/
def answersRecord (s : State) (vi : Nat) (v : BitVec 64) (outcome : Nat) (f : FaultRec) : Prop :=
  v.extractLsb' 18 46 = 0 ∧ (v.extractLsb' 16 2).toNat = outcome
  ∧ (s.iface vi).faults.find? (fun f => f.token == (v.extractLsb' 0 16).toNat) = some f

/-- Without that record. -/
def answered (vi : Nat) (f : FaultRec) (s t : State) : Prop :=
  ∀ g, g ∈ (t.iface vi).faults ↔ g ∈ (s.iface vi).faults ∧ g.token ≠ f.token

/-- What an INVCMD of each scope covers (R380). -/
def invalidating : Instr → Option (Nat × BitVec 64 × Bool × (Iface → InvCmd))
  | .invcmdPages vi v tr => some (vi, v, tr, fun i => ⟨some (v.extractLsb' 50 8).toNat, i.invAddr.toNat / 65536,
      i.invAddr.toNat / 65536 + (v.extractLsb' 0 32).toNat, none⟩)
  | .invcmdAsid vi v tr => some (vi, v, tr, fun _ => ⟨some (v.extractLsb' 50 8).toNat, 0, 2 ^ 36, none⟩)
  | .invcmdAll vi v tr => some (vi, v, tr, fun _ => ⟨none, 0, 2 ^ 36, none⟩)
  | _ => none

/-- The scope field of each (R380). -/
def invScope : Instr → BitVec 2
  | .invcmdAsid _ _ _ => 1
  | .invcmdAll _ _ _ => 2
  | _ => 0

end Sys2Proof.Says

/-- Invalidations and the fault ring (R363, R378, R380, R381): at most 16 commands are queued, more or a reserved bit set
OVF, which a read of INVSTAT clears; a command drops every cached leaf it covers and completes once nothing that may have
used one is unfinished; a write of FAULTTAIL or FAULTCFG writes the records that wait while the ring has places. -/
def Sys2Proof.Says.invalidationsAndFaultRing : Prop :=
  (∀ (i : Instr) (vi : Nat) (v : BitVec 64) (trusted : Bool) (c : Iface → InvCmd) (s : State),
    Says.invalidating i = some (vi, v, trusted, c) → Says.hostReady s vi trusted →
    (v.getLsbD 63 = false → exec i s = .next s)
    ∧ (v.getLsbD 63 = true → v.extractLsb' 58 2 = Says.invScope i → v.extractLsb' 60 3 = 0 → v.extractLsb' 32 18 = 0 →
      answers i s fun t => Says.onlyIface vi [] s t ∧ t.iface vi =
        if (s.iface vi).invQ.length < 16 then { s.iface vi with invQ := (s.iface vi).invQ ++ [c (s.iface vi)] }
        else { s.iface vi with invOvf := true })
    ∧ (v.getLsbD 63 = true → v.extractLsb' 58 2 = Says.invScope i →
      (v.extractLsb' 60 3 ≠ 0 ∨ v.extractLsb' 32 18 ≠ 0) →
      answers i s fun t => Says.onlyIface vi [] s t ∧ t.iface vi = { s.iface vi with invOvf := true }))
  ∧ (∀ (vi : Nat) (s s1 : State) (c : InvCmd) (rest : List InvCmd) (n : Nat), (s.iface vi).invQ = c :: rest →
    (s1, n) = (match c.upto with
      | none => (s.dropLeaves vi c.asid c.lo c.hi, s.next)
      | some n => (s, n)) →
    answers (.invalidationComplete vi) s fun t => t.roles = s.roles ∧ t.ram = s.ram ∧ t.ops = s.ops
      ∧ (c.upto = none → ∀ l : Leaf, l.vi = vi → (∀ a, c.asid = some a → l.asid = a) → c.lo ≤ l.page → l.page < c.hi →
        l ∉ t.tlb2 ∧ ∀ k, l ∉ (t.core k).tlb)
      ∧ if s1.usesDropped vi c n = true then
          (t.iface vi).invQ = { c with upto := some n } :: rest ∧ (t.iface vi).invDone = (s.iface vi).invDone
        else (t.iface vi).invQ = rest ∧ (t.iface vi).invDone = (s.iface vi).invDone + 1)
  ∧ (∀ (vi : Nat) (trusted : Bool) (s : State), Says.hostReady s vi trusted →
    answers (.invstatRead vi trusted) s fun t => t.iface vi = { s.iface vi with invOvf := false }
      ∧ Says.onlyIface vi [.readData (vi + 1) (leBytes 8 ((s.iface vi).invDone.toNat * 2 ^ 32
        + (if (s.iface vi).invOvf = true then 2 else 0) + if (s.iface vi).invQ = [] then 0 else 1))] s t)
  ∧ ∀ (i : Instr) (vi : Nat) (v : BitVec 64) (trusted : Bool) (s : State) (j : Iface), Says.hostReady s vi trusted →
      (i = .faulttailWrite vi v trusted ∧ j = { s.iface vi with faultTail := v.setWidth 32 }
        ∨ i = .faultcfgWrite vi v trusted ∧ j = { s.iface vi with faultCfg := v &&& 0x8000000F00000000#64 }) →
      (((s.iface vi).faultWait = [] ∨ j.faultRoom = false) →
        answers i s fun t => Says.onlyIface vi [] s t ∧ t.iface vi = j)
      ∧ ∀ rec, (s.iface vi).faultWait = [rec] → j.faultRoom = true → s.memOk = true → answers i s fun t =>
        { t with ifaces := s.ifaces, hostMem := s.hostMem, out := s.out } = s
        ∧ t.iface vi = { j with faultWait := [], faultHead := j.faultHead + 1 } ∧ t.out = s.out ++ [.msix (vi + 1) 0]
        ∧ Says.wrote s.hostMem t.hostMem
          (j.faultBase.toNat + 32 * (j.faultHead.toNat % 2 ^ ((j.faultCfg.extractLsb' 32 4).toNat + 6)))
          (rec ++ leBytes 8 s.clock)

/-- Answers to fault records (R378, R384, R392, R407): RETRY lets every role that waits for the page issue again, FAIL makes
its fault the instruction's, MIGRATE begins to bring a host-owned page in, RESUME lets a stopped role go on from the clause
context in its block, KILL ends the role's plot; the record is answered once. -/
def Obligations.FaultRecordsAnswered : Prop :=
  ∀ (vi : Nat) (v : BitVec 64) (trusted : Bool) (s : State) (f : FaultRec) (outcome : Nat),
    Says.hostReady s vi trusted → Says.answersRecord s vi v outcome f →
    (outcome = 0 → (f.reason = 1 ∨ f.reason = 3) → s.waitPkts = [] → s.recs = [] →
      answers (.faultdoneRetry vi v trusted) s fun t => Says.answered vi f s t ∧ sameBytes s t
        ∧ (∀ k r, mget s.roles k = some r → r.status = .parked (.fault vi f.asid f.page) → r.reserve = [] →
          ∃ r', mget t.roles k = some r' ∧ r'.status = .ready ∧ r'.still = r.still)
        ∧ ∀ k, k ∉ s.faultRoles vi f.asid f.page → mget t.roles k = mget s.roles k)
    ∧ (outcome = 1 → (f.reason = 1 ∨ f.reason = 3) → s.waitPkts = [] → s.recs = [] → f.cmds = [] →
      (∀ c ∈ s.cores, c.2.headland = []) →
      answers (.faultdoneFail vi v trusted) s fun t =>
        (∀ k r, mget s.roles k = some r → r.status = .parked (.fault vi f.asid f.page) → r.spilling = false →
          r.reserve = [] → ∃ r', mget t.roles k = some r' ∧ r'.status = .ready ∧ r'.still = r.still
            ∧ r'.walkFault = some (false, f.page, causePage))
        ∧ (∀ k r, mget s.roles k = some r → r.status = .parked (.fault vi f.asid f.page) → r.spilling = true →
          ∃ r', mget t.roles k = some r' ∧ r'.status = .stopped)
        ∧ ∀ k, k ∉ s.faultRoles vi f.asid f.page → mget t.roles k = mget s.roles k)
    ∧ (outcome = 2 → f.reason = 3 → ∀ e at', s.walk vi f.asid (f.page * 65536) = .owner e at' →
      answers (.faultdoneMigrate vi v trusted) s fun t => Says.answered vi f s t ∧ t.roles = s.roles ∧ t.ram = s.ram
        ∧ (t.iface vi).migs = (s.iface vi).migs ++ [⟨f.token, f.asid, f.page, false,
          (s.iface vi).physBase + (s.iface vi).migDst.toNat, e.addr, e.raw, at'⟩]
        ∧ ∀ l : Leaf, l.vi = vi → l.asid = f.asid → l.page = f.page → l ∉ t.tlb2 ∧ ∀ k, l ∉ (t.core k).tlb)
    ∧ (outcome = 0 → f.reason = 5 → ∀ k r, f.role = some k → mget s.roles k = some r →
      (r.status.isSaved = false → answers (.faultdoneResume vi v trusted) s fun t => Says.answered vi f s t
        ∧ (∀ j, j ≠ k → mget t.roles j = mget s.roles j)
        ∧ ∃ r', mget t.roles k = some r' ∧ r'.status = .ready ∧ r'.trapToken = none
          ∧ (r.block = none → r'.hdr = r.hdr ∧ r'.off = r.off ∧ r'.frames = r.frames ∧ r'.mask = r.mask)
          ∧ ∀ b, r.block = some b → s.poison = [] → s.memOk = true →
            r'.hdr = BitVec.ofNat 64 (rdLE s.ram (b + 0x100) 8) ∧ r'.off = (rdByte s.ram (b + 0x108)).toNat
            ∧ r'.fpflags = BitVec.ofNat 5 (rdByte s.ram (b + 0x118)).toNat)
      ∧ (r.status.isSaved = true → answers (.faultdoneResume vi v trusted) s fun t => Says.answered vi f s t
        ∧ ∃ r', mget t.roles k = some r' ∧ r'.status = r.status ∧ r'.trapToken = none ∧ r'.frames = r.frames))
    ∧ (outcome = 1 → f.reason = 5 → ∀ k r plot p, f.role = some k → mget s.roles k = some r → r.plot = some plot →
      mget s.plots plot = some p → p.killed = false →
      answers (.faultdoneKill vi v trusted) s fun t => mget t.roles k = none ∧ t.waitPkts = s.waitPkts
        ∧ ∃ p', mget t.plots plot = some p' ∧ p'.killed = true ∧ p'.stopping = true)

/-- Migration (R310, R384 to R386): MIGCMD begins to move a present 64 KiB leaf's page to the host, or is dropped and says
so; a migration completes once no access to the page is unfinished: the page's bytes are copied, its leaf names its new
place with its other bits kept, and a record is made. -/
def Sys2Proof.Says.migrations : Prop :=
  (∀ (vi : Nat) (v : BitVec 64) (trusted : Bool) (s : State), Says.hostReady s vi trusted →
    (v.getLsbD 63 = false → exec (.migcmdGo vi v trusted) s = .next s)
    ∧ (v.getLsbD 63 = true →
      ((64 ≤ (s.iface vi).migs.length ∨ (s.iface vi).migVa.toNat % 65536 ≠ 0 ∨ (s.iface vi).migIova.toNat % 65536 ≠ 0
          ∨ ∀ e at', s.walk vi (v.extractLsb' 16 8).toNat (s.iface vi).migVa.toNat = .leaf e 0 at' → e.loc ≠ 2) →
        answers (.migcmdGo vi v trusted) s fun t => Says.onlyIface vi [] s t
          ∧ t.iface vi = { s.iface vi with migBusy := true })
      ∧ ∀ e at', (s.iface vi).migs.length < 64 → (s.iface vi).migVa.toNat % 65536 = 0 →
        (s.iface vi).migIova.toNat % 65536 = 0 →
        s.walk vi (v.extractLsb' 16 8).toNat (s.iface vi).migVa.toNat = .leaf e 0 at' → e.loc = 2 →
        answers (.migcmdGo vi v trusted) s fun t => t.roles = s.roles ∧ t.ram = s.ram
          ∧ (t.iface vi).migBusy = false
          ∧ (t.iface vi).migs = (s.iface vi).migs ++ [⟨(v.extractLsb' 0 16).toNat, (v.extractLsb' 16 8).toNat,
            (s.iface vi).migVa.toNat / 65536, true, (s.iface vi).physBase + e.addr, (s.iface vi).migIova.toNat, e.raw,
            at'⟩]))
  ∧ ∀ (vi token : Nat) (ext : Bytes) (s : State),
      ((s.iface vi).migs.find? (fun m => m.token == token) = none →
        exec (.migrationComplete vi token ext) s = .next s)
      ∧ ∀ m, (s.iface vi).migs.find? (fun m => m.token == token) = some m →
        (s.pageBusy vi m = true → exec (.migrationComplete vi token ext) s = .next s)
        ∧ (s.pageBusy vi m = false → s.waitPkts = [] → s.recs = [] → s.poison = [] → s.memOk = true →
          (s.iface vi).stopDue = false → (s.iface vi).resetDue = false → (s.iface vi).faultCfg.getLsbD 63 = false →
          answers (.migrationComplete vi token ext) s fun t =>
            (t.iface vi).migs = (s.iface vi).migs.erase m
            ∧ (t.iface vi).faultWait = (s.iface vi).faultWait ++ [faultBytes (m.page * 65536) m.token m.asid 4 0
              (if m.toHost = true then m.dev - (s.iface vi).physBase else m.host)]
            ∧ (∀ k r, mget s.roles k = some r → r.status = .parked (.fault vi m.asid m.page) → r.reserve = [] →
              ∃ r', mget t.roles k = some r' ∧ r'.status = .ready ∧ r'.still = r.still)
            ∧ (m.toHost = true → Says.wrote s.hostMem t.hostMem m.host (rdBytes s.ram m.dev 65536)
              ∧ Says.wrote s.ram t.ram m.pteAt (leBytes 8 ((m.pte &&& ~~~0x300FFFFFFFFFFF00#64)
                ||| 0x3000000000000000#64 ||| (BitVec.ofNat 64 m.host &&& 0x000FFFFFFFFFFF00#64)).toNat))
            ∧ (m.toHost = false → ext = [] → m.dev + 65536 ≤ (s.iface vi).physBase + (s.iface vi).physSize →
              (m.pteAt + 8 ≤ m.dev ∨ m.dev + 65536 ≤ m.pteAt) → t.hostMem = s.hostMem
              ∧ (∀ x, x < 65536 → rdByte t.ram (m.dev + x) = rdByte s.hostMem (m.host + x))
              ∧ (∀ x, (x < m.dev ∨ m.dev + 65536 ≤ x) → (x < m.pteAt ∨ m.pteAt + 8 ≤ x) → rdByte t.ram x = rdByte s.ram x)
              ∧ rdLE t.ram m.pteAt 8 = ((m.pte &&& ~~~0x300FFFFFFFFFFF00#64) ||| 0x2000000000000000#64
                ||| (BitVec.ofNat 64 (m.dev - (s.iface vi).physBase) &&& 0x000FFFFFFFFFFF00#64)).toNat))

/-- Invalidations, the fault ring and migrations (R310, R363, R378, R380, R381, R384 to R386). -/
def Obligations.InvalidationsFaultRingAndMigrations : Prop := Says.invalidationsAndFaultRing ∧ Says.migrations

/-! ## The host's port, the interface table and the context registers (R361, R363 to R365, R379, R382, R383, R394, R400) -/

namespace Sys2Proof.Says

/-- The instructions that are host accesses to a virtual function's registers or window, with their interface and their
T bit (R436). -/
def hostPort : Instr → Option (Nat × Bool)
  | .doorbellWrite vi _ _ tr => some (vi, tr)
  | .queueCfgWrite vi _ _ tr => some (vi, tr)
  | .queueCtlResume vi _ tr => some (vi, tr)
  | .queueCtlSkip vi _ tr => some (vi, tr)
  | .invcmdPages vi _ tr => some (vi, tr)
  | .invcmdAsid vi _ tr => some (vi, tr)
  | .invcmdAll vi _ tr => some (vi, tr)
  | .invstatRead vi tr => some (vi, tr)
  | .faulttailWrite vi _ tr => some (vi, tr)
  | .faultcfgWrite vi _ tr => some (vi, tr)
  | .faultdoneRetry vi _ tr => some (vi, tr)
  | .faultdoneFail vi _ tr => some (vi, tr)
  | .faultdoneMigrate vi _ tr => some (vi, tr)
  | .faultdoneResume vi _ tr => some (vi, tr)
  | .faultdoneKill vi _ tr => some (vi, tr)
  | .migcmdGo vi _ tr => some (vi, tr)
  | .bar4Read vi _ _ tr => some (vi, tr)
  | .bar4Write vi _ _ tr => some (vi, tr)
  | .bar4Atomic vi _ _ tr => some (vi, tr)
  | _ => none

/-- The register of an interface that a write stores, with the interface after it (R12, R363). -/
def plainRegister (i : Iface) (v : BitVec 64) : HostReg → Option (Nat × Iface)
  | .root vi a => some (vi, if a < i.acount then { i with roots := mset i.roots a (v &&& ~~~0xFFFE#64) } else i)
  | .invAddr vi => some (vi, { i with invAddr := v })
  | .faultBase vi => some (vi, { i with faultBase := v &&& ~~~0xFFF#64 })
  | .migDst vi => some (vi, { i with migDst := v &&& 0x000FFFFFFFFF0000#64 })
  | .migVa vi => some (vi, { i with migVa := v })
  | .migIova vi => some (vi, { i with migIova := v })
  | .winBase vi => some (vi, { i with winBase := v &&& 0x000FFFFF00000000#64 })
  | _ => none

/-- The address in device memory of a byte of an interface's window, and whether it is in the interface (R379). -/
def windowByte (i : Iface) (off : Nat) : Nat × Prop :=
  let a := (i.winBase.extractLsb' 32 20).toNat * 2 ^ 32 + off
  (i.physBase + a, a < i.physSize)

/-- Every queue of the interface has EN = 0 and none of its ASIDs is live (R365). -/
def disabled (vi : Nat) (s t : State) : Prop :=
  (∀ q, (s.iface vi).qbase ≤ q → q < (s.iface vi).qbase + (s.iface vi).qcount → (t.queue q).en = false)
  ∧ ∀ a r, mget (t.iface vi).roots a = some r → r.getLsbD 0 = false

end Sys2Proof.Says

/-- Host accesses (R361, R363, R379, R436): one to a locked, running or failed interface without trust is Unsupported and
does nothing; the window reads and writes the interface's memory, zeros and nothing past its end, and an atomic does both in
one step; a register holds what is written, its reserved bits zero, and an unlisted offset nothing. -/
def Obligations.HostAccesses : Prop :=
  (∀ (i : Instr) (vi : Nat) (trusted : Bool) (s : State), Says.hostPort i = some (vi, trusted) →
    (64 ≤ vi → exec i s = .next s)
    ∧ (vi < 64 → (s.iface vi).tdi ≠ .unlocked → trusted = false →
      answers i s (Says.onlySent [.unsupported (vi + 1)] s)))
  ∧ (∀ (vi off : Nat) (trusted : Bool) (s : State), Says.hostReady s vi trusted → s.poison = [] → s.memOk = true →
    (∀ n, answers (.bar4Read vi off n trusted) s fun t => { t with out := s.out } = s ∧ ∃ bs : Bytes,
      t.out = s.out ++ [.readData (vi + 1) bs] ∧ bs.length = n ∧ ∀ k, k < n →
        ((Says.windowByte (s.iface vi) (off + k)).2 →
          bs.getD k 0 = rdByte s.ram (Says.windowByte (s.iface vi) (off + k)).1)
        ∧ (¬(Says.windowByte (s.iface vi) (off + k)).2 → bs.getD k 0 = 0))
    ∧ (∀ data, answers (.bar4Write vi off data trusted) s fun t => { t with ram := s.ram, watch := s.watch } = s
      ∧ (∀ k, k < data.length → (Says.windowByte (s.iface vi) (off + k)).2 →
        rdByte t.ram (Says.windowByte (s.iface vi) (off + k)).1 = data.getD k 0)
      ∧ ∀ a, (∀ k, k < data.length → (Says.windowByte (s.iface vi) (off + k)).2 →
        a ≠ (Says.windowByte (s.iface vi) (off + k)).1) → rdByte t.ram a = rdByte s.ram a)
    ∧ ∀ (n a : Nat) (x c v : BitVec 64), (n = 4 ∨ n = 8) → a = (Says.windowByte (s.iface vi) off).1 →
      (Says.windowByte (s.iface vi) (off + n - 1)).2 →
      (answers (.bar4Atomic vi off (.fetchAdd n x) trusted) s fun t =>
        { t with ram := s.ram, watch := s.watch, out := s.out } = s
        ∧ t.out = s.out ++ [.readData (vi + 1) (rdBytes s.ram a n)]
        ∧ Says.wrote s.ram t.ram a (leBytes n (rdLE s.ram a n + x.toNat)))
      ∧ (answers (.bar4Atomic vi off (.swap n x) trusted) s fun t =>
        { t with ram := s.ram, watch := s.watch, out := s.out } = s
        ∧ t.out = s.out ++ [.readData (vi + 1) (rdBytes s.ram a n)]
        ∧ Says.wrote s.ram t.ram a (leBytes n x.toNat))
      ∧ answers (.bar4Atomic vi off (.cas n (c.setWidth _) (v.setWidth _)) trusted) s fun t =>
        { t with ram := s.ram, watch := s.watch, out := s.out } = s
        ∧ t.out = s.out ++ [.readData (vi + 1) (rdBytes s.ram a n)]
        ∧ Says.wrote s.ram t.ram a (leBytes n (if rdLE s.ram a n = c.toNat % 2 ^ (8 * n) then v.toNat else rdLE s.ram a n)))
  ∧ (∀ (r : HostReg) (v : BitVec 64) (trusted : Bool) (s : State),
    (∀ vi j, Says.plainRegister (s.iface vi) v r = some (vi, j) → Says.hostReady s vi trusted →
      answers (.registerWrite r v trusted) s fun t => Says.onlyIface vi [] s t ∧ t.iface vi = j)
    ∧ (∀ vi i q, Says.queueReady s vi i trusted q →
      (r = .queueBase vi i → answers (.registerWrite r v trusted) s fun t => Says.onlyQueue q [] s t
        ∧ t.queue q = { s.queue q with base := v &&& ~~~0xFFE#64 })
      ∧ (r = .queueHeadWb vi i → answers (.registerWrite r v trusted) s fun t => Says.onlyQueue q [] s t
        ∧ t.queue q = { s.queue q with headWb := v &&& ~~~7#64 }))
    ∧ (r = .ctxPlot → exec (.registerWrite r v trusted) s = .next { s with ctxPlot := v &&& 0x000003FFFFFFFFFF#64 })
    ∧ (r = .ctxTeams → exec (.registerWrite r v trusted) s = .next { s with ctxTeams := v })
    ∧ (r = .telSel → exec (.registerWrite r v trusted) s = .next { s with telSel := v &&& 0x00000000FFFFFFFF#64 })
    ∧ ∀ off, r = .unlisted off → exec (.registerWrite r v trusted) s = .next s)

/-- Host translations (R282, R382, R383): a completion lets the held role or the waiting command use the page, or asks for
the page; a page response ends the park, and one that is no success makes it the instruction's PAGE; an invalidation
drops what it covers, asks for a flush of the writes that used it, and completes once nothing that may have used it is
unfinished; a completion that does not come
fails the command. -/
def Obligations.HostTranslations : Prop :=
  (∀ (k vi asid access : Nat) (va : BitVec 64) (ok : Bool) (s : State) (r : Role), mget s.roles k = some r →
    s.space r = some (vi, asid) →
    (r.status = .held (.tlb va true access) →
      answers (.atsTranslationCompletion k ok) s fun t => ∃ r', mget t.roles k = some r' ∧ sameBytes s t
        ∧ (ok = true → r'.status = .ready ∧ r'.still = r.still ∧ va.toNat / 4096 ∈ (t.iface vi).atc ∧ t.out = s.out)
        ∧ (ok = false → r'.status = .parked .hostFault ∧ r'.faultVa = some va.toNat ∧ r'.hdr = r.hdr ∧ r'.off = r.off
          ∧ t.out = s.out ++ [.pageRequest vi (va.toNat / 4096 * 4096)])
        ∧ ∀ j, j ≠ k → mget t.roles j = mget s.roles j)
    ∧ (r.status = .parked .hostFault →
      answers (.priPageResponse k ok) s fun t => ∃ r', mget t.roles k = some r' ∧ onlyRole k s t ∧ r'.status = .ready
        ∧ r'.still = r.still ∧ (ok = false → r'.walkFault = some (true, r.faultVa.getD 0 / 4096, causePage)))
    ∧ (r.status = .saved (some .hostFault) → ok = true →
      answers (.priPageResponse k ok) s fun t => onlyRole k s t ∧ mget t.roles k = some { r with status := .saved none }))
  ∧ (∀ (who vi page : Nat) (ok : Bool) (s : State), mget s.roles who = none → s.asked who = [(vi, page)] → s.recs = [] →
    (answers (.atsTranslationCompletion who ok) s fun t => if ok = true then
        Says.onlyIface vi [] s t ∧ page ∈ (t.iface vi).atc
        ∧ (t.iface vi).atsReqs = (s.iface vi).atsReqs.erase (who, page)
      else Says.onlySent [.pageRequest vi (4096 * page)] s t)
    ∧ (s.cmd who = none → s.saved = [] → answers (.priPageResponse who ok) s fun t => Says.onlyIface vi [] s t
      ∧ (t.iface vi).atsReqs = (s.iface vi).atsReqs.erase (who, page)
      ∧ (t.iface vi).atsFailed = if ok = true then (s.iface vi).atsFailed else (s.iface vi).atsFailed ++ [(who, page)]))
  ∧ (∀ (vi lo hi : Nat) (s : State), answers (.atsInvalidateRequest vi lo hi) s fun t =>
      Says.onlyIface vi (if s.hostBusy vi lo hi s.next = true then [.flushRead vi] else []) s t
      ∧ (∀ p, p ∈ (t.iface vi).atc ↔ p ∈ (s.iface vi).atc ∧ ¬(lo ≤ p ∧ p < hi))
      ∧ (t.iface vi).atsInv = (s.iface vi).atsInv ++ [(lo, hi, s.next)])
  ∧ (∀ (vi lo hi upto : Nat) (rest : List (Nat × Nat × Nat)) (s : State), (s.iface vi).atsInv = (lo, hi, upto) :: rest →
      (s.hostBusy vi lo hi upto = true → exec (.atsInvalidateComplete vi) s = .next s)
      ∧ (s.hostBusy vi lo hi upto = false → answers (.atsInvalidateComplete vi) s fun t =>
        Says.onlyIface vi [.atsInvalidateDone vi] s t ∧ t.iface vi = { s.iface vi with atsInv := rest }))
  ∧ ∀ (cmd : Nat) (s : State) (c : Cmd) (x : Rec), s.cmd cmd = some c →
      (c.srcRec.kind ≠ 2 → c.dstRec.kind ≠ 2 → exec (.pcieCompletionTimeout cmd) s = .next s)
      ∧ ((c.srcRec.kind = 2 ∧ x = c.srcRec ∨ c.srcRec.kind ≠ 2 ∧ c.dstRec.kind = 2 ∧ x = c.dstRec) →
        answers (.pcieCompletionTimeout cmd) s fun t => (∀ d ∈ (t.core c.core).cmds, d.id ≠ c.id)
          ∧ (∀ l ∈ (t.core c.core).locks, l.cmd ≠ c.id)
          ∧ ∀ r, mget s.roles c.role = some r → ∃ r' d, mget t.roles c.role = some r' ∧ sameBytes s t
            ∧ r'.deferred = r.deferred ++ [d] ∧ d.cause = causePage ∧ d.batch = c.batch
            ∧ d.addr = BitVec.ofNat 64 x.base)

/-- The interface table, the save pool and the context commands (R364, R365, R387, R394, R400, R407, R433): a good word of
an interface's entry is stored, one that fails a condition sets VIERR and is not; clearing EN, and a Function Level Reset
with no migration in progress, disable every queue and ASID; the save pool moves only while no plot uses it; a context
command names a plot and roles, stops, marks or kills them, and completes once. -/
def Obligations.InterfaceTableAndContextCommands : Prop :=
  (∀ (vi k : Nat) (v : BitVec 64) (s : State), vi < 64 → k < 16 → (s.iface vi).entry.length = 16 →
    ((s.iface vi).tdi = .locked → (s.iface vi).entry.getD k 0 = v → exec (.vientryWrite vi k v) s = .next s)
    ∧ ((s.iface vi).tdi = .unlocked → ∀ i', i' = { s.iface vi with entry := (s.iface vi).entry.set k v } →
      (i'.en = true → (∀ c, s.entryFault vi i' = some c →
          exec (.vientryWrite vi k v) s = .next { s with vierr := BitVec.ofNat 64 (vi + 256 * c) })
        ∧ (s.entryFault vi i' = none → (s.iface vi).acount ≤ i'.acount → answers (.vientryWrite vi k v) s fun t =>
          Says.onlyIface vi [] s t ∧ t.iface vi = i'))
      ∧ (i'.en = false → (s.iface vi).en = false → answers (.vientryWrite vi k v) s fun t =>
        Says.onlyIface vi [] s t ∧ t.iface vi = i')
      ∧ (i'.en = false → (s.iface vi).en = true → (∀ x ∈ s.plots, x.2.vi ≠ vi) →
        answers (.vientryWrite vi k v) s fun t => (t.iface vi).entry = (s.iface vi).entry.set k v
          ∧ t.roles = s.roles ∧ sameBytes s t ∧ Says.disabled vi s t)))
  ∧ (∀ (vi : Nat) (s : State), vi < 64 →
    ((s.iface vi).migs ≠ [] → answers (.functionLevelReset vi) s fun t => Says.onlyIface vi [] s t
      ∧ t.iface vi = { s.iface vi with resetDue := true })
    ∧ ((s.iface vi).migs = [] → (∀ x ∈ s.plots, x.2.vi ≠ vi) → answers (.functionLevelReset vi) s fun t =>
      t.roles = s.roles ∧ sameBytes s t ∧ Says.disabled vi s t ∧ (t.iface vi).resetDue = false
      ∧ (t.iface vi).tdi = if (s.iface vi).tdi = .run then .error else (s.iface vi).tdi))
  ∧ (∀ (vi : Nat) (size : Bool) (v : BitVec 64) (s : State) (i' : Iface), vi < 64 → (s.iface vi).tdi = .unlocked →
    i' = (if size = true then { s.iface vi with saveSize := v &&& ~~~0xFFFF#64 }
      else { s.iface vi with saveBase := v &&& ~~~0xFFFF#64 }) →
    (((∃ x ∈ s.plots, x.2.vi = vi) ∨ (s.iface vi).physSize < i'.saveBase.toNat + i'.saveSize.toNat) →
      exec (.savepoolWrite vi size v) s = .next s)
    ∧ ((∀ x ∈ s.plots, x.2.vi ≠ vi) → i'.saveBase.toNat + i'.saveSize.toNat ≤ (s.iface vi).physSize →
      answers (.savepoolWrite vi size v) s fun t => Says.onlyIface vi [] s t ∧ t.iface vi = i'))
  ∧ ∀ (i : Instr) (v : BitVec 64) (n : BitVec 3) (s : State),
      (i = .ctxcmdPreempt v ∧ n = 1 ∨ i = .ctxcmdResume v ∧ n = 2 ∨ i = .ctxcmdKill v ∧ n = 3) →
      ((s.ctxBusy = true ∨ v.getLsbD 63 = false ∨ v.extractLsb' 60 3 ≠ n) → exec i s = .next s)
      ∧ (s.ctxBusy = false → v.getLsbD 63 = true → v.extractLsb' 60 3 = n →
        (s.namedPlot = none → exec i s = .next { s with
          ctxPartial := false, ctxNotFound := true, ctxDone := s.ctxDone + 1, out := s.out ++ [.msix 0 1] })
        ∧ ∀ plot, s.namedPlot = some plot →
          (i = .ctxcmdResume v → answers i s fun t => t.ctxDone = s.ctxDone + 1 ∧ t.ctxBusy = false
            ∧ (t.ctxNotFound = true ↔ s.namedRoles plot = [])
            ∧ ∀ k ∈ s.namedRoles plot, ∀ r, mget s.roles k = some r →
              mget t.roles k = some { r with preempted := false })
          ∧ (i = .ctxcmdPreempt v → ∀ core, s.namedRoles plot ≠ [] →
            (∀ k ∈ s.namedRoles plot, (s.role k).core = core ∧ (s.role k).status.isSaved = false) →
            answers i s fun t => t.ctxBusy = true ∧ t.ctxNotFound = false ∧ t.roles = s.roles ∧ ∃ whole,
              (t.core core).headland = (s.core core).headland ++ [⟨plot, s.namedRoles plot, whole, true, [], false⟩]
              ∧ (whole = true ↔ ∀ k ∈ s.plotRoles core (some plot), k ∈ s.namedRoles plot))
          ∧ (i = .ctxcmdKill v → ∀ p, mget s.plots plot = some p → p.killed = false →
            answers i s fun t => t.ctxDone = s.ctxDone + 1 ∧ t.ctxBusy = false ∧ t.ctxNotFound = false
              ∧ ∃ p', mget t.plots plot = some p' ∧ p'.killed = true ∧ p'.stopping = true))

/-! ## Worlds, sealed ranges, TDISP, measurements and telemetry (R410 to R439) -/

namespace Sys2Proof.Says

/-- Whether an address of an interface's device memory lies in the range of a sealed-range register (R419). -/
def inSealed (i : Iface) (v : BitVec 64) (a : Nat) : Prop :=
  v.getLsbD 63 = true ∧ i.physBase + (v.extractLsb' 26 26).toNat * 2 ^ 26 ≤ a
    ∧ a < i.physBase + (v.extractLsb' 26 26).toNat * 2 ^ 26 + (v.extractLsb' 12 14).toNat * 2 ^ 26

/-- The TDISP requests, with their interface and whether they may be made in ERROR (R432). -/
def tdispOf : Instr → Option (Nat × Bool)
  | .getTdispVersion vi _ => some (vi, false)
  | .getTdispCapabilities vi _ => some (vi, false)
  | .lockInterfaceRequest vi _ => some (vi, false)
  | .getDeviceInterfaceReport vi _ => some (vi, false)
  | .getDeviceInterfaceState vi _ => some (vi, true)
  | .startInterfaceRequest vi _ _ => some (vi, false)
  | .stopInterfaceRequest vi _ => some (vi, true)
  | _ => none

/-- No plot of an interface is there. -/
def noPlots (s : State) (vi : Nat) : Prop := ∀ x ∈ s.plots, x.2.vi ≠ vi

end Sys2Proof.Says

/-- Trust (R361, R410 to R413, R417, R419, R424, R431 to R434, R437 to R440): a cluster changes its world only when no
interface holds it, and what its cores held is gone; a sealed range that is good reads as zeros where it enters or leaves;
LOCK, START and STOP move an interface through its states and zero its memory; a measurement is extended by the digest,
unless it is one of the locked eight; a withheld telemetry item reads as zero and is logged. -/
def Obligations.TrustAndTelemetry : Prop :=
  ((∀ (v : BitVec 64) (s : State),
      ((v.getLsbD 63 = false ∨ s.worldBusy.isSome = true) → exec (.worldreq v) s = .next s)
      ∧ (v.getLsbD 63 = true → s.worldBusy = none →
        ((95 < (v.extractLsb' 0 7).toNat ∨ v.extractLsb' 13 50 ≠ 0 ∨ s.clusterHeld (v.extractLsb' 0 7).toNat = true) →
          exec (.worldreq v) s = .next { s with worldRefused := true })
        ∧ ((v.extractLsb' 0 7).toNat ≤ 95 → v.extractLsb' 13 50 = 0 → s.clusterHeld (v.extractLsb' 0 7).toNat = false →
          answers (.worldreq v) s fun t => t.roles = s.roles ∧ t.ram = s.ram ∧ t.worldRefused = false
            ∧ t.worldBusy = some ((v.extractLsb' 0 7).toNat, (v.extractLsb' 7 6).toNat) ∧ t.tlb2 = []
            ∧ mget t.worldMap (v.extractLsb' 0 7).toNat = some (v.extractLsb' 7 6).toNat
            ∧ (∀ c, c ≠ (v.extractLsb' 0 7).toNat → mget t.worldMap c = mget s.worldMap c)
            ∧ ∀ q, if q / 4 = (v.extractLsb' 0 7).toNat then t.core q = { s.core q with
                l1 := [], icache := [], tlb := [], victims := [], counters := [], tagTable := [], locks := [] }
              else t.core q = s.core q)))
    ∧ ∀ (s : State), (s.worldBusy = none → exec .handoverComplete s = .next s)
      ∧ ∀ c w, s.worldBusy = some (c, w) → s.meas.length = 16 → answers .handoverComplete s fun t =>
        t.roles = s.roles ∧ t.ram = s.ram ∧ t.worldBusy = none ∧ t.worldDone = s.worldDone + 1
        ∧ t.meas = s.meas.set 8 (BitVec.ofNat 256 (leNat (sm3 (leBytes 32 (s.meas.getD 8 0).toNat
          ++ sm3 (leBytes 8 (w * 2 ^ 32 + c))))))
        ∧ ∀ q, if q / 4 = c then (t.core q).scratch = [] ∧ (t.core q).scratchTags = [] ∧ (t.core q).xch0 = []
            ∧ (t.core q).xch1 = [] ∧ (t.core q).xchTags0 = [] ∧ (t.core q).xchTags1 = []
            ∧ (t.core q).sweeps = (s.core q).sweeps + 1
          else t.core q = s.core q)
  ∧ (∀ (vi k : Nat) (v : BitVec 64) (s : State), vi < 64 → k < 8 → (s.iface vi).tdi = .unlocked →
      (s.iface vi).sealedR.length = 8 →
      (s.sealedBad vi k v = true → exec (.sealedRangeWrite vi k v) s = .next { s with vierr := BitVec.ofNat 64 (vi + 1280) })
      ∧ (s.sealedBad vi k v = false → s.memOk = true → answers (.sealedRangeWrite vi k v) s fun t =>
        t.iface vi = { s.iface vi with sealedR := (s.iface vi).sealedR.set k v } ∧ t.roles = s.roles
        ∧ t.hostMem = s.hostMem ∧ ∀ a,
          ((Says.inSealed (s.iface vi) ((s.iface vi).sealedR.getD k 0) a ↔ Says.inSealed (s.iface vi) v a) →
            rdByte t.ram a = rdByte s.ram a)
          ∧ (¬(Says.inSealed (s.iface vi) ((s.iface vi).sealedR.getD k 0) a ↔ Says.inSealed (s.iface vi) v a) →
            rdByte t.ram a = 0)))
  ∧ ((∀ (i : Instr) (vi : Nat) (inError : Bool) (s : State), Says.tdispOf i = some (vi, inError) →
      ((64 ≤ vi ∨ s.bootStat ≠ 0) → exec i s = .next s)
      ∧ (vi < 64 → s.bootStat = 0 → (s.iface vi).tdi = .error → inError = false →
        answers i s (Says.onlySent [.tdisp vi false []] s)))
    ∧ ∀ (vi : Nat) (pf : Bool) (s : State), vi < 64 → s.bootStat = 0 →
      ((s.iface vi).tdi ≠ .error → ∀ i, (i = .getTdispVersion vi pf ∨ i = .getTdispCapabilities vi pf) →
        answers i s fun t => ∃ d, Says.onlySent [.tdisp vi true d] s t)
      ∧ ((s.iface vi).tdi ≠ .error → answers (.getDeviceInterfaceReport vi pf) s fun t => ∃ d,
        Says.onlySent [.tdisp vi true d] s t ∧ (∀ k, k < 16 → (s.iface vi).entry.length = 16 →
          leNat ((d.drop (8 * k)).take 8) = ((s.iface vi).entry.getD k 0).toNat))
      ∧ (answers (.getDeviceInterfaceState vi pf) s fun t => ∃ d, Says.onlySent [.tdisp vi true d] s t)
      ∧ ((pf = false ∨ (s.iface vi).tdi = .locked ∨ (s.iface vi).tdi = .run ∨ s.mayLock vi = false) →
        (s.iface vi).tdi ≠ .error → answers (.lockInterfaceRequest vi pf) s (Says.onlySent [.tdisp vi false []] s))
      ∧ (pf = true → (s.iface vi).tdi = .unlocked → s.mayLock vi = true → s.memOk = true →
        answers (.lockInterfaceRequest vi pf) s fun t => (t.iface vi).tdi = .locked
          ∧ t.out = s.out ++ [.tdisp vi true (leBytes 32 (t.iface vi).nonce.toNat)] ∧ t.roles = s.roles
          ∧ (∀ a, rdByte t.ram a = if (s.iface vi).physBase ≤ a ∧ a < (s.iface vi).physBase + (s.iface vi).physSize then 0
            else rdByte s.ram a)
          ∧ (s.iface vi).world ∈ t.rekeying
          ∧ mget t.epochs (s.iface vi).world = some (((mget s.epochs (s.iface vi).world).getD 0 + 1) % 65536))
      ∧ (∀ nonce, (s.iface vi).tdi ≠ .error → (pf = false ∨ (s.iface vi).tdi ≠ .locked) →
        answers (.startInterfaceRequest vi pf nonce) s (Says.onlySent [.tdisp vi false []] s))
      ∧ (∀ nonce, pf = true → (s.iface vi).tdi = .locked →
        (nonce = (s.iface vi).nonce → answers (.startInterfaceRequest vi pf nonce) s fun t =>
          Says.onlyIface vi [.tdisp vi true []] s t ∧ t.iface vi = { s.iface vi with tdi := .run, nonce := 0 })
        ∧ (nonce ≠ (s.iface vi).nonce → Says.noPlots s vi → answers (.startInterfaceRequest vi pf nonce) s fun t =>
          Says.onlyIface vi [.tdisp vi false []] s t ∧ t.iface vi = { s.iface vi with tdi := .error }))
      ∧ (pf = false → answers (.stopInterfaceRequest vi pf) s (Says.onlySent [.tdisp vi false []] s))
      ∧ (pf = true → (s.iface vi).tdi = .unlocked →
        answers (.stopInterfaceRequest vi pf) s (Says.onlySent [.tdisp vi true []] s))
      ∧ (pf = true → (s.iface vi).tdi ≠ .unlocked → Says.noPlots s vi → (s.iface vi).migs ≠ [] →
        answers (.stopInterfaceRequest vi pf) s fun t => Says.onlyIface vi [.tdisp vi true []] s t
          ∧ t.iface vi = { s.iface vi with stopDue := true })
      ∧ (pf = true → (s.iface vi).tdi ≠ .unlocked → Says.noPlots s vi → (s.iface vi).migs = [] →
        (s.iface vi).faultWait = [] → s.memOk = true → answers (.stopInterfaceRequest vi pf) s fun t =>
          (t.iface vi).tdi = .unlocked ∧ (t.iface vi).terms = none ∧ t.out = s.out ++ [.tdisp vi true []]
          ∧ t.roles = s.roles ∧ (s.iface vi).world ∈ t.rekeying
          ∧ ∀ a, rdByte t.ram a = if (s.iface vi).physBase ≤ a ∧ a < (s.iface vi).physBase + (s.iface vi).physSize then 0
            else rdByte s.ram a)
      ∧ (Says.noPlots s vi → (∀ c ∈ s.cores, c.2.cmds = []) → answers (.ideStreamInsecure vi) s fun t =>
        Says.onlyIface vi [] s t ∧ t.iface vi = { s.iface vi with
          ideSecure := false
          tdi := if (s.iface vi).tdi = .locked ∨ (s.iface vi).tdi = .run then .error else (s.iface vi).tdi })
      ∧ (answers (.ideKmRequest vi) s fun t =>
        Says.onlyIface vi [] s t ∧ t.iface vi = { s.iface vi with ideSecure := true })
      ∧ ∀ w, answers (.stateBlockRewriteDone w) s fun t => { t with rekeying := s.rekeying } = s
        ∧ ∀ x, x ∈ t.rekeying ↔ x ∈ s.rekeying ∧ x ≠ w)
  ∧ (∀ (i v : BitVec 32) (s : State), s.meas.length = 16 →
      (16 ≤ i.toNat → exec (.measExtend i) s = .next s)
      ∧ (i.toNat < 8 → s.lockboot = true → exec (.measExtend i) s = .next { s with mstat := true })
      ∧ (i.toNat < 16 → (s.lockboot = false ∨ 8 ≤ i.toNat) → exec (.measExtend i) s = .next { s with
        meas := s.meas.set i.toNat (BitVec.ofNat 256
          (leNat (sm3 (leBytes 32 (s.meas.getD i.toNat 0).toNat ++ leBytes 32 s.digest.toNat)))) })
      ∧ exec (.lockbootWrite v) s = .next (if v = 1 then { s with lockboot := true } else s))
  ∧ ∀ (requester : BitVec 16) (s : State) (sel : BitVec 32) (answer : Bytes → OutMsg), sel = s.telSel.setWidth 32 →
      answer = (if requester = 0 then OutMsg.readData 0 else OutMsg.mctp) →
      (s.bootStat ≠ 0 → answers (.teldataRead requester) s (Says.onlySent [.readData 0 (leBytes 8 0)] s))
      ∧ (s.bootStat = 0 →
        ((telKnown sel = false ∨ s.withholders sel = [] ∧ Config.hasItem sel = false) →
          answers (.teldataRead requester) s fun t => { t with telData := s.telData, telStat := s.telStat, out := s.out } = s
            ∧ t.telData = 0 ∧ t.telStat = 0xFF ∧ t.out = s.out ++ [answer (leBytes 8 0)])
        ∧ (telKnown sel = true → s.withholders sel = [] → Config.hasItem sel = true →
          answers (.teldataRead requester) s fun t =>
            { t with telData := s.telData, telStat := s.telStat, out := s.out, free := s.free } = s
            ∧ t.telStat = 0 ∧ t.out = s.out ++ [answer (leBytes 8 t.telData.toNat)])
        ∧ (telKnown sel = true → s.withholders sel ≠ [] → answers (.teldataRead requester) s fun t =>
            t.telData = 0 ∧ t.telStat = 0x1B ∧ t.out = s.out ++ [answer (leBytes 8 0)] ∧ t.roles = s.roles
            ∧ ∀ vi tm base, s.withholders sel = [vi] → (s.iface vi).terms = some tm → (s.iface vi).obsNew = none →
              base = (s.iface vi).physBase + tm.logOff → s.poison = [] → s.memOk = true →
              (t.iface vi).obsHead = (s.iface vi).obsHead + 1
              ∧ rdLE t.ram base 8 = ((s.iface vi).obsHead + 1) % 2 ^ 64
              ∧ rdLE t.ram (base + 64 + 32 * ((s.iface vi).obsHead % 2 ^ tm.log2)) 8 = s.clock % 2 ^ 64
              ∧ rdLE t.ram (base + 64 + 32 * ((s.iface vi).obsHead % 2 ^ tm.log2) + 8) 4 = sel.toNat
              ∧ rdLE t.ram (base + 64 + 32 * ((s.iface vi).obsHead % 2 ^ tm.log2) + 12) 4 = requester.toNat))

/-! ## The mailboxes and the SPDM responders (R425 to R430, R442) -/

namespace Sys2Proof.Says

/-- The SPDM requests: function, request code, response code, message (R428). -/
def spdmOf : Instr → Option (Nat × Nat × Byte × Bytes)
  | .getVersion fn m => some (fn, 0x84, 0x04, m)
  | .getCapabilities fn m => some (fn, 0xE1, 0x61, m)
  | .negotiateAlgorithms fn m => some (fn, 0xE3, 0x63, m)
  | .getDigests fn m => some (fn, 0x81, 0x01, m)
  | .getCertificate fn m => some (fn, 0x82, 0x02, m)
  | .challenge fn m => some (fn, 0x83, 0x03, m)
  | .getMeasurements fn m => some (fn, 0xE0, 0x60, m)
  | .keyExchange fn m => some (fn, 0xE4, 0x64, m)
  | _ => none

/-- The state in which a request is expected, when there is one, and the state after it (R428). -/
def spdmStates : Nat → Option SpdmState × Option SpdmState
  | 0x84 => (none, some .afterVersion)
  | 0xE1 => (some .afterVersion, some .afterCaps)
  | 0xE3 => (some .afterCaps, some .negotiated)
  | _ => (some .negotiated, none)

/-- Only a function's responder has changed, with what was sent and the free values used. -/
def onlyResponder (fn : Nat) (s t : State) : Prop :=
  { t with responders := s.responders, out := s.out, free := s.free } = s ∧ ∀ f, f ≠ fn → t.responder f = s.responder f

end Sys2Proof.Says

/-- Mailboxes and SPDM (R425, R426, R428, R430, R442): a data object that is too long, of no type, or that comes while one
is with Hyaluo is turned away, and another reaches the window with its length; a good RSPLEN sends the response and frees
the mailbox; an abort does so without one. The first row that a request matches decides: version, support, form, state;
an answered one moves the state and enters the transcript with its response. Telemetry terms are set only for an unlocked
interface in a secured session. The bytes of bodies that the spec leaves open are free (log entries 17, 20). -/
def Obligations.MailboxesAndResponders : Prop :=
  (∀ (fn typ : Nat) (data : Bytes) (s : State),
    ((65 ≤ fn ∨ s.bootStat ≠ 0) → exec (.doeRequestArrive fn typ data) s = .next s)
    ∧ (fn < 65 → s.bootStat = 0 →
      (32768 < data.length → answers (.doeRequestArrive fn typ data) s (Says.onlySent [.doeError fn] s))
      ∧ (data.length ≤ 32768 →
        ((s.responder fn).reqLen ≠ 0 → answers (.doeRequestArrive fn typ data) s (Says.onlySent [.doeBusy fn] s))
        ∧ ((s.responder fn).reqLen = 0 →
          (typ = 0 → answers (.doeRequestArrive fn typ data) s fun t => ∃ d, Says.onlySent [.doe fn d] s t)
          ∧ ((typ = 1 ∨ typ = 2) → s.memOk = true → answers (.doeRequestArrive fn typ data) s fun t =>
            { t with responders := s.responders, hy := s.hy } = s
            ∧ t.responder fn = { s.responder fn with reqLen := BitVec.ofNat 32 data.length }
            ∧ (∀ f, f ≠ fn → t.responder f = s.responder f)
            ∧ Says.wrote s.hy t.hy (0x400000000 + 0x10000 * fn) data)
          ∧ (2 < typ → answers (.doeRequestArrive fn typ data) s (Says.onlySent [.doeError fn] s))))))
  ∧ (∀ (fn : Nat) (v : BitVec 32) (s : State), fn < 65 →
    ((v.toNat % 4 ≠ 0 ∨ v.toNat < 8 ∨ 28672 < v.toNat) → exec (.rsplenWrite fn v) s = .next s)
    ∧ (v.toNat % 4 = 0 → 8 ≤ v.toNat → v.toNat ≤ 28672 →
      answers (.rsplenWrite fn v) s fun t => Says.onlyResponder fn s t ∧ if (s.responder fn).aborted = true then
          t.responder fn = { s.responder fn with rspLen := v } ∧ t.out = s.out
        else t.responder fn = { s.responder fn with rspLen := v, reqLen := 0 }
          ∧ t.out = s.out ++ [.doe fn (rdBytes s.hy (0x400000000 + 0x10000 * fn + 0x8000) v.toNat)])
    ∧ answers (.doeAbort fn) s fun t => Says.onlyResponder fn s t ∧ t.out = s.out
      ∧ t.responder fn = { s.responder fn with aborted := true, reqLen := 0 })
  ∧ (∀ (i : Instr) (fn code : Nat) (rsp : Byte) (m : Bytes) (s : State), Says.spdmOf i = some (fn, code, rsp, m) →
    ((65 ≤ fn ∨ s.bootStat ≠ 0) → exec i s = .next s)
    ∧ (fn < 65 → s.bootStat = 0 → msgByte m 1 = code →
      (m.getD 0 0 ≠ (if code = 0x84 then 0x10 else 0x12) → m.getD 0 0 ≠ 0x12 →
        answers i s (Says.onlySent [.spdm fn [0x12, 0x7F, 0x41, 0]] s))
      ∧ (m.getD 0 0 = (if code = 0x84 then 0x10 else 0x12) →
        (wellFormedReq code m = false → answers i s (Says.onlySent [.spdm fn [0x12, 0x7F, 0x01, 0]] s))
        ∧ (wellFormedReq code m = true →
          ((∃ x, (Says.spdmStates code).1 = some x ∧ x ≠ (s.responder fn).state) →
            answers i s (Says.onlySent [.spdm fn [0x12, 0x7F, 0x04, 0]] s))
          ∧ ((∀ x, (Says.spdmStates code).1 = some x → x = (s.responder fn).state) →
            answers i s fun t => Says.onlyResponder fn s t ∧ ∃ body, t.out = s.out ++ [.spdm fn body]
              ∧ body.getD 0 0 = (if code = 0x84 then 0x10 else 0x12) ∧ body.getD 1 0 = rsp
              ∧ (t.responder fn).state = (Says.spdmStates code).2.getD (s.responder fn).state
              ∧ (code = 0x84 → (t.responder fn).transcript = m.take 4 ++ body)
              ∧ (code = 0xE1 → (t.responder fn).transcript = (s.responder fn).transcript ++ m.take 20 ++ body)
              ∧ (code = 0xE3 → (t.responder fn).transcript = (s.responder fn).transcript ++ m.take 48 ++ body
                ∧ (t.responder fn).a = (t.responder fn).transcript.length)
              ∧ (code = 0x82 → (t.responder fn).transcript = (s.responder fn).transcript ++ m.take 8 ++ body
                ∧ leNat ((body.drop 4).take 2) ≤ 1024)
              ∧ (code = 0xE0 → (t.responder fn).transcript.length ≤ (s.responder fn).a)
              ∧ (code = 0xE4 → (t.responder fn).sessions = min 4 ((s.responder fn).sessions + 1)))))))
  ∧ (∀ (i : Instr) (fn code : Nat) (rsp : Byte) (m : Bytes) (s : State), Says.spdmOf i = some (fn, code, rsp, m) →
    fn < 65 → s.bootStat = 0 → msgByte m 0 = 0x12 → msgByte m 1 ∉ supportedCodes → msgByte m 1 ∉ sessionCodes →
    answers i s (Says.onlySent [.spdm fn [0x12, 0x7F, 0x07, BitVec.ofNat 8 (msgByte m 1)]] s))
  ∧ ∀ (fn : Nat) (secured : Bool) (m : Bytes) (s : State),
      ((65 ≤ fn ∨ s.bootStat ≠ 0) → exec (.setObservation fn secured m) s = .next s)
      ∧ (fn < 65 → s.bootStat = 0 →
        (secured = false → answers (.setObservation fn secured m) s fun t => ∃ d,
          { t with out := s.out, free := s.free } = s ∧ t.out = s.out ++ [.spdm fn d])
        ∧ (secured = true →
          ((fn = 0 ∨ (s.iface (fn - 1)).tdi ≠ .unlocked ∨ (s.iface (fn - 1)).termsOf m = none) →
            answers (.setObservation fn secured m) s (Says.onlySent [.spdm fn [0x12, 0x7F, 0x01, 0]] s))
          ∧ ∀ tm, fn ≠ 0 → (s.iface (fn - 1)).tdi = .unlocked → (s.iface (fn - 1)).termsOf m = some tm →
            answers (.setObservation fn secured m) s fun t => Says.onlyIface (fn - 1) [.spdm fn [0x12, 0x7E, 0, 0]] s t
              ∧ t.iface (fn - 1) = { s.iface (fn - 1) with terms := some tm, obsHead := 0, obsNew := none }
              ∧ tm.allow.toNat = (m.getD 4 0).toNat + 256 * (m.getD 5 0).toNat ∧ tm.log2 = (m.getD 6 0).toNat
              ∧ 4 ≤ tm.log2 ∧ tm.log2 ≤ 16 ∧ tm.logOff = leNat ((m.drop 8).take 8) ∧ tm.logOff % 4096 = 0))

/-! ## The management path, lifetime records and the whole package (R327 to R330, R342, R349, R425, R444 to R461) -/

namespace Sys2Proof.Says

/-- The response to a management command: its tag repeated, a completion code, a payload (R444). -/
def reply (cmd : Nat) (tag : BitVec 16) (code : Nat) (data : Bytes) : OutMsg :=
  .mctp ([0, 0, 0, BitVec.ofNat 8 (cmd ||| 0x80)] ++ leBytes 2 tag.toNat ++ [BitVec.ofNat 8 code, 0] ++ data)

/-- The management commands: number, secured session, tag, message (R445). -/
def fleetOf : Instr → Option (Nat × Bool × BitVec 16 × Bytes)
  | .setrank sec tag m => some (1, sec, tag, m)
  | .setpod sec tag m => some (2, sec, tag, m)
  | .setpath sec tag m => some (3, sec, tag, m)
  | .setcam sec tag m => some (4, sec, tag, m)
  | .setmember sec tag m => some (5, sec, tag, m)
  | .jobset sec tag m => some (6, sec, tag, m)
  | .roster sec tag m => some (7, sec, tag, m)
  | .logtail sec tag m => some (8, sec, tag, m)
  | .loginfo sec tag m => some (9, sec, tag, m)
  | _ => none

/-- The exact length of a payload, for the commands that have one (R445). -/
def payloadLen : Nat → Option Nat
  | 1 => some 4 | 2 => some 18 | 3 => some 3 | 4 => some 26 | 5 => some 20 | 8 => some 12 | 9 => some 4
  | _ => none

/-- A command whose message is `h` and a payload arrives in a secured session outside recovery. -/
def commanded (i : Instr) (n : Nat) (tag : BitVec 16) (p : Bytes) (s : State) : Prop :=
  ∃ h : Bytes, h.length = 8 ∧ fleetOf i = some (n, true, tag, h ++ p) ∧ s.bootStat = 0

/-- A lifetime count has risen by one, and nothing else of the records has changed (R454). -/
def counted (block i : Nat) (s t : State) : Prop :=
  t.life.stored = s.life.stored
  ∧ mget t.life.live (block * 65536 + i) = some ((mget s.life.live (block * 65536 + i)).getD 0 + 1)
  ∧ ∀ k, k ≠ block * 65536 + i → mget t.life.live k = mget s.life.live k

/-- The counts of a block, and the bytes of each (R454). -/
def lifeSize : Nat → Nat × Nat
  | 0 => (40, 8) | 1 => (24576, 4) | 2 => (49152, 8) | 3 => (24576, 8) | 4 => (12288, 8) | 5 => (296, 8) | 6 => (32, 8)
  | _ => (0, 8)

/-- Nothing that the device has sent to another rank is unanswered: no packet, no contribution and no FENCEX (R330). -/
def nothingOut (s : State) : Prop :=
  s.outPkts = [] ∧ s.outContribs = [] ∧ (∀ c ∈ s.cores, ∀ d ∈ c.2.cmds, d.kind ≠ .fencex)
  ∧ ∀ x ∈ s.saved, ∀ d ∈ x.2.cmds, d.kind ≠ .fencex

end Sys2Proof.Says

/-- Management commands (R327 to R330, R347, R349, R425, R444 to R448): in recovery none is answered, outside a secured
session none is authorised, a payload of another length is malformed; the rank, pod, path, CAM and member tables take
what a good command brings, unless the device's state refuses it; a job is bound with a zeroed ring under its header; a
roster version is applied next, buffered ahead, or refused; LOGTAIL advances TAIL inside the ring, LOGINFO reads its
header. -/
def Obligations.ManagementCommands : Prop :=
  (∀ (i : Instr) (n : Nat) (sec : Bool) (tag : BitVec 16) (m : Bytes) (s : State),
    Says.fleetOf i = some (n, sec, tag, m) →
    (s.bootStat ≠ 0 → exec i s = .next s)
    ∧ (s.bootStat = 0 → sec = false → answers i s (Says.onlySent [Says.reply n tag 3 []] s))
    ∧ (s.bootStat = 0 → sec = true → (m.length < 8 ∨ ∃ k, Says.payloadLen n = some k ∧ m.length ≠ 8 + k) →
      answers i s (Says.onlySent [Says.reply n tag 2 []] s)))
  ∧ (∀ (i : Instr) (tag : BitVec 16) (s : State) (rank : BitVec 18), Says.commanded i 1 tag (leBytes 4 rank.toNat) s →
    if s.plots = [] ∧ s.saved = [] then answers i s fun t => { t with rank := s.rank, out := s.out } = s ∧ t.rank = rank
      ∧ t.out = s.out ++ [Says.reply 1 tag 0 []]
    else answers i s (Says.onlySent [Says.reply 1 tag 1 []] s))
  ∧ (∀ (i : Instr) (tag : BitVec 16) (s : State) (pod : BitVec 9) (e : BitVec 128), Says.nothingOut s →
    Says.commanded i 2 tag (leBytes 2 pod.toNat ++ leBytes 16 e.toNat) s →
    if e.extractLsb' 10 6 = 0 ∧ e.extractLsb' 0 8 = 0 ∧ (e.extractLsb' 8 2 = 2 → e.extractLsb' 64 13 = 0) then
      answers i s fun t => { t with pods := s.pods, out := s.out } = s ∧ mget t.pods pod.toNat = some e
        ∧ (∀ p, p ≠ pod.toNat → mget t.pods p = mget s.pods p) ∧ t.out = s.out ++ [Says.reply 2 tag 0 []]
    else answers i s (Says.onlySent [Says.reply 2 tag 2 []] s))
  ∧ (∀ (i : Instr) (tag : BitVec 16) (s : State) (path : BitVec 4) (e : BitVec 16), Says.nothingOut s →
    Says.commanded i 3 tag (leBytes 1 path.toNat ++ leBytes 2 e.toNat) s →
    answers i s fun t => { t with paths := s.paths, out := s.out } = s ∧ mget t.paths path.toNat = some e
      ∧ (∀ p, p ≠ path.toNat → mget t.paths p = mget s.paths p) ∧ t.out = s.out ++ [Says.reply 3 tag 0 []])
  ∧ (∀ (i : Instr) (tag : BitVec 16) (s : State) (slot : BitVec 11) (valid : Bool) (rank : BitVec 18) (e : BitVec 160),
    Says.nothingOut s → e.extractLsb' 0 26 = 0 →
    Says.commanded i 4 tag (leBytes 2 slot.toNat ++ leBytes 4 (valid.toNat * 2 ^ 18 + rank.toNat) ++ leBytes 20 e.toNat) s →
    if valid = true ∧ rank = s.rank then answers i s (Says.onlySent [Says.reply 4 tag 1 []] s)
    else answers i s fun t => { t with cam := s.cam, out := s.out } = s ∧ mget t.cam slot.toNat = some ⟨valid, rank, e⟩
      ∧ (∀ k, k ≠ slot.toNat → mget t.cam k = mget s.cam k) ∧ t.out = s.out ++ [Says.reply 4 tag 0 []])
  ∧ (∀ (i : Instr) (tag : BitVec 16) (s : State) (pod member : BitVec 9) (addr e : Bytes), addr.length = 16 →
    Says.nothingOut s → s.poison = [] → s.memOk = true → e = leBytes 2 pod.toNat ++ leBytes 2 member.toNat ++ addr →
    Says.commanded i 5 tag e s →
    ∀ w : BitVec 128, w = (mget s.pods pod.toNat).getD 0 →
    if w.extractLsb' 8 2 = 2 then answers i s fun t => { t with ram := s.ram, watch := s.watch, out := s.out } = s
        ∧ Says.wrote s.ram t.ram ((w.extractLsb' 64 64).toNat + 16 * member.toNat) addr
        ∧ t.out = s.out ++ [Says.reply 5 tag 0 []]
    else answers i s (Says.onlySent [Says.reply 5 tag 1 []] s))
  ∧ ((∀ (i : Instr) (tag : BitVec 16) (p : Bytes) (s : State) (v : Nat), Says.commanded i 6 tag p s → v = payload p 4 2 →
      (s.jobHeaderBad p = true → answers i s (Says.onlySent [Says.reply 6 tag 2 []] s))
      ∧ (s.jobHeaderBad p = false → payload p 6 2 % 2 ^ 15 = 0 →
        ((∃ x ∈ s.plots, x.2.vi = v) → answers i s (Says.onlySent [Says.reply 6 tag 1 []] s))
        ∧ (Says.noPlots s v →
          ((p.getD 7 0).toNat < 128 → answers i s fun t => Says.onlyIface v [Says.reply 6 tag 0 []] s t
            ∧ t.iface v = { s.iface v with jobFrags := [p] })
          ∧ (128 ≤ (p.getD 7 0).toNat → rosterFrom (payload p 56 4) (p.drop 60) = none →
            answers i s (Says.onlySent [Says.reply 6 tag 2 []] s))
          ∧ ∀ r, 128 ≤ (p.getD 7 0).toNat → rosterFrom (payload p 56 4) (p.drop 60) = some r → s.poison = [] →
            s.memOk = true → answers i s fun t => t.roles = s.roles ∧ t.out = s.out ++ [Says.reply 6 tag 0 []]
              ∧ (t.iface v).jobFrags = [] ∧ (∃ j, (t.iface v).job = some j ∧ j.id.toNat = payload p 0 4 ∧ j.roster = r
                ∧ j.slots = payload p 16 8 ∧ j.ring = payload p 8 8)
              ∧ ∀ ring, ring = (s.iface v).physBase + payload p 8 8 →
                rdLE t.ram ring 8 = 1 ∧ rdLE t.ram (ring + 8) 8 = 1 ∧ rdLE t.ram (ring + 16) 8 = 0
                ∧ rdLE t.ram (ring + 24) 8 = payload p 16 8 ∧ rdBytes t.ram (ring + 32) 32 = (p.drop 24).take 32
                ∧ (∀ a, ring + 64 ≤ a → a < ring + 64 + 32896 * payload p 16 8 → rdByte t.ram a = 0)
                ∧ ∀ a, (a < ring ∨ ring + 64 + 32896 * payload p 16 8 ≤ a) → rdByte t.ram a = rdByte s.ram a)))
    ∧ (∀ (i : Instr) (tag : BitVec 16) (s : State) (job version : BitVec 32) (es : Bytes) (e : RosterEntry),
      es.length = 16 → rosterEntryBad es = false → rosterEntry es = e →
      Says.commanded i 7 tag (leBytes 4 job.toNat ++ leBytes 4 version.toNat ++ leBytes 2 1 ++ es) s →
      (s.jobNo job = none → answers i s (Says.onlySent [Says.reply 7 tag 1 []] s))
      ∧ ∀ vi j, s.jobNo job = some (vi, j) →
        (version.toNat ≤ j.roster.version.toNat → answers i s (Says.onlySent [Says.reply 7 tag 0 []] s))
        ∧ (j.roster.version.toNat + 16 < version.toNat → answers i s (Says.onlySent [Says.reply 7 tag 4 []] s))
        ∧ (j.roster.version.toNat + 1 < version.toNat → version.toNat ≤ j.roster.version.toNat + 16 →
          answers i s fun t => Says.onlyIface vi [] s t ∧ ∃ j', (t.iface vi).job = some j'
            ∧ { j' with buffered := j.buffered } = j
            ∧ mget j'.buffered version.toNat = some ((mget j.buffered version.toNat).getD [] ++ [(es, tag)]))
        ∧ (version.toNat = j.roster.version.toNat + 1 →
          (j.roster.refuses [e] = true → answers i s (Says.onlySent [Says.reply 7 tag 1 []] s))
          ∧ (j.roster.refuses [e] = false → (mget j.roster.comms 0).isSome = true → s.waitPkts = [] →
            answers i s fun t => t.roles = s.roles ∧ t.ram = s.ram ∧ t.out = s.out ++ [Says.reply 7 tag 0 []]
              ∧ ∃ j', (t.iface vi).job = some j' ∧ j'.id = j.id ∧ j'.roster.version = j.roster.version + 1
                ∧ j'.roster.has 0 e.rank = e.isAdmit)))
    ∧ ∀ (vi : Nat) (s : State),
      ((s.iface vi).job = none → exec (.rosterBufferedApply vi) s = .next s)
      ∧ ∀ j, (s.iface vi).job = some j →
        (mget j.buffered (j.roster.version.toNat + 1) = none → exec (.rosterBufferedApply vi) s = .next s)
        ∧ ∀ es tag, mget j.buffered (j.roster.version.toNat + 1) = some [(es, tag)] →
          (j.roster.refuses (rosterEntries es) = true → answers (.rosterBufferedApply vi) s fun t =>
            Says.onlyIface vi [Says.reply 7 tag 1 []] s t ∧ ∃ j', (t.iface vi).job = some j'
              ∧ j'.roster = j.roster ∧ mget j'.buffered (j.roster.version.toNat + 1) = none)
          ∧ (j.roster.refuses (rosterEntries es) = false → s.waitPkts = [] →
            answers (.rosterBufferedApply vi) s fun t => t.roles = s.roles ∧ t.ram = s.ram
              ∧ t.out = s.out ++ [Says.reply 7 tag 0 []] ∧ ∃ j', (t.iface vi).job = some j'
                ∧ j'.roster.version = j.roster.version + 1
                ∧ mget j'.buffered (j.roster.version.toNat + 1) = none))
  ∧ ∀ (i : Instr) (tag : BitVec 16) (s : State) (job : BitVec 32) (tail : BitVec 64),
      (Says.commanded i 8 tag (leBytes 4 job.toNat ++ leBytes 8 tail.toNat) s →
        (s.jobNo job = none → answers i s (Says.onlySent [Says.reply 8 tag 1 []] s))
        ∧ ∀ vi j ring, s.jobNo job = some (vi, j) → ring = (s.iface vi).physBase + j.ring → s.poison = [] →
          s.memOk = true →
          ((tail.toNat < rdLE s.ram (ring + 8) 8 ∨ rdLE s.ram ring 8 < tail.toNat) →
            answers i s (Says.onlySent [Says.reply 8 tag 1 []] s))
          ∧ (rdLE s.ram (ring + 8) 8 ≤ tail.toNat → tail.toNat ≤ rdLE s.ram ring 8 → answers i s fun t =>
            { t with ram := s.ram, watch := s.watch, ifaces := s.ifaces, out := s.out } = s
            ∧ Says.wrote s.ram t.ram (ring + 8) (leBytes 8 tail.toNat)
            ∧ t.out = s.out ++ [Says.reply 8 tag 0 (if tail.toNat = rdLE s.ram (ring + 8) 8 then j.tailHash
              else rdBytes s.ram (ring + 64 + 32896 * ((tail.toNat - 1) % j.slots) + 96) 32)]))
      ∧ (Says.commanded i 9 tag (leBytes 4 job.toNat) s →
        (s.jobNo job = none → answers i s (Says.onlySent [Says.reply 9 tag 1 []] s))
        ∧ ∀ vi j, s.jobNo job = some (vi, j) → s.poison = [] → answers i s (Says.onlySent
          [Says.reply 9 tag 0 (rdBytes s.ram ((s.iface vi).physBase + j.ring) 64)] s))

/-- Lifetime records and the whole package (R425, R454 to R457, R461): a block reads its saturated counts, 1,024 bytes at
most; a flush stores what is live and changes no count; a reset leaves Hyaluo's ROM and flash, the records and what is
outside, everything else as at reset; a trip, an orderly power-down and a loss of power take the package away, the loss
with its live counts; throttling changes no state but itself; a retrained link is counted. -/
def Obligations.LifetimeAndPackage : Prop :=
  (∀ (block off : Nat) (s : State),
    ((Says.lifeSize block).1 ≤ off → answers (.getLifetimeBlock block off) s (Says.onlySent [.pldm 1 [2]] s))
    ∧ (off < (Says.lifeSize block).1 → answers (.getLifetimeBlock block off) s fun t => ∃ bs,
      Says.onlySent [.pldm 1 (0 :: bs)] s t ∧ bs.length = min 1024 ((Says.lifeSize block).1 - off)
      ∧ ∀ k w n, k < bs.length → w = (Says.lifeSize block).2 → n = (off + k) / w →
        (bs.getD k 0).toNat = min ((mget s.life.stored (block * 65536 + n)).getD 0
          + (mget s.life.live (block * 65536 + n)).getD 0) (2 ^ (8 * w) - 1) / 256 ^ ((off + k) % w) % 256))
  ∧ (∀ (i : Instr) (s : State), (i = .lifetimeFlush ∨ i = .orderlyPowerDown) →
    answers i s fun t => { t with life := s.life, lost := s.lost } = s ∧ t.life.live = []
      ∧ (t.lost = true ↔ s.lost = true ∨ i = .orderlyPowerDown)
      ∧ ∀ block n, n < 65536 → (t.lifeCount block n = s.lifeCount block n))
  ∧ (∀ s : State, s.memOk = true → answers .packageReset s fun t => t.roles = State.reset.roles ∧ t.cores = State.reset.cores
      ∧ t.teams = State.reset.teams ∧ t.plots = [] ∧ t.ifaces = [] ∧ t.queues = [] ∧ t.ops = [] ∧ t.ram = []
      ∧ t.regions = [] ∧ t.clock = 0 ∧ t.bootStat = 0 ∧ t.meas = List.replicate 16 0 ∧ t.worldMap = [] ∧ t.rank = 0
      ∧ t.lost = false ∧ t.throttled = false ∧ t.hostMem = s.hostMem ∧ t.out = s.out
      ∧ (∀ a, rdByte t.hy a = if a < 0x40000 ∨ 0x200000000 ≤ a ∧ a < 0x204000000 then rdByte s.hy a else 0)
      ∧ Says.counted 0 1 s t)
  ∧ (∀ s : State, (exec .thermalThrottle s = .next { s with throttled := true })
      ∧ (exec .throttleEnd s = .next { s with throttled := false })
      ∧ (answers .thermalTrip s fun t => { t with life := s.life, lost := s.lost } = s ∧ t.lost = true
        ∧ Says.counted 0 4 s t)
      ∧ answers .powerLoss s fun t => { t with life := s.life, lost := s.lost } = s ∧ t.lost = true
        ∧ t.life.stored = s.life.stored ∧ t.life.live = [])
  ∧ ∀ (link : Nat) (s : State), (37 ≤ link → exec (.linkRetrain link) s = .next s)
      ∧ (link < 37 → answers (.linkRetrain link) s fun t => { t with life := s.life, out := s.out } = s
        ∧ Says.counted 5 link s t ∧ t.out = s.out ++ [.linkRetrained link])
end

