-- ==== Sys2Proof/Laws/AMap.lean ====
section
/-! SUPPORT. Laws of finite maps and of byte memory: reading after a write, and the canonical form kept by every write. -/

namespace Sys2Proof.Machine

/-! ## Reading after a write -/

@[simp] theorem mget_mset_self {α : Type} (m : AMap α) (i : Nat) (x : α) : mget (mset m i x) i = some x := by
  induction m with
  | nil => simp [mset, mget]
  | cons p m ih =>
    obtain ⟨k, v⟩ := p
    simp only [mset]
    split
    · simp [mget]
    · split
      · simp [mget]
      · simp [mget, *]

theorem mget_mset_ne {α : Type} (m : AMap α) (i j : Nat) (x : α) (h : j ≠ i) : mget (mset m i x) j = mget m j := by
  induction m with
  | nil => simp [mset, mget, h]
  | cons p m ih =>
    obtain ⟨k, v⟩ := p
    simp only [mset]
    split
    · subst_vars
      simp only [mget, h, if_false]
    · split
      · simp only [mget, h, if_false]
        split
        · have : ¬ j = k := by omega
          have : j < k := by omega
          simp [*]
        · rfl
      · simp only [mget, ih]

theorem mget_mset {α : Type} (m : AMap α) (i j : Nat) (x : α) :
    mget (mset m i x) j = if j = i then some x else mget m j := by
  split
  · subst_vars; simp
  · exact mget_mset_ne m i j x ‹_›

/-! ## Rising keys -/

theorem sortedFrom_cons {α : Type} (lo : Option Nat) (k : Nat) (v : α) (m : AMap α) :
    sortedFrom lo ((k, v) :: m) = true ↔ (∀ x, lo = some x → x < k) ∧ sortedFrom (some k) m = true := by
  cases lo <;> simp [sortedFrom]

theorem sortedFrom_weaken {α : Type} (lo k : Nat) (m : AMap α) (h : lo ≤ k) (hs : sortedFrom (some k) m = true) :
    sortedFrom (some lo) m = true := by
  cases m with
  | nil => simp [sortedFrom]
  | cons p m =>
    obtain ⟨a, v⟩ := p
    simp only [sortedFrom, Bool.and_eq_true, decide_eq_true_eq] at hs ⊢
    exact ⟨by omega, hs.2⟩

theorem sortedFrom_of_some {α : Type} (k : Nat) (m : AMap α) (hs : sortedFrom (some k) m = true) :
    sortedFrom none m = true := by
  cases m with
  | nil => simp [sortedFrom]
  | cons p m =>
    obtain ⟨a, v⟩ := p
    simp only [sortedFrom, Bool.and_eq_true, decide_eq_true_eq] at hs ⊢
    exact hs.2

theorem sortedFrom_mset {α : Type} (m : AMap α) (lo : Option Nat) (i : Nat) (x : α)
    (hi : ∀ y, lo = some y → y < i) (hs : sortedFrom lo m = true) : sortedFrom lo (mset m i x) = true := by
  induction m generalizing lo with
  | nil => rw [mset, sortedFrom_cons]; exact ⟨hi, by simp [sortedFrom]⟩
  | cons p m ih =>
    obtain ⟨k, v⟩ := p
    rw [sortedFrom_cons] at hs
    simp only [mset]
    split
    · subst_vars; rw [sortedFrom_cons]; exact ⟨hi, hs.2⟩
    · split
      · rw [sortedFrom_cons]
        exact ⟨hi, by rw [sortedFrom_cons]; exact ⟨by intro y hy; cases hy; assumption, hs.2⟩⟩
      · rw [sortedFrom_cons]
        exact ⟨hs.1, ih (some k) (by intro y hy; cases hy; omega) hs.2⟩

theorem sortedFrom_filter {α : Type} (m : AMap α) (lo : Option Nat) (f : Nat × α → Bool)
    (hs : sortedFrom lo m = true) : sortedFrom lo (m.filter f) = true := by
  induction m generalizing lo with
  | nil => simpa using hs
  | cons p m ih =>
    obtain ⟨k, v⟩ := p
    rw [sortedFrom_cons] at hs
    simp only [List.filter_cons]
    split
    · rw [sortedFrom_cons]; exact ⟨hs.1, ih (some k) hs.2⟩
    · apply ih
      cases lo with
      | none => exact sortedFrom_of_some k m hs.2
      | some y => exact sortedFrom_weaken y k m (by have := hs.1 y rfl; omega) hs.2

theorem sortedFrom_mdel {α : Type} (m : AMap α) (lo : Option Nat) (i : Nat) (hs : sortedFrom lo m = true) :
    sortedFrom lo (mdel m i) = true := sortedFrom_filter m lo _ hs

theorem sortedFrom_not_mem {α : Type} (m : AMap α) (lo : Option Nat) (i : Nat) (hs : sortedFrom lo m = true)
    (hi : ∃ y, lo = some y ∧ i ≤ y) : mget m i = none := by
  induction m generalizing lo with
  | nil => simp [mget]
  | cons p m ih =>
    obtain ⟨k, v⟩ := p
    rw [sortedFrom_cons] at hs
    obtain ⟨y, rfl, h⟩ := hi
    have := hs.1 y rfl
    simp only [mget]
    rw [if_neg (by omega), if_pos (by omega)]

theorem mget_mdel_self {α : Type} (m : AMap α) (i : Nat) : mget (mdel m i) i = none := by
  induction m with
  | nil => simp [mdel, mget]
  | cons p m ih =>
    obtain ⟨k, v⟩ := p
    by_cases h : k = i
    · subst h; simpa [mdel] using ih
    · have hk : (k != i) = true := by simpa using h
      simp only [mdel, List.filter_cons, hk, if_true, mget]
      rw [if_neg (fun e => h e.symm)]
      split
      · rfl
      · exact ih

theorem mget_mdel {α : Type} (m : AMap α) (lo : Option Nat) (i j : Nat) (hs : sortedFrom lo m = true) :
    mget (mdel m i) j = if j = i then none else mget m j := by
  by_cases hj : j = i
  · subst hj; simp [mget_mdel_self]
  rw [if_neg hj]
  induction m generalizing lo with
  | nil => simp [mdel, mget]
  | cons p m ih =>
    obtain ⟨k, v⟩ := p
    rw [sortedFrom_cons] at hs
    have gone (h : j < k) : mget (mdel m i) j = none :=
      sortedFrom_not_mem (mdel m i) (some k) j (sortedFrom_mdel m (some k) i hs.2) ⟨k, rfl, by omega⟩
    have ih := ih (some k) hs.2
    by_cases h : k = i
    · subst h
      have he : mdel ((k, v) :: m) k = mdel m k := by simp [mdel]
      rw [he]
      simp only [mget, if_neg hj]
      split
      · exact gone (by assumption)
      · exact ih
    · have he : mdel ((k, v) :: m) i = (k, v) :: mdel m i := by simp [mdel, h]
      rw [he]
      simp only [mget]
      rw [ih]

/-! ## Values -/

theorem all_mset {α : Type} (m : AMap α) (i : Nat) (x : α) (f : Nat × α → Bool) (hx : f (i, x) = true)
    (h : m.all f = true) : (mset m i x).all f = true := by
  induction m with
  | nil => simpa [mset] using hx
  | cons p m ih =>
    obtain ⟨k, v⟩ := p
    simp only [List.all_cons, Bool.and_eq_true] at h
    simp only [mset]
    split
    · simp [hx, h.2]
    · split
      · simp [hx, h.1, h.2]
      · simp [h.1, ih h.2]

theorem all_filter {α : Type} (m : List α) (f g : α → Bool) (h : m.all f = true) : (m.filter g).all f = true := by
  simp only [List.all_eq_true] at *
  intro x hx
  exact h x (List.mem_filter.mp hx).1

theorem all_mdel {α : Type} (m : AMap α) (i : Nat) (f : Nat × α → Bool) (h : m.all f = true) :
    (mdel m i).all f = true := all_filter m f _ h

/-! ## Memory -/

@[simp] theorem wf_nil : Mem.wf [] = true := by simp [Mem.wf, sortedFrom]

/-- A write of a byte keeps the canonical form. -/
@[simp] theorem wf_wrByte (m : Mem) (a : Nat) (b : Byte) (h : m.wf = true) : (wrByte m a b).wf = true := by
  simp only [Mem.wf, Bool.and_eq_true] at h
  simp only [wrByte]
  split
  · simp only [Mem.wf, Bool.and_eq_true]
    exact ⟨sortedFrom_mdel m none a h.1, all_mdel m a _ h.2⟩
  · simp only [Mem.wf, Bool.and_eq_true]
    exact ⟨sortedFrom_mset m none a b (by simp) h.1, all_mset m a b _ (by simpa using ‹_›) h.2⟩

@[simp] theorem wf_wrBytes (m : Mem) (a : Nat) (bs : Bytes) (h : m.wf = true) : (wrBytes m a bs).wf = true := by
  induction bs generalizing m a with
  | nil => simpa [wrBytes] using h
  | cons b bs ih => simp only [wrBytes]; exact ih _ _ (wf_wrByte m a b h)

@[simp] theorem wf_filter (m : Mem) (f : Host.Cell → Bool) (h : m.wf = true) : Mem.wf (m.filter f) = true := by
  simp only [Mem.wf, Bool.and_eq_true] at h ⊢
  exact ⟨sortedFrom_filter m none f h.1, all_filter m _ f h.2⟩

@[simp] theorem wf_zeroRange (m : Mem) (a n : Nat) (h : m.wf = true) : (zeroRange m a n).wf = true := by
  unfold zeroRange; exact wf_filter m _ h

@[simp] theorem wf_wrLE (m : Mem) (a n x : Nat) (h : m.wf = true) : (wrLE m a n x).wf = true := by
  unfold wrLE; exact wf_wrBytes m a _ h

/-- What a byte reads as after a byte is written. -/
theorem rdByte_wrByte (m : Mem) (a : Nat) (b : Byte) (i : Nat) (h : m.wf = true) :
    rdByte (wrByte m a b) i = if i = a then b else rdByte m i := by
  simp only [Mem.wf, Bool.and_eq_true] at h
  simp only [rdByte, wrByte]
  split
  · rw [mget_mdel m none a i h.1]; subst_vars; split <;> simp
  · rw [mget_mset]; split <;> simp

/-- What a byte reads as after bytes are written. -/
theorem rdByte_wrBytes (m : Mem) (a : Nat) (bs : Bytes) (i : Nat) (h : m.wf = true) :
    rdByte (wrBytes m a bs) i = if a ≤ i ∧ i < a + bs.length then bs.getD (i - a) 0 else rdByte m i := by
  induction bs generalizing m a with
  | nil =>
    simp only [wrBytes, List.length_nil]
    rw [if_neg (by omega)]
  | cons b bs ih =>
    simp only [wrBytes, List.length_cons]
    rw [ih _ _ (wf_wrByte m a b h), rdByte_wrByte m a b i h]
    by_cases h1 : i = a
    · subst h1
      rw [if_neg (by omega), if_pos rfl, if_pos (by omega)]; simp
    · by_cases h2 : a + 1 ≤ i ∧ i < a + 1 + bs.length
      · rw [if_pos h2, if_pos (by omega)]
        obtain ⟨d, rfl⟩ : ∃ d, i = a + 1 + d := ⟨i - a - 1, by omega⟩
        simp [show a + 1 + d - (a + 1) = d by omega, show a + 1 + d - a = d + 1 by omega]
      · rw [if_neg h2, if_neg h1, if_neg (by omega)]

end Sys2Proof.Machine
end

