-- ==== Sys2Proof/Laws/Encoding.lean ====
section
/-! SUPPORT. Fields of the words that the encoder makes, and one lemma that says what decoding such words gives: every
round trip is then one call of `build` on the fields (R56, R61, R91 to R113). -/

namespace Sys2Proof

@[simp] theorem fTop_mkW (m d a b : BitVec 7) (g : PReg) : (fTop (mkW m d a b g)).getLsbD 1 = false := by
  simp only [fTop, mkW, BitVec.getLsbD_extractLsb', BitVec.getLsbD_append]
  grind
@[simp] theorem fMajor_mkW (m d a b : BitVec 7) (g : PReg) : fMajor (mkW m d a b g) = m := by
  unfold fMajor mkW
  ext i hi
  simp only [BitVec.getElem_extractLsb', BitVec.getLsbD_append]
  grind
@[simp] theorem fD_mkW (m d a b : BitVec 7) (g : PReg) : fD (mkW m d a b g) = d := by
  unfold fD mkW
  ext i hi
  simp only [BitVec.getElem_extractLsb', BitVec.getLsbD_append]
  grind
@[simp] theorem fA_mkW (m d a b : BitVec 7) (g : PReg) : fA (mkW m d a b g) = a := by
  unfold fA mkW
  ext i hi
  simp only [BitVec.getElem_extractLsb', BitVec.getLsbD_append]
  grind
@[simp] theorem fB_mkW (m d a b : BitVec 7) (g : PReg) : fB (mkW m d a b g) = b := by
  unfold fB mkW
  ext i hi
  simp only [BitVec.getElem_extractLsb', BitVec.getLsbD_append]
  grind
@[simp] theorem fG_mkW (m d a b : BitVec 7) (g : PReg) : fG (mkW m d a b g) = g := by
  unfold fG mkW
  ext i hi
  simp only [BitVec.getElem_extractLsb', BitVec.getLsbD_append]
  grind
@[simp] theorem fPay_mkL (p : BitVec 30) : fPay (mkL p) = p := by
  unfold fPay mkL
  ext i hi
  simp only [BitVec.getElem_extractLsb', BitVec.getLsbD_append]
  grind

@[simp] theorem isLit_mkW (m d a b : BitVec 7) (g : PReg) : isLit (mkW m d a b g) = false := by
  have h := fTop_mkW m d a b g
  simp only [isLit, beq_eq_false_iff_ne]
  intro h2
  rw [h2] at h
  exact absurd h (by decide)
@[simp] theorem isHdr_mkW (m d a b : BitVec 7) (g : PReg) : isHdr (mkW m d a b g) = false := by
  have h := fTop_mkW m d a b g
  simp only [isHdr, beq_eq_false_iff_ne]
  intro h2
  rw [h2] at h
  exact absurd h (by decide)
@[simp] theorem isLit_mkL (p : BitVec 30) : isLit (mkL p) = true := by
  have h : fTop (mkL p) = 2#2 := by
    unfold fTop mkL
    ext i hi
    simp only [BitVec.getElem_extractLsb', BitVec.getLsbD_append]
    grind
  simp [isLit, h]

/-- Names in 7-bit fields. -/
@[simp] theorem kS_eS (x : SReg) : kS (eS x) = .ok x := by
  have h : x.toNat % 128 = x.toNat := by omega
  have hx : (x.setWidth 7).setWidth 6 = x := by ext i hi; simp
  simp [kS, eS, h, x.isLt, hx]
@[simp] theorem kP_e3 (x : BitVec 3) : kP (e3 x) = .ok x := by
  have h : x.toNat % 128 = x.toNat := by omega
  have hx : (x.setWidth 7).setWidth 3 = x := by ext i hi; simp
  simp [kP, e3, h, x.isLt, hx]
@[simp] theorem kC_e3 (x : BitVec 3) : kC (e3 x) = .ok x := by
  have h : x.toNat % 128 = x.toNat := by omega
  have hx : (x.setWidth 7).setWidth 3 = x := by ext i hi; simp
  simp [kC, e3, h, x.isLt, hx]
@[simp] theorem kT_e4 (x : BitVec 4) : kT (e4 x) = .ok x := by
  have h : x.toNat % 128 = x.toNat := by omega
  have hx : (x.setWidth 7).setWidth 4 = x := by ext i hi; simp
  simp [kT, e4, h, x.isLt, hx]
@[simp] theorem kH_e4 (x : BitVec 4) : kH (e4 x) = .ok x := by
  have h : x.toNat % 128 = x.toNat := by omega
  have hx : (x.setWidth 7).setWidth 4 = x := by ext i hi; simp
  simp [kH, e4, h, x.isLt, hx]

@[simp] theorem dec_bind {α β : Type} (x : α) (f : α → Dec β) : (Except.ok x >>= f) = f x := rfl

/-- Fields of a payload put together from fields. -/
theorem pay_low {m n : Nat} (x : BitVec m) (y : BitVec n) : BitVec.extractLsb' 0 n (x ++ y) = y := by
  ext i hi
  simp only [BitVec.getElem_extractLsb', BitVec.getLsbD_append]
  grind
theorem pay_high {m n k w : Nat} (x : BitVec m) (y : BitVec n) (h : n ≤ k) :
    BitVec.extractLsb' k w (x ++ y) = BitVec.extractLsb' (k - n) w x := by
  ext i hi
  simp only [BitVec.getElem_extractLsb', BitVec.getLsbD_append]
  grind
@[simp] theorem pay_all {n : Nat} (x : BitVec n) : BitVec.extractLsb' 0 n x = x := by
  ext i hi
  simp
@[simp] theorem pay_zero {n m k w : Nat} (x : BitVec n) (h : n ≤ k) :
    BitVec.extractLsb' k w (x.setWidth m) = 0#w := by
  ext i hi
  simp only [BitVec.getElem_extractLsb', BitVec.getLsbD_setWidth]
  have : x.getLsbD (k + i) = false := BitVec.getLsbD_of_ge _ _ (by omega)
  simp [this]

/-! Payloads put together from fields, one group of lemmas for each layout (R104). -/

@[simp] theorem payA0 (sg : Bool) (len : BitVec 6) (pos : BitVec 5) :
    BitVec.extractLsb' (n := 30) 12 18 (0#18 ++ BitVec.ofBool sg ++ len ++ pos) = 0#18 := by
  ext i hi
  simp only [BitVec.getElem_extractLsb', BitVec.getLsbD_append]
  grind
@[simp] theorem payA1 (sg : Bool) (len : BitVec 6) (pos : BitVec 5) :
    BitVec.extractLsb' (n := 30) 0 5 (0#18 ++ BitVec.ofBool sg ++ len ++ pos) = pos := by
  ext i hi
  simp only [BitVec.getElem_extractLsb', BitVec.getLsbD_append]
  grind
@[simp] theorem payA2 (sg : Bool) (len : BitVec 6) (pos : BitVec 5) :
    BitVec.extractLsb' (n := 30) 5 6 (0#18 ++ BitVec.ofBool sg ++ len ++ pos) = len := by
  ext i hi
  simp only [BitVec.getElem_extractLsb', BitVec.getLsbD_append]
  grind
@[simp] theorem payA3 (sg : Bool) (len : BitVec 6) (pos : BitVec 5) :
    BitVec.getLsbD (w := 30) (0#18 ++ BitVec.ofBool sg ++ len ++ pos) 11 = sg := by
  simp only [BitVec.getLsbD_append]
  grind
@[simp] theorem payB0 (len : BitVec 6) (pos : BitVec 5) :
    BitVec.extractLsb' (n := 30) 11 19 (0#19 ++ len ++ pos) = 0#19 := by
  ext i hi
  simp only [BitVec.getElem_extractLsb', BitVec.getLsbD_append]
  grind
@[simp] theorem payB1 (len : BitVec 6) (pos : BitVec 5) :
    BitVec.extractLsb' (n := 30) 0 5 (0#19 ++ len ++ pos) = pos := by
  ext i hi
  simp only [BitVec.getElem_extractLsb', BitVec.getLsbD_append]
  grind
@[simp] theorem payB2 (len : BitVec 6) (pos : BitVec 5) :
    BitVec.extractLsb' (n := 30) 5 6 (0#19 ++ len ++ pos) = len := by
  ext i hi
  simp only [BitVec.getElem_extractLsb', BitVec.getLsbD_append]
  grind
@[simp] theorem payC0 (r : BitVec 2) (k : BitVec 5) :
    BitVec.extractLsb' (n := 30) 14 16 (0#23 ++ r ++ k) = 0#16 := by
  ext i hi
  simp only [BitVec.getElem_extractLsb', BitVec.getLsbD_append]
  grind
@[simp] theorem payC1 (r : BitVec 2) (k : BitVec 5) :
    BitVec.extractLsb' (n := 30) 0 5 (0#23 ++ r ++ k) = k := by
  ext i hi
  simp only [BitVec.getElem_extractLsb', BitVec.getLsbD_append]
  grind
@[simp] theorem payC2 (r : BitVec 2) (k : BitVec 5) :
    BitVec.extractLsb' (n := 30) 5 2 (0#23 ++ r ++ k) = r := by
  ext i hi
  simp only [BitVec.getElem_extractLsb', BitVec.getLsbD_append]
  grind
@[simp] theorem payC3 (r : BitVec 2) (k : BitVec 5) :
    BitVec.extractLsb' (n := 30) 7 7 (0#23 ++ r ++ k) = 0#7 := by
  ext i hi
  simp only [BitVec.getElem_extractLsb', BitVec.getLsbD_append]
  grind
@[simp] theorem payD0 (c : BitVec 7) (r : BitVec 2) (k : BitVec 5) :
    BitVec.extractLsb' (n := 30) 14 16 (0#16 ++ c ++ r ++ k) = 0#16 := by
  ext i hi
  simp only [BitVec.getElem_extractLsb', BitVec.getLsbD_append]
  grind
@[simp] theorem payD1 (c : BitVec 7) (r : BitVec 2) (k : BitVec 5) :
    BitVec.extractLsb' (n := 30) 0 5 (0#16 ++ c ++ r ++ k) = k := by
  ext i hi
  simp only [BitVec.getElem_extractLsb', BitVec.getLsbD_append]
  grind
@[simp] theorem payD2 (c : BitVec 7) (r : BitVec 2) (k : BitVec 5) :
    BitVec.extractLsb' (n := 30) 5 2 (0#16 ++ c ++ r ++ k) = r := by
  ext i hi
  simp only [BitVec.getElem_extractLsb', BitVec.getLsbD_append]
  grind
@[simp] theorem payD3 (c : BitVec 7) (r : BitVec 2) (k : BitVec 5) :
    BitVec.extractLsb' (n := 30) 7 7 (0#16 ++ c ++ r ++ k) = c := by
  ext i hi
  simp only [BitVec.getElem_extractLsb', BitVec.getLsbD_append]
  grind
@[simp] theorem payE0 (bf : Bool) (c : BitVec 7) (r : BitVec 2) (k : BitVec 4) :
    BitVec.extractLsb' (n := 30) 15 15 (0#16 ++ BitVec.ofBool bf ++ c ++ r ++ k) = 0#15 := by
  ext i hi
  simp only [BitVec.getElem_extractLsb', BitVec.getLsbD_append]
  grind
@[simp] theorem payE1 (bf : Bool) (c : BitVec 7) (r : BitVec 2) (k : BitVec 4) :
    BitVec.extractLsb' (n := 30) 13 2 (0#16 ++ BitVec.ofBool bf ++ c ++ r ++ k) = (BitVec.ofBool bf).setWidth 2 := by
  ext i hi
  simp only [BitVec.getElem_extractLsb', BitVec.getLsbD_append, BitVec.getElem_setWidth]
  grind
@[simp] theorem payE2 (bf : Bool) (c : BitVec 7) (r : BitVec 2) (k : BitVec 4) :
    BitVec.extractLsb' (n := 30) 0 4 (0#16 ++ BitVec.ofBool bf ++ c ++ r ++ k) = k := by
  ext i hi
  simp only [BitVec.getElem_extractLsb', BitVec.getLsbD_append]
  grind
@[simp] theorem payE3 (bf : Bool) (c : BitVec 7) (r : BitVec 2) (k : BitVec 4) :
    BitVec.extractLsb' (n := 30) 4 2 (0#16 ++ BitVec.ofBool bf ++ c ++ r ++ k) = r := by
  ext i hi
  simp only [BitVec.getElem_extractLsb', BitVec.getLsbD_append]
  grind
@[simp] theorem payE4 (bf : Bool) (c : BitVec 7) (r : BitVec 2) (k : BitVec 4) :
    BitVec.extractLsb' (n := 30) 6 7 (0#16 ++ BitVec.ofBool bf ++ c ++ r ++ k) = c := by
  ext i hi
  simp only [BitVec.getElem_extractLsb', BitVec.getLsbD_append]
  grind
@[simp] theorem payF0 (pol : BitVec 8) (t : BitVec 4) :
    BitVec.extractLsb' (n := 30) 12 18 (0#18 ++ pol ++ t) = 0#18 := by
  ext i hi
  simp only [BitVec.getElem_extractLsb', BitVec.getLsbD_append]
  grind
@[simp] theorem payF1 (pol : BitVec 8) (t : BitVec 4) :
    BitVec.extractLsb' (n := 30) 0 4 (0#18 ++ pol ++ t) = t := by
  ext i hi
  simp only [BitVec.getElem_extractLsb', BitVec.getLsbD_append]
  grind
@[simp] theorem payF2 (pol : BitVec 8) (t : BitVec 4) :
    BitVec.extractLsb' (n := 30) 4 8 (0#18 ++ pol ++ t) = pol := by
  ext i hi
  simp only [BitVec.getElem_extractLsb', BitVec.getLsbD_append]
  grind
@[simp] theorem payG0 (w : Bool) (op : BitVec 5) (c : BitVec 7) :
    BitVec.extractLsb' (n := 30) 14 16 (0#17 ++ BitVec.ofBool w ++ op ++ c) = 0#16 := by
  ext i hi
  simp only [BitVec.getElem_extractLsb', BitVec.getLsbD_append]
  grind
@[simp] theorem payG1 (w : Bool) (op : BitVec 5) (c : BitVec 7) :
    BitVec.extractLsb' (n := 30) 12 2 (0#17 ++ BitVec.ofBool w ++ op ++ c) = (BitVec.ofBool w).setWidth 2 := by
  ext i hi
  simp only [BitVec.getElem_extractLsb', BitVec.getLsbD_append, BitVec.getElem_setWidth]
  grind
@[simp] theorem payG2 (w : Bool) (op : BitVec 5) (c : BitVec 7) :
    BitVec.extractLsb' (n := 30) 7 5 (0#17 ++ BitVec.ofBool w ++ op ++ c) = op := by
  ext i hi
  simp only [BitVec.getElem_extractLsb', BitVec.getLsbD_append]
  grind
@[simp] theorem payG3 (w : Bool) (op : BitVec 5) (c : BitVec 7) :
    BitVec.extractLsb' (n := 30) 0 7 (0#17 ++ BitVec.ofBool w ++ op ++ c) = c := by
  ext i hi
  simp only [BitVec.getElem_extractLsb', BitVec.getLsbD_append]
  grind
@[simp] theorem payH0 (w : BitVec 2) (e c : BitVec 7) :
    BitVec.extractLsb' (n := 30) 16 14 (0#14 ++ w ++ e ++ c) = 0#14 := by
  ext i hi
  simp only [BitVec.getElem_extractLsb', BitVec.getLsbD_append]
  grind
@[simp] theorem payH1 (w : BitVec 2) (e c : BitVec 7) :
    BitVec.extractLsb' (n := 30) 0 7 (0#14 ++ w ++ e ++ c) = c := by
  ext i hi
  simp only [BitVec.getElem_extractLsb', BitVec.getLsbD_append]
  grind
@[simp] theorem payH2 (w : BitVec 2) (e c : BitVec 7) :
    BitVec.extractLsb' (n := 30) 7 7 (0#14 ++ w ++ e ++ c) = e := by
  ext i hi
  simp only [BitVec.getElem_extractLsb', BitVec.getLsbD_append]
  grind
@[simp] theorem payH3 (w : BitVec 2) (e c : BitVec 7) :
    BitVec.extractLsb' (n := 30) 14 2 (0#14 ++ w ++ e ++ c) = w := by
  ext i hi
  simp only [BitVec.getElem_extractLsb', BitVec.getLsbD_append]
  grind
@[simp] theorem payI0 (c : BitVec 8) :
    BitVec.extractLsb' (n := 30) 9 21 (0#22 ++ c) = 0#21 := by
  ext i hi
  simp only [BitVec.getElem_extractLsb', BitVec.getLsbD_append]
  grind
@[simp] theorem payI1 (c : BitVec 8) :
    BitVec.extractLsb' (n := 30) 0 8 (0#22 ++ c) = c := by
  ext i hi
  simp only [BitVec.getElem_extractLsb', BitVec.getLsbD_append]
  grind
@[simp] theorem payI2 (c : BitVec 8) :
    BitVec.getLsbD (w := 30) (0#22 ++ c) 8 = false := by
  simp only [BitVec.getLsbD_append]
  grind
@[simp] theorem payJ0 (c : BitVec 8) :
    BitVec.extractLsb' (n := 30) 9 21 (1#22 ++ c) = 0#21 := by
  ext i hi
  simp only [BitVec.getElem_extractLsb', BitVec.getLsbD_append]
  grind
@[simp] theorem payJ1 (c : BitVec 8) :
    BitVec.extractLsb' (n := 30) 0 8 (1#22 ++ c) = c := by
  ext i hi
  simp only [BitVec.getElem_extractLsb', BitVec.getLsbD_append]
  grind
@[simp] theorem payJ2 (c : BitVec 8) :
    BitVec.getLsbD (w := 30) (1#22 ++ c) 8 = true := by
  simp only [BitVec.getLsbD_append]
  grind
@[simp] theorem payK0 (lg : Bool) (op kind : BitVec 4) :
    BitVec.extractLsb' (n := 30) 9 21 (0#21 ++ BitVec.ofBool lg ++ op ++ kind) = 0#21 := by
  ext i hi
  simp only [BitVec.getElem_extractLsb', BitVec.getLsbD_append]
  grind
@[simp] theorem payK1 (lg : Bool) (op kind : BitVec 4) :
    BitVec.extractLsb' (n := 30) 0 4 (0#21 ++ BitVec.ofBool lg ++ op ++ kind) = kind := by
  ext i hi
  simp only [BitVec.getElem_extractLsb', BitVec.getLsbD_append]
  grind
@[simp] theorem payK2 (lg : Bool) (op kind : BitVec 4) :
    BitVec.extractLsb' (n := 30) 4 4 (0#21 ++ BitVec.ofBool lg ++ op ++ kind) = op := by
  ext i hi
  simp only [BitVec.getElem_extractLsb', BitVec.getLsbD_append]
  grind
@[simp] theorem payK3 (lg : Bool) (op kind : BitVec 4) :
    BitVec.getLsbD (w := 30) (0#21 ++ BitVec.ofBool lg ++ op ++ kind) 8 = lg := by
  simp only [BitVec.getLsbD_append]
  grind
@[simp] theorem payL0 (k2 : Bool) (fb : BitVec 6) :
    BitVec.extractLsb' (n := 30) 12 18 (0#22 ++ BitVec.ofBool k2 ++ 0#1 ++ fb) = 0#18 := by
  ext i hi
  simp only [BitVec.getElem_extractLsb', BitVec.getLsbD_append]
  grind
@[simp] theorem payL1 (k2 : Bool) (fb : BitVec 6) :
    BitVec.extractLsb' (n := 30) 8 4 (0#22 ++ BitVec.ofBool k2 ++ 0#1 ++ fb) = 0#4 := by
  ext i hi
  simp only [BitVec.getElem_extractLsb', BitVec.getLsbD_append]
  grind
@[simp] theorem payL2 (k2 : Bool) (fb : BitVec 6) :
    BitVec.extractLsb' (n := 30) 0 6 (0#22 ++ BitVec.ofBool k2 ++ 0#1 ++ fb) = fb := by
  ext i hi
  simp only [BitVec.getElem_extractLsb', BitVec.getLsbD_append]
  grind
@[simp] theorem payL3 (k2 : Bool) (fb : BitVec 6) :
    BitVec.getLsbD (w := 30) (0#22 ++ BitVec.ofBool k2 ++ 0#1 ++ fb) 6 = false := by
  simp only [BitVec.getLsbD_append]
  grind
@[simp] theorem payL4 (k2 : Bool) (fb : BitVec 6) :
    BitVec.getLsbD (w := 30) (0#22 ++ BitVec.ofBool k2 ++ 0#1 ++ fb) 7 = k2 := by
  simp only [BitVec.getLsbD_append]
  grind
@[simp] theorem payM0 (st : BitVec 4) (k2 : Bool) (fb : BitVec 6) :
    BitVec.extractLsb' (n := 30) 12 18 (0#18 ++ st ++ BitVec.ofBool k2 ++ 1#1 ++ fb) = 0#18 := by
  ext i hi
  simp only [BitVec.getElem_extractLsb', BitVec.getLsbD_append]
  grind
@[simp] theorem payM1 (st : BitVec 4) (k2 : Bool) (fb : BitVec 6) :
    BitVec.extractLsb' (n := 30) 8 4 (0#18 ++ st ++ BitVec.ofBool k2 ++ 1#1 ++ fb) = st := by
  ext i hi
  simp only [BitVec.getElem_extractLsb', BitVec.getLsbD_append]
  grind
@[simp] theorem payM2 (st : BitVec 4) (k2 : Bool) (fb : BitVec 6) :
    BitVec.extractLsb' (n := 30) 0 6 (0#18 ++ st ++ BitVec.ofBool k2 ++ 1#1 ++ fb) = fb := by
  ext i hi
  simp only [BitVec.getElem_extractLsb', BitVec.getLsbD_append]
  grind
@[simp] theorem payM3 (st : BitVec 4) (k2 : Bool) (fb : BitVec 6) :
    BitVec.getLsbD (w := 30) (0#18 ++ st ++ BitVec.ofBool k2 ++ 1#1 ++ fb) 6 = true := by
  simp only [BitVec.getLsbD_append]
  grind
@[simp] theorem payM4 (st : BitVec 4) (k2 : Bool) (fb : BitVec 6) :
    BitVec.getLsbD (w := 30) (0#18 ++ st ++ BitVec.ofBool k2 ++ 1#1 ++ fb) 7 = k2 := by
  simp only [BitVec.getLsbD_append]
  grind

/-! The b fields that hold a minor code above a field (R108 to R112). -/

@[simp] theorem minor2_op (k : BitVec 5) (r : BitVec 2) : BitVec.toNat (w := 7) (k ++ r) / 4 = k.toNat := by
  have h : (k ++ r).toNat = k.toNat * 4 + r.toNat := by
    rw [BitVec.toNat_append, ← Nat.shiftLeft_add_eq_or_of_lt r.isLt, Nat.shiftLeft_eq]
  have := r.isLt
  show (k ++ r).toNat / 4 = _
  omega
@[simp] theorem minor2_field (k : BitVec 5) (r : BitVec 2) : BitVec.setWidth (w := 7) 2 (k ++ r) = r := by
  ext i hi
  simp only [BitVec.getElem_setWidth, BitVec.getLsbD_append]
  grind
@[simp] theorem minor3_op (k : BitVec 4) (r : BitVec 3) : BitVec.toNat (w := 7) (k ++ r) / 8 = k.toNat := by
  have h : (k ++ r).toNat = k.toNat * 8 + r.toNat := by
    rw [BitVec.toNat_append, ← Nat.shiftLeft_add_eq_or_of_lt r.isLt, Nat.shiftLeft_eq]
  have := r.isLt
  show (k ++ r).toNat / 8 = _
  omega
theorem minor3_val (k : BitVec 4) (r : BitVec 3) : BitVec.toNat (w := 7) (k ++ r) = k.toNat * 8 + r.toNat := by
  show (k ++ r).toNat = _
  rw [BitVec.toNat_append, ← Nat.shiftLeft_add_eq_or_of_lt r.isLt, Nat.shiftLeft_eq]
theorem minor2_val (k : BitVec 5) (r : BitVec 2) : BitVec.toNat (w := 7) (k ++ r) = k.toNat * 4 + r.toNat := by
  show (k ++ r).toNat = _
  rw [BitVec.toNat_append, ← Nat.shiftLeft_add_eq_or_of_lt r.isLt, Nat.shiftLeft_eq]
@[simp] theorem minor3_field (k : BitVec 4) (r : BitVec 3) : BitVec.setWidth (w := 7) 3 (k ++ r) = r := by
  ext i hi
  simp only [BitVec.getElem_setWidth, BitVec.getLsbD_append]
  grind
theorem minor33_val (r : BitVec 3) (k : BitVec 2) : BitVec.toNat (w := 7) (0#2 ++ r ++ k) = r.toNat * 4 + k.toNat := by
  show ((0#2 ++ r) ++ k).toNat = _
  rw [BitVec.toNat_append, ← Nat.shiftLeft_add_eq_or_of_lt k.isLt, Nat.shiftLeft_eq, BitVec.toNat_append]
  simp
@[simp] theorem minor33_op (r : BitVec 3) (k : BitVec 2) :
    BitVec.toNat (w := 7) (0#2 ++ r ++ k) % 4 = k.toNat := by
  rw [minor33_val]
  have := k.isLt
  omega
@[simp] theorem minor33_field (r : BitVec 3) (k : BitVec 2) : BitVec.extractLsb' (n := 7) 2 3 (0#2 ++ r ++ k) = r := by
  ext i hi
  simp only [BitVec.getElem_extractLsb', BitVec.getLsbD_append]
  grind
@[simp] theorem pay_setWidth {m n : Nat} (x : BitVec n) (h : n ≤ m) : BitVec.extractLsb' 0 n (x.setWidth m) = x := by
  ext i hi
  simp only [BitVec.getElem_extractLsb', BitVec.getLsbD_setWidth]
  grind
@[simp] theorem width2_zero (w : Bool) : ((BitVec.ofBool w).setWidth 2 = 0#2) = (w = false) := by
  cases w <;> decide
@[simp] theorem width2_one (w : Bool) : ((BitVec.ofBool w).setWidth 2 = 1#2) = (w = true) := by
  cases w <;> decide
@[simp] theorem width2_is (w : Bool) : ((BitVec.ofBool w).setWidth 2 == 1#2) = w := by
  cases w <;> decide
@[simp] theorem e4_toNat (t : BitVec 4) : (e4 t).toNat = t.toNat := by
  simp [e4]
  omega
@[simp] theorem e4_back (t : BitVec 4) : (e4 t).setWidth 4 = t := by
  ext i hi
  simp [e4]
@[simp] theorem halves (v : BitVec 60) : (BitVec.extractLsb' 30 30 v ++ BitVec.extractLsb' 0 30 v : BitVec 60) = v := by
  ext i hi
  simp only [BitVec.getElem_append, BitVec.getElem_extractLsb']
  grind

/-- The literal counts of the rows whose b field holds an operation above a rounding mode. -/
theorem litCount_fpUnary (d a : BitVec 7) (k : BitVec 5) (r : BitVec 2) (g : PReg) (hk : k.toNat ≤ 8) :
    litCount (mkW 0x48 d a (k ++ r) g) = some 0 := by
  have h : ((k ++ r : BitVec 7)).toNat < 36 := by
    have := minor2_val k r
    have := r.isLt
    omega
  unfold litCount
  rw [fMajor_mkW, fB_mkW]
  show (if (decide (_ < 36) || _ || _) = true then _ else _) = _
  rw [decide_eq_true h]
  rfl
theorem litCount_fcvt (d a : BitVec 7) (k : BitVec 5) (r : BitVec 2) (g : PReg) (hk : k.toNat ≤ 11) :
    litCount (mkW 0x49 d a (k ++ r) g) = some 0 := by
  have h : ((k ++ r : BitVec 7)).toNat < 48 := by
    have := minor2_val k r
    have := r.isLt
    omega
  unfold litCount
  rw [fMajor_mkW, fB_mkW]
  exact if_pos (decide_eq_true h)
@[simp] theorem ffma_field (k : BitVec 3) (d a b : BitVec 7) (g : PReg) :
    BitVec.extractLsb' 24 3 (mkW (0xF#4 ++ k) d a b g) = k := by
  unfold mkW
  ext i hi
  simp only [BitVec.getElem_extractLsb', BitVec.getLsbD_append]
  grind

/-- Which part of the table an instruction word is looked up in. -/
theorem build_low {m : BitVec 7} {n : Nat} (h : m.toNat = n) (hn : n < 0x34) (d a b : BitVec 7) (g : PReg)
    (p q : BitVec 30) : build (mkW m d a b g) p q = buildLow n (mkW m d a b g) p q := by
  subst h; simp only [build, fMajor_mkW, if_pos hn]
theorem build_mid {m : BitVec 7} {n : Nat} (h : m.toNat = n) (h1 : ¬n < 0x34) (hn : n < 0x60) (d a b : BitVec 7)
    (g : PReg) (p q : BitVec 30) : build (mkW m d a b g) p q = buildMid n (mkW m d a b g) p := by
  subst h; simp only [build, fMajor_mkW, if_neg h1, if_pos hn]
theorem build_high {m : BitVec 7} {n : Nat} (h : m.toNat = n) (h1 : ¬n < 0x34) (h2 : ¬n < 0x60) (d a b : BitVec 7)
    (g : PReg) (p q : BitVec 30) : build (mkW m d a b g) p q = buildHigh n (mkW m d a b g) p := by
  subst h; simp only [build, fMajor_mkW, if_neg h1, if_neg h2]

/-- What decoding one word, a word and a literal, a word and two literals gives. -/
theorem decode_one (m d a b : BitVec 7) (g : PReg) (rest : List Word) (i : Instr)
    (hl : litCount (mkW m d a b g) = some 0) (hb : build (mkW m d a b g) 0#30 0#30 = .ok i) :
    decode (mkW m d a b g :: rest) = .ok (i, 1) := by
  simp [decode, hl, hb, Except.map]
theorem decode_two (m d a b : BitVec 7) (g : PReg) (p : BitVec 30) (rest : List Word) (i : Instr)
    (hl : litCount (mkW m d a b g) = some 1) (hb : build (mkW m d a b g) p 0#30 = .ok i) :
    decode (mkW m d a b g :: mkL p :: rest) = .ok (i, 2) := by
  simp [decode, hl, hb, Except.map]
theorem decode_three (m d a b : BitVec 7) (g : PReg) (p q : BitVec 30) (rest : List Word) (i : Instr)
    (hl : litCount (mkW m d a b g) = some 2) (hb : build (mkW m d a b g) p q = .ok i) :
    decode (mkW m d a b g :: mkL p :: mkL q :: rest) = .ok (i, 3) := by
  simp [decode, hl, hb, Except.map]

end Sys2Proof
end

