-- ==== Sys2Proof/Laws/State.lean ====
section
/-! SUPPORT. One lemma for each field of State under each update of Machine/Ops.lean: what an update leaves alone. -/

namespace Sys2Proof.Machine

/-! ## setRole -/

@[simp] theorem State.setRole_agenda (s : State) (k : Nat) (x : Role) : (s.setRole k x).agenda = s.agenda := rfl
@[simp] theorem State.setRole_cur (s : State) (k : Nat) (x : Role) : (s.setRole k x).cur = s.cur := rfl
@[simp] theorem State.setRole_turn (s : State) (k : Nat) (x : Role) : (s.setRole k x).turn = s.turn := rfl
@[simp] theorem State.setRole_free (s : State) (k : Nat) (x : Role) : (s.setRole k x).free = s.free := rfl
@[simp] theorem State.setRole_next (s : State) (k : Nat) (x : Role) : (s.setRole k x).next = s.next := rfl
@[simp] theorem State.setRole_clock (s : State) (k : Nat) (x : Role) : (s.setRole k x).clock = s.clock := rfl
@[simp] theorem State.setRole_teams (s : State) (k : Nat) (x : Role) : (s.setRole k x).teams = s.teams := rfl
@[simp] theorem State.setRole_cores (s : State) (k : Nat) (x : Role) : (s.setRole k x).cores = s.cores := rfl
@[simp] theorem State.setRole_plots (s : State) (k : Nat) (x : Role) : (s.setRole k x).plots = s.plots := rfl
@[simp] theorem State.setRole_sets (s : State) (k : Nat) (x : Role) : (s.setRole k x).sets = s.sets := rfl
@[simp] theorem State.setRole_saved (s : State) (k : Nat) (x : Role) : (s.setRole k x).saved = s.saved := rfl
@[simp] theorem State.setRole_ops (s : State) (k : Nat) (x : Role) : (s.setRole k x).ops = s.ops := rfl
@[simp] theorem State.setRole_mats (s : State) (k : Nat) (x : Role) : (s.setRole k x).mats = s.mats := rfl
@[simp] theorem State.setRole_watch (s : State) (k : Nat) (x : Role) : (s.setRole k x).watch = s.watch := rfl
@[simp] theorem State.setRole_ram (s : State) (k : Nat) (x : Role) : (s.setRole k x).ram = s.ram := rfl
@[simp] theorem State.setRole_hostMem (s : State) (k : Nat) (x : Role) : (s.setRole k x).hostMem = s.hostMem := rfl
@[simp] theorem State.setRole_hy (s : State) (k : Nat) (x : Role) : (s.setRole k x).hy = s.hy := rfl
@[simp] theorem State.setRole_poison (s : State) (k : Nat) (x : Role) : (s.setRole k x).poison = s.poison := rfl
@[simp] theorem State.setRole_replicas (s : State) (k : Nat) (x : Role) : (s.setRole k x).replicas = s.replicas := rfl
@[simp] theorem State.setRole_tlb2 (s : State) (k : Nat) (x : Role) : (s.setRole k x).tlb2 = s.tlb2 := rfl
@[simp] theorem State.setRole_ifaces (s : State) (k : Nat) (x : Role) : (s.setRole k x).ifaces = s.ifaces := rfl
@[simp] theorem State.setRole_queues (s : State) (k : Nat) (x : Role) : (s.setRole k x).queues = s.queues := rfl
@[simp] theorem State.setRole_recs (s : State) (k : Nat) (x : Role) : (s.setRole k x).recs = s.recs := rfl
@[simp] theorem State.setRole_vierr (s : State) (k : Nat) (x : Role) : (s.setRole k x).vierr = s.vierr := rfl
@[simp] theorem State.setRole_ctxPlot (s : State) (k : Nat) (x : Role) : (s.setRole k x).ctxPlot = s.ctxPlot := rfl
@[simp] theorem State.setRole_ctxTeams (s : State) (k : Nat) (x : Role) : (s.setRole k x).ctxTeams = s.ctxTeams := rfl
@[simp] theorem State.setRole_ctxBusy (s : State) (k : Nat) (x : Role) : (s.setRole k x).ctxBusy = s.ctxBusy := rfl
@[simp] theorem State.setRole_ctxPartial (s : State) (k : Nat) (x : Role) : (s.setRole k x).ctxPartial = s.ctxPartial := rfl
@[simp] theorem State.setRole_ctxNotFound (s : State) (k : Nat) (x : Role) : (s.setRole k x).ctxNotFound = s.ctxNotFound := rfl
@[simp] theorem State.setRole_ctxDone (s : State) (k : Nat) (x : Role) : (s.setRole k x).ctxDone = s.ctxDone := rfl
@[simp] theorem State.setRole_cam (s : State) (k : Nat) (x : Role) : (s.setRole k x).cam = s.cam := rfl
@[simp] theorem State.setRole_pods (s : State) (k : Nat) (x : Role) : (s.setRole k x).pods = s.pods := rfl
@[simp] theorem State.setRole_paths (s : State) (k : Nat) (x : Role) : (s.setRole k x).paths = s.paths := rfl
@[simp] theorem State.setRole_regions (s : State) (k : Nat) (x : Role) : (s.setRole k x).regions = s.regions := rfl
@[simp] theorem State.setRole_outPkts (s : State) (k : Nat) (x : Role) : (s.setRole k x).outPkts = s.outPkts := rfl
@[simp] theorem State.setRole_placed (s : State) (k : Nat) (x : Role) : (s.setRole k x).placed = s.placed := rfl
@[simp] theorem State.setRole_waitPkts (s : State) (k : Nat) (x : Role) : (s.setRole k x).waitPkts = s.waitPkts := rfl
@[simp] theorem State.setRole_fenceTab (s : State) (k : Nat) (x : Role) : (s.setRole k x).fenceTab = s.fenceTab := rfl
@[simp] theorem State.setRole_colls (s : State) (k : Nat) (x : Role) : (s.setRole k x).colls = s.colls := rfl
@[simp] theorem State.setRole_contribs (s : State) (k : Nat) (x : Role) : (s.setRole k x).contribs = s.contribs := rfl
@[simp] theorem State.setRole_outContribs (s : State) (k : Nat) (x : Role) : (s.setRole k x).outContribs = s.outContribs := rfl
@[simp] theorem State.setRole_stall (s : State) (k : Nat) (x : Role) : (s.setRole k x).stall = s.stall := rfl
@[simp] theorem State.setRole_rank (s : State) (k : Nat) (x : Role) : (s.setRole k x).rank = s.rank := rfl
@[simp] theorem State.setRole_worldMap (s : State) (k : Nat) (x : Role) : (s.setRole k x).worldMap = s.worldMap := rfl
@[simp] theorem State.setRole_worldBusy (s : State) (k : Nat) (x : Role) : (s.setRole k x).worldBusy = s.worldBusy := rfl
@[simp] theorem State.setRole_worldRefused (s : State) (k : Nat) (x : Role) : (s.setRole k x).worldRefused = s.worldRefused := rfl
@[simp] theorem State.setRole_worldDone (s : State) (k : Nat) (x : Role) : (s.setRole k x).worldDone = s.worldDone := rfl
@[simp] theorem State.setRole_epochs (s : State) (k : Nat) (x : Role) : (s.setRole k x).epochs = s.epochs := rfl
@[simp] theorem State.setRole_rekeying (s : State) (k : Nat) (x : Role) : (s.setRole k x).rekeying = s.rekeying := rfl
@[simp] theorem State.setRole_bootStat (s : State) (k : Nat) (x : Role) : (s.setRole k x).bootStat = s.bootStat := rfl
@[simp] theorem State.setRole_meas (s : State) (k : Nat) (x : Role) : (s.setRole k x).meas = s.meas := rfl
@[simp] theorem State.setRole_digest (s : State) (k : Nat) (x : Role) : (s.setRole k x).digest = s.digest := rfl
@[simp] theorem State.setRole_lockboot (s : State) (k : Nat) (x : Role) : (s.setRole k x).lockboot = s.lockboot := rfl
@[simp] theorem State.setRole_mstat (s : State) (k : Nat) (x : Role) : (s.setRole k x).mstat = s.mstat := rfl
@[simp] theorem State.setRole_responders (s : State) (k : Nat) (x : Role) : (s.setRole k x).responders = s.responders := rfl
@[simp] theorem State.setRole_telSel (s : State) (k : Nat) (x : Role) : (s.setRole k x).telSel = s.telSel := rfl
@[simp] theorem State.setRole_telData (s : State) (k : Nat) (x : Role) : (s.setRole k x).telData = s.telData := rfl
@[simp] theorem State.setRole_telStat (s : State) (k : Nat) (x : Role) : (s.setRole k x).telStat = s.telStat := rfl
@[simp] theorem State.setRole_life (s : State) (k : Nat) (x : Role) : (s.setRole k x).life = s.life := rfl
@[simp] theorem State.setRole_throttled (s : State) (k : Nat) (x : Role) : (s.setRole k x).throttled = s.throttled := rfl
@[simp] theorem State.setRole_lost (s : State) (k : Nat) (x : Role) : (s.setRole k x).lost = s.lost := rfl
@[simp] theorem State.setRole_out (s : State) (k : Nat) (x : Role) : (s.setRole k x).out = s.out := rfl

/-! ## setTeam -/

@[simp] theorem State.setTeam_agenda (s : State) (k : Nat) (x : Team) : (s.setTeam k x).agenda = s.agenda := rfl
@[simp] theorem State.setTeam_cur (s : State) (k : Nat) (x : Team) : (s.setTeam k x).cur = s.cur := rfl
@[simp] theorem State.setTeam_turn (s : State) (k : Nat) (x : Team) : (s.setTeam k x).turn = s.turn := rfl
@[simp] theorem State.setTeam_free (s : State) (k : Nat) (x : Team) : (s.setTeam k x).free = s.free := rfl
@[simp] theorem State.setTeam_next (s : State) (k : Nat) (x : Team) : (s.setTeam k x).next = s.next := rfl
@[simp] theorem State.setTeam_clock (s : State) (k : Nat) (x : Team) : (s.setTeam k x).clock = s.clock := rfl
@[simp] theorem State.setTeam_roles (s : State) (k : Nat) (x : Team) : (s.setTeam k x).roles = s.roles := rfl
@[simp] theorem State.setTeam_cores (s : State) (k : Nat) (x : Team) : (s.setTeam k x).cores = s.cores := rfl
@[simp] theorem State.setTeam_plots (s : State) (k : Nat) (x : Team) : (s.setTeam k x).plots = s.plots := rfl
@[simp] theorem State.setTeam_sets (s : State) (k : Nat) (x : Team) : (s.setTeam k x).sets = s.sets := rfl
@[simp] theorem State.setTeam_saved (s : State) (k : Nat) (x : Team) : (s.setTeam k x).saved = s.saved := rfl
@[simp] theorem State.setTeam_ops (s : State) (k : Nat) (x : Team) : (s.setTeam k x).ops = s.ops := rfl
@[simp] theorem State.setTeam_mats (s : State) (k : Nat) (x : Team) : (s.setTeam k x).mats = s.mats := rfl
@[simp] theorem State.setTeam_watch (s : State) (k : Nat) (x : Team) : (s.setTeam k x).watch = s.watch := rfl
@[simp] theorem State.setTeam_ram (s : State) (k : Nat) (x : Team) : (s.setTeam k x).ram = s.ram := rfl
@[simp] theorem State.setTeam_hostMem (s : State) (k : Nat) (x : Team) : (s.setTeam k x).hostMem = s.hostMem := rfl
@[simp] theorem State.setTeam_hy (s : State) (k : Nat) (x : Team) : (s.setTeam k x).hy = s.hy := rfl
@[simp] theorem State.setTeam_poison (s : State) (k : Nat) (x : Team) : (s.setTeam k x).poison = s.poison := rfl
@[simp] theorem State.setTeam_replicas (s : State) (k : Nat) (x : Team) : (s.setTeam k x).replicas = s.replicas := rfl
@[simp] theorem State.setTeam_tlb2 (s : State) (k : Nat) (x : Team) : (s.setTeam k x).tlb2 = s.tlb2 := rfl
@[simp] theorem State.setTeam_ifaces (s : State) (k : Nat) (x : Team) : (s.setTeam k x).ifaces = s.ifaces := rfl
@[simp] theorem State.setTeam_queues (s : State) (k : Nat) (x : Team) : (s.setTeam k x).queues = s.queues := rfl
@[simp] theorem State.setTeam_recs (s : State) (k : Nat) (x : Team) : (s.setTeam k x).recs = s.recs := rfl
@[simp] theorem State.setTeam_vierr (s : State) (k : Nat) (x : Team) : (s.setTeam k x).vierr = s.vierr := rfl
@[simp] theorem State.setTeam_ctxPlot (s : State) (k : Nat) (x : Team) : (s.setTeam k x).ctxPlot = s.ctxPlot := rfl
@[simp] theorem State.setTeam_ctxTeams (s : State) (k : Nat) (x : Team) : (s.setTeam k x).ctxTeams = s.ctxTeams := rfl
@[simp] theorem State.setTeam_ctxBusy (s : State) (k : Nat) (x : Team) : (s.setTeam k x).ctxBusy = s.ctxBusy := rfl
@[simp] theorem State.setTeam_ctxPartial (s : State) (k : Nat) (x : Team) : (s.setTeam k x).ctxPartial = s.ctxPartial := rfl
@[simp] theorem State.setTeam_ctxNotFound (s : State) (k : Nat) (x : Team) : (s.setTeam k x).ctxNotFound = s.ctxNotFound := rfl
@[simp] theorem State.setTeam_ctxDone (s : State) (k : Nat) (x : Team) : (s.setTeam k x).ctxDone = s.ctxDone := rfl
@[simp] theorem State.setTeam_cam (s : State) (k : Nat) (x : Team) : (s.setTeam k x).cam = s.cam := rfl
@[simp] theorem State.setTeam_pods (s : State) (k : Nat) (x : Team) : (s.setTeam k x).pods = s.pods := rfl
@[simp] theorem State.setTeam_paths (s : State) (k : Nat) (x : Team) : (s.setTeam k x).paths = s.paths := rfl
@[simp] theorem State.setTeam_regions (s : State) (k : Nat) (x : Team) : (s.setTeam k x).regions = s.regions := rfl
@[simp] theorem State.setTeam_outPkts (s : State) (k : Nat) (x : Team) : (s.setTeam k x).outPkts = s.outPkts := rfl
@[simp] theorem State.setTeam_placed (s : State) (k : Nat) (x : Team) : (s.setTeam k x).placed = s.placed := rfl
@[simp] theorem State.setTeam_waitPkts (s : State) (k : Nat) (x : Team) : (s.setTeam k x).waitPkts = s.waitPkts := rfl
@[simp] theorem State.setTeam_fenceTab (s : State) (k : Nat) (x : Team) : (s.setTeam k x).fenceTab = s.fenceTab := rfl
@[simp] theorem State.setTeam_colls (s : State) (k : Nat) (x : Team) : (s.setTeam k x).colls = s.colls := rfl
@[simp] theorem State.setTeam_contribs (s : State) (k : Nat) (x : Team) : (s.setTeam k x).contribs = s.contribs := rfl
@[simp] theorem State.setTeam_outContribs (s : State) (k : Nat) (x : Team) : (s.setTeam k x).outContribs = s.outContribs := rfl
@[simp] theorem State.setTeam_stall (s : State) (k : Nat) (x : Team) : (s.setTeam k x).stall = s.stall := rfl
@[simp] theorem State.setTeam_rank (s : State) (k : Nat) (x : Team) : (s.setTeam k x).rank = s.rank := rfl
@[simp] theorem State.setTeam_worldMap (s : State) (k : Nat) (x : Team) : (s.setTeam k x).worldMap = s.worldMap := rfl
@[simp] theorem State.setTeam_worldBusy (s : State) (k : Nat) (x : Team) : (s.setTeam k x).worldBusy = s.worldBusy := rfl
@[simp] theorem State.setTeam_worldRefused (s : State) (k : Nat) (x : Team) : (s.setTeam k x).worldRefused = s.worldRefused := rfl
@[simp] theorem State.setTeam_worldDone (s : State) (k : Nat) (x : Team) : (s.setTeam k x).worldDone = s.worldDone := rfl
@[simp] theorem State.setTeam_epochs (s : State) (k : Nat) (x : Team) : (s.setTeam k x).epochs = s.epochs := rfl
@[simp] theorem State.setTeam_rekeying (s : State) (k : Nat) (x : Team) : (s.setTeam k x).rekeying = s.rekeying := rfl
@[simp] theorem State.setTeam_bootStat (s : State) (k : Nat) (x : Team) : (s.setTeam k x).bootStat = s.bootStat := rfl
@[simp] theorem State.setTeam_meas (s : State) (k : Nat) (x : Team) : (s.setTeam k x).meas = s.meas := rfl
@[simp] theorem State.setTeam_digest (s : State) (k : Nat) (x : Team) : (s.setTeam k x).digest = s.digest := rfl
@[simp] theorem State.setTeam_lockboot (s : State) (k : Nat) (x : Team) : (s.setTeam k x).lockboot = s.lockboot := rfl
@[simp] theorem State.setTeam_mstat (s : State) (k : Nat) (x : Team) : (s.setTeam k x).mstat = s.mstat := rfl
@[simp] theorem State.setTeam_responders (s : State) (k : Nat) (x : Team) : (s.setTeam k x).responders = s.responders := rfl
@[simp] theorem State.setTeam_telSel (s : State) (k : Nat) (x : Team) : (s.setTeam k x).telSel = s.telSel := rfl
@[simp] theorem State.setTeam_telData (s : State) (k : Nat) (x : Team) : (s.setTeam k x).telData = s.telData := rfl
@[simp] theorem State.setTeam_telStat (s : State) (k : Nat) (x : Team) : (s.setTeam k x).telStat = s.telStat := rfl
@[simp] theorem State.setTeam_life (s : State) (k : Nat) (x : Team) : (s.setTeam k x).life = s.life := rfl
@[simp] theorem State.setTeam_throttled (s : State) (k : Nat) (x : Team) : (s.setTeam k x).throttled = s.throttled := rfl
@[simp] theorem State.setTeam_lost (s : State) (k : Nat) (x : Team) : (s.setTeam k x).lost = s.lost := rfl
@[simp] theorem State.setTeam_out (s : State) (k : Nat) (x : Team) : (s.setTeam k x).out = s.out := rfl

/-! ## setCore -/

@[simp] theorem State.setCore_agenda (s : State) (k : Nat) (x : Core) : (s.setCore k x).agenda = s.agenda := rfl
@[simp] theorem State.setCore_cur (s : State) (k : Nat) (x : Core) : (s.setCore k x).cur = s.cur := rfl
@[simp] theorem State.setCore_turn (s : State) (k : Nat) (x : Core) : (s.setCore k x).turn = s.turn := rfl
@[simp] theorem State.setCore_free (s : State) (k : Nat) (x : Core) : (s.setCore k x).free = s.free := rfl
@[simp] theorem State.setCore_next (s : State) (k : Nat) (x : Core) : (s.setCore k x).next = s.next := rfl
@[simp] theorem State.setCore_clock (s : State) (k : Nat) (x : Core) : (s.setCore k x).clock = s.clock := rfl
@[simp] theorem State.setCore_roles (s : State) (k : Nat) (x : Core) : (s.setCore k x).roles = s.roles := rfl
@[simp] theorem State.setCore_teams (s : State) (k : Nat) (x : Core) : (s.setCore k x).teams = s.teams := rfl
@[simp] theorem State.setCore_plots (s : State) (k : Nat) (x : Core) : (s.setCore k x).plots = s.plots := rfl
@[simp] theorem State.setCore_sets (s : State) (k : Nat) (x : Core) : (s.setCore k x).sets = s.sets := rfl
@[simp] theorem State.setCore_saved (s : State) (k : Nat) (x : Core) : (s.setCore k x).saved = s.saved := rfl
@[simp] theorem State.setCore_ops (s : State) (k : Nat) (x : Core) : (s.setCore k x).ops = s.ops := rfl
@[simp] theorem State.setCore_mats (s : State) (k : Nat) (x : Core) : (s.setCore k x).mats = s.mats := rfl
@[simp] theorem State.setCore_watch (s : State) (k : Nat) (x : Core) : (s.setCore k x).watch = s.watch := rfl
@[simp] theorem State.setCore_ram (s : State) (k : Nat) (x : Core) : (s.setCore k x).ram = s.ram := rfl
@[simp] theorem State.setCore_hostMem (s : State) (k : Nat) (x : Core) : (s.setCore k x).hostMem = s.hostMem := rfl
@[simp] theorem State.setCore_hy (s : State) (k : Nat) (x : Core) : (s.setCore k x).hy = s.hy := rfl
@[simp] theorem State.setCore_poison (s : State) (k : Nat) (x : Core) : (s.setCore k x).poison = s.poison := rfl
@[simp] theorem State.setCore_replicas (s : State) (k : Nat) (x : Core) : (s.setCore k x).replicas = s.replicas := rfl
@[simp] theorem State.setCore_tlb2 (s : State) (k : Nat) (x : Core) : (s.setCore k x).tlb2 = s.tlb2 := rfl
@[simp] theorem State.setCore_ifaces (s : State) (k : Nat) (x : Core) : (s.setCore k x).ifaces = s.ifaces := rfl
@[simp] theorem State.setCore_queues (s : State) (k : Nat) (x : Core) : (s.setCore k x).queues = s.queues := rfl
@[simp] theorem State.setCore_recs (s : State) (k : Nat) (x : Core) : (s.setCore k x).recs = s.recs := rfl
@[simp] theorem State.setCore_vierr (s : State) (k : Nat) (x : Core) : (s.setCore k x).vierr = s.vierr := rfl
@[simp] theorem State.setCore_ctxPlot (s : State) (k : Nat) (x : Core) : (s.setCore k x).ctxPlot = s.ctxPlot := rfl
@[simp] theorem State.setCore_ctxTeams (s : State) (k : Nat) (x : Core) : (s.setCore k x).ctxTeams = s.ctxTeams := rfl
@[simp] theorem State.setCore_ctxBusy (s : State) (k : Nat) (x : Core) : (s.setCore k x).ctxBusy = s.ctxBusy := rfl
@[simp] theorem State.setCore_ctxPartial (s : State) (k : Nat) (x : Core) : (s.setCore k x).ctxPartial = s.ctxPartial := rfl
@[simp] theorem State.setCore_ctxNotFound (s : State) (k : Nat) (x : Core) : (s.setCore k x).ctxNotFound = s.ctxNotFound := rfl
@[simp] theorem State.setCore_ctxDone (s : State) (k : Nat) (x : Core) : (s.setCore k x).ctxDone = s.ctxDone := rfl
@[simp] theorem State.setCore_cam (s : State) (k : Nat) (x : Core) : (s.setCore k x).cam = s.cam := rfl
@[simp] theorem State.setCore_pods (s : State) (k : Nat) (x : Core) : (s.setCore k x).pods = s.pods := rfl
@[simp] theorem State.setCore_paths (s : State) (k : Nat) (x : Core) : (s.setCore k x).paths = s.paths := rfl
@[simp] theorem State.setCore_regions (s : State) (k : Nat) (x : Core) : (s.setCore k x).regions = s.regions := rfl
@[simp] theorem State.setCore_outPkts (s : State) (k : Nat) (x : Core) : (s.setCore k x).outPkts = s.outPkts := rfl
@[simp] theorem State.setCore_placed (s : State) (k : Nat) (x : Core) : (s.setCore k x).placed = s.placed := rfl
@[simp] theorem State.setCore_waitPkts (s : State) (k : Nat) (x : Core) : (s.setCore k x).waitPkts = s.waitPkts := rfl
@[simp] theorem State.setCore_fenceTab (s : State) (k : Nat) (x : Core) : (s.setCore k x).fenceTab = s.fenceTab := rfl
@[simp] theorem State.setCore_colls (s : State) (k : Nat) (x : Core) : (s.setCore k x).colls = s.colls := rfl
@[simp] theorem State.setCore_contribs (s : State) (k : Nat) (x : Core) : (s.setCore k x).contribs = s.contribs := rfl
@[simp] theorem State.setCore_outContribs (s : State) (k : Nat) (x : Core) : (s.setCore k x).outContribs = s.outContribs := rfl
@[simp] theorem State.setCore_stall (s : State) (k : Nat) (x : Core) : (s.setCore k x).stall = s.stall := rfl
@[simp] theorem State.setCore_rank (s : State) (k : Nat) (x : Core) : (s.setCore k x).rank = s.rank := rfl
@[simp] theorem State.setCore_worldMap (s : State) (k : Nat) (x : Core) : (s.setCore k x).worldMap = s.worldMap := rfl
@[simp] theorem State.setCore_worldBusy (s : State) (k : Nat) (x : Core) : (s.setCore k x).worldBusy = s.worldBusy := rfl
@[simp] theorem State.setCore_worldRefused (s : State) (k : Nat) (x : Core) : (s.setCore k x).worldRefused = s.worldRefused := rfl
@[simp] theorem State.setCore_worldDone (s : State) (k : Nat) (x : Core) : (s.setCore k x).worldDone = s.worldDone := rfl
@[simp] theorem State.setCore_epochs (s : State) (k : Nat) (x : Core) : (s.setCore k x).epochs = s.epochs := rfl
@[simp] theorem State.setCore_rekeying (s : State) (k : Nat) (x : Core) : (s.setCore k x).rekeying = s.rekeying := rfl
@[simp] theorem State.setCore_bootStat (s : State) (k : Nat) (x : Core) : (s.setCore k x).bootStat = s.bootStat := rfl
@[simp] theorem State.setCore_meas (s : State) (k : Nat) (x : Core) : (s.setCore k x).meas = s.meas := rfl
@[simp] theorem State.setCore_digest (s : State) (k : Nat) (x : Core) : (s.setCore k x).digest = s.digest := rfl
@[simp] theorem State.setCore_lockboot (s : State) (k : Nat) (x : Core) : (s.setCore k x).lockboot = s.lockboot := rfl
@[simp] theorem State.setCore_mstat (s : State) (k : Nat) (x : Core) : (s.setCore k x).mstat = s.mstat := rfl
@[simp] theorem State.setCore_responders (s : State) (k : Nat) (x : Core) : (s.setCore k x).responders = s.responders := rfl
@[simp] theorem State.setCore_telSel (s : State) (k : Nat) (x : Core) : (s.setCore k x).telSel = s.telSel := rfl
@[simp] theorem State.setCore_telData (s : State) (k : Nat) (x : Core) : (s.setCore k x).telData = s.telData := rfl
@[simp] theorem State.setCore_telStat (s : State) (k : Nat) (x : Core) : (s.setCore k x).telStat = s.telStat := rfl
@[simp] theorem State.setCore_life (s : State) (k : Nat) (x : Core) : (s.setCore k x).life = s.life := rfl
@[simp] theorem State.setCore_throttled (s : State) (k : Nat) (x : Core) : (s.setCore k x).throttled = s.throttled := rfl
@[simp] theorem State.setCore_lost (s : State) (k : Nat) (x : Core) : (s.setCore k x).lost = s.lost := rfl
@[simp] theorem State.setCore_out (s : State) (k : Nat) (x : Core) : (s.setCore k x).out = s.out := rfl

/-! ## setIface -/

@[simp] theorem State.setIface_agenda (s : State) (k : Nat) (x : Iface) : (s.setIface k x).agenda = s.agenda := rfl
@[simp] theorem State.setIface_cur (s : State) (k : Nat) (x : Iface) : (s.setIface k x).cur = s.cur := rfl
@[simp] theorem State.setIface_turn (s : State) (k : Nat) (x : Iface) : (s.setIface k x).turn = s.turn := rfl
@[simp] theorem State.setIface_free (s : State) (k : Nat) (x : Iface) : (s.setIface k x).free = s.free := rfl
@[simp] theorem State.setIface_next (s : State) (k : Nat) (x : Iface) : (s.setIface k x).next = s.next := rfl
@[simp] theorem State.setIface_clock (s : State) (k : Nat) (x : Iface) : (s.setIface k x).clock = s.clock := rfl
@[simp] theorem State.setIface_roles (s : State) (k : Nat) (x : Iface) : (s.setIface k x).roles = s.roles := rfl
@[simp] theorem State.setIface_teams (s : State) (k : Nat) (x : Iface) : (s.setIface k x).teams = s.teams := rfl
@[simp] theorem State.setIface_cores (s : State) (k : Nat) (x : Iface) : (s.setIface k x).cores = s.cores := rfl
@[simp] theorem State.setIface_plots (s : State) (k : Nat) (x : Iface) : (s.setIface k x).plots = s.plots := rfl
@[simp] theorem State.setIface_sets (s : State) (k : Nat) (x : Iface) : (s.setIface k x).sets = s.sets := rfl
@[simp] theorem State.setIface_saved (s : State) (k : Nat) (x : Iface) : (s.setIface k x).saved = s.saved := rfl
@[simp] theorem State.setIface_ops (s : State) (k : Nat) (x : Iface) : (s.setIface k x).ops = s.ops := rfl
@[simp] theorem State.setIface_mats (s : State) (k : Nat) (x : Iface) : (s.setIface k x).mats = s.mats := rfl
@[simp] theorem State.setIface_watch (s : State) (k : Nat) (x : Iface) : (s.setIface k x).watch = s.watch := rfl
@[simp] theorem State.setIface_ram (s : State) (k : Nat) (x : Iface) : (s.setIface k x).ram = s.ram := rfl
@[simp] theorem State.setIface_hostMem (s : State) (k : Nat) (x : Iface) : (s.setIface k x).hostMem = s.hostMem := rfl
@[simp] theorem State.setIface_hy (s : State) (k : Nat) (x : Iface) : (s.setIface k x).hy = s.hy := rfl
@[simp] theorem State.setIface_poison (s : State) (k : Nat) (x : Iface) : (s.setIface k x).poison = s.poison := rfl
@[simp] theorem State.setIface_replicas (s : State) (k : Nat) (x : Iface) : (s.setIface k x).replicas = s.replicas := rfl
@[simp] theorem State.setIface_tlb2 (s : State) (k : Nat) (x : Iface) : (s.setIface k x).tlb2 = s.tlb2 := rfl
@[simp] theorem State.setIface_queues (s : State) (k : Nat) (x : Iface) : (s.setIface k x).queues = s.queues := rfl
@[simp] theorem State.setIface_recs (s : State) (k : Nat) (x : Iface) : (s.setIface k x).recs = s.recs := rfl
@[simp] theorem State.setIface_vierr (s : State) (k : Nat) (x : Iface) : (s.setIface k x).vierr = s.vierr := rfl
@[simp] theorem State.setIface_ctxPlot (s : State) (k : Nat) (x : Iface) : (s.setIface k x).ctxPlot = s.ctxPlot := rfl
@[simp] theorem State.setIface_ctxTeams (s : State) (k : Nat) (x : Iface) : (s.setIface k x).ctxTeams = s.ctxTeams := rfl
@[simp] theorem State.setIface_ctxBusy (s : State) (k : Nat) (x : Iface) : (s.setIface k x).ctxBusy = s.ctxBusy := rfl
@[simp] theorem State.setIface_ctxPartial (s : State) (k : Nat) (x : Iface) : (s.setIface k x).ctxPartial = s.ctxPartial := rfl
@[simp] theorem State.setIface_ctxNotFound (s : State) (k : Nat) (x : Iface) : (s.setIface k x).ctxNotFound = s.ctxNotFound := rfl
@[simp] theorem State.setIface_ctxDone (s : State) (k : Nat) (x : Iface) : (s.setIface k x).ctxDone = s.ctxDone := rfl
@[simp] theorem State.setIface_cam (s : State) (k : Nat) (x : Iface) : (s.setIface k x).cam = s.cam := rfl
@[simp] theorem State.setIface_pods (s : State) (k : Nat) (x : Iface) : (s.setIface k x).pods = s.pods := rfl
@[simp] theorem State.setIface_paths (s : State) (k : Nat) (x : Iface) : (s.setIface k x).paths = s.paths := rfl
@[simp] theorem State.setIface_regions (s : State) (k : Nat) (x : Iface) : (s.setIface k x).regions = s.regions := rfl
@[simp] theorem State.setIface_outPkts (s : State) (k : Nat) (x : Iface) : (s.setIface k x).outPkts = s.outPkts := rfl
@[simp] theorem State.setIface_placed (s : State) (k : Nat) (x : Iface) : (s.setIface k x).placed = s.placed := rfl
@[simp] theorem State.setIface_waitPkts (s : State) (k : Nat) (x : Iface) : (s.setIface k x).waitPkts = s.waitPkts := rfl
@[simp] theorem State.setIface_fenceTab (s : State) (k : Nat) (x : Iface) : (s.setIface k x).fenceTab = s.fenceTab := rfl
@[simp] theorem State.setIface_colls (s : State) (k : Nat) (x : Iface) : (s.setIface k x).colls = s.colls := rfl
@[simp] theorem State.setIface_contribs (s : State) (k : Nat) (x : Iface) : (s.setIface k x).contribs = s.contribs := rfl
@[simp] theorem State.setIface_outContribs (s : State) (k : Nat) (x : Iface) : (s.setIface k x).outContribs = s.outContribs := rfl
@[simp] theorem State.setIface_stall (s : State) (k : Nat) (x : Iface) : (s.setIface k x).stall = s.stall := rfl
@[simp] theorem State.setIface_rank (s : State) (k : Nat) (x : Iface) : (s.setIface k x).rank = s.rank := rfl
@[simp] theorem State.setIface_worldMap (s : State) (k : Nat) (x : Iface) : (s.setIface k x).worldMap = s.worldMap := rfl
@[simp] theorem State.setIface_worldBusy (s : State) (k : Nat) (x : Iface) : (s.setIface k x).worldBusy = s.worldBusy := rfl
@[simp] theorem State.setIface_worldRefused (s : State) (k : Nat) (x : Iface) : (s.setIface k x).worldRefused = s.worldRefused := rfl
@[simp] theorem State.setIface_worldDone (s : State) (k : Nat) (x : Iface) : (s.setIface k x).worldDone = s.worldDone := rfl
@[simp] theorem State.setIface_epochs (s : State) (k : Nat) (x : Iface) : (s.setIface k x).epochs = s.epochs := rfl
@[simp] theorem State.setIface_rekeying (s : State) (k : Nat) (x : Iface) : (s.setIface k x).rekeying = s.rekeying := rfl
@[simp] theorem State.setIface_bootStat (s : State) (k : Nat) (x : Iface) : (s.setIface k x).bootStat = s.bootStat := rfl
@[simp] theorem State.setIface_meas (s : State) (k : Nat) (x : Iface) : (s.setIface k x).meas = s.meas := rfl
@[simp] theorem State.setIface_digest (s : State) (k : Nat) (x : Iface) : (s.setIface k x).digest = s.digest := rfl
@[simp] theorem State.setIface_lockboot (s : State) (k : Nat) (x : Iface) : (s.setIface k x).lockboot = s.lockboot := rfl
@[simp] theorem State.setIface_mstat (s : State) (k : Nat) (x : Iface) : (s.setIface k x).mstat = s.mstat := rfl
@[simp] theorem State.setIface_responders (s : State) (k : Nat) (x : Iface) : (s.setIface k x).responders = s.responders := rfl
@[simp] theorem State.setIface_telSel (s : State) (k : Nat) (x : Iface) : (s.setIface k x).telSel = s.telSel := rfl
@[simp] theorem State.setIface_telData (s : State) (k : Nat) (x : Iface) : (s.setIface k x).telData = s.telData := rfl
@[simp] theorem State.setIface_telStat (s : State) (k : Nat) (x : Iface) : (s.setIface k x).telStat = s.telStat := rfl
@[simp] theorem State.setIface_life (s : State) (k : Nat) (x : Iface) : (s.setIface k x).life = s.life := rfl
@[simp] theorem State.setIface_throttled (s : State) (k : Nat) (x : Iface) : (s.setIface k x).throttled = s.throttled := rfl
@[simp] theorem State.setIface_lost (s : State) (k : Nat) (x : Iface) : (s.setIface k x).lost = s.lost := rfl
@[simp] theorem State.setIface_out (s : State) (k : Nat) (x : Iface) : (s.setIface k x).out = s.out := rfl

/-! ## setQueue -/

@[simp] theorem State.setQueue_agenda (s : State) (k : Nat) (x : Queue) : (s.setQueue k x).agenda = s.agenda := rfl
@[simp] theorem State.setQueue_cur (s : State) (k : Nat) (x : Queue) : (s.setQueue k x).cur = s.cur := rfl
@[simp] theorem State.setQueue_turn (s : State) (k : Nat) (x : Queue) : (s.setQueue k x).turn = s.turn := rfl
@[simp] theorem State.setQueue_free (s : State) (k : Nat) (x : Queue) : (s.setQueue k x).free = s.free := rfl
@[simp] theorem State.setQueue_next (s : State) (k : Nat) (x : Queue) : (s.setQueue k x).next = s.next := rfl
@[simp] theorem State.setQueue_clock (s : State) (k : Nat) (x : Queue) : (s.setQueue k x).clock = s.clock := rfl
@[simp] theorem State.setQueue_roles (s : State) (k : Nat) (x : Queue) : (s.setQueue k x).roles = s.roles := rfl
@[simp] theorem State.setQueue_teams (s : State) (k : Nat) (x : Queue) : (s.setQueue k x).teams = s.teams := rfl
@[simp] theorem State.setQueue_cores (s : State) (k : Nat) (x : Queue) : (s.setQueue k x).cores = s.cores := rfl
@[simp] theorem State.setQueue_plots (s : State) (k : Nat) (x : Queue) : (s.setQueue k x).plots = s.plots := rfl
@[simp] theorem State.setQueue_sets (s : State) (k : Nat) (x : Queue) : (s.setQueue k x).sets = s.sets := rfl
@[simp] theorem State.setQueue_saved (s : State) (k : Nat) (x : Queue) : (s.setQueue k x).saved = s.saved := rfl
@[simp] theorem State.setQueue_ops (s : State) (k : Nat) (x : Queue) : (s.setQueue k x).ops = s.ops := rfl
@[simp] theorem State.setQueue_mats (s : State) (k : Nat) (x : Queue) : (s.setQueue k x).mats = s.mats := rfl
@[simp] theorem State.setQueue_watch (s : State) (k : Nat) (x : Queue) : (s.setQueue k x).watch = s.watch := rfl
@[simp] theorem State.setQueue_ram (s : State) (k : Nat) (x : Queue) : (s.setQueue k x).ram = s.ram := rfl
@[simp] theorem State.setQueue_hostMem (s : State) (k : Nat) (x : Queue) : (s.setQueue k x).hostMem = s.hostMem := rfl
@[simp] theorem State.setQueue_hy (s : State) (k : Nat) (x : Queue) : (s.setQueue k x).hy = s.hy := rfl
@[simp] theorem State.setQueue_poison (s : State) (k : Nat) (x : Queue) : (s.setQueue k x).poison = s.poison := rfl
@[simp] theorem State.setQueue_replicas (s : State) (k : Nat) (x : Queue) : (s.setQueue k x).replicas = s.replicas := rfl
@[simp] theorem State.setQueue_tlb2 (s : State) (k : Nat) (x : Queue) : (s.setQueue k x).tlb2 = s.tlb2 := rfl
@[simp] theorem State.setQueue_ifaces (s : State) (k : Nat) (x : Queue) : (s.setQueue k x).ifaces = s.ifaces := rfl
@[simp] theorem State.setQueue_recs (s : State) (k : Nat) (x : Queue) : (s.setQueue k x).recs = s.recs := rfl
@[simp] theorem State.setQueue_vierr (s : State) (k : Nat) (x : Queue) : (s.setQueue k x).vierr = s.vierr := rfl
@[simp] theorem State.setQueue_ctxPlot (s : State) (k : Nat) (x : Queue) : (s.setQueue k x).ctxPlot = s.ctxPlot := rfl
@[simp] theorem State.setQueue_ctxTeams (s : State) (k : Nat) (x : Queue) : (s.setQueue k x).ctxTeams = s.ctxTeams := rfl
@[simp] theorem State.setQueue_ctxBusy (s : State) (k : Nat) (x : Queue) : (s.setQueue k x).ctxBusy = s.ctxBusy := rfl
@[simp] theorem State.setQueue_ctxPartial (s : State) (k : Nat) (x : Queue) : (s.setQueue k x).ctxPartial = s.ctxPartial := rfl
@[simp] theorem State.setQueue_ctxNotFound (s : State) (k : Nat) (x : Queue) : (s.setQueue k x).ctxNotFound = s.ctxNotFound := rfl
@[simp] theorem State.setQueue_ctxDone (s : State) (k : Nat) (x : Queue) : (s.setQueue k x).ctxDone = s.ctxDone := rfl
@[simp] theorem State.setQueue_cam (s : State) (k : Nat) (x : Queue) : (s.setQueue k x).cam = s.cam := rfl
@[simp] theorem State.setQueue_pods (s : State) (k : Nat) (x : Queue) : (s.setQueue k x).pods = s.pods := rfl
@[simp] theorem State.setQueue_paths (s : State) (k : Nat) (x : Queue) : (s.setQueue k x).paths = s.paths := rfl
@[simp] theorem State.setQueue_regions (s : State) (k : Nat) (x : Queue) : (s.setQueue k x).regions = s.regions := rfl
@[simp] theorem State.setQueue_outPkts (s : State) (k : Nat) (x : Queue) : (s.setQueue k x).outPkts = s.outPkts := rfl
@[simp] theorem State.setQueue_placed (s : State) (k : Nat) (x : Queue) : (s.setQueue k x).placed = s.placed := rfl
@[simp] theorem State.setQueue_waitPkts (s : State) (k : Nat) (x : Queue) : (s.setQueue k x).waitPkts = s.waitPkts := rfl
@[simp] theorem State.setQueue_fenceTab (s : State) (k : Nat) (x : Queue) : (s.setQueue k x).fenceTab = s.fenceTab := rfl
@[simp] theorem State.setQueue_colls (s : State) (k : Nat) (x : Queue) : (s.setQueue k x).colls = s.colls := rfl
@[simp] theorem State.setQueue_contribs (s : State) (k : Nat) (x : Queue) : (s.setQueue k x).contribs = s.contribs := rfl
@[simp] theorem State.setQueue_outContribs (s : State) (k : Nat) (x : Queue) : (s.setQueue k x).outContribs = s.outContribs := rfl
@[simp] theorem State.setQueue_stall (s : State) (k : Nat) (x : Queue) : (s.setQueue k x).stall = s.stall := rfl
@[simp] theorem State.setQueue_rank (s : State) (k : Nat) (x : Queue) : (s.setQueue k x).rank = s.rank := rfl
@[simp] theorem State.setQueue_worldMap (s : State) (k : Nat) (x : Queue) : (s.setQueue k x).worldMap = s.worldMap := rfl
@[simp] theorem State.setQueue_worldBusy (s : State) (k : Nat) (x : Queue) : (s.setQueue k x).worldBusy = s.worldBusy := rfl
@[simp] theorem State.setQueue_worldRefused (s : State) (k : Nat) (x : Queue) : (s.setQueue k x).worldRefused = s.worldRefused := rfl
@[simp] theorem State.setQueue_worldDone (s : State) (k : Nat) (x : Queue) : (s.setQueue k x).worldDone = s.worldDone := rfl
@[simp] theorem State.setQueue_epochs (s : State) (k : Nat) (x : Queue) : (s.setQueue k x).epochs = s.epochs := rfl
@[simp] theorem State.setQueue_rekeying (s : State) (k : Nat) (x : Queue) : (s.setQueue k x).rekeying = s.rekeying := rfl
@[simp] theorem State.setQueue_bootStat (s : State) (k : Nat) (x : Queue) : (s.setQueue k x).bootStat = s.bootStat := rfl
@[simp] theorem State.setQueue_meas (s : State) (k : Nat) (x : Queue) : (s.setQueue k x).meas = s.meas := rfl
@[simp] theorem State.setQueue_digest (s : State) (k : Nat) (x : Queue) : (s.setQueue k x).digest = s.digest := rfl
@[simp] theorem State.setQueue_lockboot (s : State) (k : Nat) (x : Queue) : (s.setQueue k x).lockboot = s.lockboot := rfl
@[simp] theorem State.setQueue_mstat (s : State) (k : Nat) (x : Queue) : (s.setQueue k x).mstat = s.mstat := rfl
@[simp] theorem State.setQueue_responders (s : State) (k : Nat) (x : Queue) : (s.setQueue k x).responders = s.responders := rfl
@[simp] theorem State.setQueue_telSel (s : State) (k : Nat) (x : Queue) : (s.setQueue k x).telSel = s.telSel := rfl
@[simp] theorem State.setQueue_telData (s : State) (k : Nat) (x : Queue) : (s.setQueue k x).telData = s.telData := rfl
@[simp] theorem State.setQueue_telStat (s : State) (k : Nat) (x : Queue) : (s.setQueue k x).telStat = s.telStat := rfl
@[simp] theorem State.setQueue_life (s : State) (k : Nat) (x : Queue) : (s.setQueue k x).life = s.life := rfl
@[simp] theorem State.setQueue_throttled (s : State) (k : Nat) (x : Queue) : (s.setQueue k x).throttled = s.throttled := rfl
@[simp] theorem State.setQueue_lost (s : State) (k : Nat) (x : Queue) : (s.setQueue k x).lost = s.lost := rfl
@[simp] theorem State.setQueue_out (s : State) (k : Nat) (x : Queue) : (s.setQueue k x).out = s.out := rfl

/-! ## setPlot -/

@[simp] theorem State.setPlot_agenda (s : State) (k : Nat) (x : Plot) : (s.setPlot k x).agenda = s.agenda := rfl
@[simp] theorem State.setPlot_cur (s : State) (k : Nat) (x : Plot) : (s.setPlot k x).cur = s.cur := rfl
@[simp] theorem State.setPlot_turn (s : State) (k : Nat) (x : Plot) : (s.setPlot k x).turn = s.turn := rfl
@[simp] theorem State.setPlot_free (s : State) (k : Nat) (x : Plot) : (s.setPlot k x).free = s.free := rfl
@[simp] theorem State.setPlot_next (s : State) (k : Nat) (x : Plot) : (s.setPlot k x).next = s.next := rfl
@[simp] theorem State.setPlot_clock (s : State) (k : Nat) (x : Plot) : (s.setPlot k x).clock = s.clock := rfl
@[simp] theorem State.setPlot_roles (s : State) (k : Nat) (x : Plot) : (s.setPlot k x).roles = s.roles := rfl
@[simp] theorem State.setPlot_teams (s : State) (k : Nat) (x : Plot) : (s.setPlot k x).teams = s.teams := rfl
@[simp] theorem State.setPlot_cores (s : State) (k : Nat) (x : Plot) : (s.setPlot k x).cores = s.cores := rfl
@[simp] theorem State.setPlot_sets (s : State) (k : Nat) (x : Plot) : (s.setPlot k x).sets = s.sets := rfl
@[simp] theorem State.setPlot_saved (s : State) (k : Nat) (x : Plot) : (s.setPlot k x).saved = s.saved := rfl
@[simp] theorem State.setPlot_ops (s : State) (k : Nat) (x : Plot) : (s.setPlot k x).ops = s.ops := rfl
@[simp] theorem State.setPlot_mats (s : State) (k : Nat) (x : Plot) : (s.setPlot k x).mats = s.mats := rfl
@[simp] theorem State.setPlot_watch (s : State) (k : Nat) (x : Plot) : (s.setPlot k x).watch = s.watch := rfl
@[simp] theorem State.setPlot_ram (s : State) (k : Nat) (x : Plot) : (s.setPlot k x).ram = s.ram := rfl
@[simp] theorem State.setPlot_hostMem (s : State) (k : Nat) (x : Plot) : (s.setPlot k x).hostMem = s.hostMem := rfl
@[simp] theorem State.setPlot_hy (s : State) (k : Nat) (x : Plot) : (s.setPlot k x).hy = s.hy := rfl
@[simp] theorem State.setPlot_poison (s : State) (k : Nat) (x : Plot) : (s.setPlot k x).poison = s.poison := rfl
@[simp] theorem State.setPlot_replicas (s : State) (k : Nat) (x : Plot) : (s.setPlot k x).replicas = s.replicas := rfl
@[simp] theorem State.setPlot_tlb2 (s : State) (k : Nat) (x : Plot) : (s.setPlot k x).tlb2 = s.tlb2 := rfl
@[simp] theorem State.setPlot_ifaces (s : State) (k : Nat) (x : Plot) : (s.setPlot k x).ifaces = s.ifaces := rfl
@[simp] theorem State.setPlot_queues (s : State) (k : Nat) (x : Plot) : (s.setPlot k x).queues = s.queues := rfl
@[simp] theorem State.setPlot_recs (s : State) (k : Nat) (x : Plot) : (s.setPlot k x).recs = s.recs := rfl
@[simp] theorem State.setPlot_vierr (s : State) (k : Nat) (x : Plot) : (s.setPlot k x).vierr = s.vierr := rfl
@[simp] theorem State.setPlot_ctxPlot (s : State) (k : Nat) (x : Plot) : (s.setPlot k x).ctxPlot = s.ctxPlot := rfl
@[simp] theorem State.setPlot_ctxTeams (s : State) (k : Nat) (x : Plot) : (s.setPlot k x).ctxTeams = s.ctxTeams := rfl
@[simp] theorem State.setPlot_ctxBusy (s : State) (k : Nat) (x : Plot) : (s.setPlot k x).ctxBusy = s.ctxBusy := rfl
@[simp] theorem State.setPlot_ctxPartial (s : State) (k : Nat) (x : Plot) : (s.setPlot k x).ctxPartial = s.ctxPartial := rfl
@[simp] theorem State.setPlot_ctxNotFound (s : State) (k : Nat) (x : Plot) : (s.setPlot k x).ctxNotFound = s.ctxNotFound := rfl
@[simp] theorem State.setPlot_ctxDone (s : State) (k : Nat) (x : Plot) : (s.setPlot k x).ctxDone = s.ctxDone := rfl
@[simp] theorem State.setPlot_cam (s : State) (k : Nat) (x : Plot) : (s.setPlot k x).cam = s.cam := rfl
@[simp] theorem State.setPlot_pods (s : State) (k : Nat) (x : Plot) : (s.setPlot k x).pods = s.pods := rfl
@[simp] theorem State.setPlot_paths (s : State) (k : Nat) (x : Plot) : (s.setPlot k x).paths = s.paths := rfl
@[simp] theorem State.setPlot_regions (s : State) (k : Nat) (x : Plot) : (s.setPlot k x).regions = s.regions := rfl
@[simp] theorem State.setPlot_outPkts (s : State) (k : Nat) (x : Plot) : (s.setPlot k x).outPkts = s.outPkts := rfl
@[simp] theorem State.setPlot_placed (s : State) (k : Nat) (x : Plot) : (s.setPlot k x).placed = s.placed := rfl
@[simp] theorem State.setPlot_waitPkts (s : State) (k : Nat) (x : Plot) : (s.setPlot k x).waitPkts = s.waitPkts := rfl
@[simp] theorem State.setPlot_fenceTab (s : State) (k : Nat) (x : Plot) : (s.setPlot k x).fenceTab = s.fenceTab := rfl
@[simp] theorem State.setPlot_colls (s : State) (k : Nat) (x : Plot) : (s.setPlot k x).colls = s.colls := rfl
@[simp] theorem State.setPlot_contribs (s : State) (k : Nat) (x : Plot) : (s.setPlot k x).contribs = s.contribs := rfl
@[simp] theorem State.setPlot_outContribs (s : State) (k : Nat) (x : Plot) : (s.setPlot k x).outContribs = s.outContribs := rfl
@[simp] theorem State.setPlot_stall (s : State) (k : Nat) (x : Plot) : (s.setPlot k x).stall = s.stall := rfl
@[simp] theorem State.setPlot_rank (s : State) (k : Nat) (x : Plot) : (s.setPlot k x).rank = s.rank := rfl
@[simp] theorem State.setPlot_worldMap (s : State) (k : Nat) (x : Plot) : (s.setPlot k x).worldMap = s.worldMap := rfl
@[simp] theorem State.setPlot_worldBusy (s : State) (k : Nat) (x : Plot) : (s.setPlot k x).worldBusy = s.worldBusy := rfl
@[simp] theorem State.setPlot_worldRefused (s : State) (k : Nat) (x : Plot) : (s.setPlot k x).worldRefused = s.worldRefused := rfl
@[simp] theorem State.setPlot_worldDone (s : State) (k : Nat) (x : Plot) : (s.setPlot k x).worldDone = s.worldDone := rfl
@[simp] theorem State.setPlot_epochs (s : State) (k : Nat) (x : Plot) : (s.setPlot k x).epochs = s.epochs := rfl
@[simp] theorem State.setPlot_rekeying (s : State) (k : Nat) (x : Plot) : (s.setPlot k x).rekeying = s.rekeying := rfl
@[simp] theorem State.setPlot_bootStat (s : State) (k : Nat) (x : Plot) : (s.setPlot k x).bootStat = s.bootStat := rfl
@[simp] theorem State.setPlot_meas (s : State) (k : Nat) (x : Plot) : (s.setPlot k x).meas = s.meas := rfl
@[simp] theorem State.setPlot_digest (s : State) (k : Nat) (x : Plot) : (s.setPlot k x).digest = s.digest := rfl
@[simp] theorem State.setPlot_lockboot (s : State) (k : Nat) (x : Plot) : (s.setPlot k x).lockboot = s.lockboot := rfl
@[simp] theorem State.setPlot_mstat (s : State) (k : Nat) (x : Plot) : (s.setPlot k x).mstat = s.mstat := rfl
@[simp] theorem State.setPlot_responders (s : State) (k : Nat) (x : Plot) : (s.setPlot k x).responders = s.responders := rfl
@[simp] theorem State.setPlot_telSel (s : State) (k : Nat) (x : Plot) : (s.setPlot k x).telSel = s.telSel := rfl
@[simp] theorem State.setPlot_telData (s : State) (k : Nat) (x : Plot) : (s.setPlot k x).telData = s.telData := rfl
@[simp] theorem State.setPlot_telStat (s : State) (k : Nat) (x : Plot) : (s.setPlot k x).telStat = s.telStat := rfl
@[simp] theorem State.setPlot_life (s : State) (k : Nat) (x : Plot) : (s.setPlot k x).life = s.life := rfl
@[simp] theorem State.setPlot_throttled (s : State) (k : Nat) (x : Plot) : (s.setPlot k x).throttled = s.throttled := rfl
@[simp] theorem State.setPlot_lost (s : State) (k : Nat) (x : Plot) : (s.setPlot k x).lost = s.lost := rfl
@[simp] theorem State.setPlot_out (s : State) (k : Nat) (x : Plot) : (s.setPlot k x).out = s.out := rfl

/-! ## modRole -/

@[simp] theorem State.modRole_agenda (s : State) (k : Nat) (f : Role → Role) : (s.modRole k f).agenda = s.agenda := by unfold State.modRole; split <;> rfl
@[simp] theorem State.modRole_cur (s : State) (k : Nat) (f : Role → Role) : (s.modRole k f).cur = s.cur := by unfold State.modRole; split <;> rfl
@[simp] theorem State.modRole_turn (s : State) (k : Nat) (f : Role → Role) : (s.modRole k f).turn = s.turn := by unfold State.modRole; split <;> rfl
@[simp] theorem State.modRole_free (s : State) (k : Nat) (f : Role → Role) : (s.modRole k f).free = s.free := by unfold State.modRole; split <;> rfl
@[simp] theorem State.modRole_next (s : State) (k : Nat) (f : Role → Role) : (s.modRole k f).next = s.next := by unfold State.modRole; split <;> rfl
@[simp] theorem State.modRole_clock (s : State) (k : Nat) (f : Role → Role) : (s.modRole k f).clock = s.clock := by unfold State.modRole; split <;> rfl
@[simp] theorem State.modRole_teams (s : State) (k : Nat) (f : Role → Role) : (s.modRole k f).teams = s.teams := by unfold State.modRole; split <;> rfl
@[simp] theorem State.modRole_cores (s : State) (k : Nat) (f : Role → Role) : (s.modRole k f).cores = s.cores := by unfold State.modRole; split <;> rfl
@[simp] theorem State.modRole_plots (s : State) (k : Nat) (f : Role → Role) : (s.modRole k f).plots = s.plots := by unfold State.modRole; split <;> rfl
@[simp] theorem State.modRole_sets (s : State) (k : Nat) (f : Role → Role) : (s.modRole k f).sets = s.sets := by unfold State.modRole; split <;> rfl
@[simp] theorem State.modRole_saved (s : State) (k : Nat) (f : Role → Role) : (s.modRole k f).saved = s.saved := by unfold State.modRole; split <;> rfl
@[simp] theorem State.modRole_ops (s : State) (k : Nat) (f : Role → Role) : (s.modRole k f).ops = s.ops := by unfold State.modRole; split <;> rfl
@[simp] theorem State.modRole_mats (s : State) (k : Nat) (f : Role → Role) : (s.modRole k f).mats = s.mats := by unfold State.modRole; split <;> rfl
@[simp] theorem State.modRole_watch (s : State) (k : Nat) (f : Role → Role) : (s.modRole k f).watch = s.watch := by unfold State.modRole; split <;> rfl
@[simp] theorem State.modRole_ram (s : State) (k : Nat) (f : Role → Role) : (s.modRole k f).ram = s.ram := by unfold State.modRole; split <;> rfl
@[simp] theorem State.modRole_hostMem (s : State) (k : Nat) (f : Role → Role) : (s.modRole k f).hostMem = s.hostMem := by unfold State.modRole; split <;> rfl
@[simp] theorem State.modRole_hy (s : State) (k : Nat) (f : Role → Role) : (s.modRole k f).hy = s.hy := by unfold State.modRole; split <;> rfl
@[simp] theorem State.modRole_poison (s : State) (k : Nat) (f : Role → Role) : (s.modRole k f).poison = s.poison := by unfold State.modRole; split <;> rfl
@[simp] theorem State.modRole_replicas (s : State) (k : Nat) (f : Role → Role) : (s.modRole k f).replicas = s.replicas := by unfold State.modRole; split <;> rfl
@[simp] theorem State.modRole_tlb2 (s : State) (k : Nat) (f : Role → Role) : (s.modRole k f).tlb2 = s.tlb2 := by unfold State.modRole; split <;> rfl
@[simp] theorem State.modRole_ifaces (s : State) (k : Nat) (f : Role → Role) : (s.modRole k f).ifaces = s.ifaces := by unfold State.modRole; split <;> rfl
@[simp] theorem State.modRole_queues (s : State) (k : Nat) (f : Role → Role) : (s.modRole k f).queues = s.queues := by unfold State.modRole; split <;> rfl
@[simp] theorem State.modRole_recs (s : State) (k : Nat) (f : Role → Role) : (s.modRole k f).recs = s.recs := by unfold State.modRole; split <;> rfl
@[simp] theorem State.modRole_vierr (s : State) (k : Nat) (f : Role → Role) : (s.modRole k f).vierr = s.vierr := by unfold State.modRole; split <;> rfl
@[simp] theorem State.modRole_ctxPlot (s : State) (k : Nat) (f : Role → Role) : (s.modRole k f).ctxPlot = s.ctxPlot := by unfold State.modRole; split <;> rfl
@[simp] theorem State.modRole_ctxTeams (s : State) (k : Nat) (f : Role → Role) : (s.modRole k f).ctxTeams = s.ctxTeams := by unfold State.modRole; split <;> rfl
@[simp] theorem State.modRole_ctxBusy (s : State) (k : Nat) (f : Role → Role) : (s.modRole k f).ctxBusy = s.ctxBusy := by unfold State.modRole; split <;> rfl
@[simp] theorem State.modRole_ctxPartial (s : State) (k : Nat) (f : Role → Role) : (s.modRole k f).ctxPartial = s.ctxPartial := by unfold State.modRole; split <;> rfl
@[simp] theorem State.modRole_ctxNotFound (s : State) (k : Nat) (f : Role → Role) : (s.modRole k f).ctxNotFound = s.ctxNotFound := by unfold State.modRole; split <;> rfl
@[simp] theorem State.modRole_ctxDone (s : State) (k : Nat) (f : Role → Role) : (s.modRole k f).ctxDone = s.ctxDone := by unfold State.modRole; split <;> rfl
@[simp] theorem State.modRole_cam (s : State) (k : Nat) (f : Role → Role) : (s.modRole k f).cam = s.cam := by unfold State.modRole; split <;> rfl
@[simp] theorem State.modRole_pods (s : State) (k : Nat) (f : Role → Role) : (s.modRole k f).pods = s.pods := by unfold State.modRole; split <;> rfl
@[simp] theorem State.modRole_paths (s : State) (k : Nat) (f : Role → Role) : (s.modRole k f).paths = s.paths := by unfold State.modRole; split <;> rfl
@[simp] theorem State.modRole_regions (s : State) (k : Nat) (f : Role → Role) : (s.modRole k f).regions = s.regions := by unfold State.modRole; split <;> rfl
@[simp] theorem State.modRole_outPkts (s : State) (k : Nat) (f : Role → Role) : (s.modRole k f).outPkts = s.outPkts := by unfold State.modRole; split <;> rfl
@[simp] theorem State.modRole_placed (s : State) (k : Nat) (f : Role → Role) : (s.modRole k f).placed = s.placed := by unfold State.modRole; split <;> rfl
@[simp] theorem State.modRole_waitPkts (s : State) (k : Nat) (f : Role → Role) : (s.modRole k f).waitPkts = s.waitPkts := by unfold State.modRole; split <;> rfl
@[simp] theorem State.modRole_fenceTab (s : State) (k : Nat) (f : Role → Role) : (s.modRole k f).fenceTab = s.fenceTab := by unfold State.modRole; split <;> rfl
@[simp] theorem State.modRole_colls (s : State) (k : Nat) (f : Role → Role) : (s.modRole k f).colls = s.colls := by unfold State.modRole; split <;> rfl
@[simp] theorem State.modRole_contribs (s : State) (k : Nat) (f : Role → Role) : (s.modRole k f).contribs = s.contribs := by unfold State.modRole; split <;> rfl
@[simp] theorem State.modRole_outContribs (s : State) (k : Nat) (f : Role → Role) : (s.modRole k f).outContribs = s.outContribs := by unfold State.modRole; split <;> rfl
@[simp] theorem State.modRole_stall (s : State) (k : Nat) (f : Role → Role) : (s.modRole k f).stall = s.stall := by unfold State.modRole; split <;> rfl
@[simp] theorem State.modRole_rank (s : State) (k : Nat) (f : Role → Role) : (s.modRole k f).rank = s.rank := by unfold State.modRole; split <;> rfl
@[simp] theorem State.modRole_worldMap (s : State) (k : Nat) (f : Role → Role) : (s.modRole k f).worldMap = s.worldMap := by unfold State.modRole; split <;> rfl
@[simp] theorem State.modRole_worldBusy (s : State) (k : Nat) (f : Role → Role) : (s.modRole k f).worldBusy = s.worldBusy := by unfold State.modRole; split <;> rfl
@[simp] theorem State.modRole_worldRefused (s : State) (k : Nat) (f : Role → Role) : (s.modRole k f).worldRefused = s.worldRefused := by unfold State.modRole; split <;> rfl
@[simp] theorem State.modRole_worldDone (s : State) (k : Nat) (f : Role → Role) : (s.modRole k f).worldDone = s.worldDone := by unfold State.modRole; split <;> rfl
@[simp] theorem State.modRole_epochs (s : State) (k : Nat) (f : Role → Role) : (s.modRole k f).epochs = s.epochs := by unfold State.modRole; split <;> rfl
@[simp] theorem State.modRole_rekeying (s : State) (k : Nat) (f : Role → Role) : (s.modRole k f).rekeying = s.rekeying := by unfold State.modRole; split <;> rfl
@[simp] theorem State.modRole_bootStat (s : State) (k : Nat) (f : Role → Role) : (s.modRole k f).bootStat = s.bootStat := by unfold State.modRole; split <;> rfl
@[simp] theorem State.modRole_meas (s : State) (k : Nat) (f : Role → Role) : (s.modRole k f).meas = s.meas := by unfold State.modRole; split <;> rfl
@[simp] theorem State.modRole_digest (s : State) (k : Nat) (f : Role → Role) : (s.modRole k f).digest = s.digest := by unfold State.modRole; split <;> rfl
@[simp] theorem State.modRole_lockboot (s : State) (k : Nat) (f : Role → Role) : (s.modRole k f).lockboot = s.lockboot := by unfold State.modRole; split <;> rfl
@[simp] theorem State.modRole_mstat (s : State) (k : Nat) (f : Role → Role) : (s.modRole k f).mstat = s.mstat := by unfold State.modRole; split <;> rfl
@[simp] theorem State.modRole_responders (s : State) (k : Nat) (f : Role → Role) : (s.modRole k f).responders = s.responders := by unfold State.modRole; split <;> rfl
@[simp] theorem State.modRole_telSel (s : State) (k : Nat) (f : Role → Role) : (s.modRole k f).telSel = s.telSel := by unfold State.modRole; split <;> rfl
@[simp] theorem State.modRole_telData (s : State) (k : Nat) (f : Role → Role) : (s.modRole k f).telData = s.telData := by unfold State.modRole; split <;> rfl
@[simp] theorem State.modRole_telStat (s : State) (k : Nat) (f : Role → Role) : (s.modRole k f).telStat = s.telStat := by unfold State.modRole; split <;> rfl
@[simp] theorem State.modRole_life (s : State) (k : Nat) (f : Role → Role) : (s.modRole k f).life = s.life := by unfold State.modRole; split <;> rfl
@[simp] theorem State.modRole_throttled (s : State) (k : Nat) (f : Role → Role) : (s.modRole k f).throttled = s.throttled := by unfold State.modRole; split <;> rfl
@[simp] theorem State.modRole_lost (s : State) (k : Nat) (f : Role → Role) : (s.modRole k f).lost = s.lost := by unfold State.modRole; split <;> rfl
@[simp] theorem State.modRole_out (s : State) (k : Nat) (f : Role → Role) : (s.modRole k f).out = s.out := by unfold State.modRole; split <;> rfl

/-! ## modTeam -/

@[simp] theorem State.modTeam_agenda (s : State) (k : Nat) (f : Team → Team) : (s.modTeam k f).agenda = s.agenda := by unfold State.modTeam; split <;> rfl
@[simp] theorem State.modTeam_cur (s : State) (k : Nat) (f : Team → Team) : (s.modTeam k f).cur = s.cur := by unfold State.modTeam; split <;> rfl
@[simp] theorem State.modTeam_turn (s : State) (k : Nat) (f : Team → Team) : (s.modTeam k f).turn = s.turn := by unfold State.modTeam; split <;> rfl
@[simp] theorem State.modTeam_free (s : State) (k : Nat) (f : Team → Team) : (s.modTeam k f).free = s.free := by unfold State.modTeam; split <;> rfl
@[simp] theorem State.modTeam_next (s : State) (k : Nat) (f : Team → Team) : (s.modTeam k f).next = s.next := by unfold State.modTeam; split <;> rfl
@[simp] theorem State.modTeam_clock (s : State) (k : Nat) (f : Team → Team) : (s.modTeam k f).clock = s.clock := by unfold State.modTeam; split <;> rfl
@[simp] theorem State.modTeam_roles (s : State) (k : Nat) (f : Team → Team) : (s.modTeam k f).roles = s.roles := by unfold State.modTeam; split <;> rfl
@[simp] theorem State.modTeam_cores (s : State) (k : Nat) (f : Team → Team) : (s.modTeam k f).cores = s.cores := by unfold State.modTeam; split <;> rfl
@[simp] theorem State.modTeam_plots (s : State) (k : Nat) (f : Team → Team) : (s.modTeam k f).plots = s.plots := by unfold State.modTeam; split <;> rfl
@[simp] theorem State.modTeam_sets (s : State) (k : Nat) (f : Team → Team) : (s.modTeam k f).sets = s.sets := by unfold State.modTeam; split <;> rfl
@[simp] theorem State.modTeam_saved (s : State) (k : Nat) (f : Team → Team) : (s.modTeam k f).saved = s.saved := by unfold State.modTeam; split <;> rfl
@[simp] theorem State.modTeam_ops (s : State) (k : Nat) (f : Team → Team) : (s.modTeam k f).ops = s.ops := by unfold State.modTeam; split <;> rfl
@[simp] theorem State.modTeam_mats (s : State) (k : Nat) (f : Team → Team) : (s.modTeam k f).mats = s.mats := by unfold State.modTeam; split <;> rfl
@[simp] theorem State.modTeam_watch (s : State) (k : Nat) (f : Team → Team) : (s.modTeam k f).watch = s.watch := by unfold State.modTeam; split <;> rfl
@[simp] theorem State.modTeam_ram (s : State) (k : Nat) (f : Team → Team) : (s.modTeam k f).ram = s.ram := by unfold State.modTeam; split <;> rfl
@[simp] theorem State.modTeam_hostMem (s : State) (k : Nat) (f : Team → Team) : (s.modTeam k f).hostMem = s.hostMem := by unfold State.modTeam; split <;> rfl
@[simp] theorem State.modTeam_hy (s : State) (k : Nat) (f : Team → Team) : (s.modTeam k f).hy = s.hy := by unfold State.modTeam; split <;> rfl
@[simp] theorem State.modTeam_poison (s : State) (k : Nat) (f : Team → Team) : (s.modTeam k f).poison = s.poison := by unfold State.modTeam; split <;> rfl
@[simp] theorem State.modTeam_replicas (s : State) (k : Nat) (f : Team → Team) : (s.modTeam k f).replicas = s.replicas := by unfold State.modTeam; split <;> rfl
@[simp] theorem State.modTeam_tlb2 (s : State) (k : Nat) (f : Team → Team) : (s.modTeam k f).tlb2 = s.tlb2 := by unfold State.modTeam; split <;> rfl
@[simp] theorem State.modTeam_ifaces (s : State) (k : Nat) (f : Team → Team) : (s.modTeam k f).ifaces = s.ifaces := by unfold State.modTeam; split <;> rfl
@[simp] theorem State.modTeam_queues (s : State) (k : Nat) (f : Team → Team) : (s.modTeam k f).queues = s.queues := by unfold State.modTeam; split <;> rfl
@[simp] theorem State.modTeam_recs (s : State) (k : Nat) (f : Team → Team) : (s.modTeam k f).recs = s.recs := by unfold State.modTeam; split <;> rfl
@[simp] theorem State.modTeam_vierr (s : State) (k : Nat) (f : Team → Team) : (s.modTeam k f).vierr = s.vierr := by unfold State.modTeam; split <;> rfl
@[simp] theorem State.modTeam_ctxPlot (s : State) (k : Nat) (f : Team → Team) : (s.modTeam k f).ctxPlot = s.ctxPlot := by unfold State.modTeam; split <;> rfl
@[simp] theorem State.modTeam_ctxTeams (s : State) (k : Nat) (f : Team → Team) : (s.modTeam k f).ctxTeams = s.ctxTeams := by unfold State.modTeam; split <;> rfl
@[simp] theorem State.modTeam_ctxBusy (s : State) (k : Nat) (f : Team → Team) : (s.modTeam k f).ctxBusy = s.ctxBusy := by unfold State.modTeam; split <;> rfl
@[simp] theorem State.modTeam_ctxPartial (s : State) (k : Nat) (f : Team → Team) : (s.modTeam k f).ctxPartial = s.ctxPartial := by unfold State.modTeam; split <;> rfl
@[simp] theorem State.modTeam_ctxNotFound (s : State) (k : Nat) (f : Team → Team) : (s.modTeam k f).ctxNotFound = s.ctxNotFound := by unfold State.modTeam; split <;> rfl
@[simp] theorem State.modTeam_ctxDone (s : State) (k : Nat) (f : Team → Team) : (s.modTeam k f).ctxDone = s.ctxDone := by unfold State.modTeam; split <;> rfl
@[simp] theorem State.modTeam_cam (s : State) (k : Nat) (f : Team → Team) : (s.modTeam k f).cam = s.cam := by unfold State.modTeam; split <;> rfl
@[simp] theorem State.modTeam_pods (s : State) (k : Nat) (f : Team → Team) : (s.modTeam k f).pods = s.pods := by unfold State.modTeam; split <;> rfl
@[simp] theorem State.modTeam_paths (s : State) (k : Nat) (f : Team → Team) : (s.modTeam k f).paths = s.paths := by unfold State.modTeam; split <;> rfl
@[simp] theorem State.modTeam_regions (s : State) (k : Nat) (f : Team → Team) : (s.modTeam k f).regions = s.regions := by unfold State.modTeam; split <;> rfl
@[simp] theorem State.modTeam_outPkts (s : State) (k : Nat) (f : Team → Team) : (s.modTeam k f).outPkts = s.outPkts := by unfold State.modTeam; split <;> rfl
@[simp] theorem State.modTeam_placed (s : State) (k : Nat) (f : Team → Team) : (s.modTeam k f).placed = s.placed := by unfold State.modTeam; split <;> rfl
@[simp] theorem State.modTeam_waitPkts (s : State) (k : Nat) (f : Team → Team) : (s.modTeam k f).waitPkts = s.waitPkts := by unfold State.modTeam; split <;> rfl
@[simp] theorem State.modTeam_fenceTab (s : State) (k : Nat) (f : Team → Team) : (s.modTeam k f).fenceTab = s.fenceTab := by unfold State.modTeam; split <;> rfl
@[simp] theorem State.modTeam_colls (s : State) (k : Nat) (f : Team → Team) : (s.modTeam k f).colls = s.colls := by unfold State.modTeam; split <;> rfl
@[simp] theorem State.modTeam_contribs (s : State) (k : Nat) (f : Team → Team) : (s.modTeam k f).contribs = s.contribs := by unfold State.modTeam; split <;> rfl
@[simp] theorem State.modTeam_outContribs (s : State) (k : Nat) (f : Team → Team) : (s.modTeam k f).outContribs = s.outContribs := by unfold State.modTeam; split <;> rfl
@[simp] theorem State.modTeam_stall (s : State) (k : Nat) (f : Team → Team) : (s.modTeam k f).stall = s.stall := by unfold State.modTeam; split <;> rfl
@[simp] theorem State.modTeam_rank (s : State) (k : Nat) (f : Team → Team) : (s.modTeam k f).rank = s.rank := by unfold State.modTeam; split <;> rfl
@[simp] theorem State.modTeam_worldMap (s : State) (k : Nat) (f : Team → Team) : (s.modTeam k f).worldMap = s.worldMap := by unfold State.modTeam; split <;> rfl
@[simp] theorem State.modTeam_worldBusy (s : State) (k : Nat) (f : Team → Team) : (s.modTeam k f).worldBusy = s.worldBusy := by unfold State.modTeam; split <;> rfl
@[simp] theorem State.modTeam_worldRefused (s : State) (k : Nat) (f : Team → Team) : (s.modTeam k f).worldRefused = s.worldRefused := by unfold State.modTeam; split <;> rfl
@[simp] theorem State.modTeam_worldDone (s : State) (k : Nat) (f : Team → Team) : (s.modTeam k f).worldDone = s.worldDone := by unfold State.modTeam; split <;> rfl
@[simp] theorem State.modTeam_epochs (s : State) (k : Nat) (f : Team → Team) : (s.modTeam k f).epochs = s.epochs := by unfold State.modTeam; split <;> rfl
@[simp] theorem State.modTeam_rekeying (s : State) (k : Nat) (f : Team → Team) : (s.modTeam k f).rekeying = s.rekeying := by unfold State.modTeam; split <;> rfl
@[simp] theorem State.modTeam_bootStat (s : State) (k : Nat) (f : Team → Team) : (s.modTeam k f).bootStat = s.bootStat := by unfold State.modTeam; split <;> rfl
@[simp] theorem State.modTeam_meas (s : State) (k : Nat) (f : Team → Team) : (s.modTeam k f).meas = s.meas := by unfold State.modTeam; split <;> rfl
@[simp] theorem State.modTeam_digest (s : State) (k : Nat) (f : Team → Team) : (s.modTeam k f).digest = s.digest := by unfold State.modTeam; split <;> rfl
@[simp] theorem State.modTeam_lockboot (s : State) (k : Nat) (f : Team → Team) : (s.modTeam k f).lockboot = s.lockboot := by unfold State.modTeam; split <;> rfl
@[simp] theorem State.modTeam_mstat (s : State) (k : Nat) (f : Team → Team) : (s.modTeam k f).mstat = s.mstat := by unfold State.modTeam; split <;> rfl
@[simp] theorem State.modTeam_responders (s : State) (k : Nat) (f : Team → Team) : (s.modTeam k f).responders = s.responders := by unfold State.modTeam; split <;> rfl
@[simp] theorem State.modTeam_telSel (s : State) (k : Nat) (f : Team → Team) : (s.modTeam k f).telSel = s.telSel := by unfold State.modTeam; split <;> rfl
@[simp] theorem State.modTeam_telData (s : State) (k : Nat) (f : Team → Team) : (s.modTeam k f).telData = s.telData := by unfold State.modTeam; split <;> rfl
@[simp] theorem State.modTeam_telStat (s : State) (k : Nat) (f : Team → Team) : (s.modTeam k f).telStat = s.telStat := by unfold State.modTeam; split <;> rfl
@[simp] theorem State.modTeam_life (s : State) (k : Nat) (f : Team → Team) : (s.modTeam k f).life = s.life := by unfold State.modTeam; split <;> rfl
@[simp] theorem State.modTeam_throttled (s : State) (k : Nat) (f : Team → Team) : (s.modTeam k f).throttled = s.throttled := by unfold State.modTeam; split <;> rfl
@[simp] theorem State.modTeam_lost (s : State) (k : Nat) (f : Team → Team) : (s.modTeam k f).lost = s.lost := by unfold State.modTeam; split <;> rfl
@[simp] theorem State.modTeam_out (s : State) (k : Nat) (f : Team → Team) : (s.modTeam k f).out = s.out := by unfold State.modTeam; split <;> rfl

/-! ## modCore -/

@[simp] theorem State.modCore_agenda (s : State) (k : Nat) (f : Core → Core) : (s.modCore k f).agenda = s.agenda := rfl
@[simp] theorem State.modCore_cur (s : State) (k : Nat) (f : Core → Core) : (s.modCore k f).cur = s.cur := rfl
@[simp] theorem State.modCore_turn (s : State) (k : Nat) (f : Core → Core) : (s.modCore k f).turn = s.turn := rfl
@[simp] theorem State.modCore_free (s : State) (k : Nat) (f : Core → Core) : (s.modCore k f).free = s.free := rfl
@[simp] theorem State.modCore_next (s : State) (k : Nat) (f : Core → Core) : (s.modCore k f).next = s.next := rfl
@[simp] theorem State.modCore_clock (s : State) (k : Nat) (f : Core → Core) : (s.modCore k f).clock = s.clock := rfl
@[simp] theorem State.modCore_roles (s : State) (k : Nat) (f : Core → Core) : (s.modCore k f).roles = s.roles := rfl
@[simp] theorem State.modCore_teams (s : State) (k : Nat) (f : Core → Core) : (s.modCore k f).teams = s.teams := rfl
@[simp] theorem State.modCore_plots (s : State) (k : Nat) (f : Core → Core) : (s.modCore k f).plots = s.plots := rfl
@[simp] theorem State.modCore_sets (s : State) (k : Nat) (f : Core → Core) : (s.modCore k f).sets = s.sets := rfl
@[simp] theorem State.modCore_saved (s : State) (k : Nat) (f : Core → Core) : (s.modCore k f).saved = s.saved := rfl
@[simp] theorem State.modCore_ops (s : State) (k : Nat) (f : Core → Core) : (s.modCore k f).ops = s.ops := rfl
@[simp] theorem State.modCore_mats (s : State) (k : Nat) (f : Core → Core) : (s.modCore k f).mats = s.mats := rfl
@[simp] theorem State.modCore_watch (s : State) (k : Nat) (f : Core → Core) : (s.modCore k f).watch = s.watch := rfl
@[simp] theorem State.modCore_ram (s : State) (k : Nat) (f : Core → Core) : (s.modCore k f).ram = s.ram := rfl
@[simp] theorem State.modCore_hostMem (s : State) (k : Nat) (f : Core → Core) : (s.modCore k f).hostMem = s.hostMem := rfl
@[simp] theorem State.modCore_hy (s : State) (k : Nat) (f : Core → Core) : (s.modCore k f).hy = s.hy := rfl
@[simp] theorem State.modCore_poison (s : State) (k : Nat) (f : Core → Core) : (s.modCore k f).poison = s.poison := rfl
@[simp] theorem State.modCore_replicas (s : State) (k : Nat) (f : Core → Core) : (s.modCore k f).replicas = s.replicas := rfl
@[simp] theorem State.modCore_tlb2 (s : State) (k : Nat) (f : Core → Core) : (s.modCore k f).tlb2 = s.tlb2 := rfl
@[simp] theorem State.modCore_ifaces (s : State) (k : Nat) (f : Core → Core) : (s.modCore k f).ifaces = s.ifaces := rfl
@[simp] theorem State.modCore_queues (s : State) (k : Nat) (f : Core → Core) : (s.modCore k f).queues = s.queues := rfl
@[simp] theorem State.modCore_recs (s : State) (k : Nat) (f : Core → Core) : (s.modCore k f).recs = s.recs := rfl
@[simp] theorem State.modCore_vierr (s : State) (k : Nat) (f : Core → Core) : (s.modCore k f).vierr = s.vierr := rfl
@[simp] theorem State.modCore_ctxPlot (s : State) (k : Nat) (f : Core → Core) : (s.modCore k f).ctxPlot = s.ctxPlot := rfl
@[simp] theorem State.modCore_ctxTeams (s : State) (k : Nat) (f : Core → Core) : (s.modCore k f).ctxTeams = s.ctxTeams := rfl
@[simp] theorem State.modCore_ctxBusy (s : State) (k : Nat) (f : Core → Core) : (s.modCore k f).ctxBusy = s.ctxBusy := rfl
@[simp] theorem State.modCore_ctxPartial (s : State) (k : Nat) (f : Core → Core) : (s.modCore k f).ctxPartial = s.ctxPartial := rfl
@[simp] theorem State.modCore_ctxNotFound (s : State) (k : Nat) (f : Core → Core) : (s.modCore k f).ctxNotFound = s.ctxNotFound := rfl
@[simp] theorem State.modCore_ctxDone (s : State) (k : Nat) (f : Core → Core) : (s.modCore k f).ctxDone = s.ctxDone := rfl
@[simp] theorem State.modCore_cam (s : State) (k : Nat) (f : Core → Core) : (s.modCore k f).cam = s.cam := rfl
@[simp] theorem State.modCore_pods (s : State) (k : Nat) (f : Core → Core) : (s.modCore k f).pods = s.pods := rfl
@[simp] theorem State.modCore_paths (s : State) (k : Nat) (f : Core → Core) : (s.modCore k f).paths = s.paths := rfl
@[simp] theorem State.modCore_regions (s : State) (k : Nat) (f : Core → Core) : (s.modCore k f).regions = s.regions := rfl
@[simp] theorem State.modCore_outPkts (s : State) (k : Nat) (f : Core → Core) : (s.modCore k f).outPkts = s.outPkts := rfl
@[simp] theorem State.modCore_placed (s : State) (k : Nat) (f : Core → Core) : (s.modCore k f).placed = s.placed := rfl
@[simp] theorem State.modCore_waitPkts (s : State) (k : Nat) (f : Core → Core) : (s.modCore k f).waitPkts = s.waitPkts := rfl
@[simp] theorem State.modCore_fenceTab (s : State) (k : Nat) (f : Core → Core) : (s.modCore k f).fenceTab = s.fenceTab := rfl
@[simp] theorem State.modCore_colls (s : State) (k : Nat) (f : Core → Core) : (s.modCore k f).colls = s.colls := rfl
@[simp] theorem State.modCore_contribs (s : State) (k : Nat) (f : Core → Core) : (s.modCore k f).contribs = s.contribs := rfl
@[simp] theorem State.modCore_outContribs (s : State) (k : Nat) (f : Core → Core) : (s.modCore k f).outContribs = s.outContribs := rfl
@[simp] theorem State.modCore_stall (s : State) (k : Nat) (f : Core → Core) : (s.modCore k f).stall = s.stall := rfl
@[simp] theorem State.modCore_rank (s : State) (k : Nat) (f : Core → Core) : (s.modCore k f).rank = s.rank := rfl
@[simp] theorem State.modCore_worldMap (s : State) (k : Nat) (f : Core → Core) : (s.modCore k f).worldMap = s.worldMap := rfl
@[simp] theorem State.modCore_worldBusy (s : State) (k : Nat) (f : Core → Core) : (s.modCore k f).worldBusy = s.worldBusy := rfl
@[simp] theorem State.modCore_worldRefused (s : State) (k : Nat) (f : Core → Core) : (s.modCore k f).worldRefused = s.worldRefused := rfl
@[simp] theorem State.modCore_worldDone (s : State) (k : Nat) (f : Core → Core) : (s.modCore k f).worldDone = s.worldDone := rfl
@[simp] theorem State.modCore_epochs (s : State) (k : Nat) (f : Core → Core) : (s.modCore k f).epochs = s.epochs := rfl
@[simp] theorem State.modCore_rekeying (s : State) (k : Nat) (f : Core → Core) : (s.modCore k f).rekeying = s.rekeying := rfl
@[simp] theorem State.modCore_bootStat (s : State) (k : Nat) (f : Core → Core) : (s.modCore k f).bootStat = s.bootStat := rfl
@[simp] theorem State.modCore_meas (s : State) (k : Nat) (f : Core → Core) : (s.modCore k f).meas = s.meas := rfl
@[simp] theorem State.modCore_digest (s : State) (k : Nat) (f : Core → Core) : (s.modCore k f).digest = s.digest := rfl
@[simp] theorem State.modCore_lockboot (s : State) (k : Nat) (f : Core → Core) : (s.modCore k f).lockboot = s.lockboot := rfl
@[simp] theorem State.modCore_mstat (s : State) (k : Nat) (f : Core → Core) : (s.modCore k f).mstat = s.mstat := rfl
@[simp] theorem State.modCore_responders (s : State) (k : Nat) (f : Core → Core) : (s.modCore k f).responders = s.responders := rfl
@[simp] theorem State.modCore_telSel (s : State) (k : Nat) (f : Core → Core) : (s.modCore k f).telSel = s.telSel := rfl
@[simp] theorem State.modCore_telData (s : State) (k : Nat) (f : Core → Core) : (s.modCore k f).telData = s.telData := rfl
@[simp] theorem State.modCore_telStat (s : State) (k : Nat) (f : Core → Core) : (s.modCore k f).telStat = s.telStat := rfl
@[simp] theorem State.modCore_life (s : State) (k : Nat) (f : Core → Core) : (s.modCore k f).life = s.life := rfl
@[simp] theorem State.modCore_throttled (s : State) (k : Nat) (f : Core → Core) : (s.modCore k f).throttled = s.throttled := rfl
@[simp] theorem State.modCore_lost (s : State) (k : Nat) (f : Core → Core) : (s.modCore k f).lost = s.lost := rfl
@[simp] theorem State.modCore_out (s : State) (k : Nat) (f : Core → Core) : (s.modCore k f).out = s.out := rfl

/-! ## modIface -/

@[simp] theorem State.modIface_agenda (s : State) (k : Nat) (f : Iface → Iface) : (s.modIface k f).agenda = s.agenda := rfl
@[simp] theorem State.modIface_cur (s : State) (k : Nat) (f : Iface → Iface) : (s.modIface k f).cur = s.cur := rfl
@[simp] theorem State.modIface_turn (s : State) (k : Nat) (f : Iface → Iface) : (s.modIface k f).turn = s.turn := rfl
@[simp] theorem State.modIface_free (s : State) (k : Nat) (f : Iface → Iface) : (s.modIface k f).free = s.free := rfl
@[simp] theorem State.modIface_next (s : State) (k : Nat) (f : Iface → Iface) : (s.modIface k f).next = s.next := rfl
@[simp] theorem State.modIface_clock (s : State) (k : Nat) (f : Iface → Iface) : (s.modIface k f).clock = s.clock := rfl
@[simp] theorem State.modIface_roles (s : State) (k : Nat) (f : Iface → Iface) : (s.modIface k f).roles = s.roles := rfl
@[simp] theorem State.modIface_teams (s : State) (k : Nat) (f : Iface → Iface) : (s.modIface k f).teams = s.teams := rfl
@[simp] theorem State.modIface_cores (s : State) (k : Nat) (f : Iface → Iface) : (s.modIface k f).cores = s.cores := rfl
@[simp] theorem State.modIface_plots (s : State) (k : Nat) (f : Iface → Iface) : (s.modIface k f).plots = s.plots := rfl
@[simp] theorem State.modIface_sets (s : State) (k : Nat) (f : Iface → Iface) : (s.modIface k f).sets = s.sets := rfl
@[simp] theorem State.modIface_saved (s : State) (k : Nat) (f : Iface → Iface) : (s.modIface k f).saved = s.saved := rfl
@[simp] theorem State.modIface_ops (s : State) (k : Nat) (f : Iface → Iface) : (s.modIface k f).ops = s.ops := rfl
@[simp] theorem State.modIface_mats (s : State) (k : Nat) (f : Iface → Iface) : (s.modIface k f).mats = s.mats := rfl
@[simp] theorem State.modIface_watch (s : State) (k : Nat) (f : Iface → Iface) : (s.modIface k f).watch = s.watch := rfl
@[simp] theorem State.modIface_ram (s : State) (k : Nat) (f : Iface → Iface) : (s.modIface k f).ram = s.ram := rfl
@[simp] theorem State.modIface_hostMem (s : State) (k : Nat) (f : Iface → Iface) : (s.modIface k f).hostMem = s.hostMem := rfl
@[simp] theorem State.modIface_hy (s : State) (k : Nat) (f : Iface → Iface) : (s.modIface k f).hy = s.hy := rfl
@[simp] theorem State.modIface_poison (s : State) (k : Nat) (f : Iface → Iface) : (s.modIface k f).poison = s.poison := rfl
@[simp] theorem State.modIface_replicas (s : State) (k : Nat) (f : Iface → Iface) : (s.modIface k f).replicas = s.replicas := rfl
@[simp] theorem State.modIface_tlb2 (s : State) (k : Nat) (f : Iface → Iface) : (s.modIface k f).tlb2 = s.tlb2 := rfl
@[simp] theorem State.modIface_queues (s : State) (k : Nat) (f : Iface → Iface) : (s.modIface k f).queues = s.queues := rfl
@[simp] theorem State.modIface_recs (s : State) (k : Nat) (f : Iface → Iface) : (s.modIface k f).recs = s.recs := rfl
@[simp] theorem State.modIface_vierr (s : State) (k : Nat) (f : Iface → Iface) : (s.modIface k f).vierr = s.vierr := rfl
@[simp] theorem State.modIface_ctxPlot (s : State) (k : Nat) (f : Iface → Iface) : (s.modIface k f).ctxPlot = s.ctxPlot := rfl
@[simp] theorem State.modIface_ctxTeams (s : State) (k : Nat) (f : Iface → Iface) : (s.modIface k f).ctxTeams = s.ctxTeams := rfl
@[simp] theorem State.modIface_ctxBusy (s : State) (k : Nat) (f : Iface → Iface) : (s.modIface k f).ctxBusy = s.ctxBusy := rfl
@[simp] theorem State.modIface_ctxPartial (s : State) (k : Nat) (f : Iface → Iface) : (s.modIface k f).ctxPartial = s.ctxPartial := rfl
@[simp] theorem State.modIface_ctxNotFound (s : State) (k : Nat) (f : Iface → Iface) : (s.modIface k f).ctxNotFound = s.ctxNotFound := rfl
@[simp] theorem State.modIface_ctxDone (s : State) (k : Nat) (f : Iface → Iface) : (s.modIface k f).ctxDone = s.ctxDone := rfl
@[simp] theorem State.modIface_cam (s : State) (k : Nat) (f : Iface → Iface) : (s.modIface k f).cam = s.cam := rfl
@[simp] theorem State.modIface_pods (s : State) (k : Nat) (f : Iface → Iface) : (s.modIface k f).pods = s.pods := rfl
@[simp] theorem State.modIface_paths (s : State) (k : Nat) (f : Iface → Iface) : (s.modIface k f).paths = s.paths := rfl
@[simp] theorem State.modIface_regions (s : State) (k : Nat) (f : Iface → Iface) : (s.modIface k f).regions = s.regions := rfl
@[simp] theorem State.modIface_outPkts (s : State) (k : Nat) (f : Iface → Iface) : (s.modIface k f).outPkts = s.outPkts := rfl
@[simp] theorem State.modIface_placed (s : State) (k : Nat) (f : Iface → Iface) : (s.modIface k f).placed = s.placed := rfl
@[simp] theorem State.modIface_waitPkts (s : State) (k : Nat) (f : Iface → Iface) : (s.modIface k f).waitPkts = s.waitPkts := rfl
@[simp] theorem State.modIface_fenceTab (s : State) (k : Nat) (f : Iface → Iface) : (s.modIface k f).fenceTab = s.fenceTab := rfl
@[simp] theorem State.modIface_colls (s : State) (k : Nat) (f : Iface → Iface) : (s.modIface k f).colls = s.colls := rfl
@[simp] theorem State.modIface_contribs (s : State) (k : Nat) (f : Iface → Iface) : (s.modIface k f).contribs = s.contribs := rfl
@[simp] theorem State.modIface_outContribs (s : State) (k : Nat) (f : Iface → Iface) : (s.modIface k f).outContribs = s.outContribs := rfl
@[simp] theorem State.modIface_stall (s : State) (k : Nat) (f : Iface → Iface) : (s.modIface k f).stall = s.stall := rfl
@[simp] theorem State.modIface_rank (s : State) (k : Nat) (f : Iface → Iface) : (s.modIface k f).rank = s.rank := rfl
@[simp] theorem State.modIface_worldMap (s : State) (k : Nat) (f : Iface → Iface) : (s.modIface k f).worldMap = s.worldMap := rfl
@[simp] theorem State.modIface_worldBusy (s : State) (k : Nat) (f : Iface → Iface) : (s.modIface k f).worldBusy = s.worldBusy := rfl
@[simp] theorem State.modIface_worldRefused (s : State) (k : Nat) (f : Iface → Iface) : (s.modIface k f).worldRefused = s.worldRefused := rfl
@[simp] theorem State.modIface_worldDone (s : State) (k : Nat) (f : Iface → Iface) : (s.modIface k f).worldDone = s.worldDone := rfl
@[simp] theorem State.modIface_epochs (s : State) (k : Nat) (f : Iface → Iface) : (s.modIface k f).epochs = s.epochs := rfl
@[simp] theorem State.modIface_rekeying (s : State) (k : Nat) (f : Iface → Iface) : (s.modIface k f).rekeying = s.rekeying := rfl
@[simp] theorem State.modIface_bootStat (s : State) (k : Nat) (f : Iface → Iface) : (s.modIface k f).bootStat = s.bootStat := rfl
@[simp] theorem State.modIface_meas (s : State) (k : Nat) (f : Iface → Iface) : (s.modIface k f).meas = s.meas := rfl
@[simp] theorem State.modIface_digest (s : State) (k : Nat) (f : Iface → Iface) : (s.modIface k f).digest = s.digest := rfl
@[simp] theorem State.modIface_lockboot (s : State) (k : Nat) (f : Iface → Iface) : (s.modIface k f).lockboot = s.lockboot := rfl
@[simp] theorem State.modIface_mstat (s : State) (k : Nat) (f : Iface → Iface) : (s.modIface k f).mstat = s.mstat := rfl
@[simp] theorem State.modIface_responders (s : State) (k : Nat) (f : Iface → Iface) : (s.modIface k f).responders = s.responders := rfl
@[simp] theorem State.modIface_telSel (s : State) (k : Nat) (f : Iface → Iface) : (s.modIface k f).telSel = s.telSel := rfl
@[simp] theorem State.modIface_telData (s : State) (k : Nat) (f : Iface → Iface) : (s.modIface k f).telData = s.telData := rfl
@[simp] theorem State.modIface_telStat (s : State) (k : Nat) (f : Iface → Iface) : (s.modIface k f).telStat = s.telStat := rfl
@[simp] theorem State.modIface_life (s : State) (k : Nat) (f : Iface → Iface) : (s.modIface k f).life = s.life := rfl
@[simp] theorem State.modIface_throttled (s : State) (k : Nat) (f : Iface → Iface) : (s.modIface k f).throttled = s.throttled := rfl
@[simp] theorem State.modIface_lost (s : State) (k : Nat) (f : Iface → Iface) : (s.modIface k f).lost = s.lost := rfl
@[simp] theorem State.modIface_out (s : State) (k : Nat) (f : Iface → Iface) : (s.modIface k f).out = s.out := rfl

/-! ## modQueue -/

@[simp] theorem State.modQueue_agenda (s : State) (k : Nat) (f : Queue → Queue) : (s.modQueue k f).agenda = s.agenda := rfl
@[simp] theorem State.modQueue_cur (s : State) (k : Nat) (f : Queue → Queue) : (s.modQueue k f).cur = s.cur := rfl
@[simp] theorem State.modQueue_turn (s : State) (k : Nat) (f : Queue → Queue) : (s.modQueue k f).turn = s.turn := rfl
@[simp] theorem State.modQueue_free (s : State) (k : Nat) (f : Queue → Queue) : (s.modQueue k f).free = s.free := rfl
@[simp] theorem State.modQueue_next (s : State) (k : Nat) (f : Queue → Queue) : (s.modQueue k f).next = s.next := rfl
@[simp] theorem State.modQueue_clock (s : State) (k : Nat) (f : Queue → Queue) : (s.modQueue k f).clock = s.clock := rfl
@[simp] theorem State.modQueue_roles (s : State) (k : Nat) (f : Queue → Queue) : (s.modQueue k f).roles = s.roles := rfl
@[simp] theorem State.modQueue_teams (s : State) (k : Nat) (f : Queue → Queue) : (s.modQueue k f).teams = s.teams := rfl
@[simp] theorem State.modQueue_cores (s : State) (k : Nat) (f : Queue → Queue) : (s.modQueue k f).cores = s.cores := rfl
@[simp] theorem State.modQueue_plots (s : State) (k : Nat) (f : Queue → Queue) : (s.modQueue k f).plots = s.plots := rfl
@[simp] theorem State.modQueue_sets (s : State) (k : Nat) (f : Queue → Queue) : (s.modQueue k f).sets = s.sets := rfl
@[simp] theorem State.modQueue_saved (s : State) (k : Nat) (f : Queue → Queue) : (s.modQueue k f).saved = s.saved := rfl
@[simp] theorem State.modQueue_ops (s : State) (k : Nat) (f : Queue → Queue) : (s.modQueue k f).ops = s.ops := rfl
@[simp] theorem State.modQueue_mats (s : State) (k : Nat) (f : Queue → Queue) : (s.modQueue k f).mats = s.mats := rfl
@[simp] theorem State.modQueue_watch (s : State) (k : Nat) (f : Queue → Queue) : (s.modQueue k f).watch = s.watch := rfl
@[simp] theorem State.modQueue_ram (s : State) (k : Nat) (f : Queue → Queue) : (s.modQueue k f).ram = s.ram := rfl
@[simp] theorem State.modQueue_hostMem (s : State) (k : Nat) (f : Queue → Queue) : (s.modQueue k f).hostMem = s.hostMem := rfl
@[simp] theorem State.modQueue_hy (s : State) (k : Nat) (f : Queue → Queue) : (s.modQueue k f).hy = s.hy := rfl
@[simp] theorem State.modQueue_poison (s : State) (k : Nat) (f : Queue → Queue) : (s.modQueue k f).poison = s.poison := rfl
@[simp] theorem State.modQueue_replicas (s : State) (k : Nat) (f : Queue → Queue) : (s.modQueue k f).replicas = s.replicas := rfl
@[simp] theorem State.modQueue_tlb2 (s : State) (k : Nat) (f : Queue → Queue) : (s.modQueue k f).tlb2 = s.tlb2 := rfl
@[simp] theorem State.modQueue_ifaces (s : State) (k : Nat) (f : Queue → Queue) : (s.modQueue k f).ifaces = s.ifaces := rfl
@[simp] theorem State.modQueue_recs (s : State) (k : Nat) (f : Queue → Queue) : (s.modQueue k f).recs = s.recs := rfl
@[simp] theorem State.modQueue_vierr (s : State) (k : Nat) (f : Queue → Queue) : (s.modQueue k f).vierr = s.vierr := rfl
@[simp] theorem State.modQueue_ctxPlot (s : State) (k : Nat) (f : Queue → Queue) : (s.modQueue k f).ctxPlot = s.ctxPlot := rfl
@[simp] theorem State.modQueue_ctxTeams (s : State) (k : Nat) (f : Queue → Queue) : (s.modQueue k f).ctxTeams = s.ctxTeams := rfl
@[simp] theorem State.modQueue_ctxBusy (s : State) (k : Nat) (f : Queue → Queue) : (s.modQueue k f).ctxBusy = s.ctxBusy := rfl
@[simp] theorem State.modQueue_ctxPartial (s : State) (k : Nat) (f : Queue → Queue) : (s.modQueue k f).ctxPartial = s.ctxPartial := rfl
@[simp] theorem State.modQueue_ctxNotFound (s : State) (k : Nat) (f : Queue → Queue) : (s.modQueue k f).ctxNotFound = s.ctxNotFound := rfl
@[simp] theorem State.modQueue_ctxDone (s : State) (k : Nat) (f : Queue → Queue) : (s.modQueue k f).ctxDone = s.ctxDone := rfl
@[simp] theorem State.modQueue_cam (s : State) (k : Nat) (f : Queue → Queue) : (s.modQueue k f).cam = s.cam := rfl
@[simp] theorem State.modQueue_pods (s : State) (k : Nat) (f : Queue → Queue) : (s.modQueue k f).pods = s.pods := rfl
@[simp] theorem State.modQueue_paths (s : State) (k : Nat) (f : Queue → Queue) : (s.modQueue k f).paths = s.paths := rfl
@[simp] theorem State.modQueue_regions (s : State) (k : Nat) (f : Queue → Queue) : (s.modQueue k f).regions = s.regions := rfl
@[simp] theorem State.modQueue_outPkts (s : State) (k : Nat) (f : Queue → Queue) : (s.modQueue k f).outPkts = s.outPkts := rfl
@[simp] theorem State.modQueue_placed (s : State) (k : Nat) (f : Queue → Queue) : (s.modQueue k f).placed = s.placed := rfl
@[simp] theorem State.modQueue_waitPkts (s : State) (k : Nat) (f : Queue → Queue) : (s.modQueue k f).waitPkts = s.waitPkts := rfl
@[simp] theorem State.modQueue_fenceTab (s : State) (k : Nat) (f : Queue → Queue) : (s.modQueue k f).fenceTab = s.fenceTab := rfl
@[simp] theorem State.modQueue_colls (s : State) (k : Nat) (f : Queue → Queue) : (s.modQueue k f).colls = s.colls := rfl
@[simp] theorem State.modQueue_contribs (s : State) (k : Nat) (f : Queue → Queue) : (s.modQueue k f).contribs = s.contribs := rfl
@[simp] theorem State.modQueue_outContribs (s : State) (k : Nat) (f : Queue → Queue) : (s.modQueue k f).outContribs = s.outContribs := rfl
@[simp] theorem State.modQueue_stall (s : State) (k : Nat) (f : Queue → Queue) : (s.modQueue k f).stall = s.stall := rfl
@[simp] theorem State.modQueue_rank (s : State) (k : Nat) (f : Queue → Queue) : (s.modQueue k f).rank = s.rank := rfl
@[simp] theorem State.modQueue_worldMap (s : State) (k : Nat) (f : Queue → Queue) : (s.modQueue k f).worldMap = s.worldMap := rfl
@[simp] theorem State.modQueue_worldBusy (s : State) (k : Nat) (f : Queue → Queue) : (s.modQueue k f).worldBusy = s.worldBusy := rfl
@[simp] theorem State.modQueue_worldRefused (s : State) (k : Nat) (f : Queue → Queue) : (s.modQueue k f).worldRefused = s.worldRefused := rfl
@[simp] theorem State.modQueue_worldDone (s : State) (k : Nat) (f : Queue → Queue) : (s.modQueue k f).worldDone = s.worldDone := rfl
@[simp] theorem State.modQueue_epochs (s : State) (k : Nat) (f : Queue → Queue) : (s.modQueue k f).epochs = s.epochs := rfl
@[simp] theorem State.modQueue_rekeying (s : State) (k : Nat) (f : Queue → Queue) : (s.modQueue k f).rekeying = s.rekeying := rfl
@[simp] theorem State.modQueue_bootStat (s : State) (k : Nat) (f : Queue → Queue) : (s.modQueue k f).bootStat = s.bootStat := rfl
@[simp] theorem State.modQueue_meas (s : State) (k : Nat) (f : Queue → Queue) : (s.modQueue k f).meas = s.meas := rfl
@[simp] theorem State.modQueue_digest (s : State) (k : Nat) (f : Queue → Queue) : (s.modQueue k f).digest = s.digest := rfl
@[simp] theorem State.modQueue_lockboot (s : State) (k : Nat) (f : Queue → Queue) : (s.modQueue k f).lockboot = s.lockboot := rfl
@[simp] theorem State.modQueue_mstat (s : State) (k : Nat) (f : Queue → Queue) : (s.modQueue k f).mstat = s.mstat := rfl
@[simp] theorem State.modQueue_responders (s : State) (k : Nat) (f : Queue → Queue) : (s.modQueue k f).responders = s.responders := rfl
@[simp] theorem State.modQueue_telSel (s : State) (k : Nat) (f : Queue → Queue) : (s.modQueue k f).telSel = s.telSel := rfl
@[simp] theorem State.modQueue_telData (s : State) (k : Nat) (f : Queue → Queue) : (s.modQueue k f).telData = s.telData := rfl
@[simp] theorem State.modQueue_telStat (s : State) (k : Nat) (f : Queue → Queue) : (s.modQueue k f).telStat = s.telStat := rfl
@[simp] theorem State.modQueue_life (s : State) (k : Nat) (f : Queue → Queue) : (s.modQueue k f).life = s.life := rfl
@[simp] theorem State.modQueue_throttled (s : State) (k : Nat) (f : Queue → Queue) : (s.modQueue k f).throttled = s.throttled := rfl
@[simp] theorem State.modQueue_lost (s : State) (k : Nat) (f : Queue → Queue) : (s.modQueue k f).lost = s.lost := rfl
@[simp] theorem State.modQueue_out (s : State) (k : Nat) (f : Queue → Queue) : (s.modQueue k f).out = s.out := rfl

/-! ## modPlot -/

@[simp] theorem State.modPlot_agenda (s : State) (k : Nat) (f : Plot → Plot) : (s.modPlot k f).agenda = s.agenda := by unfold State.modPlot; split <;> rfl
@[simp] theorem State.modPlot_cur (s : State) (k : Nat) (f : Plot → Plot) : (s.modPlot k f).cur = s.cur := by unfold State.modPlot; split <;> rfl
@[simp] theorem State.modPlot_turn (s : State) (k : Nat) (f : Plot → Plot) : (s.modPlot k f).turn = s.turn := by unfold State.modPlot; split <;> rfl
@[simp] theorem State.modPlot_free (s : State) (k : Nat) (f : Plot → Plot) : (s.modPlot k f).free = s.free := by unfold State.modPlot; split <;> rfl
@[simp] theorem State.modPlot_next (s : State) (k : Nat) (f : Plot → Plot) : (s.modPlot k f).next = s.next := by unfold State.modPlot; split <;> rfl
@[simp] theorem State.modPlot_clock (s : State) (k : Nat) (f : Plot → Plot) : (s.modPlot k f).clock = s.clock := by unfold State.modPlot; split <;> rfl
@[simp] theorem State.modPlot_roles (s : State) (k : Nat) (f : Plot → Plot) : (s.modPlot k f).roles = s.roles := by unfold State.modPlot; split <;> rfl
@[simp] theorem State.modPlot_teams (s : State) (k : Nat) (f : Plot → Plot) : (s.modPlot k f).teams = s.teams := by unfold State.modPlot; split <;> rfl
@[simp] theorem State.modPlot_cores (s : State) (k : Nat) (f : Plot → Plot) : (s.modPlot k f).cores = s.cores := by unfold State.modPlot; split <;> rfl
@[simp] theorem State.modPlot_sets (s : State) (k : Nat) (f : Plot → Plot) : (s.modPlot k f).sets = s.sets := by unfold State.modPlot; split <;> rfl
@[simp] theorem State.modPlot_saved (s : State) (k : Nat) (f : Plot → Plot) : (s.modPlot k f).saved = s.saved := by unfold State.modPlot; split <;> rfl
@[simp] theorem State.modPlot_ops (s : State) (k : Nat) (f : Plot → Plot) : (s.modPlot k f).ops = s.ops := by unfold State.modPlot; split <;> rfl
@[simp] theorem State.modPlot_mats (s : State) (k : Nat) (f : Plot → Plot) : (s.modPlot k f).mats = s.mats := by unfold State.modPlot; split <;> rfl
@[simp] theorem State.modPlot_watch (s : State) (k : Nat) (f : Plot → Plot) : (s.modPlot k f).watch = s.watch := by unfold State.modPlot; split <;> rfl
@[simp] theorem State.modPlot_ram (s : State) (k : Nat) (f : Plot → Plot) : (s.modPlot k f).ram = s.ram := by unfold State.modPlot; split <;> rfl
@[simp] theorem State.modPlot_hostMem (s : State) (k : Nat) (f : Plot → Plot) : (s.modPlot k f).hostMem = s.hostMem := by unfold State.modPlot; split <;> rfl
@[simp] theorem State.modPlot_hy (s : State) (k : Nat) (f : Plot → Plot) : (s.modPlot k f).hy = s.hy := by unfold State.modPlot; split <;> rfl
@[simp] theorem State.modPlot_poison (s : State) (k : Nat) (f : Plot → Plot) : (s.modPlot k f).poison = s.poison := by unfold State.modPlot; split <;> rfl
@[simp] theorem State.modPlot_replicas (s : State) (k : Nat) (f : Plot → Plot) : (s.modPlot k f).replicas = s.replicas := by unfold State.modPlot; split <;> rfl
@[simp] theorem State.modPlot_tlb2 (s : State) (k : Nat) (f : Plot → Plot) : (s.modPlot k f).tlb2 = s.tlb2 := by unfold State.modPlot; split <;> rfl
@[simp] theorem State.modPlot_ifaces (s : State) (k : Nat) (f : Plot → Plot) : (s.modPlot k f).ifaces = s.ifaces := by unfold State.modPlot; split <;> rfl
@[simp] theorem State.modPlot_queues (s : State) (k : Nat) (f : Plot → Plot) : (s.modPlot k f).queues = s.queues := by unfold State.modPlot; split <;> rfl
@[simp] theorem State.modPlot_recs (s : State) (k : Nat) (f : Plot → Plot) : (s.modPlot k f).recs = s.recs := by unfold State.modPlot; split <;> rfl
@[simp] theorem State.modPlot_vierr (s : State) (k : Nat) (f : Plot → Plot) : (s.modPlot k f).vierr = s.vierr := by unfold State.modPlot; split <;> rfl
@[simp] theorem State.modPlot_ctxPlot (s : State) (k : Nat) (f : Plot → Plot) : (s.modPlot k f).ctxPlot = s.ctxPlot := by unfold State.modPlot; split <;> rfl
@[simp] theorem State.modPlot_ctxTeams (s : State) (k : Nat) (f : Plot → Plot) : (s.modPlot k f).ctxTeams = s.ctxTeams := by unfold State.modPlot; split <;> rfl
@[simp] theorem State.modPlot_ctxBusy (s : State) (k : Nat) (f : Plot → Plot) : (s.modPlot k f).ctxBusy = s.ctxBusy := by unfold State.modPlot; split <;> rfl
@[simp] theorem State.modPlot_ctxPartial (s : State) (k : Nat) (f : Plot → Plot) : (s.modPlot k f).ctxPartial = s.ctxPartial := by unfold State.modPlot; split <;> rfl
@[simp] theorem State.modPlot_ctxNotFound (s : State) (k : Nat) (f : Plot → Plot) : (s.modPlot k f).ctxNotFound = s.ctxNotFound := by unfold State.modPlot; split <;> rfl
@[simp] theorem State.modPlot_ctxDone (s : State) (k : Nat) (f : Plot → Plot) : (s.modPlot k f).ctxDone = s.ctxDone := by unfold State.modPlot; split <;> rfl
@[simp] theorem State.modPlot_cam (s : State) (k : Nat) (f : Plot → Plot) : (s.modPlot k f).cam = s.cam := by unfold State.modPlot; split <;> rfl
@[simp] theorem State.modPlot_pods (s : State) (k : Nat) (f : Plot → Plot) : (s.modPlot k f).pods = s.pods := by unfold State.modPlot; split <;> rfl
@[simp] theorem State.modPlot_paths (s : State) (k : Nat) (f : Plot → Plot) : (s.modPlot k f).paths = s.paths := by unfold State.modPlot; split <;> rfl
@[simp] theorem State.modPlot_regions (s : State) (k : Nat) (f : Plot → Plot) : (s.modPlot k f).regions = s.regions := by unfold State.modPlot; split <;> rfl
@[simp] theorem State.modPlot_outPkts (s : State) (k : Nat) (f : Plot → Plot) : (s.modPlot k f).outPkts = s.outPkts := by unfold State.modPlot; split <;> rfl
@[simp] theorem State.modPlot_placed (s : State) (k : Nat) (f : Plot → Plot) : (s.modPlot k f).placed = s.placed := by unfold State.modPlot; split <;> rfl
@[simp] theorem State.modPlot_waitPkts (s : State) (k : Nat) (f : Plot → Plot) : (s.modPlot k f).waitPkts = s.waitPkts := by unfold State.modPlot; split <;> rfl
@[simp] theorem State.modPlot_fenceTab (s : State) (k : Nat) (f : Plot → Plot) : (s.modPlot k f).fenceTab = s.fenceTab := by unfold State.modPlot; split <;> rfl
@[simp] theorem State.modPlot_colls (s : State) (k : Nat) (f : Plot → Plot) : (s.modPlot k f).colls = s.colls := by unfold State.modPlot; split <;> rfl
@[simp] theorem State.modPlot_contribs (s : State) (k : Nat) (f : Plot → Plot) : (s.modPlot k f).contribs = s.contribs := by unfold State.modPlot; split <;> rfl
@[simp] theorem State.modPlot_outContribs (s : State) (k : Nat) (f : Plot → Plot) : (s.modPlot k f).outContribs = s.outContribs := by unfold State.modPlot; split <;> rfl
@[simp] theorem State.modPlot_stall (s : State) (k : Nat) (f : Plot → Plot) : (s.modPlot k f).stall = s.stall := by unfold State.modPlot; split <;> rfl
@[simp] theorem State.modPlot_rank (s : State) (k : Nat) (f : Plot → Plot) : (s.modPlot k f).rank = s.rank := by unfold State.modPlot; split <;> rfl
@[simp] theorem State.modPlot_worldMap (s : State) (k : Nat) (f : Plot → Plot) : (s.modPlot k f).worldMap = s.worldMap := by unfold State.modPlot; split <;> rfl
@[simp] theorem State.modPlot_worldBusy (s : State) (k : Nat) (f : Plot → Plot) : (s.modPlot k f).worldBusy = s.worldBusy := by unfold State.modPlot; split <;> rfl
@[simp] theorem State.modPlot_worldRefused (s : State) (k : Nat) (f : Plot → Plot) : (s.modPlot k f).worldRefused = s.worldRefused := by unfold State.modPlot; split <;> rfl
@[simp] theorem State.modPlot_worldDone (s : State) (k : Nat) (f : Plot → Plot) : (s.modPlot k f).worldDone = s.worldDone := by unfold State.modPlot; split <;> rfl
@[simp] theorem State.modPlot_epochs (s : State) (k : Nat) (f : Plot → Plot) : (s.modPlot k f).epochs = s.epochs := by unfold State.modPlot; split <;> rfl
@[simp] theorem State.modPlot_rekeying (s : State) (k : Nat) (f : Plot → Plot) : (s.modPlot k f).rekeying = s.rekeying := by unfold State.modPlot; split <;> rfl
@[simp] theorem State.modPlot_bootStat (s : State) (k : Nat) (f : Plot → Plot) : (s.modPlot k f).bootStat = s.bootStat := by unfold State.modPlot; split <;> rfl
@[simp] theorem State.modPlot_meas (s : State) (k : Nat) (f : Plot → Plot) : (s.modPlot k f).meas = s.meas := by unfold State.modPlot; split <;> rfl
@[simp] theorem State.modPlot_digest (s : State) (k : Nat) (f : Plot → Plot) : (s.modPlot k f).digest = s.digest := by unfold State.modPlot; split <;> rfl
@[simp] theorem State.modPlot_lockboot (s : State) (k : Nat) (f : Plot → Plot) : (s.modPlot k f).lockboot = s.lockboot := by unfold State.modPlot; split <;> rfl
@[simp] theorem State.modPlot_mstat (s : State) (k : Nat) (f : Plot → Plot) : (s.modPlot k f).mstat = s.mstat := by unfold State.modPlot; split <;> rfl
@[simp] theorem State.modPlot_responders (s : State) (k : Nat) (f : Plot → Plot) : (s.modPlot k f).responders = s.responders := by unfold State.modPlot; split <;> rfl
@[simp] theorem State.modPlot_telSel (s : State) (k : Nat) (f : Plot → Plot) : (s.modPlot k f).telSel = s.telSel := by unfold State.modPlot; split <;> rfl
@[simp] theorem State.modPlot_telData (s : State) (k : Nat) (f : Plot → Plot) : (s.modPlot k f).telData = s.telData := by unfold State.modPlot; split <;> rfl
@[simp] theorem State.modPlot_telStat (s : State) (k : Nat) (f : Plot → Plot) : (s.modPlot k f).telStat = s.telStat := by unfold State.modPlot; split <;> rfl
@[simp] theorem State.modPlot_life (s : State) (k : Nat) (f : Plot → Plot) : (s.modPlot k f).life = s.life := by unfold State.modPlot; split <;> rfl
@[simp] theorem State.modPlot_throttled (s : State) (k : Nat) (f : Plot → Plot) : (s.modPlot k f).throttled = s.throttled := by unfold State.modPlot; split <;> rfl
@[simp] theorem State.modPlot_lost (s : State) (k : Nat) (f : Plot → Plot) : (s.modPlot k f).lost = s.lost := by unfold State.modPlot; split <;> rfl
@[simp] theorem State.modPlot_out (s : State) (k : Nat) (f : Plot → Plot) : (s.modPlot k f).out = s.out := by unfold State.modPlot; split <;> rfl

/-! ## setMe -/

@[simp] theorem State.setMe_agenda (s : State) (x : Role) : (s.setMe x).agenda = s.agenda := rfl
@[simp] theorem State.setMe_cur (s : State) (x : Role) : (s.setMe x).cur = s.cur := rfl
@[simp] theorem State.setMe_turn (s : State) (x : Role) : (s.setMe x).turn = s.turn := rfl
@[simp] theorem State.setMe_free (s : State) (x : Role) : (s.setMe x).free = s.free := rfl
@[simp] theorem State.setMe_next (s : State) (x : Role) : (s.setMe x).next = s.next := rfl
@[simp] theorem State.setMe_clock (s : State) (x : Role) : (s.setMe x).clock = s.clock := rfl
@[simp] theorem State.setMe_teams (s : State) (x : Role) : (s.setMe x).teams = s.teams := rfl
@[simp] theorem State.setMe_cores (s : State) (x : Role) : (s.setMe x).cores = s.cores := rfl
@[simp] theorem State.setMe_plots (s : State) (x : Role) : (s.setMe x).plots = s.plots := rfl
@[simp] theorem State.setMe_sets (s : State) (x : Role) : (s.setMe x).sets = s.sets := rfl
@[simp] theorem State.setMe_saved (s : State) (x : Role) : (s.setMe x).saved = s.saved := rfl
@[simp] theorem State.setMe_ops (s : State) (x : Role) : (s.setMe x).ops = s.ops := rfl
@[simp] theorem State.setMe_mats (s : State) (x : Role) : (s.setMe x).mats = s.mats := rfl
@[simp] theorem State.setMe_watch (s : State) (x : Role) : (s.setMe x).watch = s.watch := rfl
@[simp] theorem State.setMe_ram (s : State) (x : Role) : (s.setMe x).ram = s.ram := rfl
@[simp] theorem State.setMe_hostMem (s : State) (x : Role) : (s.setMe x).hostMem = s.hostMem := rfl
@[simp] theorem State.setMe_hy (s : State) (x : Role) : (s.setMe x).hy = s.hy := rfl
@[simp] theorem State.setMe_poison (s : State) (x : Role) : (s.setMe x).poison = s.poison := rfl
@[simp] theorem State.setMe_replicas (s : State) (x : Role) : (s.setMe x).replicas = s.replicas := rfl
@[simp] theorem State.setMe_tlb2 (s : State) (x : Role) : (s.setMe x).tlb2 = s.tlb2 := rfl
@[simp] theorem State.setMe_ifaces (s : State) (x : Role) : (s.setMe x).ifaces = s.ifaces := rfl
@[simp] theorem State.setMe_queues (s : State) (x : Role) : (s.setMe x).queues = s.queues := rfl
@[simp] theorem State.setMe_recs (s : State) (x : Role) : (s.setMe x).recs = s.recs := rfl
@[simp] theorem State.setMe_vierr (s : State) (x : Role) : (s.setMe x).vierr = s.vierr := rfl
@[simp] theorem State.setMe_ctxPlot (s : State) (x : Role) : (s.setMe x).ctxPlot = s.ctxPlot := rfl
@[simp] theorem State.setMe_ctxTeams (s : State) (x : Role) : (s.setMe x).ctxTeams = s.ctxTeams := rfl
@[simp] theorem State.setMe_ctxBusy (s : State) (x : Role) : (s.setMe x).ctxBusy = s.ctxBusy := rfl
@[simp] theorem State.setMe_ctxPartial (s : State) (x : Role) : (s.setMe x).ctxPartial = s.ctxPartial := rfl
@[simp] theorem State.setMe_ctxNotFound (s : State) (x : Role) : (s.setMe x).ctxNotFound = s.ctxNotFound := rfl
@[simp] theorem State.setMe_ctxDone (s : State) (x : Role) : (s.setMe x).ctxDone = s.ctxDone := rfl
@[simp] theorem State.setMe_cam (s : State) (x : Role) : (s.setMe x).cam = s.cam := rfl
@[simp] theorem State.setMe_pods (s : State) (x : Role) : (s.setMe x).pods = s.pods := rfl
@[simp] theorem State.setMe_paths (s : State) (x : Role) : (s.setMe x).paths = s.paths := rfl
@[simp] theorem State.setMe_regions (s : State) (x : Role) : (s.setMe x).regions = s.regions := rfl
@[simp] theorem State.setMe_outPkts (s : State) (x : Role) : (s.setMe x).outPkts = s.outPkts := rfl
@[simp] theorem State.setMe_placed (s : State) (x : Role) : (s.setMe x).placed = s.placed := rfl
@[simp] theorem State.setMe_waitPkts (s : State) (x : Role) : (s.setMe x).waitPkts = s.waitPkts := rfl
@[simp] theorem State.setMe_fenceTab (s : State) (x : Role) : (s.setMe x).fenceTab = s.fenceTab := rfl
@[simp] theorem State.setMe_colls (s : State) (x : Role) : (s.setMe x).colls = s.colls := rfl
@[simp] theorem State.setMe_contribs (s : State) (x : Role) : (s.setMe x).contribs = s.contribs := rfl
@[simp] theorem State.setMe_outContribs (s : State) (x : Role) : (s.setMe x).outContribs = s.outContribs := rfl
@[simp] theorem State.setMe_stall (s : State) (x : Role) : (s.setMe x).stall = s.stall := rfl
@[simp] theorem State.setMe_rank (s : State) (x : Role) : (s.setMe x).rank = s.rank := rfl
@[simp] theorem State.setMe_worldMap (s : State) (x : Role) : (s.setMe x).worldMap = s.worldMap := rfl
@[simp] theorem State.setMe_worldBusy (s : State) (x : Role) : (s.setMe x).worldBusy = s.worldBusy := rfl
@[simp] theorem State.setMe_worldRefused (s : State) (x : Role) : (s.setMe x).worldRefused = s.worldRefused := rfl
@[simp] theorem State.setMe_worldDone (s : State) (x : Role) : (s.setMe x).worldDone = s.worldDone := rfl
@[simp] theorem State.setMe_epochs (s : State) (x : Role) : (s.setMe x).epochs = s.epochs := rfl
@[simp] theorem State.setMe_rekeying (s : State) (x : Role) : (s.setMe x).rekeying = s.rekeying := rfl
@[simp] theorem State.setMe_bootStat (s : State) (x : Role) : (s.setMe x).bootStat = s.bootStat := rfl
@[simp] theorem State.setMe_meas (s : State) (x : Role) : (s.setMe x).meas = s.meas := rfl
@[simp] theorem State.setMe_digest (s : State) (x : Role) : (s.setMe x).digest = s.digest := rfl
@[simp] theorem State.setMe_lockboot (s : State) (x : Role) : (s.setMe x).lockboot = s.lockboot := rfl
@[simp] theorem State.setMe_mstat (s : State) (x : Role) : (s.setMe x).mstat = s.mstat := rfl
@[simp] theorem State.setMe_responders (s : State) (x : Role) : (s.setMe x).responders = s.responders := rfl
@[simp] theorem State.setMe_telSel (s : State) (x : Role) : (s.setMe x).telSel = s.telSel := rfl
@[simp] theorem State.setMe_telData (s : State) (x : Role) : (s.setMe x).telData = s.telData := rfl
@[simp] theorem State.setMe_telStat (s : State) (x : Role) : (s.setMe x).telStat = s.telStat := rfl
@[simp] theorem State.setMe_life (s : State) (x : Role) : (s.setMe x).life = s.life := rfl
@[simp] theorem State.setMe_throttled (s : State) (x : Role) : (s.setMe x).throttled = s.throttled := rfl
@[simp] theorem State.setMe_lost (s : State) (x : Role) : (s.setMe x).lost = s.lost := rfl
@[simp] theorem State.setMe_out (s : State) (x : Role) : (s.setMe x).out = s.out := rfl

/-! ## modMe -/

@[simp] theorem State.modMe_agenda (s : State) (f : Role → Role) : (s.modMe f).agenda = s.agenda := by unfold State.modMe State.modRole; split <;> rfl
@[simp] theorem State.modMe_cur (s : State) (f : Role → Role) : (s.modMe f).cur = s.cur := by unfold State.modMe State.modRole; split <;> rfl
@[simp] theorem State.modMe_turn (s : State) (f : Role → Role) : (s.modMe f).turn = s.turn := by unfold State.modMe State.modRole; split <;> rfl
@[simp] theorem State.modMe_free (s : State) (f : Role → Role) : (s.modMe f).free = s.free := by unfold State.modMe State.modRole; split <;> rfl
@[simp] theorem State.modMe_next (s : State) (f : Role → Role) : (s.modMe f).next = s.next := by unfold State.modMe State.modRole; split <;> rfl
@[simp] theorem State.modMe_clock (s : State) (f : Role → Role) : (s.modMe f).clock = s.clock := by unfold State.modMe State.modRole; split <;> rfl
@[simp] theorem State.modMe_teams (s : State) (f : Role → Role) : (s.modMe f).teams = s.teams := by unfold State.modMe State.modRole; split <;> rfl
@[simp] theorem State.modMe_cores (s : State) (f : Role → Role) : (s.modMe f).cores = s.cores := by unfold State.modMe State.modRole; split <;> rfl
@[simp] theorem State.modMe_plots (s : State) (f : Role → Role) : (s.modMe f).plots = s.plots := by unfold State.modMe State.modRole; split <;> rfl
@[simp] theorem State.modMe_sets (s : State) (f : Role → Role) : (s.modMe f).sets = s.sets := by unfold State.modMe State.modRole; split <;> rfl
@[simp] theorem State.modMe_saved (s : State) (f : Role → Role) : (s.modMe f).saved = s.saved := by unfold State.modMe State.modRole; split <;> rfl
@[simp] theorem State.modMe_ops (s : State) (f : Role → Role) : (s.modMe f).ops = s.ops := by unfold State.modMe State.modRole; split <;> rfl
@[simp] theorem State.modMe_mats (s : State) (f : Role → Role) : (s.modMe f).mats = s.mats := by unfold State.modMe State.modRole; split <;> rfl
@[simp] theorem State.modMe_watch (s : State) (f : Role → Role) : (s.modMe f).watch = s.watch := by unfold State.modMe State.modRole; split <;> rfl
@[simp] theorem State.modMe_ram (s : State) (f : Role → Role) : (s.modMe f).ram = s.ram := by unfold State.modMe State.modRole; split <;> rfl
@[simp] theorem State.modMe_hostMem (s : State) (f : Role → Role) : (s.modMe f).hostMem = s.hostMem := by unfold State.modMe State.modRole; split <;> rfl
@[simp] theorem State.modMe_hy (s : State) (f : Role → Role) : (s.modMe f).hy = s.hy := by unfold State.modMe State.modRole; split <;> rfl
@[simp] theorem State.modMe_poison (s : State) (f : Role → Role) : (s.modMe f).poison = s.poison := by unfold State.modMe State.modRole; split <;> rfl
@[simp] theorem State.modMe_replicas (s : State) (f : Role → Role) : (s.modMe f).replicas = s.replicas := by unfold State.modMe State.modRole; split <;> rfl
@[simp] theorem State.modMe_tlb2 (s : State) (f : Role → Role) : (s.modMe f).tlb2 = s.tlb2 := by unfold State.modMe State.modRole; split <;> rfl
@[simp] theorem State.modMe_ifaces (s : State) (f : Role → Role) : (s.modMe f).ifaces = s.ifaces := by unfold State.modMe State.modRole; split <;> rfl
@[simp] theorem State.modMe_queues (s : State) (f : Role → Role) : (s.modMe f).queues = s.queues := by unfold State.modMe State.modRole; split <;> rfl
@[simp] theorem State.modMe_recs (s : State) (f : Role → Role) : (s.modMe f).recs = s.recs := by unfold State.modMe State.modRole; split <;> rfl
@[simp] theorem State.modMe_vierr (s : State) (f : Role → Role) : (s.modMe f).vierr = s.vierr := by unfold State.modMe State.modRole; split <;> rfl
@[simp] theorem State.modMe_ctxPlot (s : State) (f : Role → Role) : (s.modMe f).ctxPlot = s.ctxPlot := by unfold State.modMe State.modRole; split <;> rfl
@[simp] theorem State.modMe_ctxTeams (s : State) (f : Role → Role) : (s.modMe f).ctxTeams = s.ctxTeams := by unfold State.modMe State.modRole; split <;> rfl
@[simp] theorem State.modMe_ctxBusy (s : State) (f : Role → Role) : (s.modMe f).ctxBusy = s.ctxBusy := by unfold State.modMe State.modRole; split <;> rfl
@[simp] theorem State.modMe_ctxPartial (s : State) (f : Role → Role) : (s.modMe f).ctxPartial = s.ctxPartial := by unfold State.modMe State.modRole; split <;> rfl
@[simp] theorem State.modMe_ctxNotFound (s : State) (f : Role → Role) : (s.modMe f).ctxNotFound = s.ctxNotFound := by unfold State.modMe State.modRole; split <;> rfl
@[simp] theorem State.modMe_ctxDone (s : State) (f : Role → Role) : (s.modMe f).ctxDone = s.ctxDone := by unfold State.modMe State.modRole; split <;> rfl
@[simp] theorem State.modMe_cam (s : State) (f : Role → Role) : (s.modMe f).cam = s.cam := by unfold State.modMe State.modRole; split <;> rfl
@[simp] theorem State.modMe_pods (s : State) (f : Role → Role) : (s.modMe f).pods = s.pods := by unfold State.modMe State.modRole; split <;> rfl
@[simp] theorem State.modMe_paths (s : State) (f : Role → Role) : (s.modMe f).paths = s.paths := by unfold State.modMe State.modRole; split <;> rfl
@[simp] theorem State.modMe_regions (s : State) (f : Role → Role) : (s.modMe f).regions = s.regions := by unfold State.modMe State.modRole; split <;> rfl
@[simp] theorem State.modMe_outPkts (s : State) (f : Role → Role) : (s.modMe f).outPkts = s.outPkts := by unfold State.modMe State.modRole; split <;> rfl
@[simp] theorem State.modMe_placed (s : State) (f : Role → Role) : (s.modMe f).placed = s.placed := by unfold State.modMe State.modRole; split <;> rfl
@[simp] theorem State.modMe_waitPkts (s : State) (f : Role → Role) : (s.modMe f).waitPkts = s.waitPkts := by unfold State.modMe State.modRole; split <;> rfl
@[simp] theorem State.modMe_fenceTab (s : State) (f : Role → Role) : (s.modMe f).fenceTab = s.fenceTab := by unfold State.modMe State.modRole; split <;> rfl
@[simp] theorem State.modMe_colls (s : State) (f : Role → Role) : (s.modMe f).colls = s.colls := by unfold State.modMe State.modRole; split <;> rfl
@[simp] theorem State.modMe_contribs (s : State) (f : Role → Role) : (s.modMe f).contribs = s.contribs := by unfold State.modMe State.modRole; split <;> rfl
@[simp] theorem State.modMe_outContribs (s : State) (f : Role → Role) : (s.modMe f).outContribs = s.outContribs := by unfold State.modMe State.modRole; split <;> rfl
@[simp] theorem State.modMe_stall (s : State) (f : Role → Role) : (s.modMe f).stall = s.stall := by unfold State.modMe State.modRole; split <;> rfl
@[simp] theorem State.modMe_rank (s : State) (f : Role → Role) : (s.modMe f).rank = s.rank := by unfold State.modMe State.modRole; split <;> rfl
@[simp] theorem State.modMe_worldMap (s : State) (f : Role → Role) : (s.modMe f).worldMap = s.worldMap := by unfold State.modMe State.modRole; split <;> rfl
@[simp] theorem State.modMe_worldBusy (s : State) (f : Role → Role) : (s.modMe f).worldBusy = s.worldBusy := by unfold State.modMe State.modRole; split <;> rfl
@[simp] theorem State.modMe_worldRefused (s : State) (f : Role → Role) : (s.modMe f).worldRefused = s.worldRefused := by unfold State.modMe State.modRole; split <;> rfl
@[simp] theorem State.modMe_worldDone (s : State) (f : Role → Role) : (s.modMe f).worldDone = s.worldDone := by unfold State.modMe State.modRole; split <;> rfl
@[simp] theorem State.modMe_epochs (s : State) (f : Role → Role) : (s.modMe f).epochs = s.epochs := by unfold State.modMe State.modRole; split <;> rfl
@[simp] theorem State.modMe_rekeying (s : State) (f : Role → Role) : (s.modMe f).rekeying = s.rekeying := by unfold State.modMe State.modRole; split <;> rfl
@[simp] theorem State.modMe_bootStat (s : State) (f : Role → Role) : (s.modMe f).bootStat = s.bootStat := by unfold State.modMe State.modRole; split <;> rfl
@[simp] theorem State.modMe_meas (s : State) (f : Role → Role) : (s.modMe f).meas = s.meas := by unfold State.modMe State.modRole; split <;> rfl
@[simp] theorem State.modMe_digest (s : State) (f : Role → Role) : (s.modMe f).digest = s.digest := by unfold State.modMe State.modRole; split <;> rfl
@[simp] theorem State.modMe_lockboot (s : State) (f : Role → Role) : (s.modMe f).lockboot = s.lockboot := by unfold State.modMe State.modRole; split <;> rfl
@[simp] theorem State.modMe_mstat (s : State) (f : Role → Role) : (s.modMe f).mstat = s.mstat := by unfold State.modMe State.modRole; split <;> rfl
@[simp] theorem State.modMe_responders (s : State) (f : Role → Role) : (s.modMe f).responders = s.responders := by unfold State.modMe State.modRole; split <;> rfl
@[simp] theorem State.modMe_telSel (s : State) (f : Role → Role) : (s.modMe f).telSel = s.telSel := by unfold State.modMe State.modRole; split <;> rfl
@[simp] theorem State.modMe_telData (s : State) (f : Role → Role) : (s.modMe f).telData = s.telData := by unfold State.modMe State.modRole; split <;> rfl
@[simp] theorem State.modMe_telStat (s : State) (f : Role → Role) : (s.modMe f).telStat = s.telStat := by unfold State.modMe State.modRole; split <;> rfl
@[simp] theorem State.modMe_life (s : State) (f : Role → Role) : (s.modMe f).life = s.life := by unfold State.modMe State.modRole; split <;> rfl
@[simp] theorem State.modMe_throttled (s : State) (f : Role → Role) : (s.modMe f).throttled = s.throttled := by unfold State.modMe State.modRole; split <;> rfl
@[simp] theorem State.modMe_lost (s : State) (f : Role → Role) : (s.modMe f).lost = s.lost := by unfold State.modMe State.modRole; split <;> rfl
@[simp] theorem State.modMe_out (s : State) (f : Role → Role) : (s.modMe f).out = s.out := by unfold State.modMe State.modRole; split <;> rfl

/-! ## emit -/

@[simp] theorem State.emit_agenda (s : State) (m : OutMsg) : (s.emit m).agenda = s.agenda := rfl
@[simp] theorem State.emit_cur (s : State) (m : OutMsg) : (s.emit m).cur = s.cur := rfl
@[simp] theorem State.emit_turn (s : State) (m : OutMsg) : (s.emit m).turn = s.turn := rfl
@[simp] theorem State.emit_free (s : State) (m : OutMsg) : (s.emit m).free = s.free := rfl
@[simp] theorem State.emit_next (s : State) (m : OutMsg) : (s.emit m).next = s.next := rfl
@[simp] theorem State.emit_clock (s : State) (m : OutMsg) : (s.emit m).clock = s.clock := rfl
@[simp] theorem State.emit_roles (s : State) (m : OutMsg) : (s.emit m).roles = s.roles := rfl
@[simp] theorem State.emit_teams (s : State) (m : OutMsg) : (s.emit m).teams = s.teams := rfl
@[simp] theorem State.emit_cores (s : State) (m : OutMsg) : (s.emit m).cores = s.cores := rfl
@[simp] theorem State.emit_plots (s : State) (m : OutMsg) : (s.emit m).plots = s.plots := rfl
@[simp] theorem State.emit_sets (s : State) (m : OutMsg) : (s.emit m).sets = s.sets := rfl
@[simp] theorem State.emit_saved (s : State) (m : OutMsg) : (s.emit m).saved = s.saved := rfl
@[simp] theorem State.emit_ops (s : State) (m : OutMsg) : (s.emit m).ops = s.ops := rfl
@[simp] theorem State.emit_mats (s : State) (m : OutMsg) : (s.emit m).mats = s.mats := rfl
@[simp] theorem State.emit_watch (s : State) (m : OutMsg) : (s.emit m).watch = s.watch := rfl
@[simp] theorem State.emit_ram (s : State) (m : OutMsg) : (s.emit m).ram = s.ram := rfl
@[simp] theorem State.emit_hostMem (s : State) (m : OutMsg) : (s.emit m).hostMem = s.hostMem := rfl
@[simp] theorem State.emit_hy (s : State) (m : OutMsg) : (s.emit m).hy = s.hy := rfl
@[simp] theorem State.emit_poison (s : State) (m : OutMsg) : (s.emit m).poison = s.poison := rfl
@[simp] theorem State.emit_replicas (s : State) (m : OutMsg) : (s.emit m).replicas = s.replicas := rfl
@[simp] theorem State.emit_tlb2 (s : State) (m : OutMsg) : (s.emit m).tlb2 = s.tlb2 := rfl
@[simp] theorem State.emit_ifaces (s : State) (m : OutMsg) : (s.emit m).ifaces = s.ifaces := rfl
@[simp] theorem State.emit_queues (s : State) (m : OutMsg) : (s.emit m).queues = s.queues := rfl
@[simp] theorem State.emit_recs (s : State) (m : OutMsg) : (s.emit m).recs = s.recs := rfl
@[simp] theorem State.emit_vierr (s : State) (m : OutMsg) : (s.emit m).vierr = s.vierr := rfl
@[simp] theorem State.emit_ctxPlot (s : State) (m : OutMsg) : (s.emit m).ctxPlot = s.ctxPlot := rfl
@[simp] theorem State.emit_ctxTeams (s : State) (m : OutMsg) : (s.emit m).ctxTeams = s.ctxTeams := rfl
@[simp] theorem State.emit_ctxBusy (s : State) (m : OutMsg) : (s.emit m).ctxBusy = s.ctxBusy := rfl
@[simp] theorem State.emit_ctxPartial (s : State) (m : OutMsg) : (s.emit m).ctxPartial = s.ctxPartial := rfl
@[simp] theorem State.emit_ctxNotFound (s : State) (m : OutMsg) : (s.emit m).ctxNotFound = s.ctxNotFound := rfl
@[simp] theorem State.emit_ctxDone (s : State) (m : OutMsg) : (s.emit m).ctxDone = s.ctxDone := rfl
@[simp] theorem State.emit_cam (s : State) (m : OutMsg) : (s.emit m).cam = s.cam := rfl
@[simp] theorem State.emit_pods (s : State) (m : OutMsg) : (s.emit m).pods = s.pods := rfl
@[simp] theorem State.emit_paths (s : State) (m : OutMsg) : (s.emit m).paths = s.paths := rfl
@[simp] theorem State.emit_regions (s : State) (m : OutMsg) : (s.emit m).regions = s.regions := rfl
@[simp] theorem State.emit_outPkts (s : State) (m : OutMsg) : (s.emit m).outPkts = s.outPkts := rfl
@[simp] theorem State.emit_placed (s : State) (m : OutMsg) : (s.emit m).placed = s.placed := rfl
@[simp] theorem State.emit_waitPkts (s : State) (m : OutMsg) : (s.emit m).waitPkts = s.waitPkts := rfl
@[simp] theorem State.emit_fenceTab (s : State) (m : OutMsg) : (s.emit m).fenceTab = s.fenceTab := rfl
@[simp] theorem State.emit_colls (s : State) (m : OutMsg) : (s.emit m).colls = s.colls := rfl
@[simp] theorem State.emit_contribs (s : State) (m : OutMsg) : (s.emit m).contribs = s.contribs := rfl
@[simp] theorem State.emit_outContribs (s : State) (m : OutMsg) : (s.emit m).outContribs = s.outContribs := rfl
@[simp] theorem State.emit_stall (s : State) (m : OutMsg) : (s.emit m).stall = s.stall := rfl
@[simp] theorem State.emit_rank (s : State) (m : OutMsg) : (s.emit m).rank = s.rank := rfl
@[simp] theorem State.emit_worldMap (s : State) (m : OutMsg) : (s.emit m).worldMap = s.worldMap := rfl
@[simp] theorem State.emit_worldBusy (s : State) (m : OutMsg) : (s.emit m).worldBusy = s.worldBusy := rfl
@[simp] theorem State.emit_worldRefused (s : State) (m : OutMsg) : (s.emit m).worldRefused = s.worldRefused := rfl
@[simp] theorem State.emit_worldDone (s : State) (m : OutMsg) : (s.emit m).worldDone = s.worldDone := rfl
@[simp] theorem State.emit_epochs (s : State) (m : OutMsg) : (s.emit m).epochs = s.epochs := rfl
@[simp] theorem State.emit_rekeying (s : State) (m : OutMsg) : (s.emit m).rekeying = s.rekeying := rfl
@[simp] theorem State.emit_bootStat (s : State) (m : OutMsg) : (s.emit m).bootStat = s.bootStat := rfl
@[simp] theorem State.emit_meas (s : State) (m : OutMsg) : (s.emit m).meas = s.meas := rfl
@[simp] theorem State.emit_digest (s : State) (m : OutMsg) : (s.emit m).digest = s.digest := rfl
@[simp] theorem State.emit_lockboot (s : State) (m : OutMsg) : (s.emit m).lockboot = s.lockboot := rfl
@[simp] theorem State.emit_mstat (s : State) (m : OutMsg) : (s.emit m).mstat = s.mstat := rfl
@[simp] theorem State.emit_responders (s : State) (m : OutMsg) : (s.emit m).responders = s.responders := rfl
@[simp] theorem State.emit_telSel (s : State) (m : OutMsg) : (s.emit m).telSel = s.telSel := rfl
@[simp] theorem State.emit_telData (s : State) (m : OutMsg) : (s.emit m).telData = s.telData := rfl
@[simp] theorem State.emit_telStat (s : State) (m : OutMsg) : (s.emit m).telStat = s.telStat := rfl
@[simp] theorem State.emit_life (s : State) (m : OutMsg) : (s.emit m).life = s.life := rfl
@[simp] theorem State.emit_throttled (s : State) (m : OutMsg) : (s.emit m).throttled = s.throttled := rfl
@[simp] theorem State.emit_lost (s : State) (m : OutMsg) : (s.emit m).lost = s.lost := rfl

/-! ## used -/

@[simp] theorem State.used_agenda (s : State) : (s.used).agenda = s.agenda := rfl
@[simp] theorem State.used_cur (s : State) : (s.used).cur = s.cur := rfl
@[simp] theorem State.used_turn (s : State) : (s.used).turn = s.turn := rfl
@[simp] theorem State.used_next (s : State) : (s.used).next = s.next := rfl
@[simp] theorem State.used_clock (s : State) : (s.used).clock = s.clock := rfl
@[simp] theorem State.used_roles (s : State) : (s.used).roles = s.roles := rfl
@[simp] theorem State.used_teams (s : State) : (s.used).teams = s.teams := rfl
@[simp] theorem State.used_cores (s : State) : (s.used).cores = s.cores := rfl
@[simp] theorem State.used_plots (s : State) : (s.used).plots = s.plots := rfl
@[simp] theorem State.used_sets (s : State) : (s.used).sets = s.sets := rfl
@[simp] theorem State.used_saved (s : State) : (s.used).saved = s.saved := rfl
@[simp] theorem State.used_ops (s : State) : (s.used).ops = s.ops := rfl
@[simp] theorem State.used_mats (s : State) : (s.used).mats = s.mats := rfl
@[simp] theorem State.used_watch (s : State) : (s.used).watch = s.watch := rfl
@[simp] theorem State.used_ram (s : State) : (s.used).ram = s.ram := rfl
@[simp] theorem State.used_hostMem (s : State) : (s.used).hostMem = s.hostMem := rfl
@[simp] theorem State.used_hy (s : State) : (s.used).hy = s.hy := rfl
@[simp] theorem State.used_poison (s : State) : (s.used).poison = s.poison := rfl
@[simp] theorem State.used_replicas (s : State) : (s.used).replicas = s.replicas := rfl
@[simp] theorem State.used_tlb2 (s : State) : (s.used).tlb2 = s.tlb2 := rfl
@[simp] theorem State.used_ifaces (s : State) : (s.used).ifaces = s.ifaces := rfl
@[simp] theorem State.used_queues (s : State) : (s.used).queues = s.queues := rfl
@[simp] theorem State.used_recs (s : State) : (s.used).recs = s.recs := rfl
@[simp] theorem State.used_vierr (s : State) : (s.used).vierr = s.vierr := rfl
@[simp] theorem State.used_ctxPlot (s : State) : (s.used).ctxPlot = s.ctxPlot := rfl
@[simp] theorem State.used_ctxTeams (s : State) : (s.used).ctxTeams = s.ctxTeams := rfl
@[simp] theorem State.used_ctxBusy (s : State) : (s.used).ctxBusy = s.ctxBusy := rfl
@[simp] theorem State.used_ctxPartial (s : State) : (s.used).ctxPartial = s.ctxPartial := rfl
@[simp] theorem State.used_ctxNotFound (s : State) : (s.used).ctxNotFound = s.ctxNotFound := rfl
@[simp] theorem State.used_ctxDone (s : State) : (s.used).ctxDone = s.ctxDone := rfl
@[simp] theorem State.used_cam (s : State) : (s.used).cam = s.cam := rfl
@[simp] theorem State.used_pods (s : State) : (s.used).pods = s.pods := rfl
@[simp] theorem State.used_paths (s : State) : (s.used).paths = s.paths := rfl
@[simp] theorem State.used_regions (s : State) : (s.used).regions = s.regions := rfl
@[simp] theorem State.used_outPkts (s : State) : (s.used).outPkts = s.outPkts := rfl
@[simp] theorem State.used_placed (s : State) : (s.used).placed = s.placed := rfl
@[simp] theorem State.used_waitPkts (s : State) : (s.used).waitPkts = s.waitPkts := rfl
@[simp] theorem State.used_fenceTab (s : State) : (s.used).fenceTab = s.fenceTab := rfl
@[simp] theorem State.used_colls (s : State) : (s.used).colls = s.colls := rfl
@[simp] theorem State.used_contribs (s : State) : (s.used).contribs = s.contribs := rfl
@[simp] theorem State.used_outContribs (s : State) : (s.used).outContribs = s.outContribs := rfl
@[simp] theorem State.used_stall (s : State) : (s.used).stall = s.stall := rfl
@[simp] theorem State.used_rank (s : State) : (s.used).rank = s.rank := rfl
@[simp] theorem State.used_worldMap (s : State) : (s.used).worldMap = s.worldMap := rfl
@[simp] theorem State.used_worldBusy (s : State) : (s.used).worldBusy = s.worldBusy := rfl
@[simp] theorem State.used_worldRefused (s : State) : (s.used).worldRefused = s.worldRefused := rfl
@[simp] theorem State.used_worldDone (s : State) : (s.used).worldDone = s.worldDone := rfl
@[simp] theorem State.used_epochs (s : State) : (s.used).epochs = s.epochs := rfl
@[simp] theorem State.used_rekeying (s : State) : (s.used).rekeying = s.rekeying := rfl
@[simp] theorem State.used_bootStat (s : State) : (s.used).bootStat = s.bootStat := rfl
@[simp] theorem State.used_meas (s : State) : (s.used).meas = s.meas := rfl
@[simp] theorem State.used_digest (s : State) : (s.used).digest = s.digest := rfl
@[simp] theorem State.used_lockboot (s : State) : (s.used).lockboot = s.lockboot := rfl
@[simp] theorem State.used_mstat (s : State) : (s.used).mstat = s.mstat := rfl
@[simp] theorem State.used_responders (s : State) : (s.used).responders = s.responders := rfl
@[simp] theorem State.used_telSel (s : State) : (s.used).telSel = s.telSel := rfl
@[simp] theorem State.used_telData (s : State) : (s.used).telData = s.telData := rfl
@[simp] theorem State.used_telStat (s : State) : (s.used).telStat = s.telStat := rfl
@[simp] theorem State.used_life (s : State) : (s.used).life = s.life := rfl
@[simp] theorem State.used_throttled (s : State) : (s.used).throttled = s.throttled := rfl
@[simp] theorem State.used_lost (s : State) : (s.used).lost = s.lost := rfl
@[simp] theorem State.used_out (s : State) : (s.used).out = s.out := rfl

/-! ## numbered -/

@[simp] theorem State.numbered_agenda (s : State) : (s.numbered).agenda = s.agenda := rfl
@[simp] theorem State.numbered_cur (s : State) : (s.numbered).cur = s.cur := rfl
@[simp] theorem State.numbered_turn (s : State) : (s.numbered).turn = s.turn := rfl
@[simp] theorem State.numbered_free (s : State) : (s.numbered).free = s.free := rfl
@[simp] theorem State.numbered_clock (s : State) : (s.numbered).clock = s.clock := rfl
@[simp] theorem State.numbered_roles (s : State) : (s.numbered).roles = s.roles := rfl
@[simp] theorem State.numbered_teams (s : State) : (s.numbered).teams = s.teams := rfl
@[simp] theorem State.numbered_cores (s : State) : (s.numbered).cores = s.cores := rfl
@[simp] theorem State.numbered_plots (s : State) : (s.numbered).plots = s.plots := rfl
@[simp] theorem State.numbered_sets (s : State) : (s.numbered).sets = s.sets := rfl
@[simp] theorem State.numbered_saved (s : State) : (s.numbered).saved = s.saved := rfl
@[simp] theorem State.numbered_ops (s : State) : (s.numbered).ops = s.ops := rfl
@[simp] theorem State.numbered_mats (s : State) : (s.numbered).mats = s.mats := rfl
@[simp] theorem State.numbered_watch (s : State) : (s.numbered).watch = s.watch := rfl
@[simp] theorem State.numbered_ram (s : State) : (s.numbered).ram = s.ram := rfl
@[simp] theorem State.numbered_hostMem (s : State) : (s.numbered).hostMem = s.hostMem := rfl
@[simp] theorem State.numbered_hy (s : State) : (s.numbered).hy = s.hy := rfl
@[simp] theorem State.numbered_poison (s : State) : (s.numbered).poison = s.poison := rfl
@[simp] theorem State.numbered_replicas (s : State) : (s.numbered).replicas = s.replicas := rfl
@[simp] theorem State.numbered_tlb2 (s : State) : (s.numbered).tlb2 = s.tlb2 := rfl
@[simp] theorem State.numbered_ifaces (s : State) : (s.numbered).ifaces = s.ifaces := rfl
@[simp] theorem State.numbered_queues (s : State) : (s.numbered).queues = s.queues := rfl
@[simp] theorem State.numbered_recs (s : State) : (s.numbered).recs = s.recs := rfl
@[simp] theorem State.numbered_vierr (s : State) : (s.numbered).vierr = s.vierr := rfl
@[simp] theorem State.numbered_ctxPlot (s : State) : (s.numbered).ctxPlot = s.ctxPlot := rfl
@[simp] theorem State.numbered_ctxTeams (s : State) : (s.numbered).ctxTeams = s.ctxTeams := rfl
@[simp] theorem State.numbered_ctxBusy (s : State) : (s.numbered).ctxBusy = s.ctxBusy := rfl
@[simp] theorem State.numbered_ctxPartial (s : State) : (s.numbered).ctxPartial = s.ctxPartial := rfl
@[simp] theorem State.numbered_ctxNotFound (s : State) : (s.numbered).ctxNotFound = s.ctxNotFound := rfl
@[simp] theorem State.numbered_ctxDone (s : State) : (s.numbered).ctxDone = s.ctxDone := rfl
@[simp] theorem State.numbered_cam (s : State) : (s.numbered).cam = s.cam := rfl
@[simp] theorem State.numbered_pods (s : State) : (s.numbered).pods = s.pods := rfl
@[simp] theorem State.numbered_paths (s : State) : (s.numbered).paths = s.paths := rfl
@[simp] theorem State.numbered_regions (s : State) : (s.numbered).regions = s.regions := rfl
@[simp] theorem State.numbered_outPkts (s : State) : (s.numbered).outPkts = s.outPkts := rfl
@[simp] theorem State.numbered_placed (s : State) : (s.numbered).placed = s.placed := rfl
@[simp] theorem State.numbered_waitPkts (s : State) : (s.numbered).waitPkts = s.waitPkts := rfl
@[simp] theorem State.numbered_fenceTab (s : State) : (s.numbered).fenceTab = s.fenceTab := rfl
@[simp] theorem State.numbered_colls (s : State) : (s.numbered).colls = s.colls := rfl
@[simp] theorem State.numbered_contribs (s : State) : (s.numbered).contribs = s.contribs := rfl
@[simp] theorem State.numbered_outContribs (s : State) : (s.numbered).outContribs = s.outContribs := rfl
@[simp] theorem State.numbered_stall (s : State) : (s.numbered).stall = s.stall := rfl
@[simp] theorem State.numbered_rank (s : State) : (s.numbered).rank = s.rank := rfl
@[simp] theorem State.numbered_worldMap (s : State) : (s.numbered).worldMap = s.worldMap := rfl
@[simp] theorem State.numbered_worldBusy (s : State) : (s.numbered).worldBusy = s.worldBusy := rfl
@[simp] theorem State.numbered_worldRefused (s : State) : (s.numbered).worldRefused = s.worldRefused := rfl
@[simp] theorem State.numbered_worldDone (s : State) : (s.numbered).worldDone = s.worldDone := rfl
@[simp] theorem State.numbered_epochs (s : State) : (s.numbered).epochs = s.epochs := rfl
@[simp] theorem State.numbered_rekeying (s : State) : (s.numbered).rekeying = s.rekeying := rfl
@[simp] theorem State.numbered_bootStat (s : State) : (s.numbered).bootStat = s.bootStat := rfl
@[simp] theorem State.numbered_meas (s : State) : (s.numbered).meas = s.meas := rfl
@[simp] theorem State.numbered_digest (s : State) : (s.numbered).digest = s.digest := rfl
@[simp] theorem State.numbered_lockboot (s : State) : (s.numbered).lockboot = s.lockboot := rfl
@[simp] theorem State.numbered_mstat (s : State) : (s.numbered).mstat = s.mstat := rfl
@[simp] theorem State.numbered_responders (s : State) : (s.numbered).responders = s.responders := rfl
@[simp] theorem State.numbered_telSel (s : State) : (s.numbered).telSel = s.telSel := rfl
@[simp] theorem State.numbered_telData (s : State) : (s.numbered).telData = s.telData := rfl
@[simp] theorem State.numbered_telStat (s : State) : (s.numbered).telStat = s.telStat := rfl
@[simp] theorem State.numbered_life (s : State) : (s.numbered).life = s.life := rfl
@[simp] theorem State.numbered_throttled (s : State) : (s.numbered).throttled = s.throttled := rfl
@[simp] theorem State.numbered_lost (s : State) : (s.numbered).lost = s.lost := rfl
@[simp] theorem State.numbered_out (s : State) : (s.numbered).out = s.out := rfl

/-! ## hostWrite -/

@[simp] theorem State.hostWrite_agenda (s : State) (a : Nat) (bs : Bytes) : (s.hostWrite a bs).agenda = s.agenda := rfl
@[simp] theorem State.hostWrite_cur (s : State) (a : Nat) (bs : Bytes) : (s.hostWrite a bs).cur = s.cur := rfl
@[simp] theorem State.hostWrite_turn (s : State) (a : Nat) (bs : Bytes) : (s.hostWrite a bs).turn = s.turn := rfl
@[simp] theorem State.hostWrite_free (s : State) (a : Nat) (bs : Bytes) : (s.hostWrite a bs).free = s.free := rfl
@[simp] theorem State.hostWrite_next (s : State) (a : Nat) (bs : Bytes) : (s.hostWrite a bs).next = s.next := rfl
@[simp] theorem State.hostWrite_clock (s : State) (a : Nat) (bs : Bytes) : (s.hostWrite a bs).clock = s.clock := rfl
@[simp] theorem State.hostWrite_roles (s : State) (a : Nat) (bs : Bytes) : (s.hostWrite a bs).roles = s.roles := rfl
@[simp] theorem State.hostWrite_teams (s : State) (a : Nat) (bs : Bytes) : (s.hostWrite a bs).teams = s.teams := rfl
@[simp] theorem State.hostWrite_cores (s : State) (a : Nat) (bs : Bytes) : (s.hostWrite a bs).cores = s.cores := rfl
@[simp] theorem State.hostWrite_plots (s : State) (a : Nat) (bs : Bytes) : (s.hostWrite a bs).plots = s.plots := rfl
@[simp] theorem State.hostWrite_sets (s : State) (a : Nat) (bs : Bytes) : (s.hostWrite a bs).sets = s.sets := rfl
@[simp] theorem State.hostWrite_saved (s : State) (a : Nat) (bs : Bytes) : (s.hostWrite a bs).saved = s.saved := rfl
@[simp] theorem State.hostWrite_ops (s : State) (a : Nat) (bs : Bytes) : (s.hostWrite a bs).ops = s.ops := rfl
@[simp] theorem State.hostWrite_mats (s : State) (a : Nat) (bs : Bytes) : (s.hostWrite a bs).mats = s.mats := rfl
@[simp] theorem State.hostWrite_watch (s : State) (a : Nat) (bs : Bytes) : (s.hostWrite a bs).watch = s.watch := rfl
@[simp] theorem State.hostWrite_ram (s : State) (a : Nat) (bs : Bytes) : (s.hostWrite a bs).ram = s.ram := rfl
@[simp] theorem State.hostWrite_hy (s : State) (a : Nat) (bs : Bytes) : (s.hostWrite a bs).hy = s.hy := rfl
@[simp] theorem State.hostWrite_poison (s : State) (a : Nat) (bs : Bytes) : (s.hostWrite a bs).poison = s.poison := rfl
@[simp] theorem State.hostWrite_replicas (s : State) (a : Nat) (bs : Bytes) : (s.hostWrite a bs).replicas = s.replicas := rfl
@[simp] theorem State.hostWrite_tlb2 (s : State) (a : Nat) (bs : Bytes) : (s.hostWrite a bs).tlb2 = s.tlb2 := rfl
@[simp] theorem State.hostWrite_ifaces (s : State) (a : Nat) (bs : Bytes) : (s.hostWrite a bs).ifaces = s.ifaces := rfl
@[simp] theorem State.hostWrite_queues (s : State) (a : Nat) (bs : Bytes) : (s.hostWrite a bs).queues = s.queues := rfl
@[simp] theorem State.hostWrite_recs (s : State) (a : Nat) (bs : Bytes) : (s.hostWrite a bs).recs = s.recs := rfl
@[simp] theorem State.hostWrite_vierr (s : State) (a : Nat) (bs : Bytes) : (s.hostWrite a bs).vierr = s.vierr := rfl
@[simp] theorem State.hostWrite_ctxPlot (s : State) (a : Nat) (bs : Bytes) : (s.hostWrite a bs).ctxPlot = s.ctxPlot := rfl
@[simp] theorem State.hostWrite_ctxTeams (s : State) (a : Nat) (bs : Bytes) : (s.hostWrite a bs).ctxTeams = s.ctxTeams := rfl
@[simp] theorem State.hostWrite_ctxBusy (s : State) (a : Nat) (bs : Bytes) : (s.hostWrite a bs).ctxBusy = s.ctxBusy := rfl
@[simp] theorem State.hostWrite_ctxPartial (s : State) (a : Nat) (bs : Bytes) : (s.hostWrite a bs).ctxPartial = s.ctxPartial := rfl
@[simp] theorem State.hostWrite_ctxNotFound (s : State) (a : Nat) (bs : Bytes) : (s.hostWrite a bs).ctxNotFound = s.ctxNotFound := rfl
@[simp] theorem State.hostWrite_ctxDone (s : State) (a : Nat) (bs : Bytes) : (s.hostWrite a bs).ctxDone = s.ctxDone := rfl
@[simp] theorem State.hostWrite_cam (s : State) (a : Nat) (bs : Bytes) : (s.hostWrite a bs).cam = s.cam := rfl
@[simp] theorem State.hostWrite_pods (s : State) (a : Nat) (bs : Bytes) : (s.hostWrite a bs).pods = s.pods := rfl
@[simp] theorem State.hostWrite_paths (s : State) (a : Nat) (bs : Bytes) : (s.hostWrite a bs).paths = s.paths := rfl
@[simp] theorem State.hostWrite_regions (s : State) (a : Nat) (bs : Bytes) : (s.hostWrite a bs).regions = s.regions := rfl
@[simp] theorem State.hostWrite_outPkts (s : State) (a : Nat) (bs : Bytes) : (s.hostWrite a bs).outPkts = s.outPkts := rfl
@[simp] theorem State.hostWrite_placed (s : State) (a : Nat) (bs : Bytes) : (s.hostWrite a bs).placed = s.placed := rfl
@[simp] theorem State.hostWrite_waitPkts (s : State) (a : Nat) (bs : Bytes) : (s.hostWrite a bs).waitPkts = s.waitPkts := rfl
@[simp] theorem State.hostWrite_fenceTab (s : State) (a : Nat) (bs : Bytes) : (s.hostWrite a bs).fenceTab = s.fenceTab := rfl
@[simp] theorem State.hostWrite_colls (s : State) (a : Nat) (bs : Bytes) : (s.hostWrite a bs).colls = s.colls := rfl
@[simp] theorem State.hostWrite_contribs (s : State) (a : Nat) (bs : Bytes) : (s.hostWrite a bs).contribs = s.contribs := rfl
@[simp] theorem State.hostWrite_outContribs (s : State) (a : Nat) (bs : Bytes) : (s.hostWrite a bs).outContribs = s.outContribs := rfl
@[simp] theorem State.hostWrite_stall (s : State) (a : Nat) (bs : Bytes) : (s.hostWrite a bs).stall = s.stall := rfl
@[simp] theorem State.hostWrite_rank (s : State) (a : Nat) (bs : Bytes) : (s.hostWrite a bs).rank = s.rank := rfl
@[simp] theorem State.hostWrite_worldMap (s : State) (a : Nat) (bs : Bytes) : (s.hostWrite a bs).worldMap = s.worldMap := rfl
@[simp] theorem State.hostWrite_worldBusy (s : State) (a : Nat) (bs : Bytes) : (s.hostWrite a bs).worldBusy = s.worldBusy := rfl
@[simp] theorem State.hostWrite_worldRefused (s : State) (a : Nat) (bs : Bytes) : (s.hostWrite a bs).worldRefused = s.worldRefused := rfl
@[simp] theorem State.hostWrite_worldDone (s : State) (a : Nat) (bs : Bytes) : (s.hostWrite a bs).worldDone = s.worldDone := rfl
@[simp] theorem State.hostWrite_epochs (s : State) (a : Nat) (bs : Bytes) : (s.hostWrite a bs).epochs = s.epochs := rfl
@[simp] theorem State.hostWrite_rekeying (s : State) (a : Nat) (bs : Bytes) : (s.hostWrite a bs).rekeying = s.rekeying := rfl
@[simp] theorem State.hostWrite_bootStat (s : State) (a : Nat) (bs : Bytes) : (s.hostWrite a bs).bootStat = s.bootStat := rfl
@[simp] theorem State.hostWrite_meas (s : State) (a : Nat) (bs : Bytes) : (s.hostWrite a bs).meas = s.meas := rfl
@[simp] theorem State.hostWrite_digest (s : State) (a : Nat) (bs : Bytes) : (s.hostWrite a bs).digest = s.digest := rfl
@[simp] theorem State.hostWrite_lockboot (s : State) (a : Nat) (bs : Bytes) : (s.hostWrite a bs).lockboot = s.lockboot := rfl
@[simp] theorem State.hostWrite_mstat (s : State) (a : Nat) (bs : Bytes) : (s.hostWrite a bs).mstat = s.mstat := rfl
@[simp] theorem State.hostWrite_responders (s : State) (a : Nat) (bs : Bytes) : (s.hostWrite a bs).responders = s.responders := rfl
@[simp] theorem State.hostWrite_telSel (s : State) (a : Nat) (bs : Bytes) : (s.hostWrite a bs).telSel = s.telSel := rfl
@[simp] theorem State.hostWrite_telData (s : State) (a : Nat) (bs : Bytes) : (s.hostWrite a bs).telData = s.telData := rfl
@[simp] theorem State.hostWrite_telStat (s : State) (a : Nat) (bs : Bytes) : (s.hostWrite a bs).telStat = s.telStat := rfl
@[simp] theorem State.hostWrite_life (s : State) (a : Nat) (bs : Bytes) : (s.hostWrite a bs).life = s.life := rfl
@[simp] theorem State.hostWrite_throttled (s : State) (a : Nat) (bs : Bytes) : (s.hostWrite a bs).throttled = s.throttled := rfl
@[simp] theorem State.hostWrite_lost (s : State) (a : Nat) (bs : Bytes) : (s.hostWrite a bs).lost = s.lost := rfl
@[simp] theorem State.hostWrite_out (s : State) (a : Nat) (bs : Bytes) : (s.hostWrite a bs).out = s.out := rfl

/-! ## The part that an update replaces -/

@[simp] theorem State.role_setRole (s : State) (k j : Nat) (r : Role) :
    (s.setRole k r).role j = if j = k then r else s.role j := by
  simp only [State.role, State.setRole, mget_mset]; split <;> rfl
@[simp] theorem State.team_setTeam (s : State) (k j : Nat) (t : Team) :
    (s.setTeam k t).team j = if j = k then t else s.team j := by
  simp only [State.team, State.setTeam, mget_mset]; split <;> rfl
@[simp] theorem State.core_setCore (s : State) (k j : Nat) (c : Core) :
    (s.setCore k c).core j = if j = k then c else s.core j := by
  simp only [State.core, State.setCore, mget_mset]; split <;> rfl
@[simp] theorem State.iface_setIface (s : State) (k j : Nat) (i : Iface) :
    (s.setIface k i).iface j = if j = k then i else s.iface j := by
  simp only [State.iface, State.setIface, mget_mset]; split <;> rfl
@[simp] theorem State.queue_setQueue (s : State) (k j : Nat) (q : Queue) :
    (s.setQueue k q).queue j = if j = k then q else s.queue j := by
  simp only [State.queue, State.setQueue, mget_mset]; split <;> rfl
@[simp] theorem State.core_modCore (s : State) (k j : Nat) (f : Core → Core) :
    (s.modCore k f).core j = if j = k then f (s.core k) else s.core j := by
  simp [State.modCore]
@[simp] theorem State.iface_modIface (s : State) (k j : Nat) (f : Iface → Iface) :
    (s.modIface k f).iface j = if j = k then f (s.iface k) else s.iface j := by
  simp [State.modIface]
@[simp] theorem State.queue_modQueue (s : State) (k j : Nat) (f : Queue → Queue) :
    (s.modQueue k f).queue j = if j = k then f (s.queue k) else s.queue j := by
  simp [State.modQueue]
/-- A role that is there is changed; one that is not is read as before. -/
theorem State.role_modRole (s : State) (k j : Nat) (f : Role → Role) (h : (mget s.roles k).isSome) :
    (s.modRole k f).role j = if j = k then f (s.role k) else s.role j := by
  obtain ⟨r, hr⟩ := Option.isSome_iff_exists.mp h
  simp [State.modRole, State.role, State.setRole, hr, mget_mset]; split <;> rfl
theorem State.mget_setRole (s : State) (k j : Nat) (r : Role) :
    mget (s.setRole k r).roles j = if j = k then some r else mget s.roles j := by
  simp [State.setRole, mget_mset]
theorem State.mget_modRole (s : State) (k j : Nat) (f : Role → Role) :
    mget (s.modRole k f).roles j = if j = k then (mget s.roles k).map f else mget s.roles j := by
  unfold State.modRole
  split
  · rename_i r hr; simp [State.setRole, mget_mset, hr]
  · rename_i hr; split
    · subst_vars; simp [hr]
    · rfl

end Sys2Proof.Machine
end

