-- ==== Sys2Proof/Laws/Form.lean ====
section
/-! SUPPORT. The canonical form of the byte memories (`State.memOk`) under the ways in which states are put together. The
files Laws/Form*.lean say of every operation and meaning that it keeps the form. -/

namespace Sys2Proof.Machine

theorem ram_form {s : State} (h : s.memOk = true) : s.ram.wf = true := by
  simp only [State.memOk, Bool.and_eq_true] at h; exact h.1.1
theorem host_form {s : State} (h : s.memOk = true) : s.hostMem.wf = true := by
  simp only [State.memOk, Bool.and_eq_true] at h; exact h.1.2
theorem hy_form {s : State} (h : s.memOk = true) : s.hy.wf = true := by
  simp only [State.memOk, Bool.and_eq_true] at h; exact h.2

/-- A state whose memories have the form has it. -/
theorem form_of {s : State} (h1 : s.ram.wf = true) (h2 : s.hostMem.wf = true) (h3 : s.hy.wf = true) : s.memOk = true := by
  simp [State.memOk, *]

/-- A state with the memories of another one. -/
theorem form_same {s t : State} (h : s.memOk = true) (h1 : t.ram = s.ram) (h2 : t.hostMem = s.hostMem)
    (h3 : t.hy = s.hy) : t.memOk = true := by
  simpa [State.memOk, h1, h2, h3] using h

/-- The form of a state written out. -/
theorem form_mk
    {x0 : List Instr} {x1 : Nat} {x2 : Nat} {x3 : Nat} {x4 : Nat} {x5 : Nat} {x6 : AMap Role} {x7 : AMap Team}
    {x8 : AMap Core} {x9 : AMap Plot} {x10 : AMap CoopSet} {x11 : AMap SavedCtx} {x12 : List MemOp} {x13 :
    List MatOp} {x14 : List (Nat × Nat × Nat)} {ram : Mem} {hostMem : Mem} {hy : Mem} {x18 : List Nat} {x19 :
    List Replica} {x20 : List Leaf} {x21 : AMap Iface} {x22 : AMap Queue} {x23 : List PendRec} {x24 : BitVec
    64} {x25 : BitVec 64} {x26 : BitVec 64} {x27 : Bool} {x28 : Bool} {x29 : Bool} {x30 : BitVec 32} {x31 :
    AMap CamEntry} {x32 : AMap (BitVec 128)} {x33 : AMap (BitVec 16)} {x34 : AMap Region} {x35 : List OutPkt}
    {x36 : List (Nat × Nat × Bytes)} {x37 : List WaitPkt} {x38 : List FenceEntry} {x39 : AMap Coll} {x40 :
    List Contribution} {x41 : List OutContrib} {x42 : List FabricDest} {x43 : BitVec 18} {x44 : AMap Nat} {x45
    : Option (Nat × Nat)} {x46 : Bool} {x47 : BitVec 32} {x48 : AMap Nat} {x49 : List Nat} {x50 : BitVec 8}
    {x51 : List (BitVec 256)} {x52 : BitVec 256} {x53 : Bool} {x54 : Bool} {x55 : AMap Responder} {x56 :
    BitVec 64} {x57 : BitVec 64} {x58 : BitVec 8} {x59 : Lifetime} {x60 : Bool} {x61 : Bool} {x62 : List
    OutMsg} :
    (State.mk
      x0 x1 x2 x3 x4 x5 x6 x7 x8 x9 x10 x11 x12 x13 x14 ram hostMem hy x18 x19 x20 x21 x22 x23 x24 x25
      x26 x27 x28 x29 x30 x31 x32 x33 x34 x35 x36 x37 x38 x39 x40 x41 x42 x43 x44 x45 x46 x47 x48 x49 x50
      x51 x52 x53 x54 x55 x56 x57 x58 x59 x60 x61 x62).memOk = true ↔ ram.wf = true ∧ hostMem.wf = true ∧ hy.wf = true := by
  simp [State.memOk, and_assoc]

/-- Folding steps that keep the form. -/
theorem foldl_form {α : Type} (xs : List α) (f : State → α → State) (s : State) (hs : s.memOk = true)
    (h : ∀ t x, t.memOk = true → (f t x).memOk = true) : (xs.foldl f s).memOk = true := by
  induction xs generalizing s with
  | nil => exact hs
  | cons x xs ih => exact ih _ (h s x hs)

/-- Folding steps that carry something beside the state. -/
theorem foldl_form_snd {α β : Type} (xs : List α) (f : β × State → α → β × State) (p : β × State)
    (hs : p.2.memOk = true) (h : ∀ q x, q.2.memOk = true → (f q x).2.memOk = true) :
    (xs.foldl f p).2.memOk = true := by
  induction xs generalizing p with
  | nil => exact hs
  | cons x xs ih => exact ih _ (h p x hs)

theorem foldl_form_fst {α β : Type} (xs : List α) (f : State × β → α → State × β) (p : State × β)
    (hs : p.1.memOk = true) (h : ∀ q x, q.1.memOk = true → (f q x).1.memOk = true) :
    (xs.foldl f p).1.memOk = true := by
  induction xs generalizing p with
  | nil => exact hs
  | cons x xs ih => exact ih _ (h p x hs)

/-- What comes with a value. -/
theorem form_snd {α : Type} {p : α × State} {a : α} {t : State} (h : p = (a, t)) (hp : p.2.memOk = true) :
    t.memOk = true := by subst h; exact hp

theorem form_snd3 {α β : Type} {p : α × β × State} {a : α} {b : β} {t : State} (h : p = (a, b, t))
    (hp : p.2.2.memOk = true) : t.memOk = true := by subst h; exact hp

/-- An outcome whose next state, if any, has the form. -/
def nextForm (o : Out) : Prop := ∀ t, o = .next t → t.memOk = true
/-- A result whose state, if any, has the form. -/
def resForm (r : Res State) : Prop := ∀ t, r = .ok t → t.memOk = true
/-- An optional state of the form. -/
def optForm (r : Option State) : Prop := ∀ t, r = some t → t.memOk = true

theorem nextForm_next {t : State} (h : t.memOk = true) : nextForm (.next t) := by
  intro u hu; cases hu; exact h
theorem nextForm_fault (f : Fault) : nextForm (.fault f) := by intro u hu; cases hu
theorem nextForm_refused (f : Refusal) : nextForm (.refused f) := by intro u hu; cases hu
theorem resForm_ok {t : State} (h : t.memOk = true) : resForm (.ok t) := by intro u hu; cases hu; exact h
theorem resForm_error (e : Trap) : resForm (.error e) := by intro u hu; cases hu
theorem resForm_bind {α : Type} (x : Res α) (f : α → Res State) (h : ∀ a, resForm (f a)) : resForm (x >>= f) := by
  cases x with
  | error e => exact resForm_error e
  | ok a => exact h a
theorem optForm_some {t : State} (h : t.memOk = true) : optForm (some t) := by intro u hu; cases hu; exact h
theorem optForm_none : optForm none := by intro u hu; cases hu

theorem form_some {p : Option State} {t : State} (h : p = some t) (hp : optForm p) : t.memOk = true := hp t h
theorem form_ok {p : Res State} {t : State} (h : p = .ok t) (hp : resForm p) : t.memOk = true := hp t h
/-- An optional pair whose state has the form. -/
def optForm2 {α : Type} (r : Option (α × State)) : Prop := ∀ a t, r = some (a, t) → t.memOk = true
theorem optForm2_some {α : Type} {a : α} {t : State} (h : t.memOk = true) : optForm2 (some (a, t)) := by
  intro _ u hu; cases hu; exact h
theorem optForm2_none {α : Type} : optForm2 (none : Option (α × State)) := by intro _ u hu; cases hu
theorem form_some2 {α : Type} {p : Option (α × State)} {a : α} {t : State} (h : p = some (a, t)) (hp : optForm2 p) :
    t.memOk = true := hp a t h
theorem form_some2p {α : Type} {p : Option (α × State)} {a : α × State} (h : p = some a) (hp : optForm2 p) :
    a.2.memOk = true := hp a.1 a.2 h
theorem form_next {o : Out} {t : State} (h : o = .next t) (hp : nextForm o) : t.memOk = true := hp t h
theorem optForm_map {β : Type} (x : Option β) (f : β → State) (h : ∀ a, x = some a → (f a).memOk = true) :
    optForm (x.map f) := by
  intro t ht
  cases x with
  | none => cases ht
  | some a => cases ht; exact h a rfl
theorem optForm2_map {α β : Type} (x : Option β) (f : β → α × State) (h : ∀ a, x = some a → (f a).2.memOk = true) :
    optForm2 (x.map f) := by
  intro b t ht
  cases x with
  | none => cases ht
  | some a =>
    have := h a rfl
    simp only [Option.map_some, Option.some.injEq] at ht
    rw [ht] at this; exact this
theorem optForm_bind {β : Type} (x : Option β) (f : β → Option State) (h : ∀ a, x = some a → optForm (f a)) :
    optForm (x.bind f) := by
  intro t ht
  cases x with
  | none => cases ht
  | some a => exact h a rfl t ht
theorem optForm2_bind {α β : Type} (x : Option β) (f : β → Option (α × State)) (h : ∀ a, x = some a → optForm2 (f a)) :
    optForm2 (x.bind f) := by
  intro b t ht
  cases x with
  | none => cases ht
  | some a => exact h a rfl b t ht

/-- Steps of a computation that may fail: on a value without a state, on a state, and on a pair. -/
theorem optForm_step {β : Type} (x : Option β) (f : β → Option State) (h : ∀ a, x = some a → optForm (f a)) :
    optForm (x >>= f) := optForm_bind x f h
theorem optForm_state (x : Option State) (f : State → Option State) (hx : optForm x)
    (h : ∀ s, s.memOk = true → optForm (f s)) : optForm (x >>= f) :=
  optForm_bind x f fun a ha => h a (hx a ha)
theorem optForm_pair {α : Type} (x : Option (α × State)) (f : α × State → Option State) (hx : optForm2 x)
    (h : ∀ p, p.2.memOk = true → optForm (f p)) : optForm (x >>= f) :=
  optForm_bind x f fun a ha => h a (hx a.1 a.2 ha)
theorem optForm2_step {α β : Type} (x : Option β) (f : β → Option (α × State)) (h : ∀ a, x = some a → optForm2 (f a)) :
    optForm2 (x >>= f) := optForm2_bind x f h
theorem optForm2_state {α : Type} (x : Option State) (f : State → Option (α × State)) (hx : optForm x)
    (h : ∀ s, s.memOk = true → optForm2 (f s)) : optForm2 (x >>= f) :=
  optForm2_bind x f fun a ha => h a (hx a ha)
theorem optForm2_pair {α β : Type} (x : Option (β × State)) (f : β × State → Option (α × State)) (hx : optForm2 x)
    (h : ∀ p, p.2.memOk = true → optForm2 (f p)) : optForm2 (x >>= f) :=
  optForm2_bind x f fun a ha => h a (hx a.1 a.2 ha)
theorem foldlM_form {α : Type} (xs : List α) (f : State → α → Option State) (s : State) (hs : s.memOk = true)
    (h : ∀ t x, t.memOk = true → optForm (f t x)) : optForm (xs.foldlM f s) := by
  induction xs generalizing s with
  | nil => exact optForm_some hs
  | cons x xs ih => exact optForm_state _ _ (h s x hs) fun t ht => ih t ht

end Sys2Proof.Machine
end

