-- ==== Sys2Proof/Laws/FormOps.lean ====
section
/-! SUPPORT. Every definition of Machine/Ops.lean keeps the canonical form of the byte memories. -/

namespace Sys2Proof.Machine

theorem State.setRole_form (s : State) (k : Nat) (r : Role) (hs : s.memOk = true) :
    (State.setRole s k r).memOk = true := by
  unfold State.setRole
  try dsimp only
  repeat' first
    | with_reducible assumption | split | (simp only [form_mk]; refine ⟨?_, ?_, ?_⟩) | with_reducible apply ram_form
    | with_reducible apply host_form | with_reducible apply hy_form | intro _

theorem State.setTeam_form (s : State) (k : Nat) (t : Team) (hs : s.memOk = true) :
    (State.setTeam s k t).memOk = true := by
  unfold State.setTeam
  try dsimp only
  repeat' first
    | with_reducible assumption | split | (simp only [form_mk]; refine ⟨?_, ?_, ?_⟩) | with_reducible apply ram_form
    | with_reducible apply host_form | with_reducible apply hy_form | intro _

theorem State.setCore_form (s : State) (k : Nat) (c : Core) (hs : s.memOk = true) :
    (State.setCore s k c).memOk = true := by
  unfold State.setCore
  try dsimp only
  repeat' first
    | with_reducible assumption | split | (simp only [form_mk]; refine ⟨?_, ?_, ?_⟩) | with_reducible apply ram_form
    | with_reducible apply host_form | with_reducible apply hy_form | intro _

theorem State.setIface_form (s : State) (k : Nat) (i : Iface) (hs : s.memOk = true) :
    (State.setIface s k i).memOk = true := by
  unfold State.setIface
  try dsimp only
  repeat' first
    | with_reducible assumption | split | (simp only [form_mk]; refine ⟨?_, ?_, ?_⟩) | with_reducible apply ram_form
    | with_reducible apply host_form | with_reducible apply hy_form | intro _

theorem State.setQueue_form (s : State) (k : Nat) (q : Queue) (hs : s.memOk = true) :
    (State.setQueue s k q).memOk = true := by
  unfold State.setQueue
  try dsimp only
  repeat' first
    | with_reducible assumption | split | (simp only [form_mk]; refine ⟨?_, ?_, ?_⟩) | with_reducible apply ram_form
    | with_reducible apply host_form | with_reducible apply hy_form | intro _

theorem State.setPlot_form (s : State) (k : Nat) (p : Plot) (hs : s.memOk = true) :
    (State.setPlot s k p).memOk = true := by
  unfold State.setPlot
  try dsimp only
  repeat' first
    | with_reducible assumption | split | (simp only [form_mk]; refine ⟨?_, ?_, ?_⟩) | with_reducible apply ram_form
    | with_reducible apply host_form | with_reducible apply hy_form | intro _

theorem State.modRole_form (s : State) (k : Nat) (f : Role → Role) (hs : s.memOk = true) :
    (State.modRole s k f).memOk = true := by
  unfold State.modRole
  try dsimp only
  repeat' first
    | with_reducible assumption | with_reducible apply State.setRole_form
    | with_reducible refine form_some (by assumption) ?_ | with_reducible refine form_some2 (by assumption) ?_ | split
    | intro _

theorem State.modTeam_form (s : State) (k : Nat) (f : Team → Team) (hs : s.memOk = true) :
    (State.modTeam s k f).memOk = true := by
  unfold State.modTeam
  try dsimp only
  repeat' first
    | with_reducible assumption | with_reducible apply State.setTeam_form
    | with_reducible refine form_some (by assumption) ?_ | with_reducible refine form_some2 (by assumption) ?_ | split
    | intro _

theorem State.modCore_form (s : State) (k : Nat) (f : Core → Core) (hs : s.memOk = true) :
    (State.modCore s k f).memOk = true := by
  unfold State.modCore
  try dsimp only
  repeat' first
    | with_reducible assumption | with_reducible apply State.setCore_form | split | intro _

theorem State.modIface_form (s : State) (k : Nat) (f : Iface → Iface) (hs : s.memOk = true) :
    (State.modIface s k f).memOk = true := by
  unfold State.modIface
  try dsimp only
  repeat' first
    | with_reducible assumption | with_reducible apply State.setIface_form | split | intro _

theorem State.modQueue_form (s : State) (k : Nat) (f : Queue → Queue) (hs : s.memOk = true) :
    (State.modQueue s k f).memOk = true := by
  unfold State.modQueue
  try dsimp only
  repeat' first
    | with_reducible assumption | with_reducible apply State.setQueue_form | split | intro _

theorem State.modPlot_form (s : State) (k : Nat) (f : Plot → Plot) (hs : s.memOk = true) :
    (State.modPlot s k f).memOk = true := by
  unfold State.modPlot
  try dsimp only
  repeat' first
    | with_reducible assumption | with_reducible apply State.setPlot_form
    | with_reducible refine form_some (by assumption) ?_ | with_reducible refine form_some2 (by assumption) ?_ | split
    | intro _

theorem State.setMe_form (s : State) (r : Role) (hs : s.memOk = true) :
    (State.setMe s r).memOk = true := by
  unfold State.setMe
  try dsimp only
  repeat' first
    | with_reducible assumption | with_reducible apply State.setRole_form | split | intro _

theorem State.modMe_form (s : State) (f : Role → Role) (hs : s.memOk = true) :
    (State.modMe s f).memOk = true := by
  unfold State.modMe
  try dsimp only
  repeat' first
    | with_reducible assumption | with_reducible apply State.modRole_form | split | intro _

theorem State.emit_form (s : State) (m : OutMsg) (hs : s.memOk = true) :
    (State.emit s m).memOk = true := by
  unfold State.emit
  try dsimp only
  repeat' first
    | with_reducible assumption | split | (simp only [form_mk]; refine ⟨?_, ?_, ?_⟩) | with_reducible apply ram_form
    | with_reducible apply host_form | with_reducible apply hy_form | intro _

theorem State.used_form (s : State) (hs : s.memOk = true) :
    (State.used s).memOk = true := by
  unfold State.used
  try dsimp only
  repeat' first
    | with_reducible assumption | split | (simp only [form_mk]; refine ⟨?_, ?_, ?_⟩) | with_reducible apply ram_form
    | with_reducible apply host_form | with_reducible apply hy_form | intro _

theorem State.numbered_form (s : State) (hs : s.memOk = true) :
    (State.numbered s).memOk = true := by
  unfold State.numbered
  try dsimp only
  repeat' first
    | with_reducible assumption | split | (simp only [form_mk]; refine ⟨?_, ?_, ?_⟩) | with_reducible apply ram_form
    | with_reducible apply host_form | with_reducible apply hy_form | intro _

theorem State.count_form (s : State) (block i : Nat) (hs : s.memOk = true) :
    (State.count s block i).memOk = true := by
  unfold State.count
  try dsimp only
  repeat' first
    | with_reducible assumption | split | (simp only [form_mk]; refine ⟨?_, ?_, ?_⟩) | with_reducible apply ram_form
    | with_reducible apply host_form | with_reducible apply hy_form | intro _

theorem State.touch_form (s : State) (space a n : Nat) (hs : s.memOk = true) :
    (State.touch s space a n).memOk = true := by
  unfold State.touch
  try dsimp only
  repeat' first
    | with_reducible assumption | with_reducible refine form_snd (by assumption) ?_
    | with_reducible refine form_snd3 (by assumption) ?_ | split | (simp only [form_mk]; refine ⟨?_, ?_, ?_⟩)
    | with_reducible apply ram_form | with_reducible apply host_form | with_reducible apply hy_form | intro _

theorem State.ramWrite_form (s : State) (a : Nat) (bs : Bytes) (hs : s.memOk = true) : (s.ramWrite a bs).memOk = true := by
  have fold (xs : List Nat) (f : Nat → Bool) (m : Mem) (h : m.wf = true) :
      Mem.wf (xs.foldl (fun m i => if f i then m else wrByte m (a + i) (bs.getD i 0)) m) = true := by
    induction xs generalizing m with
    | nil => exact h
    | cons x xs ih =>
      refine ih _ ?_
      dsimp only
      split
      · exact h
      · exact wf_wrByte m _ _ h
  unfold State.ramWrite
  split
  · exact form_mk.mpr ⟨wf_wrBytes _ _ _ (ram_form hs), host_form hs, hy_form hs⟩
  · exact form_mk.mpr ⟨fold _ _ _ (ram_form hs), host_form hs, hy_form hs⟩

theorem State.hostWrite_form (s : State) (a : Nat) (bs : Bytes) (hs : s.memOk = true) :
    (State.hostWrite s a bs).memOk = true := by
  unfold State.hostWrite
  try dsimp only
  repeat' first
    | with_reducible assumption | split | (simp only [form_mk]; refine ⟨?_, ?_, ?_⟩) | with_reducible apply wf_wrBytes
    | with_reducible apply ram_form | with_reducible apply host_form | with_reducible apply hy_form | intro _

theorem State.ramZero_form (s : State) (a n : Nat) (hs : s.memOk = true) :
    (State.ramZero s a n).memOk = true := by
  unfold State.ramZero
  try dsimp only
  repeat' first
    | with_reducible assumption | split | (simp only [form_mk]; refine ⟨?_, ?_, ?_⟩) | with_reducible apply wf_filter
    | with_reducible apply wf_zeroRange | with_reducible apply ram_form | with_reducible apply host_form
    | with_reducible apply hy_form | intro _

theorem State.putFault_form (s : State) (v : Nat) (rec : Bytes) (hs : s.memOk = true) :
    (State.putFault s v rec).memOk = true := by
  unfold State.putFault
  try dsimp only
  repeat' first
    | with_reducible assumption | with_reducible apply State.emit_form | with_reducible apply State.hostWrite_form
    | with_reducible apply State.setIface_form | split | (simp only [form_mk]; refine ⟨?_, ?_, ?_⟩)
    | with_reducible apply ram_form | with_reducible apply host_form | with_reducible apply hy_form | intro _

theorem State.pushFault_form (s : State) (v : Nat) (rec : Bytes) (hs : s.memOk = true) :
    (State.pushFault s v rec).memOk = true := by
  unfold State.pushFault
  try dsimp only
  repeat' first
    | with_reducible assumption | with_reducible apply State.putFault_form | with_reducible apply State.setIface_form
    | split | (simp only [form_mk]; refine ⟨?_, ?_, ?_⟩) | with_reducible apply ram_form
    | with_reducible apply host_form | with_reducible apply hy_form | intro _

theorem State.drainFaults_form (s : State) (v : Nat) (hs : s.memOk = true) : (s.drainFaults v).memOk = true := by
  have fold (n : Nat) (s : State) (hs : s.memOk = true) : (State.drainFaults.go v s n).memOk = true := by
    induction n generalizing s with
    | zero => exact hs
    | succ n ih =>
      unfold State.drainFaults.go
      split
      · exact hs
      · split
        · exact ih _ (State.putFault_form _ _ _ (State.modIface_form _ _ _ hs))
        · exact hs
  exact fold _ s hs

theorem State.newToken_form (s : State) (v : Nat) (hs : s.memOk = true) :
    (State.newToken s v).2.memOk = true := by
  unfold State.newToken
  try dsimp only
  repeat' first
    | with_reducible assumption | with_reducible apply State.used_form
    | with_reducible refine form_snd (by assumption) ?_ | with_reducible refine form_snd3 (by assumption) ?_
    | with_reducible refine form_some2p (by assumption) ?_ | with_reducible refine form_some (by assumption) ?_
    | split | intro _

theorem State.writePieces_form (s : State) (base : Nat) (ps : List (Nat × Bytes)) (hs : s.memOk = true) :
    (State.writePieces s base ps).memOk = true := by
  unfold State.writePieces
  try dsimp only
  repeat' first
    | with_reducible assumption | with_reducible apply State.ramWrite_form | with_reducible apply foldl_form
    | with_reducible apply foldl_form_snd | split | intro _

theorem State.writeBlock_form (s : State) (base : Nat) (r : Role) (stopped : Bool) (hs : s.memOk = true) :
    (State.writeBlock s base r stopped).memOk = true := by
  unfold State.writeBlock
  try dsimp only
  repeat' first
    | with_reducible assumption | with_reducible apply State.ramZero_form
    | with_reducible apply State.writePieces_form | with_reducible refine form_snd (by assumption) ?_
    | with_reducible refine form_snd3 (by assumption) ?_ | split | intro _

theorem State.endRun_form (s : State) (k : Nat) (hdr : BitVec 64) (off : Nat) (st : Status) (hs : s.memOk = true) :
    (State.endRun s k hdr off st).memOk = true := by
  unfold State.endRun
  try dsimp only
  repeat' first
    | with_reducible assumption | with_reducible apply State.modCore_form | with_reducible apply State.numbered_form
    | with_reducible apply State.setRole_form | split | (simp only [form_mk]; refine ⟨?_, ?_, ?_⟩)
    | with_reducible apply ram_form | with_reducible apply host_form | with_reducible apply hy_form | intro _

theorem State.goOn_form (s : State) (k : Nat) (off : Nat) (hs : s.memOk = true) :
    (State.goOn s k off).memOk = true := by
  unfold State.goOn
  try dsimp only
  repeat' first
    | with_reducible assumption | with_reducible apply State.endRun_form | with_reducible apply State.setRole_form
    | split | (simp only [form_mk]; refine ⟨?_, ?_, ?_⟩) | with_reducible apply ram_form
    | with_reducible apply host_form | with_reducible apply hy_form | intro _

theorem State.advance_form (s : State) (k lits : Nat) (hs : s.memOk = true) :
    (State.advance s k lits).memOk = true := by
  unfold State.advance
  try dsimp only
  repeat' first
    | with_reducible assumption | with_reducible apply State.goOn_form | with_reducible apply State.modRole_form
    | split | (simp only [form_mk]; refine ⟨?_, ?_, ?_⟩) | with_reducible apply ram_form
    | with_reducible apply host_form | with_reducible apply hy_form | intro _

theorem State.transfer_form (s : State) (k : Nat) (target : BitVec 64) (hs : s.memOk = true) :
    (State.transfer s k target).memOk = true := by
  unfold State.transfer
  try dsimp only
  repeat' first
    | with_reducible assumption | with_reducible apply State.endRun_form | with_reducible apply State.modRole_form
    | split | (simp only [form_mk]; refine ⟨?_, ?_, ?_⟩) | with_reducible apply ram_form
    | with_reducible apply host_form | with_reducible apply hy_form | intro _

theorem State.park_form (s : State) (k : Nat) (w : WaitOn) (hs : s.memOk = true) :
    (State.park s k w).memOk = true := by
  unfold State.park
  try dsimp only
  repeat' first
    | with_reducible assumption | with_reducible apply State.endRun_form | with_reducible apply State.setRole_form
    | split | (simp only [form_mk]; refine ⟨?_, ?_, ?_⟩) | with_reducible apply ram_form
    | with_reducible apply host_form | with_reducible apply hy_form | intro _

theorem State.wake_form (s : State) (k n : Nat) (hs : s.memOk = true) :
    (State.wake s k n).memOk = true := by
  unfold State.wake
  try dsimp only
  repeat' first
    | with_reducible assumption | with_reducible apply State.modRole_form | with_reducible apply State.numbered_form
    | split | (simp only [form_mk]; refine ⟨?_, ?_, ?_⟩) | with_reducible apply ram_form
    | with_reducible apply host_form | with_reducible apply hy_form | intro _

theorem State.hold_form (s : State) (k next : Nat) (h : HoldOn) (hs : s.memOk = true) :
    (State.hold s k next h).memOk = true := by
  unfold State.hold
  try dsimp only
  repeat' first
    | with_reducible assumption | with_reducible apply State.endRun_form | split | intro _

theorem State.notifyTrap_form (s : State) (k : Nat) (p : Plot) (block : Nat) (hs : s.memOk = true) :
    (State.notifyTrap s k p block).memOk = true := by
  unfold State.notifyTrap
  try dsimp only
  repeat' first
    | with_reducible assumption | with_reducible apply State.modIface_form | with_reducible apply State.modRole_form
    | with_reducible apply State.newToken_form | with_reducible apply State.pushFault_form
    | with_reducible refine form_snd (by assumption) ?_ | with_reducible refine form_snd3 (by assumption) ?_
    | with_reducible refine form_some (by assumption) ?_ | with_reducible refine form_some2 (by assumption) ?_ | split
    | (simp only [form_mk]; refine ⟨?_, ?_, ?_⟩) | with_reducible apply ram_form | with_reducible apply host_form
    | with_reducible apply hy_form | intro _

theorem takeTrap_form (s : State) (k : Nat) (t : Trap) (hs : s.memOk = true) : (takeTrap s k t).memOk = true := by
  unfold takeTrap
  extract_lets r0 source r1 s1
  have h1 : s1.memOk = true := State.endRun_form _ _ _ _ _ (State.setRole_form _ _ _ hs)
  split
  · exact State.notifyTrap_form _ _ _ _ (State.writeBlock_form _ _ _ _ (State.ramWrite_form _ _ _ h1))
  · exact h1

theorem done_form (lits : Nat) (s : State) (r : Res State) (hs : s.memOk = true) (hr : resForm r) :
    nextForm (done lits s r) := by
  unfold done
  split
  · exact nextForm_next (State.advance_form _ _ _ (hr _ rfl))
  · exact nextForm_next (takeTrap_form _ _ _ hs)

theorem flow_form (s : State) (r : Res State) (hs : s.memOk = true) (hr : resForm r) : nextForm (flow s r) := by
  unfold flow
  split
  · exact nextForm_next (hr _ rfl)
  · exact nextForm_next (takeTrap_form _ _ _ hs)

theorem State.plotTrap_form (s : State) (p : Plot) (rec : Bytes) (hs : s.memOk = true) :
    (State.plotTrap s p rec).memOk = true := by
  unfold State.plotTrap
  try dsimp only
  repeat' first
    | with_reducible assumption | with_reducible apply State.pushFault_form | with_reducible apply State.ramWrite_form
    | with_reducible refine form_some2p (by assumption) ?_ | with_reducible refine form_some (by assumption) ?_
    | split | (simp only [form_mk]; refine ⟨?_, ?_, ?_⟩) | with_reducible apply ram_form
    | with_reducible apply host_form | with_reducible apply hy_form | intro _

theorem State.defer_form (s : State) (k : Nat) (plot : Option Nat) (teamIdx roleId : Nat) (d : Deferred) (hs : s.memOk = true) :
    (State.defer s k plot teamIdx roleId d).memOk = true := by
  unfold State.defer
  try dsimp only
  repeat' first
    | with_reducible assumption | with_reducible apply State.plotTrap_form | with_reducible apply State.setRole_form
    | with_reducible refine form_some2p (by assumption) ?_ | with_reducible refine form_some (by assumption) ?_
    | with_reducible refine form_some (by assumption) ?_ | with_reducible refine form_some2 (by assumption) ?_ | split
    | (simp only [form_mk]; refine ⟨?_, ?_, ?_⟩) | with_reducible apply ram_form | with_reducible apply host_form
    | with_reducible apply hy_form | intro _

theorem State.reread_form (s : State) (k : Nat) (whole : Bool) (hs : s.memOk = true) :
    (State.reread s k whole).memOk = true := by
  unfold State.reread
  try dsimp only
  repeat' first
    | with_reducible assumption | with_reducible apply State.setRole_form
    | with_reducible refine form_some2p (by assumption) ?_ | with_reducible refine form_some (by assumption) ?_
    | with_reducible refine form_some (by assumption) ?_ | with_reducible refine form_some2 (by assumption) ?_ | split
    | (simp only [form_mk]; refine ⟨?_, ?_, ?_⟩) | with_reducible apply ram_form | with_reducible apply host_form
    | with_reducible apply hy_form | intro _

theorem State.resumeRole_form (s : State) (k : Nat) (hs : s.memOk = true) :
    (State.resumeRole s k).memOk = true := by
  unfold State.resumeRole
  try dsimp only
  repeat' first
    | with_reducible assumption | with_reducible apply State.modRole_form | with_reducible apply State.numbered_form
    | with_reducible apply State.reread_form | split | (simp only [form_mk]; refine ⟨?_, ?_, ?_⟩)
    | with_reducible apply ram_form | with_reducible apply host_form | with_reducible apply hy_form | intro _

end Sys2Proof.Machine
end

