-- ==== Sys2Proof/Laws/FormParity.lean ====
section
/-! SUPPORT. Every definition of Machine/Parity.lean keeps the canonical form of the byte memories. -/

namespace Sys2Proof.Machine

theorem State.checkUnits_form (s : State) (k i : Nat) (us : List Nat) (hs : s.memOk = true) :
    (State.checkUnits s k i us).memOk = true := by
  unfold State.checkUnits
  try dsimp only
  repeat' first
    | with_reducible assumption | with_reducible apply State.count_form | with_reducible apply State.modRole_form
    | with_reducible apply State.used_form | with_reducible apply foldl_form | with_reducible apply foldl_form_snd
    | with_reducible refine form_snd (by assumption) ?_ | with_reducible refine form_snd3 (by assumption) ?_
    | with_reducible refine form_some (by assumption) ?_ | with_reducible refine form_some2 (by assumption) ?_ | split
    | (simp only [form_mk]; refine ⟨?_, ?_, ?_⟩) | with_reducible apply ram_form | with_reducible apply host_form
    | with_reducible apply hy_form | intro _

end Sys2Proof.Machine
end

