-- ==== Sys2Proof/Laws/FormXlate.lean ====
section
/-! SUPPORT. Every definition of Machine/Xlate.lean keeps the canonical form of the byte memories. -/

namespace Sys2Proof.Machine

theorem State.zeroPage_form (s : State) (vi : Nat) (e : Pte) (level pteAt : Nat) (hs : s.memOk = true) :
    (State.zeroPage s vi e level pteAt).memOk = true := by
  unfold State.zeroPage
  try dsimp only
  repeat' first
    | with_reducible assumption | with_reducible apply State.ramWrite_form | with_reducible apply State.ramZero_form
    | split | (simp only [form_mk]; refine ⟨?_, ?_, ?_⟩) | with_reducible apply wf_filter
    | with_reducible apply ram_form | with_reducible apply host_form | with_reducible apply hy_form | intro _

theorem State.fillLine_form (s : State) (core key : Nat) (line : BitVec 1024) (hs : s.memOk = true) :
    (State.fillLine s core key line).memOk = true := by
  unfold State.fillLine
  try dsimp only
  repeat' first
    | with_reducible assumption | with_reducible apply State.modCore_form | split
    | (simp only [form_mk]; refine ⟨?_, ?_, ?_⟩) | with_reducible apply ram_form | with_reducible apply host_form
    | with_reducible apply hy_form | intro _

theorem State.fetch_form (s : State) (r : Role) (va : Nat) (hs : s.memOk = true) :
    (State.fetch s r va).2.memOk = true := by
  unfold State.fetch
  try dsimp only
  repeat' first
    | with_reducible assumption | with_reducible apply State.fillLine_form
    | with_reducible refine form_snd (by assumption) ?_ | with_reducible refine form_snd3 (by assumption) ?_
    | with_reducible refine form_some (by assumption) ?_ | with_reducible refine form_some2 (by assumption) ?_ | split
    | intro _

theorem State.fetchWords_form (s : State) (r : Role) (va n : Nat) (hs : s.memOk = true) :
    (s.fetchWords r va n).2.2.memOk = true := by
  induction n generalizing s va with
  | zero => exact hs
  | succ n ih =>
    have h := State.fetch_form s r va hs
    unfold State.fetchWords
    split
    · rename_i w s1 heq
      rw [heq] at h
      exact ih s1 (va + 4) h
    · rename_i e s1 hne heq
      rw [heq] at h
      exact h

theorem State.checkTarget_form (s : State) (r : Role) (target : Nat) (hs : s.memOk = true) :
    (State.checkTarget s r target).2.memOk = true := by
  unfold State.checkTarget
  try dsimp only
  repeat' first
    | with_reducible assumption | with_reducible apply State.fetch_form
    | with_reducible refine form_snd (by assumption) ?_ | with_reducible refine form_snd3 (by assumption) ?_
    | with_reducible refine form_some (by assumption) ?_ | with_reducible refine form_some2 (by assumption) ?_ | split
    | (simp only [form_mk]; refine ⟨?_, ?_, ?_⟩) | with_reducible apply ram_form | with_reducible apply host_form
    | with_reducible apply hy_form | intro _

theorem withTarget_form (s : State) (target : Nat) (effect : State → Res State) (hs : s.memOk = true) (heffect : ∀ y0, y0.memOk = true → resForm (effect y0)) :
    nextForm (withTarget s target effect) := by
  unfold withTarget
  try dsimp only
  repeat' first
    | with_reducible assumption | with_reducible apply State.checkTarget_form | with_reducible apply flow_form
    | with_reducible apply State.hold_form | with_reducible apply nextForm_next | with_reducible apply resForm_ok
    | with_reducible apply resForm_error | with_reducible apply resForm_bind | with_reducible apply heffect
    | with_reducible refine form_snd (by assumption) ?_ | with_reducible refine form_snd3 (by assumption) ?_ | split
    | intro _

end Sys2Proof.Machine
end

