-- ==== Sys2Proof/Laws/FormFrames.lean ====
section
/-! SUPPORT. Every definition of Machine/Frames.lean keeps the canonical form of the byte memories. -/

namespace Sys2Proof.Machine

theorem State.parkFrame_form (s : State) (k : Nat) (q : FrameReq) (hs : s.memOk = true) :
    (State.parkFrame s k q).memOk = true := by
  unfold State.parkFrame
  try dsimp only
  repeat' first
    | with_reducible assumption | with_reducible apply State.modCore_form | with_reducible apply State.park_form
    | split | (simp only [form_mk]; refine ⟨?_, ?_, ?_⟩) | with_reducible apply ram_form
    | with_reducible apply host_form | with_reducible apply hy_form | intro _

theorem State.reserve_form (s : State) (v size : Nat) (hs : s.memOk = true) :
    optForm2 (State.reserve s v size) := by
  unfold State.reserve
  try dsimp only
  repeat' first
    | with_reducible assumption | with_reducible apply State.setIface_form | with_reducible apply optForm2_some
    | with_reducible apply optForm2_none | with_reducible apply optForm2_map
    | with_reducible refine form_snd (by assumption) ?_ | with_reducible refine form_snd3 (by assumption) ?_
    | with_reducible refine form_some2p (by assumption) ?_ | with_reducible refine form_some (by assumption) ?_
    | split | (simp only [form_mk]; refine ⟨?_, ?_, ?_⟩) | with_reducible apply ram_form
    | with_reducible apply host_form | with_reducible apply hy_form | intro _

theorem State.unreserve_form (s : State) (v pa : Nat) (hs : s.memOk = true) :
    (State.unreserve s v pa).memOk = true := by
  unfold State.unreserve
  try dsimp only
  repeat' first
    | with_reducible assumption | with_reducible apply State.modIface_form | split
    | (simp only [form_mk]; refine ⟨?_, ?_, ?_⟩) | with_reducible apply wf_filter | with_reducible apply ram_form
    | with_reducible apply host_form | with_reducible apply hy_form | intro _

theorem State.pushFrame_form (s : State) (k v sc : Nat) (gen : BitVec 16) (ret : BitVec 64) (hs : s.memOk = true) :
    (State.pushFrame s k v sc gen ret).memOk = true := by
  unfold State.pushFrame
  try dsimp only
  repeat' first
    | with_reducible assumption | with_reducible apply State.modRole_form | with_reducible apply State.used_form
    | split | (simp only [form_mk]; refine ⟨?_, ?_, ?_⟩) | with_reducible apply ram_form
    | with_reducible apply host_form | with_reducible apply hy_form | intro _

theorem State.popFrames_form (s : State) (k n : Nat) (hs : s.memOk = true) :
    (State.popFrames s k n).memOk = true := by
  unfold State.popFrames
  try dsimp only
  repeat' first
    | with_reducible assumption | with_reducible apply State.setCore_form | with_reducible apply State.setRole_form
    | with_reducible apply State.used_form | with_reducible apply foldl_form | with_reducible apply foldl_form_snd
    | with_reducible refine form_some (by assumption) ?_ | with_reducible refine form_some2 (by assumption) ?_ | split
    | (simp only [form_mk]; refine ⟨?_, ?_, ?_⟩) | with_reducible apply ram_form | with_reducible apply host_form
    | with_reducible apply hy_form | intro _

end Sys2Proof.Machine
end

