-- ==== Sys2Proof/Laws/FormFlags.lean ====
section
/-! SUPPORT. Every definition of Machine/Flags.lean keeps the canonical form of the byte memories. -/

namespace Sys2Proof.Machine

theorem State.claim_form (s : State) (k x : Nat) (m : Mask) (hs : s.memOk = true) :
    (State.claim s k x m).memOk = true := by
  unfold State.claim
  try dsimp only
  repeat' first
    | with_reducible assumption | with_reducible refine form_some2p (by assumption) ?_
    | with_reducible refine form_some (by assumption) ?_ | split | (simp only [form_mk]; refine ⟨?_, ?_, ?_⟩)
    | with_reducible apply ram_form | with_reducible apply host_form | with_reducible apply hy_form | intro _

theorem State.claimS_form (s : State) (k n cnt : Nat) (hs : s.memOk = true) :
    (State.claimS s k n cnt).memOk = true := by
  unfold State.claimS
  try dsimp only
  repeat' first
    | with_reducible assumption | with_reducible refine form_some2p (by assumption) ?_
    | with_reducible refine form_some (by assumption) ?_ | with_reducible refine form_some (by assumption) ?_
    | with_reducible refine form_some2 (by assumption) ?_ | split | (simp only [form_mk]; refine ⟨?_, ?_, ?_⟩)
    | with_reducible apply ram_form | with_reducible apply host_form | with_reducible apply hy_form | intro _

theorem State.putReg_form (s : State) (x : Nat) (m : Mask) (rows : List Lanes) (hs : s.memOk = true) :
    (State.putReg s x m rows).memOk = true := by
  unfold State.putReg
  try dsimp only
  repeat' first
    | with_reducible assumption | with_reducible apply State.claim_form | with_reducible apply State.modMe_form
    | split | intro _

theorem State.putRegOf_form (s : State) (k x : Nat) (m : Mask) (rows : List Lanes) (hs : s.memOk = true) :
    (State.putRegOf s k x m rows).memOk = true := by
  unfold State.putRegOf
  try dsimp only
  repeat' first
    | with_reducible assumption | with_reducible apply State.claim_form | with_reducible apply State.modRole_form
    | split | intro _

theorem State.putS_form (s : State) (n : Nat) (vs : List (BitVec 64)) (hs : s.memOk = true) :
    (State.putS s n vs).memOk = true := by
  unfold State.putS
  try dsimp only
  repeat' first
    | with_reducible assumption | with_reducible apply State.claimS_form | with_reducible apply State.modMe_form
    | split | intro _

theorem named_form (s : State) (names : Res (List Nat)) (body : State → List Nat → Out) (hs : s.memOk = true) (hbody : ∀ y0 y1, y0.memOk = true → nextForm (body y0 y1)) :
    nextForm (named s names body) := by
  unfold named
  try dsimp only
  repeat' first
    | with_reducible assumption | with_reducible apply flow_form | with_reducible apply nextForm_next
    | with_reducible apply resForm_ok | with_reducible apply resForm_error | with_reducible apply resForm_bind
    | with_reducible apply hbody | with_reducible refine form_ok (by assumption) ?_ | split | intro _

theorem vecRows_form (s : State) (lits : Nat) (d : VReg) (srcs : List VReg) (g : PReg) (fn : Mask → List (List Lanes) → Nat → Nat → FRes) (hs : s.memOk = true) :
    nextForm (vecRows s lits d srcs g fn) := by
  unfold vecRows
  try dsimp only
  repeat' first
    | with_reducible assumption | with_reducible apply done_form | with_reducible apply State.modMe_form
    | with_reducible apply named_form | with_reducible apply State.putReg_form | with_reducible apply State.setMe_form
    | with_reducible apply nextForm_next | with_reducible apply resForm_ok | with_reducible apply resForm_error
    | with_reducible apply resForm_bind | with_reducible apply foldl_form | with_reducible apply foldl_form_snd
    | with_reducible refine form_snd (by assumption) ?_ | with_reducible refine form_snd3 (by assumption) ?_
    | with_reducible refine form_some2p (by assumption) ?_ | with_reducible refine form_some (by assumption) ?_
    | with_reducible refine form_ok (by assumption) ?_ | split | intro _

theorem vecOp_form (s : State) (lits : Nat) (d : VReg) (srcs : List VReg) (g : PReg) (fn : List Nat → FRes) (hs : s.memOk = true) :
    nextForm (vecOp s lits d srcs g fn) := by
  unfold vecOp
  try dsimp only
  repeat' first
    | with_reducible assumption | with_reducible apply vecRows_form | with_reducible apply nextForm_next | split
    | intro _

theorem vecInt_form (s : State) (lits : Nat) (d : VReg) (srcs : List VReg) (g : PReg) (fn : List Nat → Nat) (hs : s.memOk = true) :
    nextForm (vecInt s lits d srcs g fn) := by
  unfold vecInt
  try dsimp only
  repeat' first
    | with_reducible assumption | with_reducible apply vecOp_form | with_reducible apply nextForm_next | split
    | intro _

theorem predOp_form (s : State) (lits : Nat) (d : PReg) (srcs : List VReg) (g : PReg) (fn : List Nat → Bool × FFlags) (hs : s.memOk = true) :
    nextForm (predOp s lits d srcs g fn) := by
  unfold predOp
  try dsimp only
  repeat' first
    | with_reducible assumption | with_reducible apply done_form | with_reducible apply State.modMe_form
    | with_reducible apply named_form | with_reducible apply State.setMe_form | with_reducible apply nextForm_next
    | with_reducible apply resForm_ok | with_reducible apply resForm_error | with_reducible apply resForm_bind
    | with_reducible apply foldl_form | with_reducible apply foldl_form_snd
    | with_reducible refine form_snd (by assumption) ?_ | with_reducible refine form_snd3 (by assumption) ?_
    | with_reducible refine form_some2p (by assumption) ?_ | with_reducible refine form_some (by assumption) ?_
    | with_reducible refine form_ok (by assumption) ?_ | split | intro _

theorem scalOp_form (s : State) (lits : Nat) (d : SReg) (srcs : List SReg) (g : PReg) (fn : List (BitVec 64) → BitVec 64) (hs : s.memOk = true) :
    nextForm (scalOp s lits d srcs g fn) := by
  unfold scalOp
  try dsimp only
  repeat' first
    | with_reducible assumption | with_reducible apply done_form | with_reducible apply flow_form
    | with_reducible apply State.putS_form | with_reducible apply nextForm_next | with_reducible apply resForm_ok
    | with_reducible apply resForm_error | with_reducible apply resForm_bind
    | with_reducible refine form_some2p (by assumption) ?_ | with_reducible refine form_some (by assumption) ?_
    | with_reducible refine form_ok (by assumption) ?_ | split | intro _

theorem scalGet_form (s : State) (lits : Nat) (d : SReg) (g : PReg) (val : State → Res (BitVec 64)) (hs : s.memOk = true) :
    nextForm (scalGet s lits d g val) := by
  unfold scalGet
  try dsimp only
  repeat' first
    | with_reducible assumption | with_reducible apply done_form | with_reducible apply flow_form
    | with_reducible apply State.putS_form | with_reducible apply nextForm_next | with_reducible apply resForm_ok
    | with_reducible apply resForm_error | with_reducible apply resForm_bind
    | with_reducible refine form_some2p (by assumption) ?_ | with_reducible refine form_some (by assumption) ?_
    | with_reducible refine form_ok (by assumption) ?_ | split | intro _

theorem withScalar_form (s : State) (a : SReg) (g : PReg) (lits : Nat) (body : State → BitVec 64 → Out) (hs : s.memOk = true) (hbody : ∀ y0 y1, y0.memOk = true → nextForm (body y0 y1)) :
    nextForm (withScalar s a g lits body) := by
  unfold withScalar
  try dsimp only
  repeat' first
    | with_reducible assumption | with_reducible apply done_form | with_reducible apply flow_form
    | with_reducible apply nextForm_next | with_reducible apply resForm_ok | with_reducible apply resForm_error
    | with_reducible apply resForm_bind | with_reducible apply hbody
    | with_reducible refine form_ok (by assumption) ?_ | split | intro _

theorem onlineOp_form (s : State) (i : Instr) (lits : Nat) (d : VReg) (srcs : List VReg) (g : PReg) (hs : s.memOk = true) :
    nextForm (onlineOp s i lits d srcs g) := by
  unfold onlineOp
  try dsimp only
  repeat' first
    | with_reducible assumption | with_reducible apply State.claim_form | with_reducible apply done_form
    | with_reducible apply State.modMe_form | with_reducible apply named_form | with_reducible apply State.setMe_form
    | with_reducible apply State.used_form | with_reducible apply vecOp_form | with_reducible apply nextForm_next
    | with_reducible apply resForm_ok | with_reducible apply resForm_error | with_reducible apply resForm_bind
    | with_reducible refine form_some2p (by assumption) ?_ | with_reducible refine form_some (by assumption) ?_
    | with_reducible refine form_some (by assumption) ?_ | with_reducible refine form_some2 (by assumption) ?_
    | with_reducible refine form_ok (by assumption) ?_ | split | (simp only [form_mk]; refine ⟨?_, ?_, ?_⟩)
    | with_reducible apply ram_form | with_reducible apply host_form | with_reducible apply hy_form | intro _

end Sys2Proof.Machine
end

