-- ==== Sys2Proof/Laws/FormLife.lean ====
section
/-! SUPPORT. Every definition of Machine/Life.lean keeps the canonical form of the byte memories. -/

namespace Sys2Proof.Machine

theorem State.devWalk_form (s : State) (vi asid va : Nat) (a : Acc) (hs : s.memOk = true) :
    (State.devWalk s vi asid va a).2.memOk = true := by
  unfold State.devWalk
  try dsimp only
  repeat' first
    | with_reducible assumption | with_reducible apply State.pushFault_form | with_reducible apply State.zeroPage_form
    | with_reducible apply resForm_ok | with_reducible apply resForm_error | with_reducible apply resForm_bind
    | with_reducible refine form_snd (by assumption) ?_ | with_reducible refine form_snd3 (by assumption) ?_
    | with_reducible refine form_ok (by assumption) ?_ | split | intro _

theorem State.devTrAt_form (s : State) (core vi asid va : Nat) (a : Acc) (hs : s.memOk = true) :
    (State.devTrAt s core vi asid va a).2.memOk = true := by
  unfold State.devTrAt
  try dsimp only
  repeat' first
    | with_reducible assumption | with_reducible apply State.devWalk_form | with_reducible apply resForm_ok
    | with_reducible apply resForm_error | with_reducible apply resForm_bind
    | with_reducible refine form_snd (by assumption) ?_ | with_reducible refine form_snd3 (by assumption) ?_
    | with_reducible refine form_some (by assumption) ?_ | with_reducible refine form_some2 (by assumption) ?_
    | with_reducible refine form_ok (by assumption) ?_ | split | intro _

theorem State.devTr_form (s : State) (r : Role) (va : Nat) (a : Acc) (hs : s.memOk = true) :
    (State.devTr s r va a).2.memOk = true := by
  unfold State.devTr
  try dsimp only
  repeat' first
    | with_reducible assumption | with_reducible apply State.devTrAt_form
    | with_reducible refine form_snd (by assumption) ?_ | with_reducible refine form_snd3 (by assumption) ?_
    | with_reducible refine form_some (by assumption) ?_ | with_reducible refine form_some2 (by assumption) ?_ | split
    | intro _

theorem State.homeWrite_form (s : State) (r : Role) (pa : Nat) (bs : Bytes) (hs : s.memOk = true) :
    (State.homeWrite s r pa bs).memOk = true := by
  unfold State.homeWrite
  try dsimp only
  repeat' first
    | with_reducible assumption | with_reducible apply State.modCore_form | with_reducible apply State.ramWrite_form
    | split | (simp only [form_mk]; refine ⟨?_, ?_, ?_⟩) | with_reducible apply wf_wrBytes
    | with_reducible apply ram_form | with_reducible apply host_form | with_reducible apply hy_form | intro _

theorem State.devSpan_form (s : State) (r : Role) (a : Acc) (base : Nat) (ps : List Nat) (hs : s.memOk = true) :
    (s.devSpan r a base ps).2.memOk = true := by
  induction ps generalizing s with
  | nil => exact hs
  | cons p ps ih =>
    have h := State.devTr_form s r (max base (p * 65536)) a hs
    unfold State.devSpan
    split
    · rename_i _ s1 heq
      rw [heq] at h
      exact ih s1 h
    · rename_i d s1 _ heq
      rw [heq] at h
      exact h

theorem State.faultFor_form (s : State) (vi asid va reason access : Nat) (hs : s.memOk = true) :
    (State.faultFor s vi asid va reason access).memOk = true := by
  unfold State.faultFor
  try dsimp only
  repeat' first
    | with_reducible assumption | with_reducible apply State.modIface_form | with_reducible apply State.newToken_form
    | with_reducible apply State.pushFault_form | with_reducible refine form_snd (by assumption) ?_
    | with_reducible refine form_snd3 (by assumption) ?_ | split | (simp only [form_mk]; refine ⟨?_, ?_, ?_⟩)
    | with_reducible apply ram_form | with_reducible apply host_form | with_reducible apply hy_form | intro _

theorem State.pageCame_form (s : State) (k vi asid : Nat) (hs : s.memOk = true) :
    (State.pageCame s k vi asid).memOk = true := by
  unfold State.pageCame
  try dsimp only
  repeat' first
    | with_reducible assumption | with_reducible apply State.modRole_form | with_reducible apply State.reserve_form
    | with_reducible apply State.wake_form | with_reducible refine form_snd (by assumption) ?_
    | with_reducible refine form_snd3 (by assumption) ?_ | with_reducible refine form_some (by assumption) ?_
    | with_reducible refine form_some2 (by assumption) ?_ | split | (simp only [form_mk]; refine ⟨?_, ?_, ?_⟩)
    | with_reducible apply wf_filter | with_reducible apply ram_form | with_reducible apply host_form
    | with_reducible apply hy_form | intro _

theorem State.parkFault_form (s : State) (k va reason access : Nat) (hs : s.memOk = true) :
    (State.parkFault s k va reason access).memOk = true := by
  unfold State.parkFault
  try dsimp only
  repeat' first
    | with_reducible assumption | with_reducible apply State.faultFor_form | with_reducible apply State.modRole_form
    | with_reducible apply State.park_form | with_reducible refine form_snd (by assumption) ?_
    | with_reducible refine form_snd3 (by assumption) ?_ | with_reducible refine form_some (by assumption) ?_
    | with_reducible refine form_some2 (by assumption) ?_ | split | (simp only [form_mk]; refine ⟨?_, ?_, ?_⟩)
    | with_reducible apply ram_form | with_reducible apply host_form | with_reducible apply hy_form | intro _

theorem State.refillNow_form (s : State) (k base : Nat) (hs : s.memOk = true) :
    (State.refillNow s k base).memOk = true := by
  unfold State.refillNow
  try dsimp only
  repeat' first
    | with_reducible assumption | with_reducible apply State.modCore_form | with_reducible apply State.setRole_form
    | split | intro _

theorem State.refillFrom_form (s : State) (k base : Nat) (hs : s.memOk = true) :
    (State.refillFrom s k base).memOk = true := by
  unfold State.refillFrom
  try dsimp only
  repeat' first
    | with_reducible assumption | with_reducible apply State.devSpan_form | with_reducible apply State.modRole_form
    | with_reducible apply State.parkFault_form | with_reducible apply State.refillNow_form
    | with_reducible apply takeTrap_form | with_reducible refine form_snd (by assumption) ?_
    | with_reducible refine form_snd3 (by assumption) ?_ | with_reducible refine form_some (by assumption) ?_
    | with_reducible refine form_some2 (by assumption) ?_ | split | (simp only [form_mk]; refine ⟨?_, ?_, ?_⟩)
    | with_reducible apply wf_filter | with_reducible apply ram_form | with_reducible apply host_form
    | with_reducible apply hy_form | intro _

theorem State.tryRefill_form (s : State) (k : Nat) (hs : s.memOk = true) :
    (State.tryRefill s k).memOk = true := by
  unfold State.tryRefill
  try dsimp only
  repeat' first
    | with_reducible assumption | with_reducible apply State.parkFrame_form
    | with_reducible apply State.refillFrom_form | with_reducible refine form_some (by assumption) ?_
    | with_reducible refine form_some2 (by assumption) ?_ | split | intro _

theorem State.releaseTcfg_form (s : State) (tk : Nat) (hs : s.memOk = true) :
    (State.releaseTcfg s tk).memOk = true := by
  unfold State.releaseTcfg
  try dsimp only
  repeat' first
    | with_reducible assumption | with_reducible apply State.modCore_form | with_reducible apply State.modTeam_form
    | with_reducible apply State.unreserve_form | with_reducible refine form_some2p (by assumption) ?_
    | with_reducible refine form_some (by assumption) ?_ | with_reducible refine form_some (by assumption) ?_
    | with_reducible refine form_some2 (by assumption) ?_ | split | (simp only [form_mk]; refine ⟨?_, ?_, ?_⟩)
    | with_reducible apply ram_form | with_reducible apply host_form | with_reducible apply hy_form | intro _

theorem State.reapTeam_form (s : State) (tk : Nat) (hs : s.memOk = true) :
    (State.reapTeam s tk).memOk = true := by
  unfold State.reapTeam
  try dsimp only
  repeat' first
    | with_reducible assumption | with_reducible apply State.releaseTcfg_form
    | with_reducible refine form_some (by assumption) ?_ | with_reducible refine form_some2 (by assumption) ?_ | split
    | (simp only [form_mk]; refine ⟨?_, ?_, ?_⟩) | with_reducible apply ram_form | with_reducible apply host_form
    | with_reducible apply hy_form | intro _

theorem State.reapSet_form (s : State) (sk : Nat) (hs : s.memOk = true) :
    (State.reapSet s sk).memOk = true := by
  unfold State.reapSet
  try dsimp only
  repeat' first
    | with_reducible assumption | with_reducible apply State.modCore_form | with_reducible apply foldl_form
    | with_reducible apply foldl_form_snd | with_reducible refine form_some2p (by assumption) ?_
    | with_reducible refine form_some (by assumption) ?_ | with_reducible refine form_some (by assumption) ?_
    | with_reducible refine form_some2 (by assumption) ?_ | split | (simp only [form_mk]; refine ⟨?_, ?_, ?_⟩)
    | with_reducible apply ram_form | with_reducible apply host_form | with_reducible apply hy_form | intro _

theorem State.swapSaved_form (s : State) (key : Nat) (x : SavedCtx) (hs : s.memOk = true) :
    (State.swapSaved s key x).memOk = true := by
  unfold State.swapSaved
  try dsimp only
  repeat' first
    | with_reducible assumption | with_reducible apply State.ramWrite_form
    | with_reducible refine form_some (by assumption) ?_ | with_reducible refine form_some2 (by assumption) ?_ | split
    | (simp only [form_mk]; refine ⟨?_, ?_, ?_⟩) | with_reducible apply ram_form | with_reducible apply host_form
    | with_reducible apply hy_form | intro _

theorem State.swapHalves_form (s : State) (sk : Nat) (cs : CoopSet) (hs : s.memOk = true) :
    (State.swapHalves s sk cs).memOk = true := by
  unfold State.swapHalves
  try dsimp only
  repeat' first
    | with_reducible assumption | with_reducible apply State.modCore_form | with_reducible apply State.swapSaved_form
    | with_reducible apply foldl_form | with_reducible apply foldl_form_snd
    | with_reducible refine form_some2p (by assumption) ?_ | with_reducible refine form_some (by assumption) ?_
    | with_reducible refine form_some (by assumption) ?_ | with_reducible refine form_some2 (by assumption) ?_ | split
    | (simp only [form_mk]; refine ⟨?_, ?_, ?_⟩) | with_reducible apply ram_form | with_reducible apply host_form
    | with_reducible apply hy_form | intro _

theorem State.passBarc_form (s : State) (k : Nat) (hs : s.memOk = true) :
    (State.passBarc s k).memOk = true := by
  unfold State.passBarc
  try dsimp only
  repeat' first
    | with_reducible assumption | with_reducible apply State.numbered_form | with_reducible apply State.ramWrite_form
    | with_reducible apply State.setRole_form | with_reducible refine form_some (by assumption) ?_
    | with_reducible refine form_some2 (by assumption) ?_ | split | (simp only [form_mk]; refine ⟨?_, ?_, ?_⟩)
    | with_reducible apply ram_form | with_reducible apply host_form | with_reducible apply hy_form | intro _

theorem State.barcCheck_form (s : State) (sk : Nat) (hs : s.memOk = true) :
    (State.barcCheck s sk).memOk = true := by
  unfold State.barcCheck
  try dsimp only
  repeat' first
    | with_reducible assumption | with_reducible apply State.modCore_form | with_reducible apply State.passBarc_form
    | with_reducible apply State.swapHalves_form | with_reducible apply foldl_form
    | with_reducible apply foldl_form_snd | with_reducible refine form_some2p (by assumption) ?_
    | with_reducible refine form_some (by assumption) ?_ | with_reducible refine form_some (by assumption) ?_
    | with_reducible refine form_some2 (by assumption) ?_ | split | (simp only [form_mk]; refine ⟨?_, ?_, ?_⟩)
    | with_reducible apply ram_form | with_reducible apply host_form | with_reducible apply hy_form | intro _

theorem State.endTeam_form (s : State) (tk : Nat) (hs : s.memOk = true) :
    (State.endTeam s tk).memOk = true := by
  unfold State.endTeam
  try dsimp only
  repeat' first
    | with_reducible assumption | with_reducible apply State.barcCheck_form | with_reducible apply State.modCore_form
    | with_reducible apply State.modTeam_form | with_reducible apply State.reapSet_form
    | with_reducible apply State.reapTeam_form | with_reducible apply State.unreserve_form
    | with_reducible refine form_some2p (by assumption) ?_ | with_reducible refine form_some (by assumption) ?_
    | with_reducible refine form_some (by assumption) ?_ | with_reducible refine form_some2 (by assumption) ?_ | split
    | (simp only [form_mk]; refine ⟨?_, ?_, ?_⟩) | with_reducible apply ram_form | with_reducible apply host_form
    | with_reducible apply hy_form | intro _

theorem State.endRole_form (s : State) (k : Nat) (hs : s.memOk = true) :
    (State.endRole s k).memOk = true := by
  unfold State.endRole
  try dsimp only
  repeat' first
    | with_reducible assumption | with_reducible apply State.barcCheck_form | with_reducible apply State.endTeam_form
    | with_reducible apply State.modCore_form | with_reducible apply State.modTeam_form
    | with_reducible apply State.plotTrap_form | with_reducible apply State.unreserve_form
    | with_reducible apply foldl_form | with_reducible apply foldl_form_snd
    | with_reducible refine form_some2p (by assumption) ?_ | with_reducible refine form_some (by assumption) ?_
    | with_reducible refine form_some (by assumption) ?_ | with_reducible refine form_some2 (by assumption) ?_ | split
    | (simp only [form_mk]; refine ⟨?_, ?_, ?_⟩) | with_reducible apply wf_filter | with_reducible apply ram_form
    | with_reducible apply host_form | with_reducible apply hy_form | intro _

end Sys2Proof.Machine
end

