-- ==== Sys2Proof/Laws/FormHyaluo.lean ====
section
/-! SUPPORT. Every definition of Machine/Hyaluo.lean keeps the canonical form of the byte memories. -/

namespace Sys2Proof.Machine

theorem State.modResponder_form (s : State) (fn : Nat) (f : Responder → Responder) (hs : s.memOk = true) :
    (State.modResponder s fn f).memOk = true := by
  unfold State.modResponder
  try dsimp only
  repeat' first
    | with_reducible assumption | split | (simp only [form_mk]; refine ⟨?_, ?_, ?_⟩) | with_reducible apply ram_form
    | with_reducible apply host_form | with_reducible apply hy_form | intro _

theorem State.extendBy_form (s : State) (i : Nat) (x : Bytes) (hs : s.memOk = true) :
    (State.extendBy s i x).memOk = true := by
  unfold State.extendBy
  try dsimp only
  repeat' first
    | with_reducible assumption | split | (simp only [form_mk]; refine ⟨?_, ?_, ?_⟩) | with_reducible apply ram_form
    | with_reducible apply host_form | with_reducible apply hy_form | intro _

theorem State.measExtend_form (s : State) (i : Nat) (hs : s.memOk = true) :
    (State.measExtend s i).memOk = true := by
  unfold State.measExtend
  try dsimp only
  repeat' first
    | with_reducible assumption | with_reducible apply State.extendBy_form | split
    | (simp only [form_mk]; refine ⟨?_, ?_, ?_⟩) | with_reducible apply ram_form | with_reducible apply host_form
    | with_reducible apply hy_form | intro _

theorem State.lockBoot_form (s : State) (v : Nat) (hs : s.memOk = true) :
    (State.lockBoot s v).memOk = true := by
  unfold State.lockBoot
  try dsimp only
  repeat' first
    | with_reducible assumption | split | (simp only [form_mk]; refine ⟨?_, ?_, ?_⟩) | with_reducible apply ram_form
    | with_reducible apply host_form | with_reducible apply hy_form | intro _

theorem State.rspLen_form (s : State) (fn n : Nat) (hs : s.memOk = true) :
    (State.rspLen s fn n).memOk = true := by
  unfold State.rspLen
  try dsimp only
  repeat' first
    | with_reducible assumption | with_reducible apply State.emit_form | with_reducible apply State.modResponder_form
    | split | (simp only [form_mk]; refine ⟨?_, ?_, ?_⟩) | with_reducible apply ram_form
    | with_reducible apply host_form | with_reducible apply hy_form | intro _

theorem State.hyPut_form (s : State) (a : Nat) (bs : Bytes) (hs : s.memOk = true) : (s.hyPut a bs).memOk = true := by
  induction bs generalizing s a with
  | nil => exact hs
  | cons b bs ih =>
    unfold State.hyPut
    refine ih _ _ ?_
    repeat' split
    all_goals first
      | with_reducible exact hs
      | with_reducible exact form_mk.mpr ⟨ram_form hs, host_form hs, hy_form hs⟩
      | with_reducible exact form_mk.mpr ⟨ram_form hs, host_form hs, wf_wrByte _ _ _ (hy_form hs)⟩

theorem State.hyWrite_form (s : State) (a : Nat) (bs : Bytes) (hs : s.memOk = true) :
    (State.hyWrite s a bs).memOk = true := by
  unfold State.hyWrite
  try dsimp only
  repeat' first
    | with_reducible assumption | with_reducible apply State.hyPut_form | with_reducible apply State.lockBoot_form
    | with_reducible apply State.measExtend_form | with_reducible apply State.modResponder_form
    | with_reducible apply State.rspLen_form | with_reducible refine form_snd (by assumption) ?_
    | with_reducible refine form_snd3 (by assumption) ?_ | with_reducible refine form_some (by assumption) ?_
    | with_reducible refine form_some2 (by assumption) ?_ | split | (simp only [form_mk]; refine ⟨?_, ?_, ?_⟩)
    | with_reducible apply ram_form | with_reducible apply host_form | with_reducible apply hy_form | intro _

end Sys2Proof.Machine
end

