-- ==== Sys2Proof/Laws/FormRegions.lean ====
section
/-! SUPPORT. Every definition of Machine/Regions.lean keeps the canonical form of the byte memories. -/

namespace Sys2Proof.Machine

theorem State.regionTr_form (s : State) (g : Region) (addr : BitVec 64) (a : Acc) (hs : s.memOk = true) :
    (State.regionTr s g addr a).2.memOk = true := by
  unfold State.regionTr
  try dsimp only
  repeat' first
    | with_reducible assumption | with_reducible apply State.devTrAt_form
    | with_reducible refine form_snd (by assumption) ?_ | with_reducible refine form_snd3 (by assumption) ?_ | split
    | intro _

end Sys2Proof.Machine
end

