-- ==== Sys2Proof/Laws/FormMemory.lean ====
section
/-! SUPPORT. Every definition of Machine/Memory.lean keeps the canonical form of the byte memories. -/

namespace Sys2Proof.Machine

theorem State.touchOwn_form (s : State) (x : Access) (lanes : List Nat) (idx : Nat → Nat) (hs : s.memOk = true) :
    (State.touchOwn s x lanes idx).memOk = true := by
  unfold State.touchOwn
  try dsimp only
  repeat' first
    | with_reducible assumption | with_reducible apply State.regionTr_form | with_reducible apply resForm_ok
    | with_reducible apply resForm_error | with_reducible apply resForm_bind | with_reducible apply foldl_form
    | with_reducible apply foldl_form_snd | with_reducible refine form_snd (by assumption) ?_
    | with_reducible refine form_snd3 (by assumption) ?_ | with_reducible refine form_some (by assumption) ?_
    | with_reducible refine form_some2 (by assumption) ?_ | with_reducible refine form_ok (by assumption) ?_ | split
    | intro _

theorem withLanes_form (s : State) (x : Access) (lanes : List Nat) (idx : Nat → Nat) (issue : State → List (Nat × List Piece) → Out) (hs : s.memOk = true) (hissue : ∀ y0 y1, y0.memOk = true → nextForm (issue y0 y1)) :
    nextForm (withLanes s x lanes idx issue) := by
  unfold withLanes
  try dsimp only
  repeat' first
    | with_reducible assumption | with_reducible apply State.emit_form | with_reducible apply State.faultFor_form
    | with_reducible apply flow_form | with_reducible apply State.hold_form | with_reducible apply State.modMe_form
    | with_reducible apply State.park_form | with_reducible apply State.touchOwn_form
    | with_reducible apply nextForm_next | with_reducible apply resForm_ok | with_reducible apply resForm_error
    | with_reducible apply resForm_bind | with_reducible apply hissue
    | with_reducible refine form_snd (by assumption) ?_ | with_reducible refine form_snd3 (by assumption) ?_
    | with_reducible refine form_some (by assumption) ?_ | with_reducible refine form_some2 (by assumption) ?_
    | with_reducible refine form_ok (by assumption) ?_ | split | (simp only [form_mk]; refine ⟨?_, ?_, ?_⟩)
    | with_reducible apply ram_form | with_reducible apply host_form | with_reducible apply hy_form | intro _

theorem State.fillL1_form (s : State) (core slot line : Nat) (data : BitVec 1024) (hs : s.memOk = true) :
    (State.fillL1 s core slot line data).memOk = true := by
  unfold State.fillL1
  try dsimp only
  repeat' first
    | with_reducible assumption | with_reducible apply State.setCore_form | with_reducible apply State.used_form
    | split | (simp only [form_mk]; refine ⟨?_, ?_, ?_⟩) | with_reducible apply ram_form
    | with_reducible apply host_form | with_reducible apply hy_form | intro _

theorem State.dropL1_form (s : State) (core : Nat) (hs : s.memOk = true) :
    (State.dropL1 s core).memOk = true := by
  unfold State.dropL1
  try dsimp only
  repeat' first
    | with_reducible assumption | with_reducible apply State.modCore_form | split
    | (simp only [form_mk]; refine ⟨?_, ?_, ?_⟩) | with_reducible apply ram_form | with_reducible apply host_form
    | with_reducible apply hy_form | intro _

theorem State.acquire_form (s : State) (core scope : Nat) (hs : s.memOk = true) :
    (State.acquire s core scope).memOk = true := by
  unfold State.acquire
  try dsimp only
  repeat' first
    | with_reducible assumption | with_reducible apply State.dropL1_form | split | intro _

theorem State.claimAll_form (s : State) (dests : List Nat) (m : Mask) (hs : s.memOk = true) :
    (State.claimAll s dests m).memOk = true := by
  unfold State.claimAll
  try dsimp only
  repeat' first
    | with_reducible assumption | with_reducible apply State.claim_form | with_reducible apply foldl_form
    | with_reducible apply foldl_form_snd | split | intro _

theorem State.addOp_form (s : State) (o : MemOp) (hs : s.memOk = true) :
    (State.addOp s o).memOk = true := by
  unfold State.addOp
  try dsimp only
  repeat' first
    | with_reducible assumption | with_reducible apply State.claimAll_form | with_reducible apply State.claimS_form
    | with_reducible apply State.numbered_form | with_reducible apply State.setMe_form
    | with_reducible refine form_some2p (by assumption) ?_ | with_reducible refine form_some (by assumption) ?_
    | with_reducible refine form_some (by assumption) ?_ | with_reducible refine form_some2 (by assumption) ?_ | split
    | (simp only [form_mk]; refine ⟨?_, ?_, ?_⟩) | with_reducible apply ram_form | with_reducible apply host_form
    | with_reducible apply hy_form | intro _

theorem State.flushHost_form (s : State) (r : Role) (scope : Nat) (hs : s.memOk = true) :
    (State.flushHost s r scope).memOk = true := by
  unfold State.flushHost
  try dsimp only
  repeat' first
    | with_reducible assumption | with_reducible apply State.emit_form
    | with_reducible refine form_snd (by assumption) ?_ | with_reducible refine form_snd3 (by assumption) ?_
    | with_reducible refine form_some (by assumption) ?_ | with_reducible refine form_some2 (by assumption) ?_ | split
    | intro _

theorem State.dropOp_form (s : State) (id : Nat) (hs : s.memOk = true) :
    (State.dropOp s id).memOk = true := by
  unfold State.dropOp
  try dsimp only
  repeat' first
    | with_reducible assumption | split | (simp only [form_mk]; refine ⟨?_, ?_, ?_⟩) | with_reducible apply wf_filter
    | with_reducible apply ram_form | with_reducible apply host_form | with_reducible apply hy_form | intro _

theorem State.writePlace_form (s : State) (o : MemOp) (gen : BitVec 16) (p : Place) (bs : Bytes) (hs : s.memOk = true) :
    (State.writePlace s o gen p bs).memOk = true := by
  unfold State.writePlace
  try dsimp only
  repeat' first
    | with_reducible assumption | with_reducible apply State.hostWrite_form | with_reducible apply State.hyWrite_form
    | with_reducible apply State.modCore_form | with_reducible apply State.ramWrite_form
    | with_reducible apply State.touch_form | with_reducible apply foldl_form | with_reducible apply foldl_form_snd
    | with_reducible refine form_snd (by assumption) ?_ | with_reducible refine form_snd3 (by assumption) ?_
    | with_reducible refine form_some (by assumption) ?_ | with_reducible refine form_some2 (by assumption) ?_ | split
    | intro _

theorem State.runAtomic_form (s : State) (o : MemOp) (z0 : List OpLane) (z1 : Bytes) (hs : s.memOk = true) :
    (State.runAtomic s o z0 z1).2.memOk = true := by
  induction z0 generalizing s z1 with
  | nil =>
    unfold State.runAtomic
    try dsimp only
    repeat' first
      | with_reducible assumption | with_reducible apply State.modCore_form | with_reducible apply State.ramWrite_form
      | with_reducible apply State.writePlace_form | with_reducible refine form_snd (by assumption) ?_
      | with_reducible refine form_snd3 (by assumption) ?_ | split | (simp only [form_mk]; refine ⟨?_, ?_, ?_⟩)
      | with_reducible apply ram_form | with_reducible apply host_form | with_reducible apply hy_form | intro _
  | cons x xs ih =>
    unfold State.runAtomic
    try dsimp only
    repeat' first
      | with_reducible assumption | with_reducible apply State.modCore_form | with_reducible apply State.ramWrite_form
      | with_reducible apply State.writePlace_form | with_reducible refine form_snd (by assumption) ?_
      | with_reducible refine form_snd3 (by assumption) ?_ | split | (simp only [form_mk]; refine ⟨?_, ?_, ?_⟩)
      | with_reducible apply ram_form | with_reducible apply host_form | with_reducible apply hy_form | intro _ | with_reducible apply ih

theorem State.replicate_form (s : State) (o : MemOp) (new : List Replica) (hs : s.memOk = true) :
    (State.replicate s o new).memOk = true := by
  unfold State.replicate
  try dsimp only
  repeat' first
    | with_reducible assumption | with_reducible apply State.used_form | split
    | (simp only [form_mk]; refine ⟨?_, ?_, ?_⟩) | with_reducible apply ram_form | with_reducible apply host_form
    | with_reducible apply hy_form | intro _

theorem State.dropLine_form (s : State) (core : Nat) (z0 : Place) (hs : s.memOk = true) :
    (State.dropLine s core z0).memOk = true := by
  unfold State.dropLine
  try dsimp only
  repeat' first
    | with_reducible assumption | with_reducible apply State.modCore_form | split
    | (simp only [form_mk]; refine ⟨?_, ?_, ?_⟩) | with_reducible apply ram_form | with_reducible apply host_form
    | with_reducible apply hy_form | intro _

theorem State.fillFor_form (s : State) (o : MemOp) (hs : s.memOk = true) :
    (State.fillFor s o).memOk = true := by
  unfold State.fillFor
  try dsimp only
  repeat' first
    | with_reducible assumption | with_reducible apply State.dropLine_form | with_reducible apply State.fillL1_form
    | with_reducible apply State.modCore_form | with_reducible apply foldl_form | with_reducible apply foldl_form_snd
    | with_reducible refine form_snd (by assumption) ?_ | with_reducible refine form_snd3 (by assumption) ?_ | split
    | intro _

theorem State.landResults_form (s : State) (o : MemOp) (vals : AMap Nat) (regs : Nat → List (BitVec 32)) (hs : s.memOk = true) :
    (State.landResults s o vals regs).memOk = true := by
  unfold State.landResults
  try dsimp only
  repeat' first
    | with_reducible assumption | with_reducible apply State.modRole_form | with_reducible apply foldl_form
    | with_reducible apply foldl_form_snd | with_reducible refine form_some2p (by assumption) ?_
    | with_reducible refine form_some (by assumption) ?_ | with_reducible refine form_some (by assumption) ?_
    | with_reducible refine form_some2 (by assumption) ?_ | split | intro _

theorem State.dropPkts_form (s : State) (o : MemOp) (hs : s.memOk = true) :
    (State.dropPkts s o).memOk = true := by
  unfold State.dropPkts
  try dsimp only
  repeat' first
    | with_reducible assumption | split | (simp only [form_mk]; refine ⟨?_, ?_, ?_⟩) | with_reducible apply wf_filter
    | with_reducible apply ram_form | with_reducible apply host_form | with_reducible apply hy_form | intro _

theorem State.retire_form (s : State) (o : MemOp) (hs : s.memOk = true) :
    (State.retire s o).memOk = true := by
  unfold State.retire
  try dsimp only
  repeat' first
    | with_reducible assumption | with_reducible apply State.dropOp_form | with_reducible apply State.dropPkts_form
    | with_reducible apply State.modRole_form | split | intro _

end Sys2Proof.Machine
end

