-- ==== Sys2Proof/Laws/FormTarget.lean ====
section
/-! SUPPORT. Every definition of Machine/Target.lean keeps the canonical form of the byte memories. -/

namespace Sys2Proof.Machine

theorem State.noteCounter_form (s : State) (core i : Nat) (v : BitVec 48) (plot : Nat → Bool) (hs : s.memOk = true) :
    (State.noteCounter s core i v plot).memOk = true := by
  unfold State.noteCounter
  try dsimp only
  repeat' first
    | with_reducible assumption | split | (simp only [form_mk]; refine ⟨?_, ?_, ?_⟩) | with_reducible apply ram_form
    | with_reducible apply host_form | with_reducible apply hy_form | intro _

theorem State.setCounter_form (s : State) (core i : Nat) (v : BitVec 48) (hs : s.memOk = true) :
    (State.setCounter s core i v).memOk = true := by
  unfold State.setCounter
  try dsimp only
  repeat' first
    | with_reducible assumption | with_reducible apply State.modCore_form
    | with_reducible apply State.noteCounter_form | split | intro _

theorem State.bump_form (s : State) (core plot i : Nat) (hs : s.memOk = true) :
    (State.bump s core plot i).memOk = true := by
  unfold State.bump
  try dsimp only
  repeat' first
    | with_reducible assumption | with_reducible apply State.noteCounter_form
    | with_reducible apply State.ramWrite_form | with_reducible apply State.setCounter_form
    | with_reducible refine form_snd (by assumption) ?_ | with_reducible refine form_snd3 (by assumption) ?_
    | with_reducible refine form_some2p (by assumption) ?_ | with_reducible refine form_some (by assumption) ?_
    | with_reducible refine form_some (by assumption) ?_ | with_reducible refine form_some2 (by assumption) ?_ | split
    | intro _

theorem State.countPacket_form (s : State) (k : Nat) (addr : BitVec 64) (n : Nat) (hs : s.memOk = true) :
    (State.countPacket s k addr n).2.memOk = true := by
  unfold State.countPacket
  try dsimp only
  repeat' first
    | with_reducible assumption | with_reducible apply State.count_form | with_reducible apply State.setRole_form
    | with_reducible refine form_snd (by assumption) ?_ | with_reducible refine form_snd3 (by assumption) ?_
    | with_reducible refine form_some (by assumption) ?_ | with_reducible refine form_some2 (by assumption) ?_ | split
    | (simp only [form_mk]; refine ⟨?_, ?_, ?_⟩) | with_reducible apply ram_form | with_reducible apply host_form
    | with_reducible apply hy_form | intro _

theorem State.modOut_form (s : State) (seq : Nat) (f : OutPkt → OutPkt) (hs : s.memOk = true) :
    (State.modOut s seq f).memOk = true := by
  unfold State.modOut
  try dsimp only
  repeat' first
    | with_reducible assumption | with_reducible refine form_snd (by assumption) ?_
    | with_reducible refine form_snd3 (by assumption) ?_ | with_reducible refine form_some2p (by assumption) ?_
    | with_reducible refine form_some (by assumption) ?_ | split | (simp only [form_mk]; refine ⟨?_, ?_, ?_⟩)
    | with_reducible apply ram_form | with_reducible apply host_form | with_reducible apply hy_form | intro _

theorem State.sendPkt_form (s : State) (p : Packet) (hs : s.memOk = true) :
    (State.sendPkt s p).memOk = true := by
  unfold State.sendPkt
  try dsimp only
  repeat' first
    | with_reducible assumption | with_reducible apply State.emit_form | with_reducible apply State.modOut_form
    | with_reducible apply State.used_form | with_reducible refine form_snd (by assumption) ?_
    | with_reducible refine form_snd3 (by assumption) ?_ | split | (simp only [form_mk]; refine ⟨?_, ?_, ?_⟩)
    | with_reducible apply ram_form | with_reducible apply host_form | with_reducible apply hy_form | intro _

theorem State.sendRequest_form (s : State) (o : MemOp) (k : Nat) (ls : List (Nat × OpLane)) (hs : s.memOk = true) :
    (State.sendRequest s o k ls).memOk = true := by
  unfold State.sendRequest
  try dsimp only
  repeat' first
    | with_reducible assumption | with_reducible apply State.countPacket_form
    | with_reducible apply State.numbered_form | with_reducible apply State.sendPkt_form
    | with_reducible refine form_snd (by assumption) ?_ | with_reducible refine form_snd3 (by assumption) ?_ | split
    | (simp only [form_mk]; refine ⟨?_, ?_, ?_⟩) | with_reducible apply ram_form | with_reducible apply host_form
    | with_reducible apply hy_form | intro _

theorem State.tryRequest_form (o : MemOp) (s : State) (x : List (Nat × OpLane) × Nat) (hs : s.memOk = true) :
    (State.tryRequest o s x).memOk = true := by
  unfold State.tryRequest
  try dsimp only
  repeat' first
    | with_reducible assumption | with_reducible apply State.sendRequest_form
    | with_reducible refine form_snd (by assumption) ?_ | with_reducible refine form_snd3 (by assumption) ?_ | split
    | intro _

theorem State.sendOp_form (s : State) (o : MemOp) (hs : s.memOk = true) :
    (State.sendOp s o).2.memOk = true := by
  unfold State.sendOp
  try dsimp only
  repeat' first
    | with_reducible assumption | with_reducible apply State.sendRequest_form
    | with_reducible apply State.tryRequest_form | with_reducible apply foldl_form
    | with_reducible apply foldl_form_snd | with_reducible refine form_snd (by assumption) ?_
    | with_reducible refine form_snd3 (by assumption) ?_ | split | intro _

theorem State.regionSpan_form (s : State) (g : Region) (a : Acc) (z0 : List (Nat × Nat)) (hs : s.memOk = true) :
    (State.regionSpan s g a z0).2.memOk = true := by
  induction z0 generalizing s with
  | nil =>
    unfold State.regionSpan
    try dsimp only
    repeat' first
      | with_reducible assumption | with_reducible apply State.devTrAt_form | with_reducible apply State.faultFor_form
      | with_reducible apply resForm_ok | with_reducible apply resForm_error | with_reducible apply resForm_bind
      | with_reducible refine form_snd (by assumption) ?_ | with_reducible refine form_snd3 (by assumption) ?_
      | with_reducible refine form_ok (by assumption) ?_ | split | intro _
  | cons x xs ih =>
    unfold State.regionSpan
    try dsimp only
    repeat' first
      | with_reducible assumption | with_reducible apply State.devTrAt_form | with_reducible apply State.faultFor_form
      | with_reducible apply resForm_ok | with_reducible apply resForm_error | with_reducible apply resForm_bind
      | with_reducible refine form_snd (by assumption) ?_ | with_reducible refine form_snd3 (by assumption) ?_
      | with_reducible refine form_ok (by assumption) ?_ | split | intro _ | with_reducible apply ih

theorem State.ramPut_form (s : State) (a : Nat) (bs : Bytes) (en : List Bool) (hs : s.memOk = true) :
    (s.ramPut a bs en).memOk = true := by
  have flush (s : State) (a : Nat) (run : Bytes) (hs : s.memOk = true) : (State.ramPut.flush s a run).memOk = true := by
    unfold State.ramPut.flush
    split
    · exact hs
    · exact State.ramWrite_form _ _ _ hs
  have go (bs : Bytes) (s : State) (a : Nat) (run : Bytes) (en : List Bool) (hs : s.memOk = true) :
      (State.ramPut.go s a run bs en).memOk = true := by
    induction bs generalizing s a run en with
    | nil => unfold State.ramPut.go; exact flush _ _ _ hs
    | cons b bs ih =>
      match en with
      | [] => unfold State.ramPut.go; exact flush _ _ _ hs
      | true :: en => unfold State.ramPut.go; exact ih _ _ _ _ hs
      | false :: en => unfold State.ramPut.go; exact ih _ _ _ _ (flush _ _ _ hs)
  unfold State.ramPut
  exact go _ _ _ _ _ hs

theorem State.putParts_form (s : State) (z0 : List (Nat × Nat)) (z1 : Bytes) (z2 : List Bool) (hs : s.memOk = true) :
    (State.putParts s z0 z1 z2).memOk = true := by
  induction z0 generalizing s z1 z2 with
  | nil =>
    unfold State.putParts
    try dsimp only
    repeat' first
      | with_reducible assumption | with_reducible apply State.ramPut_form
      | with_reducible refine form_snd (by assumption) ?_ | with_reducible refine form_snd3 (by assumption) ?_ | split
      | intro _
  | cons x xs ih =>
    unfold State.putParts
    try dsimp only
    repeat' first
      | with_reducible assumption | with_reducible apply State.ramPut_form
      | with_reducible refine form_snd (by assumption) ?_ | with_reducible refine form_snd3 (by assumption) ?_ | split
      | intro _ | with_reducible apply ih

theorem State.atomLanes_form (s : State) (parts : List (Nat × Nat)) (n : Nat) (f : Nat → Nat → Nat) (z0 : List (Nat × Nat)) (hs : s.memOk = true) :
    (State.atomLanes s parts n f z0).2.memOk = true := by
  induction z0 generalizing s n with
  | nil =>
    unfold State.atomLanes
    try dsimp only
    repeat' first
      | with_reducible assumption | with_reducible apply State.ramWrite_form
      | with_reducible refine form_snd (by assumption) ?_ | with_reducible refine form_snd3 (by assumption) ?_ | split
      | intro _
  | cons x xs ih =>
    unfold State.atomLanes
    try dsimp only
    repeat' first
      | with_reducible assumption | with_reducible apply State.ramWrite_form
      | with_reducible refine form_snd (by assumption) ?_ | with_reducible refine form_snd3 (by assumption) ?_ | split
      | intro _ | with_reducible apply ih

theorem State.effect_form (s : State) (op : PacketOp) (parts : List (Nat × Nat)) (lo hi : Nat) (hs : s.memOk = true) :
    (State.effect s op parts lo hi).2.memOk = true := by
  unfold State.effect
  try dsimp only
  repeat' first
    | with_reducible assumption | with_reducible apply State.atomLanes_form | with_reducible apply State.putParts_form
    | with_reducible refine form_snd (by assumption) ?_ | with_reducible refine form_snd3 (by assumption) ?_
    | with_reducible refine form_some2p (by assumption) ?_ | with_reducible refine form_some (by assumption) ?_
    | split | intro _

theorem State.openInterval_form (s : State) (id : Option FenceId) (plot : Nat) (hs : s.memOk = true) :
    (State.openInterval s id plot).memOk = true := by
  unfold State.openInterval
  try dsimp only
  repeat' first
    | with_reducible assumption | with_reducible refine form_some2p (by assumption) ?_
    | with_reducible refine form_some (by assumption) ?_ | with_reducible refine form_some (by assumption) ?_
    | with_reducible refine form_some2 (by assumption) ?_ | split | (simp only [form_mk]; refine ⟨?_, ?_, ?_⟩)
    | with_reducible apply ram_form | with_reducible apply host_form | with_reducible apply hy_form | intro _

theorem State.countPlaced_form (s : State) (id : Option FenceId) (hs : s.memOk = true) :
    (State.countPlaced s id).memOk = true := by
  unfold State.countPlaced
  try dsimp only
  repeat' first
    | with_reducible assumption | with_reducible apply State.count_form
    | with_reducible refine form_some2p (by assumption) ?_ | with_reducible refine form_some (by assumption) ?_
    | with_reducible refine form_some (by assumption) ?_ | with_reducible refine form_some2 (by assumption) ?_ | split
    | (simp only [form_mk]; refine ⟨?_, ?_, ?_⟩) | with_reducible apply ram_form | with_reducible apply host_form
    | with_reducible apply hy_form | intro _

theorem State.placeIn_form (s : State) (w : WaitPkt) (atom : Option Nat) (hs : s.memOk = true) :
    (State.placeIn s w atom).2.memOk = true := by
  unfold State.placeIn
  try dsimp only
  repeat' first
    | with_reducible assumption | with_reducible apply State.bump_form | with_reducible apply State.countPlaced_form
    | with_reducible apply State.effect_form | with_reducible apply State.regionSpan_form
    | with_reducible apply resForm_ok | with_reducible apply resForm_error | with_reducible apply resForm_bind
    | with_reducible refine form_snd (by assumption) ?_ | with_reducible refine form_snd3 (by assumption) ?_
    | with_reducible refine form_ok (by assumption) ?_ | split | (simp only [form_mk]; refine ⟨?_, ?_, ?_⟩)
    | with_reducible apply ram_form | with_reducible apply host_form | with_reducible apply hy_form | intro _

theorem State.place_form (s : State) (p : Packet) (atom : Option Nat) (hs : s.memOk = true) :
    (State.place s p atom).2.memOk = true := by
  unfold State.place
  try dsimp only
  repeat' first
    | with_reducible assumption | with_reducible apply State.openInterval_form
    | with_reducible apply State.placeIn_form | with_reducible refine form_snd (by assumption) ?_
    | with_reducible refine form_snd3 (by assumption) ?_ | with_reducible refine form_some (by assumption) ?_
    | with_reducible refine form_some2 (by assumption) ?_ | split | intro _

end Sys2Proof.Machine
end

