-- ==== Sys2Proof/Laws/FormMem.lean ====
section
/-! SUPPORT. Every definition of Machine/Mem.lean keeps the canonical form of the byte memories. -/

namespace Sys2Proof.Machine

theorem vecMem_form (s : State) (lits : Nat) (dests srcs : List VReg) (b : Option BufSel) (g : PReg) (body : State → Mask → List Nat → List (List Lanes) → Rec → Out) (hs : s.memOk = true) (hbody : ∀ y0 y1 y2 y3 y4, y0.memOk = true → nextForm (body y0 y1 y2 y3 y4)) :
    nextForm (vecMem s lits dests srcs b g body) := by
  unfold vecMem
  try dsimp only
  repeat' first
    | with_reducible assumption | with_reducible apply done_form | with_reducible apply flow_form
    | with_reducible apply State.modMe_form | with_reducible apply nextForm_next | with_reducible apply resForm_ok
    | with_reducible apply resForm_error | with_reducible apply resForm_bind | with_reducible apply hbody
    | with_reducible refine form_some2p (by assumption) ?_ | with_reducible refine form_some (by assumption) ?_
    | with_reducible refine form_some (by assumption) ?_ | with_reducible refine form_some2 (by assumption) ?_
    | with_reducible refine form_ok (by assumption) ?_ | split | intro _

theorem issueOp_form (s : State) (lits : Nat) (acc : Acc) (lanes : List OpLane) (o : MemOp) (hs : s.memOk = true) :
    nextForm (issueOp s lits acc lanes o) := by
  unfold issueOp
  try dsimp only
  repeat' first
    | with_reducible assumption | with_reducible apply State.addOp_form | with_reducible apply State.advance_form
    | with_reducible apply flow_form | with_reducible apply State.flushHost_form | with_reducible apply nextForm_next
    | with_reducible apply resForm_ok | with_reducible apply resForm_error | with_reducible apply resForm_bind
    | with_reducible refine form_some (by assumption) ?_ | with_reducible refine form_some2 (by assumption) ?_ | split
    | (simp only [form_mk]; refine ⟨?_, ?_, ?_⟩) | with_reducible apply ram_form | with_reducible apply host_form
    | with_reducible apply hy_form | intro _

theorem loadRec_form (s : State) (lits : Nat) (d a : VReg) (b : BufSel) (t : TypeCode) (pol : Nat) (g : PReg) (hs : s.memOk = true) :
    nextForm (loadRec s lits d a b t pol g) := by
  unfold loadRec
  try dsimp only
  repeat' first
    | with_reducible assumption | with_reducible apply flow_form | with_reducible apply issueOp_form
    | with_reducible apply vecMem_form | with_reducible apply withLanes_form | with_reducible apply nextForm_next
    | with_reducible apply resForm_ok | with_reducible apply resForm_error | with_reducible apply resForm_bind
    | with_reducible refine form_snd (by assumption) ?_ | with_reducible refine form_snd3 (by assumption) ?_
    | with_reducible refine form_some (by assumption) ?_ | with_reducible refine form_some2 (by assumption) ?_
    | with_reducible refine form_ok (by assumption) ?_ | split | (simp only [form_mk]; refine ⟨?_, ?_, ?_⟩)
    | with_reducible apply ram_form | with_reducible apply host_form | with_reducible apply hy_form | intro _

theorem execLd_form (d a : VReg) (b : BufSel) (g : PReg) (s : State) (hs : s.memOk = true) :
    nextForm (execLd d a b g s) := by
  unfold execLd
  try dsimp only
  repeat' first
    | with_reducible assumption | with_reducible apply loadRec_form | with_reducible apply nextForm_next | split
    | intro _

theorem execLdLong_form (d a : VReg) (b : BufSel) (t : TypeCode) (pol : BitVec 8) (g : PReg) (s : State) (hs : s.memOk = true) :
    nextForm (execLdLong d a b t pol g s) := by
  unfold execLdLong
  try dsimp only
  repeat' first
    | with_reducible assumption | with_reducible apply loadRec_form | with_reducible apply nextForm_next | split
    | intro _

theorem storeRec_form (s : State) (lits : Nat) (d a : VReg) (b : BufSel) (t : TypeCode) (g : PReg) (hs : s.memOk = true) :
    nextForm (storeRec s lits d a b t g) := by
  unfold storeRec
  try dsimp only
  repeat' first
    | with_reducible assumption | with_reducible apply flow_form | with_reducible apply issueOp_form
    | with_reducible apply vecMem_form | with_reducible apply withLanes_form | with_reducible apply nextForm_next
    | with_reducible apply resForm_ok | with_reducible apply resForm_error | with_reducible apply resForm_bind
    | with_reducible refine form_snd (by assumption) ?_ | with_reducible refine form_snd3 (by assumption) ?_
    | with_reducible refine form_some (by assumption) ?_ | with_reducible refine form_some2 (by assumption) ?_
    | with_reducible refine form_ok (by assumption) ?_ | split | (simp only [form_mk]; refine ⟨?_, ?_, ?_⟩)
    | with_reducible apply ram_form | with_reducible apply host_form | with_reducible apply hy_form | intro _

theorem execSt_form (d a : VReg) (b : BufSel) (g : PReg) (s : State) (hs : s.memOk = true) :
    nextForm (execSt d a b g s) := by
  unfold execSt
  try dsimp only
  repeat' first
    | with_reducible assumption | with_reducible apply storeRec_form | with_reducible apply nextForm_next | split
    | intro _

theorem execStLong_form (d a : VReg) (b : BufSel) (t : TypeCode) (x1 : BitVec 8) (g : PReg) (s : State) (hs : s.memOk = true) :
    nextForm (execStLong d a b t x1 g s) := by
  unfold execStLong
  try dsimp only
  repeat' first
    | with_reducible assumption | with_reducible apply storeRec_form | with_reducible apply nextForm_next | split
    | intro _

theorem loadVia_form (s : State) (v : Via) (d a : VReg) (t : TypeCode) (g : PReg) (hs : s.memOk = true) :
    nextForm (loadVia s v d a t g) := by
  unfold loadVia
  try dsimp only
  repeat' first
    | with_reducible assumption | with_reducible apply issueOp_form | with_reducible apply vecMem_form
    | with_reducible apply withLanes_form | with_reducible apply nextForm_next | split
    | (simp only [form_mk]; refine ⟨?_, ?_, ?_⟩) | with_reducible apply ram_form | with_reducible apply host_form
    | with_reducible apply hy_form | intro _

theorem storeVia_form (s : State) (v : Via) (scope : Nat) (d a : VReg) (t : TypeCode) (g : PReg) (hs : s.memOk = true) :
    nextForm (storeVia s v scope d a t g) := by
  unfold storeVia
  try dsimp only
  repeat' first
    | with_reducible assumption | with_reducible apply flow_form | with_reducible apply State.hold_form
    | with_reducible apply issueOp_form | with_reducible apply vecMem_form | with_reducible apply withLanes_form
    | with_reducible apply nextForm_next | with_reducible apply resForm_ok | with_reducible apply resForm_error
    | with_reducible apply resForm_bind | split | (simp only [form_mk]; refine ⟨?_, ?_, ?_⟩)
    | with_reducible apply ram_form | with_reducible apply host_form | with_reducible apply hy_form | intro _

theorem execLdp_form (d a : VReg) (t : TypeCode) (g : PReg) (s : State) (hs : s.memOk = true) :
    nextForm (execLdp d a t g s) := by
  unfold execLdp
  try dsimp only
  repeat' first
    | with_reducible assumption | with_reducible apply loadVia_form | with_reducible apply nextForm_next | split
    | intro _

theorem execStp_form (d a : VReg) (t : TypeCode) (g : PReg) (s : State) (hs : s.memOk = true) :
    nextForm (execStp d a t g s) := by
  unfold execStp
  try dsimp only
  repeat' first
    | with_reducible assumption | with_reducible apply storeVia_form | with_reducible apply nextForm_next | split
    | intro _

theorem execLds_form (d a : VReg) (t : TypeCode) (g : PReg) (s : State) (hs : s.memOk = true) :
    nextForm (execLds d a t g s) := by
  unfold execLds
  try dsimp only
  repeat' first
    | with_reducible assumption | with_reducible apply loadVia_form | with_reducible apply nextForm_next | split
    | intro _

theorem execSts_form (d a : VReg) (t : TypeCode) (g : PReg) (s : State) (hs : s.memOk = true) :
    nextForm (execSts d a t g s) := by
  unfold execSts
  try dsimp only
  repeat' first
    | with_reducible assumption | with_reducible apply storeVia_form | with_reducible apply nextForm_next | split
    | intro _

theorem execPutp_form (d a : VReg) (t : TypeCode) (g : PReg) (s : State) (hs : s.memOk = true) :
    nextForm (execPutp d a t g s) := by
  unfold execPutp
  try dsimp only
  repeat' first
    | with_reducible assumption | with_reducible apply storeVia_form | with_reducible apply nextForm_next | split
    | intro _

theorem execLookup_form (d a : VReg) (g : PReg) (s : State) (hs : s.memOk = true) :
    nextForm (execLookup d a g s) := by
  unfold execLookup
  try dsimp only
  repeat' first
    | with_reducible assumption | with_reducible apply State.addOp_form | with_reducible apply State.advance_form
    | with_reducible apply vecMem_form | with_reducible apply nextForm_next | split
    | (simp only [form_mk]; refine ⟨?_, ?_, ?_⟩) | with_reducible apply ram_form | with_reducible apply host_form
    | with_reducible apply hy_form | intro _

theorem tagWrite_form (s : State) (k : OpKind) (d a : VReg) (g : PReg) (hs : s.memOk = true) :
    nextForm (tagWrite s k d a g) := by
  unfold tagWrite
  try dsimp only
  repeat' first
    | with_reducible assumption | with_reducible apply State.addOp_form | with_reducible apply State.advance_form
    | with_reducible apply flow_form | with_reducible apply vecMem_form | with_reducible apply nextForm_next
    | with_reducible apply resForm_ok | with_reducible apply resForm_error | with_reducible apply resForm_bind
    | with_reducible refine form_some (by assumption) ?_ | with_reducible refine form_some2 (by assumption) ?_ | split
    | (simp only [form_mk]; refine ⟨?_, ?_, ?_⟩) | with_reducible apply ram_form | with_reducible apply host_form
    | with_reducible apply hy_form | intro _

theorem execTagset_form (d a : VReg) (g : PReg) (s : State) (hs : s.memOk = true) :
    nextForm (execTagset d a g s) := by
  unfold execTagset
  try dsimp only
  repeat' first
    | with_reducible assumption | with_reducible apply tagWrite_form | with_reducible apply nextForm_next | split
    | intro _

theorem execTaginv_form (d a : VReg) (g : PReg) (s : State) (hs : s.memOk = true) :
    nextForm (execTaginv d a g s) := by
  unfold execTaginv
  try dsimp only
  repeat' first
    | with_reducible assumption | with_reducible apply tagWrite_form | with_reducible apply nextForm_next | split
    | intro _

theorem execAtom_form (d a : VReg) (b : BufSel) (c : VReg) (op : BitVec 5) (w : Bool) (g : PReg) (s : State) (hs : s.memOk = true) :
    nextForm (execAtom d a b c op w g s) := by
  unfold execAtom
  try dsimp only
  repeat' first
    | with_reducible assumption | with_reducible apply flow_form | with_reducible apply issueOp_form
    | with_reducible apply vecMem_form | with_reducible apply withLanes_form | with_reducible apply nextForm_next
    | with_reducible apply resForm_ok | with_reducible apply resForm_error | with_reducible apply resForm_bind
    | with_reducible refine form_snd (by assumption) ?_ | with_reducible refine form_snd3 (by assumption) ?_
    | with_reducible refine form_some (by assumption) ?_ | with_reducible refine form_some2 (by assumption) ?_
    | with_reducible refine form_ok (by assumption) ?_ | split | (simp only [form_mk]; refine ⟨?_, ?_, ?_⟩)
    | with_reducible apply ram_form | with_reducible apply host_form | with_reducible apply hy_form | intro _

theorem execAtoms_form (a : VReg) (b : BufSel) (c : VReg) (op : BitVec 5) (w : Bool) (g : PReg) (s : State) (hs : s.memOk = true) :
    nextForm (execAtoms a b c op w g s) := by
  unfold execAtoms
  try dsimp only
  repeat' first
    | with_reducible assumption | with_reducible apply flow_form | with_reducible apply issueOp_form
    | with_reducible apply vecMem_form | with_reducible apply withLanes_form | with_reducible apply nextForm_next
    | with_reducible apply resForm_ok | with_reducible apply resForm_error | with_reducible apply resForm_bind
    | with_reducible refine form_snd (by assumption) ?_ | with_reducible refine form_snd3 (by assumption) ?_
    | with_reducible refine form_some (by assumption) ?_ | with_reducible refine form_some2 (by assumption) ?_
    | with_reducible refine form_ok (by assumption) ?_ | split | (simp only [form_mk]; refine ⟨?_, ?_, ?_⟩)
    | with_reducible apply ram_form | with_reducible apply host_form | with_reducible apply hy_form | intro _

theorem execCas_form (d a : VReg) (b : BufSel) (c e : VReg) (w : BitVec 2) (g : PReg) (s : State) (hs : s.memOk = true) :
    nextForm (execCas d a b c e w g s) := by
  unfold execCas
  try dsimp only
  repeat' first
    | with_reducible assumption | with_reducible apply flow_form | with_reducible apply issueOp_form
    | with_reducible apply vecMem_form | with_reducible apply withLanes_form | with_reducible apply nextForm_next
    | with_reducible apply resForm_ok | with_reducible apply resForm_error | with_reducible apply resForm_bind
    | with_reducible refine form_snd (by assumption) ?_ | with_reducible refine form_snd3 (by assumption) ?_
    | with_reducible refine form_some (by assumption) ?_ | with_reducible refine form_some2 (by assumption) ?_
    | with_reducible refine form_ok (by assumption) ?_ | split | (simp only [form_mk]; refine ⟨?_, ?_, ?_⟩)
    | with_reducible apply ram_form | with_reducible apply host_form | with_reducible apply hy_form | intro _

theorem State.prefLane_form (s : State) (x : Access) (lane index : Nat) (hs : s.memOk = true) :
    (State.prefLane s x lane index).2.memOk = true := by
  unfold State.prefLane
  try dsimp only
  repeat' first
    | with_reducible assumption | with_reducible apply State.devTr_form | with_reducible apply State.place_form
    | with_reducible refine form_snd (by assumption) ?_ | with_reducible refine form_snd3 (by assumption) ?_
    | with_reducible refine form_some2p (by assumption) ?_ | with_reducible refine form_some (by assumption) ?_
    | with_reducible refine form_some (by assumption) ?_ | with_reducible refine form_some2 (by assumption) ?_ | split
    | intro _

theorem State.prefLanes_form (s : State) (x : Access) (idx : Nat → Nat) (z0 : List Nat) (hs : s.memOk = true) :
    (State.prefLanes s x idx z0).2.memOk = true := by
  induction z0 generalizing s with
  | nil =>
    unfold State.prefLanes
    try dsimp only
    repeat' first
      | with_reducible assumption | with_reducible apply State.prefLane_form
      | with_reducible refine form_snd (by assumption) ?_ | with_reducible refine form_snd3 (by assumption) ?_ | split
      | intro _
  | cons x xs ih =>
    unfold State.prefLanes
    try dsimp only
    repeat' first
      | with_reducible assumption | with_reducible apply State.prefLane_form
      | with_reducible refine form_snd (by assumption) ?_ | with_reducible refine form_snd3 (by assumption) ?_ | split
      | intro _ | with_reducible apply ih

theorem execPref_form (a : VReg) (b : BufSel) (g : PReg) (s : State) (hs : s.memOk = true) :
    nextForm (execPref a b g s) := by
  unfold execPref
  try dsimp only
  repeat' first
    | with_reducible assumption | with_reducible apply done_form | with_reducible apply State.fillFor_form
    | with_reducible apply flow_form | with_reducible apply State.modMe_form
    | with_reducible apply State.prefLanes_form | with_reducible apply nextForm_next | with_reducible apply resForm_ok
    | with_reducible apply resForm_error | with_reducible apply resForm_bind
    | with_reducible refine form_snd (by assumption) ?_ | with_reducible refine form_snd3 (by assumption) ?_
    | with_reducible refine form_some2p (by assumption) ?_ | with_reducible refine form_some (by assumption) ?_
    | with_reducible refine form_ok (by assumption) ?_ | split | (simp only [form_mk]; refine ⟨?_, ?_, ?_⟩)
    | with_reducible apply ram_form | with_reducible apply host_form | with_reducible apply hy_form | intro _

theorem State.loadReturn_form (s : State) (o : MemOp) (ext : Bytes) (hs : s.memOk = true) :
    (State.loadReturn s o ext).memOk = true := by
  unfold State.loadReturn
  try dsimp only
  repeat' first
    | with_reducible assumption | with_reducible apply State.acquire_form | with_reducible apply State.fillFor_form
    | with_reducible apply State.landResults_form | with_reducible apply State.modRole_form
    | with_reducible apply State.place_form | with_reducible apply State.replicate_form
    | with_reducible apply State.retire_form | with_reducible apply State.runAtomic_form
    | with_reducible apply State.used_form | with_reducible refine form_snd (by assumption) ?_
    | with_reducible refine form_snd3 (by assumption) ?_ | with_reducible refine form_some2p (by assumption) ?_
    | with_reducible refine form_some (by assumption) ?_ | with_reducible refine form_some (by assumption) ?_
    | with_reducible refine form_some2 (by assumption) ?_ | split | intro _

theorem State.leaveOp_form (s : State) (o : MemOp) (hs : s.memOk = true) :
    (State.leaveOp s o).memOk = true := by
  unfold State.leaveOp
  try dsimp only
  repeat' first
    | with_reducible assumption | with_reducible apply State.sendOp_form
    | with_reducible refine form_snd (by assumption) ?_ | with_reducible refine form_snd3 (by assumption) ?_
    | with_reducible refine form_some2p (by assumption) ?_ | with_reducible refine form_some (by assumption) ?_
    | split | (simp only [form_mk]; refine ⟨?_, ?_, ?_⟩) | with_reducible apply ram_form
    | with_reducible apply host_form | with_reducible apply hy_form | intro _

theorem execLoadReturn_form (op : Nat) (ext : Bytes) (s : State) (hs : s.memOk = true) :
    nextForm (execLoadReturn op ext s) := by
  unfold execLoadReturn
  try dsimp only
  repeat' first
    | with_reducible assumption | with_reducible apply State.leaveOp_form | with_reducible apply State.loadReturn_form
    | with_reducible apply nextForm_next | with_reducible refine form_some (by assumption) ?_
    | with_reducible refine form_some2 (by assumption) ?_ | split | intro _

theorem State.performB_form (s : State) (o : MemOp) (hs : s.memOk = true) :
    (State.performB s o).memOk = true := by
  unfold State.performB
  try dsimp only
  repeat' first
    | with_reducible assumption | with_reducible apply State.acquire_form | with_reducible apply State.modCore_form
    | with_reducible apply State.modRole_form | with_reducible apply State.place_form
    | with_reducible apply State.runAtomic_form | with_reducible apply State.setCounter_form
    | with_reducible apply State.writePlace_form | with_reducible apply foldl_form
    | with_reducible apply foldl_form_snd | with_reducible refine form_snd (by assumption) ?_
    | with_reducible refine form_snd3 (by assumption) ?_ | with_reducible refine form_some (by assumption) ?_
    | with_reducible refine form_some2 (by assumption) ?_ | split | (simp only [form_mk]; refine ⟨?_, ?_, ?_⟩)
    | with_reducible apply ram_form | with_reducible apply host_form | with_reducible apply hy_form | intro _

theorem State.storeRetire_form (s : State) (o : MemOp) (hs : s.memOk = true) :
    (State.storeRetire s o).memOk = true := by
  unfold State.storeRetire
  try dsimp only
  repeat' first
    | with_reducible assumption | with_reducible apply State.modRole_form | with_reducible apply State.performB_form
    | with_reducible apply State.retire_form | with_reducible apply State.sendOp_form
    | with_reducible refine form_snd (by assumption) ?_ | with_reducible refine form_snd3 (by assumption) ?_
    | with_reducible refine form_some2p (by assumption) ?_ | with_reducible refine form_some (by assumption) ?_
    | split | (simp only [form_mk]; refine ⟨?_, ?_, ?_⟩) | with_reducible apply wf_filter
    | with_reducible apply ram_form | with_reducible apply host_form | with_reducible apply hy_form | intro _

theorem execStoreRetire_form (op : Nat) (s : State) (hs : s.memOk = true) :
    nextForm (execStoreRetire op s) := by
  unfold execStoreRetire
  try dsimp only
  repeat' first
    | with_reducible assumption | with_reducible apply State.storeRetire_form | with_reducible apply nextForm_next
    | with_reducible refine form_some (by assumption) ?_ | with_reducible refine form_some2 (by assumption) ?_ | split
    | intro _

theorem State.fillTlb_form (s : State) (core : Nat) (l : Leaf) (hs : s.memOk = true) :
    (State.fillTlb s core l).memOk = true := by
  unfold State.fillTlb
  try dsimp only
  repeat' first
    | with_reducible assumption | with_reducible apply State.modCore_form | split
    | (simp only [form_mk]; refine ⟨?_, ?_, ?_⟩) | with_reducible apply wf_filter | with_reducible apply ram_form
    | with_reducible apply host_form | with_reducible apply hy_form | intro _

theorem execPageWalkComplete_form (role : Nat) (s : State) (hs : s.memOk = true) :
    nextForm (execPageWalkComplete role s) := by
  unfold execPageWalkComplete
  try dsimp only
  repeat' first
    | with_reducible assumption | with_reducible apply State.fillTlb_form | with_reducible apply State.modRole_form
    | with_reducible apply State.parkFault_form | with_reducible apply State.pushFault_form
    | with_reducible apply State.wake_form | with_reducible apply State.zeroPage_form
    | with_reducible apply nextForm_next | with_reducible refine form_snd (by assumption) ?_
    | with_reducible refine form_snd3 (by assumption) ?_ | with_reducible refine form_some (by assumption) ?_
    | with_reducible refine form_some2 (by assumption) ?_ | split | (simp only [form_mk]; refine ⟨?_, ?_, ?_⟩)
    | with_reducible apply ram_form | with_reducible apply host_form | with_reducible apply hy_form | intro _

theorem execGlobalVerdictReceive_form (role : Nat) (refused : Option Nat) (s : State) (hs : s.memOk = true) :
    nextForm (execGlobalVerdictReceive role refused s) := by
  unfold execGlobalVerdictReceive
  try dsimp only
  repeat' first
    | with_reducible assumption | with_reducible apply State.modRole_form | with_reducible apply State.wake_form
    | with_reducible apply nextForm_next | with_reducible refine form_some (by assumption) ?_
    | with_reducible refine form_some2 (by assumption) ?_ | split | (simp only [form_mk]; refine ⟨?_, ?_, ?_⟩)
    | with_reducible apply ram_form | with_reducible apply host_form | with_reducible apply hy_form | intro _

end Sys2Proof.Machine
end

