-- ==== Sys2Proof/Laws/FormEngine.lean ====
section
/-! SUPPORT. Every definition of Machine/Engine.lean keeps the canonical form of the byte memories. -/

namespace Sys2Proof.Machine

theorem accept_form (s : State) (lits : Nat) (c : Cmd) (ls : List RangeLock) (joins : Bool) (ranks : List (BitVec 18)) (trig : Bool) (put : Core → Cmd → Core) (hs : s.memOk = true) :
    nextForm (accept s lits c ls joins ranks trig put) := by
  unfold accept
  try dsimp only
  repeat' first
    | with_reducible assumption | with_reducible apply State.advance_form | with_reducible apply State.claimAll_form
    | with_reducible apply State.flushHost_form | with_reducible apply State.hold_form
    | with_reducible apply State.modCore_form | with_reducible apply State.numbered_form
    | with_reducible apply State.park_form | with_reducible apply nextForm_next
    | with_reducible refine form_some2p (by assumption) ?_ | with_reducible refine form_some (by assumption) ?_
    | with_reducible refine form_some (by assumption) ?_ | with_reducible refine form_some2 (by assumption) ?_ | split
    | (simp only [form_mk]; refine ⟨?_, ?_, ?_⟩) | with_reducible apply ram_form | with_reducible apply host_form
    | with_reducible apply hy_form | intro _

theorem acceptQ_form (s : State) (lits : Nat) (c : Cmd) (ls : List RangeLock) (ranks : List (BitVec 18)) (hs : s.memOk = true) :
    nextForm (acceptQ s lits c ls ranks) := by
  unfold acceptQ
  try dsimp only
  repeat' first
    | with_reducible assumption | with_reducible apply accept_form | with_reducible apply nextForm_next | split
    | intro _

theorem engineOp_form (s : State) (lits : Nat) (fours : List Nat) (vecs : List VReg) (b : Option BufSel) (g : PReg) (body : State → List Rec → List (List Lanes) → Rec → Out) (hs : s.memOk = true) (hbody : ∀ y0 y1 y2 y3, y0.memOk = true → nextForm (body y0 y1 y2 y3)) :
    nextForm (engineOp s lits fours vecs b g body) := by
  unfold engineOp
  try dsimp only
  repeat' first
    | with_reducible assumption | with_reducible apply done_form | with_reducible apply flow_form
    | with_reducible apply State.modMe_form | with_reducible apply nextForm_next | with_reducible apply resForm_ok
    | with_reducible apply resForm_error | with_reducible apply resForm_bind | with_reducible apply hbody
    | with_reducible refine form_some2p (by assumption) ?_ | with_reducible refine form_some (by assumption) ?_
    | with_reducible refine form_some (by assumption) ?_ | with_reducible refine form_some2 (by assumption) ?_
    | with_reducible refine form_ok (by assumption) ?_ | split | intro _

theorem copyCmd_form (s : State) (k : CmdKind) (d a : SReg) (b : BufSel) (g : PReg) (sKinds dKinds : List Nat) (pkts : Bool) (hs : s.memOk = true) :
    nextForm (copyCmd s k d a b g sKinds dKinds pkts) := by
  unfold copyCmd
  try dsimp only
  repeat' first
    | with_reducible assumption | with_reducible apply acceptQ_form | with_reducible apply engineOp_form
    | with_reducible apply flow_form | with_reducible apply nextForm_next | with_reducible apply resForm_ok
    | with_reducible apply resForm_error | with_reducible apply resForm_bind
    | with_reducible refine form_some (by assumption) ?_ | with_reducible refine form_some2 (by assumption) ?_
    | with_reducible refine form_ok (by assumption) ?_ | split | (simp only [form_mk]; refine ⟨?_, ?_, ?_⟩)
    | with_reducible apply ram_form | with_reducible apply host_form | with_reducible apply hy_form | intro _

theorem execCpy_form (d a : SReg) (b : BufSel) (g : PReg) (s : State) (hs : s.memOk = true) :
    nextForm (execCpy d a b g s) := by
  unfold execCpy
  try dsimp only
  repeat' first
    | with_reducible assumption | with_reducible apply copyCmd_form | with_reducible apply nextForm_next | split
    | intro _

theorem execPut_form (d a : SReg) (b : BufSel) (g : PReg) (s : State) (hs : s.memOk = true) :
    nextForm (execPut d a b g s) := by
  unfold execPut
  try dsimp only
  repeat' first
    | with_reducible assumption | with_reducible apply copyCmd_form | with_reducible apply nextForm_next | split
    | intro _

theorem execGet_form (d a : SReg) (b : BufSel) (g : PReg) (s : State) (hs : s.memOk = true) :
    nextForm (execGet d a b g s) := by
  unfold execGet
  try dsimp only
  repeat' first
    | with_reducible assumption | with_reducible apply copyCmd_form | with_reducible apply nextForm_next | split
    | intro _

theorem laneCopy_form (s : State) (gather : Bool) (d : SReg) (a : VReg) (b : BufSel) (g : PReg) (hs : s.memOk = true) :
    nextForm (laneCopy s gather d a b g) := by
  unfold laneCopy
  try dsimp only
  repeat' first
    | with_reducible assumption | with_reducible apply acceptQ_form | with_reducible apply engineOp_form
    | with_reducible apply flow_form | with_reducible apply nextForm_next | with_reducible apply resForm_ok
    | with_reducible apply resForm_error | with_reducible apply resForm_bind | with_reducible apply foldl_form
    | with_reducible apply foldl_form_snd | with_reducible refine form_snd (by assumption) ?_
    | with_reducible refine form_snd3 (by assumption) ?_ | with_reducible refine form_some2p (by assumption) ?_
    | with_reducible refine form_some (by assumption) ?_ | with_reducible refine form_some (by assumption) ?_
    | with_reducible refine form_some2 (by assumption) ?_ | with_reducible refine form_ok (by assumption) ?_ | split
    | (simp only [form_mk]; refine ⟨?_, ?_, ?_⟩) | with_reducible apply ram_form | with_reducible apply host_form
    | with_reducible apply hy_form | intro _

theorem execGath_form (d : SReg) (a : VReg) (b : BufSel) (g : PReg) (s : State) (hs : s.memOk = true) :
    nextForm (execGath d a b g s) := by
  unfold execGath
  try dsimp only
  repeat' first
    | with_reducible assumption | with_reducible apply laneCopy_form | with_reducible apply nextForm_next | split
    | intro _

theorem execScat_form (d : SReg) (a : VReg) (b : BufSel) (g : PReg) (s : State) (hs : s.memOk = true) :
    nextForm (execScat d a b g s) := by
  unfold execScat
  try dsimp only
  repeat' first
    | with_reducible assumption | with_reducible apply laneCopy_form | with_reducible apply nextForm_next | split
    | intro _

theorem execCpyb_form (d : SReg) (g : PReg) (s : State) (hs : s.memOk = true) :
    nextForm (execCpyb d g s) := by
  unfold execCpyb
  try dsimp only
  repeat' first
    | with_reducible assumption | with_reducible apply done_form | with_reducible apply flow_form
    | with_reducible apply State.modMe_form | with_reducible apply State.putS_form
    | with_reducible apply nextForm_next | with_reducible apply resForm_ok | with_reducible apply resForm_error
    | with_reducible apply resForm_bind | with_reducible refine form_ok (by assumption) ?_ | split
    | (simp only [form_mk]; refine ⟨?_, ?_, ?_⟩) | with_reducible apply ram_form | with_reducible apply host_form
    | with_reducible apply hy_form | intro _

theorem execWaitb_form (a : SReg) (g : PReg) (s : State) (hs : s.memOk = true) :
    nextForm (execWaitb a g s) := by
  unfold execWaitb
  try dsimp only
  repeat' first
    | with_reducible assumption | with_reducible apply done_form | with_reducible apply State.dropL1_form
    | with_reducible apply State.park_form | with_reducible apply withScalar_form | with_reducible apply nextForm_next
    | with_reducible apply resForm_ok | with_reducible apply resForm_error | with_reducible apply resForm_bind
    | with_reducible refine form_ok (by assumption) ?_ | split | intro _

theorem execRatom_form (d : VReg) (a : VReg) (b : BufSel) (c : VReg) (op : BitVec 5) (w : Bool) (g : PReg) (s : State) (hs : s.memOk = true) :
    nextForm (execRatom d a b c op w g s) := by
  unfold execRatom
  try dsimp only
  repeat' first
    | with_reducible assumption | with_reducible apply accept_form | with_reducible apply flow_form
    | with_reducible apply vecMem_form | with_reducible apply nextForm_next | with_reducible apply resForm_ok
    | with_reducible apply resForm_error | with_reducible apply resForm_bind
    | with_reducible refine form_snd (by assumption) ?_ | with_reducible refine form_snd3 (by assumption) ?_
    | with_reducible refine form_some2p (by assumption) ?_ | with_reducible refine form_some (by assumption) ?_
    | with_reducible refine form_some (by assumption) ?_ | with_reducible refine form_some2 (by assumption) ?_
    | with_reducible refine form_ok (by assumption) ?_ | split | (simp only [form_mk]; refine ⟨?_, ?_, ?_⟩)
    | with_reducible apply ram_form | with_reducible apply host_form | with_reducible apply hy_form | intro _

theorem ctrOp_form (s : State) (d a : SReg) (g : PReg) (readsD : Bool) (body : State → Nat → BitVec 8 → BitVec 48 → Out) (hs : s.memOk = true) (hbody : ∀ y0 y1 y2 y3, y0.memOk = true → nextForm (body y0 y1 y2 y3)) :
    nextForm (ctrOp s d a g readsD body) := by
  unfold ctrOp
  try dsimp only
  repeat' first
    | with_reducible assumption | with_reducible apply done_form | with_reducible apply flow_form
    | with_reducible apply nextForm_next | with_reducible apply resForm_ok | with_reducible apply resForm_error
    | with_reducible apply resForm_bind | with_reducible apply hbody
    | with_reducible refine form_some2p (by assumption) ?_ | with_reducible refine form_some (by assumption) ?_
    | with_reducible refine form_ok (by assumption) ?_ | split | (simp only [form_mk]; refine ⟨?_, ?_, ?_⟩)
    | with_reducible apply ram_form | with_reducible apply host_form | with_reducible apply hy_form | intro _

theorem execCtradd_form (d a : SReg) (g : PReg) (s : State) (hs : s.memOk = true) :
    nextForm (execCtradd d a g s) := by
  unfold execCtradd
  try dsimp only
  repeat' first
    | with_reducible assumption | with_reducible apply State.addOp_form | with_reducible apply State.advance_form
    | with_reducible apply ctrOp_form | with_reducible apply nextForm_next | split | intro _

theorem execCtrset_form (d a : SReg) (g : PReg) (s : State) (hs : s.memOk = true) :
    nextForm (execCtrset d a g s) := by
  unfold execCtrset
  try dsimp only
  repeat' first
    | with_reducible assumption | with_reducible apply State.addOp_form | with_reducible apply State.advance_form
    | with_reducible apply ctrOp_form | with_reducible apply nextForm_next | split | intro _

theorem execCtrrd_form (d a : SReg) (g : PReg) (s : State) (hs : s.memOk = true) :
    nextForm (execCtrrd d a g s) := by
  unfold execCtrrd
  try dsimp only
  repeat' first
    | with_reducible assumption | with_reducible apply State.addOp_form | with_reducible apply State.advance_form
    | with_reducible apply ctrOp_form | with_reducible apply nextForm_next
    | with_reducible refine form_some (by assumption) ?_ | with_reducible refine form_some2 (by assumption) ?_ | split
    | (simp only [form_mk]; refine ⟨?_, ?_, ?_⟩) | with_reducible apply ram_form | with_reducible apply host_form
    | with_reducible apply hy_form | intro _

theorem execCtrwait_form (d a : SReg) (g : PReg) (s : State) (hs : s.memOk = true) :
    nextForm (execCtrwait d a g s) := by
  unfold execCtrwait
  try dsimp only
  repeat' first
    | with_reducible assumption | with_reducible apply ctrOp_form | with_reducible apply done_form
    | with_reducible apply State.dropL1_form | with_reducible apply State.park_form
    | with_reducible apply nextForm_next | with_reducible apply resForm_ok | with_reducible apply resForm_error
    | with_reducible apply resForm_bind | with_reducible refine form_ok (by assumption) ?_ | split | intro _

theorem trigger_form (s : State) (sub : Bool) (d a : SReg) (b : BufSel) (c : BitVec 8) (g : PReg) (hs : s.memOk = true) :
    nextForm (trigger s sub d a b c g) := by
  unfold trigger
  try dsimp only
  repeat' first
    | with_reducible assumption | with_reducible apply accept_form | with_reducible apply engineOp_form
    | with_reducible apply flow_form | with_reducible apply nextForm_next | with_reducible apply resForm_ok
    | with_reducible apply resForm_error | with_reducible apply resForm_bind
    | with_reducible refine form_some (by assumption) ?_ | with_reducible refine form_some2 (by assumption) ?_
    | with_reducible refine form_ok (by assumption) ?_ | split | (simp only [form_mk]; refine ⟨?_, ?_, ?_⟩)
    | with_reducible apply ram_form | with_reducible apply host_form | with_reducible apply hy_form | intro _

theorem execTrig_form (d a : SReg) (b : BufSel) (c : BitVec 8) (g : PReg) (s : State) (hs : s.memOk = true) :
    nextForm (execTrig d a b c g s) := by
  unfold execTrig
  try dsimp only
  repeat' first
    | with_reducible assumption | with_reducible apply trigger_form | with_reducible apply nextForm_next | split
    | intro _

theorem execTrigx_form (d a : SReg) (b : BufSel) (c : BitVec 8) (g : PReg) (s : State) (hs : s.memOk = true) :
    nextForm (execTrigx d a b c g s) := by
  unfold execTrigx
  try dsimp only
  repeat' first
    | with_reducible assumption | with_reducible apply trigger_form | with_reducible apply nextForm_next | split
    | intro _

theorem execFencex_form (a : SReg) (g : PReg) (s : State) (hs : s.memOk = true) :
    nextForm (execFencex a g s) := by
  unfold execFencex
  try dsimp only
  repeat' first
    | with_reducible assumption | with_reducible apply acceptQ_form | with_reducible apply State.count_form
    | with_reducible apply State.hold_form | with_reducible apply State.modMe_form
    | with_reducible apply withScalar_form | with_reducible apply nextForm_next
    | with_reducible refine form_snd (by assumption) ?_ | with_reducible refine form_snd3 (by assumption) ?_
    | with_reducible refine form_some2p (by assumption) ?_ | with_reducible refine form_some (by assumption) ?_
    | with_reducible refine form_some (by assumption) ?_ | with_reducible refine form_some2 (by assumption) ?_ | split
    | (simp only [form_mk]; refine ⟨?_, ?_, ?_⟩) | with_reducible apply ram_form | with_reducible apply host_form
    | with_reducible apply hy_form | intro _

theorem State.revoke_form (s : State) (n : Nat) (hs : s.memOk = true) :
    (State.revoke s n).memOk = true := by
  unfold State.revoke
  try dsimp only
  repeat' first
    | with_reducible assumption | split | (simp only [form_mk]; refine ⟨?_, ?_, ?_⟩) | with_reducible apply ram_form
    | with_reducible apply host_form | with_reducible apply hy_form | intro _

theorem execRgnreg_form (d a : SReg) (g : PReg) (s : State) (hs : s.memOk = true) :
    nextForm (execRgnreg d a g s) := by
  unfold execRgnreg
  try dsimp only
  repeat' first
    | with_reducible assumption | with_reducible apply done_form | with_reducible apply flow_form
    | with_reducible apply State.hold_form | with_reducible apply nextForm_next | with_reducible apply resForm_ok
    | with_reducible apply resForm_error | with_reducible apply resForm_bind
    | with_reducible refine form_snd (by assumption) ?_ | with_reducible refine form_snd3 (by assumption) ?_
    | with_reducible refine form_some2p (by assumption) ?_ | with_reducible refine form_some (by assumption) ?_
    | with_reducible refine form_ok (by assumption) ?_ | split | (simp only [form_mk]; refine ⟨?_, ?_, ?_⟩)
    | with_reducible apply ram_form | with_reducible apply host_form | with_reducible apply hy_form | intro _

theorem execRgnrev_form (x1 a : SReg) (g : PReg) (s : State) (hs : s.memOk = true) :
    nextForm (execRgnrev x1 a g s) := by
  unfold execRgnrev
  try dsimp only
  repeat' first
    | with_reducible assumption | with_reducible apply accept_form | with_reducible apply flow_form
    | with_reducible apply State.hold_form | with_reducible apply State.revoke_form
    | with_reducible apply withScalar_form | with_reducible apply nextForm_next | with_reducible apply resForm_ok
    | with_reducible apply resForm_error | with_reducible apply resForm_bind | split
    | (simp only [form_mk]; refine ⟨?_, ?_, ?_⟩) | with_reducible apply ram_form | with_reducible apply host_form
    | with_reducible apply hy_form | intro _

end Sys2Proof.Machine
end

