-- ==== Sys2Proof/Laws/FormEngineIo.lean ====
section
/-! SUPPORT. Every definition of Machine/EngineIo.lean keeps the canonical form of the byte memories. -/

namespace Sys2Proof.Machine

theorem State.waitFor_form (s : State) (vi asid va reason access cmd : Nat) (hs : s.memOk = true) :
    (State.waitFor s vi asid va reason access cmd).memOk = true := by
  unfold State.waitFor
  try dsimp only
  repeat' first
    | with_reducible assumption | with_reducible apply State.faultFor_form | with_reducible apply State.modIface_form
    | with_reducible refine form_some2p (by assumption) ?_ | with_reducible refine form_some (by assumption) ?_
    | split | (simp only [form_mk]; refine ⟨?_, ?_, ?_⟩) | with_reducible apply ram_form
    | with_reducible apply host_form | with_reducible apply hy_form | intro _

theorem State.hostTr_form (s : State) (vi who a : Nat) (hs : s.memOk = true) :
    (State.hostTr s vi who a).2.memOk = true := by
  unfold State.hostTr
  try dsimp only
  repeat' first
    | with_reducible assumption | with_reducible apply State.emit_form | with_reducible apply State.setIface_form
    | with_reducible apply resForm_ok | with_reducible apply resForm_error | with_reducible apply resForm_bind
    | with_reducible refine form_snd (by assumption) ?_ | with_reducible refine form_snd3 (by assumption) ?_
    | with_reducible refine form_ok (by assumption) ?_ | split | (simp only [form_mk]; refine ⟨?_, ?_, ?_⟩)
    | with_reducible apply ram_form | with_reducible apply host_form | with_reducible apply hy_form | intro _

theorem State.cmdPlace_form (s : State) (c : Cmd) (kind : Nat) (acc : Acc) (a : Nat) (hs : s.memOk = true) :
    (State.cmdPlace s c kind acc a).2.memOk = true := by
  unfold State.cmdPlace
  try dsimp only
  repeat' first
    | with_reducible assumption | with_reducible apply State.devTrAt_form | with_reducible apply State.hostTr_form
    | with_reducible apply State.waitFor_form | with_reducible apply resForm_ok | with_reducible apply resForm_error
    | with_reducible apply resForm_bind | with_reducible refine form_snd (by assumption) ?_
    | with_reducible refine form_snd3 (by assumption) ?_ | with_reducible refine form_some2p (by assumption) ?_
    | with_reducible refine form_some (by assumption) ?_ | with_reducible refine form_some (by assumption) ?_
    | with_reducible refine form_some2 (by assumption) ?_ | with_reducible refine form_ok (by assumption) ?_ | split
    | intro _

theorem State.cmdRead_form (s : State) (c : Cmd) (kind at' : Nat) (z0 : List (Option Nat × Nat)) (z1 : Bytes) (hs : s.memOk = true) :
    (State.cmdRead s c kind at' z0 z1).2.memOk = true := by
  induction z0 generalizing s kind at' z1 with
  | nil =>
    unfold State.cmdRead
    try dsimp only
    repeat' first
      | with_reducible assumption | with_reducible apply State.cmdPlace_form | with_reducible apply State.replicate_form
      | with_reducible apply resForm_ok | with_reducible apply resForm_error | with_reducible apply resForm_bind
      | with_reducible refine form_snd (by assumption) ?_ | with_reducible refine form_snd3 (by assumption) ?_
      | with_reducible refine form_some2p (by assumption) ?_ | with_reducible refine form_some (by assumption) ?_
      | with_reducible refine form_some (by assumption) ?_ | with_reducible refine form_some2 (by assumption) ?_
      | with_reducible refine form_ok (by assumption) ?_ | split | intro _
  | cons x xs ih =>
    unfold State.cmdRead
    try dsimp only
    repeat' first
      | with_reducible assumption | with_reducible apply State.cmdPlace_form | with_reducible apply State.replicate_form
      | with_reducible apply resForm_ok | with_reducible apply resForm_error | with_reducible apply resForm_bind
      | with_reducible refine form_snd (by assumption) ?_ | with_reducible refine form_snd3 (by assumption) ?_
      | with_reducible refine form_some2p (by assumption) ?_ | with_reducible refine form_some (by assumption) ?_
      | with_reducible refine form_some (by assumption) ?_ | with_reducible refine form_some2 (by assumption) ?_
      | with_reducible refine form_ok (by assumption) ?_ | split | intro _ | with_reducible apply ih

theorem State.cmdPut_form (s : State) (c : Cmd) (p : Place) (bs : Bytes) (hs : s.memOk = true) :
    (State.cmdPut s c p bs).memOk = true := by
  unfold State.cmdPut
  try dsimp only
  repeat' first
    | with_reducible assumption | with_reducible apply State.hostWrite_form | with_reducible apply State.modCore_form
    | with_reducible apply State.ramWrite_form | with_reducible apply State.touch_form | split | intro _

theorem State.cmdWrite_form (s : State) (c : Cmd) (kind : Nat) (pick : Nat → Bool) (i : Nat) (z0 : List (Option Nat × Nat)) (z1 : Bytes) (hs : s.memOk = true) :
    (State.cmdWrite s c kind pick i z0 z1).2.2.memOk = true := by
  induction z0 generalizing s kind i z1 with
  | nil =>
    unfold State.cmdWrite
    try dsimp only
    repeat' first
      | with_reducible assumption | with_reducible apply State.cmdPlace_form | with_reducible apply State.cmdPut_form
      | with_reducible apply resForm_ok | with_reducible apply resForm_error | with_reducible apply resForm_bind
      | with_reducible refine form_snd (by assumption) ?_ | with_reducible refine form_snd3 (by assumption) ?_
      | with_reducible refine form_some (by assumption) ?_ | with_reducible refine form_some2 (by assumption) ?_
      | with_reducible refine form_ok (by assumption) ?_ | split | intro _
  | cons x xs ih =>
    unfold State.cmdWrite
    try dsimp only
    repeat' first
      | with_reducible assumption | with_reducible apply State.cmdPlace_form | with_reducible apply State.cmdPut_form
      | with_reducible apply resForm_ok | with_reducible apply resForm_error | with_reducible apply resForm_bind
      | with_reducible refine form_snd (by assumption) ?_ | with_reducible refine form_snd3 (by assumption) ?_
      | with_reducible refine form_some (by assumption) ?_ | with_reducible refine form_some2 (by assumption) ?_
      | with_reducible refine form_ok (by assumption) ?_ | split | intro _ | with_reducible apply ih

theorem State.modCmd_form (s : State) (c : Cmd) (f : Cmd → Cmd) (hs : s.memOk = true) :
    (State.modCmd s c f).memOk = true := by
  unfold State.modCmd
  try dsimp only
  repeat' first
    | with_reducible assumption | with_reducible apply State.modCore_form
    | with_reducible refine form_some2p (by assumption) ?_ | with_reducible refine form_some (by assumption) ?_
    | split | (simp only [form_mk]; refine ⟨?_, ?_, ?_⟩) | with_reducible apply ram_form
    | with_reducible apply host_form | with_reducible apply hy_form | intro _

theorem State.setCmd_form (s : State) (c : Cmd) (hs : s.memOk = true) :
    (State.setCmd s c).memOk = true := by
  unfold State.setCmd
  try dsimp only
  repeat' first
    | with_reducible assumption | with_reducible apply State.modCmd_form | split | intro _

theorem State.dropLocks_form (s : State) (c : Cmd) (hs : s.memOk = true) :
    (State.dropLocks s c).memOk = true := by
  unfold State.dropLocks
  try dsimp only
  repeat' first
    | with_reducible assumption | with_reducible apply State.modCore_form | split
    | (simp only [form_mk]; refine ⟨?_, ?_, ?_⟩) | with_reducible apply wf_filter | with_reducible apply ram_form
    | with_reducible apply host_form | with_reducible apply hy_form | intro _

theorem State.dropCmd_form (s : State) (c : Cmd) (hs : s.memOk = true) :
    (State.dropCmd s c).memOk = true := by
  unfold State.dropCmd
  try dsimp only
  repeat' first
    | with_reducible assumption | with_reducible apply State.dropLocks_form | with_reducible apply State.modCore_form
    | with_reducible apply State.reapTeam_form | split | (simp only [form_mk]; refine ⟨?_, ?_, ?_⟩)
    | with_reducible apply wf_filter | with_reducible apply ram_form | with_reducible apply host_form
    | with_reducible apply hy_form | intro _

theorem State.cmdStore_form (s : State) (c : Cmd) (k first kind : Nat) (atom : Option Nat) (parts : List (Option Nat × Nat)) (bs : Bytes) (hs : s.memOk = true) :
    (State.cmdStore s c k first kind atom parts bs).2.memOk = true := by
  unfold State.cmdStore
  try dsimp only
  repeat' first
    | with_reducible assumption | with_reducible apply State.cmdWrite_form | with_reducible apply State.modCmd_form
    | with_reducible apply resForm_ok | with_reducible apply resForm_error | with_reducible apply resForm_bind
    | with_reducible refine form_snd (by assumption) ?_ | with_reducible refine form_snd3 (by assumption) ?_
    | with_reducible refine form_some2p (by assumption) ?_ | with_reducible refine form_some (by assumption) ?_
    | with_reducible refine form_ok (by assumption) ?_ | split | (simp only [form_mk]; refine ⟨?_, ?_, ?_⟩)
    | with_reducible apply ram_form | with_reducible apply host_form | with_reducible apply hy_form | intro _

theorem State.chunkDone_form (s : State) (c : Cmd) (k : Nat) (hs : s.memOk = true) :
    (State.chunkDone s c k).memOk = true := by
  unfold State.chunkDone
  try dsimp only
  repeat' first
    | with_reducible assumption | with_reducible apply done_form | with_reducible apply State.modCmd_form
    | with_reducible apply resForm_ok | with_reducible apply resForm_error | with_reducible apply resForm_bind | split
    | (simp only [form_mk]; refine ⟨?_, ?_, ?_⟩) | with_reducible apply wf_filter | with_reducible apply ram_form
    | with_reducible apply host_form | with_reducible apply hy_form | intro _

theorem State.modTcfg_form (s : State) (tk : Nat) (f : Tcfg → Tcfg) (hs : s.memOk = true) :
    (State.modTcfg s tk f).memOk = true := by
  unfold State.modTcfg
  try dsimp only
  repeat' first
    | with_reducible assumption | with_reducible apply State.modTeam_form
    | with_reducible refine form_some2p (by assumption) ?_ | with_reducible refine form_some (by assumption) ?_
    | split | (simp only [form_mk]; refine ⟨?_, ?_, ?_⟩) | with_reducible apply ram_form
    | with_reducible apply host_form | with_reducible apply hy_form | intro _

theorem State.tagScales_form (s : State) (c : Cmd) (hs : s.memOk = true) :
    (State.tagScales s c).memOk = true := by
  unfold State.tagScales
  try dsimp only
  repeat' first
    | with_reducible assumption | with_reducible apply State.modTcfg_form | with_reducible apply foldl_form
    | with_reducible apply foldl_form_snd | split | (simp only [form_mk]; refine ⟨?_, ?_, ?_⟩)
    | with_reducible apply ram_form | with_reducible apply host_form | with_reducible apply hy_form | intro _

theorem State.deferFor_form (s : State) (c : Cmd) (d : Deferred) (hs : s.memOk = true) :
    (State.deferFor s c d).memOk = true := by
  unfold State.deferFor
  try dsimp only
  repeat' first
    | with_reducible assumption | with_reducible apply State.defer_form | split | intro _

theorem State.failCmd_form (s : State) (c : Cmd) (cause : Imm8) (addr : Nat) (hs : s.memOk = true) :
    (State.failCmd s c cause addr).memOk = true := by
  unfold State.failCmd
  try dsimp only
  repeat' first
    | with_reducible assumption | with_reducible apply State.deferFor_form | with_reducible apply State.dropCmd_form
    | with_reducible apply State.tagScales_form | split | (simp only [form_mk]; refine ⟨?_, ?_, ?_⟩)
    | with_reducible apply wf_filter | with_reducible apply ram_form | with_reducible apply host_form
    | with_reducible apply hy_form | intro _

end Sys2Proof.Machine
end

