-- ==== Sys2Proof/Laws/FormFabric.lean ====
section
/-! SUPPORT. Every definition of Machine/Fabric.lean keeps the canonical form of the byte memories. -/

namespace Sys2Proof.Machine

theorem State.verdict_form (s : State) (c : Cmd) (placed : Nat) (hs : s.memOk = true) :
    (State.verdict s c placed).memOk = true := by
  unfold State.verdict
  try dsimp only
  repeat' first
    | with_reducible assumption | with_reducible apply State.count_form | with_reducible apply State.deferFor_form
    | with_reducible apply done_form | with_reducible apply State.setCmd_form | with_reducible apply resForm_ok
    | with_reducible apply resForm_error | with_reducible apply resForm_bind
    | with_reducible refine form_some2p (by assumption) ?_ | with_reducible refine form_some (by assumption) ?_
    | split | (simp only [form_mk]; refine ⟨?_, ?_, ?_⟩) | with_reducible apply ram_form
    | with_reducible apply host_form | with_reducible apply hy_form | intro _

theorem State.closeFence_form (s : State) (id : FenceId) (hs : s.memOk = true) :
    (State.closeFence s id).memOk = true := by
  unfold State.closeFence
  try dsimp only
  repeat' first
    | with_reducible assumption | with_reducible refine form_some2p (by assumption) ?_
    | with_reducible refine form_some (by assumption) ?_ | split | (simp only [form_mk]; refine ⟨?_, ?_, ?_⟩)
    | with_reducible apply wf_filter | with_reducible apply ram_form | with_reducible apply host_form
    | with_reducible apply hy_form | intro _

theorem State.giveVerdict_form (s : State) (e : FenceEntry) (n : Nat) (hs : s.memOk = true) :
    (State.giveVerdict s e n).memOk = true := by
  unfold State.giveVerdict
  try dsimp only
  repeat' first
    | with_reducible assumption | with_reducible apply State.closeFence_form | with_reducible apply State.count_form
    | with_reducible apply State.emit_form | with_reducible apply State.plotTrap_form
    | with_reducible apply State.verdict_form | with_reducible refine form_some2p (by assumption) ?_
    | with_reducible refine form_some (by assumption) ?_ | with_reducible refine form_some (by assumption) ?_
    | with_reducible refine form_some2 (by assumption) ?_ | split | (simp only [form_mk]; refine ⟨?_, ?_, ?_⟩)
    | with_reducible apply ram_form | with_reducible apply host_form | with_reducible apply hy_form | intro _

theorem State.fenceCheck_form (s : State) (id : FenceId) (hs : s.memOk = true) :
    (State.fenceCheck s id).memOk = true := by
  unfold State.fenceCheck
  try dsimp only
  repeat' first
    | with_reducible assumption | with_reducible apply State.count_form | with_reducible apply State.giveVerdict_form
    | with_reducible refine form_some (by assumption) ?_ | with_reducible refine form_some2 (by assumption) ?_ | split
    | intro _

theorem State.fenceAt_form (s : State) (id : FenceId) (n : Nat) (hs : s.memOk = true) :
    (State.fenceAt s id n).memOk = true := by
  unfold State.fenceAt
  try dsimp only
  repeat' first
    | with_reducible assumption | with_reducible apply State.fenceCheck_form
    | with_reducible refine form_some2p (by assumption) ?_ | with_reducible refine form_some (by assumption) ?_
    | with_reducible refine form_some (by assumption) ?_ | with_reducible refine form_some2 (by assumption) ?_ | split
    | (simp only [form_mk]; refine ⟨?_, ?_, ?_⟩) | with_reducible apply ram_form | with_reducible apply host_form
    | with_reducible apply hy_form | intro _

theorem execFenceArrive_form (f : FenceId) (n : Nat) (s : State) (hs : s.memOk = true) :
    nextForm (execFenceArrive f n s) := by
  unfold execFenceArrive
  try dsimp only
  repeat' first
    | with_reducible assumption | with_reducible apply State.fenceAt_form | with_reducible apply nextForm_next | split
    | intro _

theorem execFenceVerdictTimeout_form (f : FenceId) (s : State) (hs : s.memOk = true) :
    nextForm (execFenceVerdictTimeout f s) := by
  unfold execFenceVerdictTimeout
  try dsimp only
  repeat' first
    | with_reducible assumption | with_reducible apply State.giveVerdict_form | with_reducible apply nextForm_next
    | with_reducible refine form_some (by assumption) ?_ | with_reducible refine form_some2 (by assumption) ?_ | split
    | intro _

theorem execFenceVerdictReceive_form (cmd placed : Nat) (s : State) (hs : s.memOk = true) :
    nextForm (execFenceVerdictReceive cmd placed s) := by
  unfold execFenceVerdictReceive
  try dsimp only
  repeat' first
    | with_reducible assumption | with_reducible apply State.verdict_form | with_reducible apply nextForm_next
    | with_reducible refine form_some (by assumption) ?_ | with_reducible refine form_some2 (by assumption) ?_ | split
    | intro _

theorem execFenceAbortReceive_form (f : FenceId) (s : State) (hs : s.memOk = true) :
    nextForm (execFenceAbortReceive f s) := by
  unfold execFenceAbortReceive
  try dsimp only
  repeat' first
    | with_reducible assumption | with_reducible apply State.closeFence_form | with_reducible apply nextForm_next
    | split | intro _

theorem State.landLane_form (s : State) (c : Cmd) (lane value : Nat) (hs : s.memOk = true) :
    (State.landLane s c lane value).memOk = true := by
  unfold State.landLane
  try dsimp only
  repeat' first
    | with_reducible assumption | with_reducible apply State.modRole_form | with_reducible apply foldl_form
    | with_reducible apply foldl_form_snd | with_reducible refine form_some2p (by assumption) ?_
    | with_reducible refine form_some (by assumption) ?_ | split | intro _

theorem State.acked_form (s : State) (c : Cmd) (idx off : Nat) (last : Bool) (data : Bytes) (atom : Option Nat) (hs : s.memOk = true) :
    (State.acked s c idx off last data atom).2.memOk = true := by
  unfold State.acked
  try dsimp only
  repeat' first
    | with_reducible assumption | with_reducible apply State.bump_form | with_reducible apply State.chunkDone_form
    | with_reducible apply State.cmdStore_form | with_reducible apply State.count_form
    | with_reducible apply done_form | with_reducible apply State.dropLocks_form
    | with_reducible apply State.failCmd_form | with_reducible apply State.landLane_form
    | with_reducible apply State.replicate_form | with_reducible apply resForm_ok | with_reducible apply resForm_error
    | with_reducible apply resForm_bind | with_reducible refine form_snd (by assumption) ?_
    | with_reducible refine form_snd3 (by assumption) ?_ | with_reducible refine form_some (by assumption) ?_
    | with_reducible refine form_some2 (by assumption) ?_ | with_reducible refine form_ok (by assumption) ?_ | split
    | intro _

theorem State.refusedPkt_form (s : State) (c : Cmd) (idx : Nat) (addr : BitVec 64) (hs : s.memOk = true) :
    (State.refusedPkt s c idx addr).2.memOk = true := by
  unfold State.refusedPkt
  try dsimp only
  repeat' first
    | with_reducible assumption | with_reducible apply done_form | with_reducible apply State.failCmd_form
    | with_reducible apply State.landLane_form | with_reducible apply State.modCmd_form
    | with_reducible apply resForm_ok | with_reducible apply resForm_error | with_reducible apply resForm_bind
    | with_reducible refine form_snd (by assumption) ?_ | with_reducible refine form_snd3 (by assumption) ?_
    | with_reducible refine form_some2p (by assumption) ?_ | with_reducible refine form_some (by assumption) ?_
    | split | (simp only [form_mk]; refine ⟨?_, ?_, ?_⟩) | with_reducible apply ram_form
    | with_reducible apply host_form | with_reducible apply hy_form | intro _

theorem State.dropOut_form (s : State) (seq : Nat) (hs : s.memOk = true) :
    (State.dropOut s seq).memOk = true := by
  unfold State.dropOut
  try dsimp only
  repeat' first
    | with_reducible assumption | with_reducible refine form_snd (by assumption) ?_
    | with_reducible refine form_snd3 (by assumption) ?_ | split | (simp only [form_mk]; refine ⟨?_, ?_, ?_⟩)
    | with_reducible apply wf_filter | with_reducible apply ram_form | with_reducible apply host_form
    | with_reducible apply hy_form | intro _

theorem State.takeAnswer_form (s : State) (o : OutPkt) (a : PacketAck) (atom : Option Nat) (hs : s.memOk = true) :
    (State.takeAnswer s o a atom).memOk = true := by
  unfold State.takeAnswer
  try dsimp only
  repeat' first
    | with_reducible assumption | with_reducible apply State.acked_form | with_reducible apply State.dropOut_form
    | with_reducible apply State.modOut_form | with_reducible apply State.refusedPkt_form
    | with_reducible refine form_snd (by assumption) ?_ | with_reducible refine form_snd3 (by assumption) ?_
    | with_reducible refine form_some (by assumption) ?_ | with_reducible refine form_some2 (by assumption) ?_ | split
    | (simp only [form_mk]; refine ⟨?_, ?_, ?_⟩) | with_reducible apply ram_form | with_reducible apply host_form
    | with_reducible apply hy_form | intro _

theorem State.answerContrib_form (s : State) (o : OutContrib) (a : PacketAck) (hs : s.memOk = true) :
    (State.answerContrib s o a).memOk = true := by
  unfold State.answerContrib
  try dsimp only
  repeat' first
    | with_reducible assumption | with_reducible apply State.failCmd_form
    | with_reducible refine form_some (by assumption) ?_ | with_reducible refine form_some2 (by assumption) ?_ | split
    | (simp only [form_mk]; refine ⟨?_, ?_, ?_⟩) | with_reducible apply wf_filter | with_reducible apply ram_form
    | with_reducible apply host_form | with_reducible apply hy_form | intro _

theorem execPacketAckReceive_form (pkt : Nat) (ack : Portion PacketAck) (s : State) (hs : s.memOk = true) :
    nextForm (execPacketAckReceive pkt ack s) := by
  unfold execPacketAckReceive
  try dsimp only
  repeat' first
    | with_reducible assumption | with_reducible apply State.answerContrib_form
    | with_reducible apply State.modCmd_form | with_reducible apply State.takeAnswer_form
    | with_reducible apply nextForm_next | with_reducible refine form_snd (by assumption) ?_
    | with_reducible refine form_snd3 (by assumption) ?_ | with_reducible refine form_some (by assumption) ?_
    | with_reducible refine form_some2 (by assumption) ?_ | split | (simp only [form_mk]; refine ⟨?_, ?_, ?_⟩)
    | with_reducible apply ram_form | with_reducible apply host_form | with_reducible apply hy_form | intro _

theorem State.answerTo_form (s : State) (p : Packet) (a : PacketAck) (hs : s.memOk = true) :
    (State.answerTo s p a).memOk = true := by
  unfold State.answerTo
  try dsimp only
  repeat' first
    | with_reducible assumption | with_reducible apply State.emit_form | with_reducible apply State.takeAnswer_form
    | with_reducible refine form_snd (by assumption) ?_ | with_reducible refine form_snd3 (by assumption) ?_
    | with_reducible refine form_some (by assumption) ?_ | with_reducible refine form_some2 (by assumption) ?_ | split
    | intro _

theorem State.answerPlaced_form (s : State) (p : Packet) (data : Bytes) (hs : s.memOk = true) :
    (State.answerPlaced s p data).memOk = true := by
  unfold State.answerPlaced
  try dsimp only
  repeat' first
    | with_reducible assumption | with_reducible apply State.answerTo_form
    | with_reducible apply State.fenceCheck_form | with_reducible refine form_snd (by assumption) ?_
    | with_reducible refine form_snd3 (by assumption) ?_ | with_reducible refine form_some (by assumption) ?_
    | with_reducible refine form_some2 (by assumption) ?_ | split | (simp only [form_mk]; refine ⟨?_, ?_, ?_⟩)
    | with_reducible apply ram_form | with_reducible apply host_form | with_reducible apply hy_form | intro _

theorem State.settlePacket_form (s : State) (p : Packet) (z0 : Placed) (hs : s.memOk = true) :
    (State.settlePacket s p z0).memOk = true := by
  unfold State.settlePacket
  try dsimp only
  repeat' first
    | with_reducible assumption | with_reducible apply State.answerPlaced_form
    | with_reducible apply State.answerTo_form | split | (simp only [form_mk]; refine ⟨?_, ?_, ?_⟩)
    | with_reducible apply ram_form | with_reducible apply host_form | with_reducible apply hy_form | intro _

theorem State.retryPacket_form (s : State) (w : WaitPkt) (atom : Option Nat) (hs : s.memOk = true) :
    (State.retryPacket s w atom).memOk = true := by
  unfold State.retryPacket
  try dsimp only
  repeat' first
    | with_reducible assumption | with_reducible apply State.placeIn_form
    | with_reducible apply State.settlePacket_form | with_reducible refine form_snd (by assumption) ?_
    | with_reducible refine form_snd3 (by assumption) ?_ | split | (simp only [form_mk]; refine ⟨?_, ?_, ?_⟩)
    | with_reducible apply ram_form | with_reducible apply host_form | with_reducible apply hy_form | intro _

theorem State.packetIn_form (s : State) (p : Packet) (atom : Option Nat) (hs : s.memOk = true) :
    (State.packetIn s p atom).memOk = true := by
  unfold State.packetIn
  try dsimp only
  repeat' first
    | with_reducible assumption | with_reducible apply State.emit_form | with_reducible apply State.place_form
    | with_reducible apply State.retryPacket_form | with_reducible apply State.settlePacket_form
    | with_reducible refine form_snd (by assumption) ?_ | with_reducible refine form_snd3 (by assumption) ?_
    | with_reducible refine form_some (by assumption) ?_ | with_reducible refine form_some2 (by assumption) ?_ | split
    | intro _

theorem execPacketArrive_form (p : Portion Packet) (s : State) (hs : s.memOk = true) :
    nextForm (execPacketArrive p s) := by
  unfold execPacketArrive
  try dsimp only
  repeat' first
    | with_reducible assumption | with_reducible apply State.packetIn_form | with_reducible apply nextForm_next
    | split | intro _

theorem State.retryPackets_form (s : State) (refuse : Region → Packet → Bool) (hs : s.memOk = true) :
    (State.retryPackets s refuse).memOk = true := by
  unfold State.retryPackets
  try dsimp only
  repeat' first
    | with_reducible assumption | with_reducible apply State.answerTo_form
    | with_reducible apply State.retryPacket_form | with_reducible apply foldl_form
    | with_reducible apply foldl_form_snd | with_reducible refine form_snd (by assumption) ?_
    | with_reducible refine form_snd3 (by assumption) ?_ | split | (simp only [form_mk]; refine ⟨?_, ?_, ?_⟩)
    | with_reducible apply ram_form | with_reducible apply host_form | with_reducible apply hy_form | intro _

theorem State.sendPackets_form (s : State) (c : Cmd) (idx : Nat) (ps : List (Nat × Packet)) (atom : Option Nat) (hs : s.memOk = true) :
    (State.sendPackets s c idx ps atom).memOk = true := by
  unfold State.sendPackets
  try dsimp only
  repeat' first
    | with_reducible assumption | with_reducible apply State.packetIn_form | with_reducible apply State.sendPkt_form
    | with_reducible apply foldl_form | with_reducible apply foldl_form_snd
    | with_reducible refine form_snd (by assumption) ?_ | with_reducible refine form_snd3 (by assumption) ?_
    | with_reducible refine form_some2p (by assumption) ?_ | with_reducible refine form_some (by assumption) ?_
    | split | (simp only [form_mk]; refine ⟨?_, ?_, ?_⟩) | with_reducible apply ram_form
    | with_reducible apply host_form | with_reducible apply hy_form | intro _

theorem State.resend_form (s : State) (o : OutPkt) (hs : s.memOk = true) :
    (State.resend s o).memOk = true := by
  unfold State.resend
  try dsimp only
  repeat' first
    | with_reducible assumption | with_reducible apply State.dropOut_form | with_reducible apply State.emit_form
    | with_reducible apply State.modOut_form | with_reducible refine form_snd (by assumption) ?_
    | with_reducible refine form_snd3 (by assumption) ?_ | split | (simp only [form_mk]; refine ⟨?_, ?_, ?_⟩)
    | with_reducible apply ram_form | with_reducible apply host_form | with_reducible apply hy_form | intro _

theorem State.resendContrib_form (s : State) (o : OutContrib) (hs : s.memOk = true) :
    (State.resendContrib s o).memOk = true := by
  unfold State.resendContrib
  try dsimp only
  repeat' first
    | with_reducible assumption | with_reducible apply State.answerContrib_form | with_reducible apply State.emit_form
    | with_reducible refine form_snd (by assumption) ?_ | with_reducible refine form_snd3 (by assumption) ?_
    | with_reducible refine form_some2p (by assumption) ?_ | with_reducible refine form_some (by assumption) ?_
    | split | (simp only [form_mk]; refine ⟨?_, ?_, ?_⟩) | with_reducible apply ram_form
    | with_reducible apply host_form | with_reducible apply hy_form | intro _

theorem State.resendFence_form (s : State) (c : Cmd) (id : FenceId) (hs : s.memOk = true) :
    (State.resendFence s c id).memOk = true := by
  unfold State.resendFence
  try dsimp only
  repeat' first
    | with_reducible assumption | with_reducible apply State.emit_form | with_reducible apply State.failCmd_form
    | with_reducible apply State.modCmd_form | split | (simp only [form_mk]; refine ⟨?_, ?_, ?_⟩)
    | with_reducible apply ram_form | with_reducible apply host_form | with_reducible apply hy_form | intro _

theorem execPacketRetransmitTimeout_form (pkt : Nat) (s : State) (hs : s.memOk = true) :
    nextForm (execPacketRetransmitTimeout pkt s) := by
  unfold execPacketRetransmitTimeout
  try dsimp only
  repeat' first
    | with_reducible assumption | with_reducible apply State.packetIn_form | with_reducible apply State.resend_form
    | with_reducible apply State.resendContrib_form | with_reducible apply State.resendFence_form
    | with_reducible apply State.takeAnswer_form | with_reducible apply nextForm_next
    | with_reducible refine form_snd (by assumption) ?_ | with_reducible refine form_snd3 (by assumption) ?_
    | with_reducible refine form_some (by assumption) ?_ | with_reducible refine form_some2 (by assumption) ?_ | split
    | intro _

theorem State.failTo_form (s : State) (rank : BitVec 18) (hs : s.memOk = true) :
    (State.failTo s rank).memOk = true := by
  unfold State.failTo
  try dsimp only
  repeat' first
    | with_reducible assumption | with_reducible apply State.answerContrib_form | with_reducible apply done_form
    | with_reducible apply State.failCmd_form | with_reducible apply State.takeAnswer_form
    | with_reducible apply resForm_ok | with_reducible apply resForm_error | with_reducible apply resForm_bind
    | with_reducible apply foldl_form | with_reducible apply foldl_form_snd
    | with_reducible refine form_snd (by assumption) ?_ | with_reducible refine form_snd3 (by assumption) ?_ | split
    | intro _

theorem execStallHintSet_form (dest : FabricDest) (s : State) (hs : s.memOk = true) :
    nextForm (execStallHintSet dest s) := by
  unfold execStallHintSet
  try dsimp only
  repeat' first
    | with_reducible assumption | with_reducible apply nextForm_next | split
    | (simp only [form_mk]; refine ⟨?_, ?_, ?_⟩) | with_reducible apply ram_form | with_reducible apply host_form
    | with_reducible apply hy_form | intro _

theorem execStallHintClear_form (dest : FabricDest) (s : State) (hs : s.memOk = true) :
    nextForm (execStallHintClear dest s) := by
  unfold execStallHintClear
  try dsimp only
  repeat' first
    | with_reducible assumption | with_reducible apply nextForm_next | split
    | (simp only [form_mk]; refine ⟨?_, ?_, ?_⟩) | with_reducible apply wf_filter | with_reducible apply ram_form
    | with_reducible apply host_form | with_reducible apply hy_form | intro _

end Sys2Proof.Machine
end

