-- ==== Sys2Proof/Laws/FormColl.lean ====
section
/-! SUPPORT. Every definition of Machine/Coll.lean keeps the canonical form of the byte memories. -/

namespace Sys2Proof.Machine

theorem State.contribute_form (s : State) (c : Contribution) (hs : s.memOk = true) :
    (State.contribute s c).memOk = true := by
  unfold State.contribute
  try dsimp only
  repeat' first
    | with_reducible assumption | with_reducible refine form_snd (by assumption) ?_
    | with_reducible refine form_snd3 (by assumption) ?_ | with_reducible refine form_some (by assumption) ?_
    | with_reducible refine form_some2 (by assumption) ?_ | split | (simp only [form_mk]; refine ⟨?_, ?_, ?_⟩)
    | with_reducible apply ram_form | with_reducible apply host_form | with_reducible apply hy_form | intro _

theorem execCollContributionArrive_form (c : Contribution) (s : State) (hs : s.memOk = true) :
    nextForm (execCollContributionArrive c s) := by
  unfold execCollContributionArrive
  try dsimp only
  repeat' first
    | with_reducible assumption | with_reducible apply State.contribute_form | with_reducible apply nextForm_next
    | split | intro _

theorem State.rosterApplied_form (s : State) (id : BitVec 32) (hs : s.memOk = true) :
    (State.rosterApplied s id).memOk = true := by
  unfold State.rosterApplied
  try dsimp only
  repeat' first
    | with_reducible assumption | with_reducible apply foldl_form | with_reducible apply foldl_form_snd
    | with_reducible refine form_snd (by assumption) ?_ | with_reducible refine form_snd3 (by assumption) ?_
    | with_reducible refine form_some2p (by assumption) ?_ | with_reducible refine form_some (by assumption) ?_
    | with_reducible refine form_some (by assumption) ?_ | with_reducible refine form_some2 (by assumption) ?_ | split
    | (simp only [form_mk]; refine ⟨?_, ?_, ?_⟩) | with_reducible apply wf_filter | with_reducible apply ram_form
    | with_reducible apply host_form | with_reducible apply hy_form | intro _

theorem execColl_form (d a : SReg) (b : BufSel) (kind op : BitVec 4) (log : Bool) (g : PReg) (s : State) (hs : s.memOk = true) :
    nextForm (execColl d a b kind op log g s) := by
  unfold execColl
  try dsimp only
  repeat' first
    | with_reducible assumption | with_reducible apply accept_form | with_reducible apply State.advance_form
    | with_reducible apply State.deferFor_form | with_reducible apply engineOp_form | with_reducible apply flow_form
    | with_reducible apply nextForm_next | with_reducible apply resForm_ok | with_reducible apply resForm_error
    | with_reducible apply resForm_bind | with_reducible apply foldl_form | with_reducible apply foldl_form_snd
    | with_reducible refine form_snd (by assumption) ?_ | with_reducible refine form_snd3 (by assumption) ?_
    | with_reducible refine form_some2p (by assumption) ?_ | with_reducible refine form_some (by assumption) ?_
    | with_reducible refine form_next (by assumption) ?_ | with_reducible refine form_some (by assumption) ?_
    | with_reducible refine form_some2 (by assumption) ?_ | with_reducible refine form_ok (by assumption) ?_ | split
    | (simp only [form_mk]; refine ⟨?_, ?_, ?_⟩) | with_reducible apply wf_filter | with_reducible apply ram_form
    | with_reducible apply host_form | with_reducible apply hy_form | intro _

theorem State.saturated_form (s : State) (k : Nat) (on : Bool) (hs : s.memOk = true) :
    (State.saturated s k on).memOk = true := by
  unfold State.saturated
  try dsimp only
  repeat' first
    | with_reducible assumption | with_reducible apply State.modRole_form | split
    | (simp only [form_mk]; refine ⟨?_, ?_, ?_⟩) | with_reducible apply ram_form | with_reducible apply host_form
    | with_reducible apply hy_form | intro _

theorem State.sendContrib_form (s : State) (id : Nat) (b : Contribution) (dst : BitVec 18) (hs : s.memOk = true) :
    (State.sendContrib s id b dst).memOk = true := by
  unfold State.sendContrib
  try dsimp only
  repeat' first
    | with_reducible assumption | with_reducible apply State.emit_form | with_reducible apply State.failCmd_form
    | with_reducible apply State.numbered_form | with_reducible apply State.used_form
    | with_reducible refine form_snd (by assumption) ?_ | with_reducible refine form_snd3 (by assumption) ?_
    | with_reducible refine form_some (by assumption) ?_ | with_reducible refine form_some2 (by assumption) ?_ | split
    | (simp only [form_mk]; refine ⟨?_, ?_, ?_⟩) | with_reducible apply ram_form | with_reducible apply host_form
    | with_reducible apply hy_form | intro _

theorem State.collChunk_form (s : State) (c : Cmd) (k : Nat) (hs : s.memOk = true) :
    (State.collChunk s c k).memOk = true := by
  unfold State.collChunk
  try dsimp only
  repeat' first
    | with_reducible assumption | with_reducible apply State.cmdRead_form | with_reducible apply State.contribute_form
    | with_reducible apply done_form | with_reducible apply State.failCmd_form
    | with_reducible apply State.modCmd_form | with_reducible apply State.saturated_form
    | with_reducible apply State.sendContrib_form | with_reducible apply resForm_ok
    | with_reducible apply resForm_error | with_reducible apply resForm_bind | with_reducible apply foldl_form
    | with_reducible apply foldl_form_snd | with_reducible refine form_snd (by assumption) ?_
    | with_reducible refine form_snd3 (by assumption) ?_ | with_reducible refine form_some2p (by assumption) ?_
    | with_reducible refine form_some (by assumption) ?_ | with_reducible refine form_some (by assumption) ?_
    | with_reducible refine form_some2 (by assumption) ?_ | with_reducible refine form_ok (by assumption) ?_ | split
    | (simp only [form_mk]; refine ⟨?_, ?_, ?_⟩) | with_reducible apply wf_filter | with_reducible apply ram_form
    | with_reducible apply host_form | with_reducible apply hy_form | intro _

theorem execCollResend_form (coll : Nat) (s : State) (hs : s.memOk = true) :
    nextForm (execCollResend coll s) := by
  unfold execCollResend
  try dsimp only
  repeat' first
    | with_reducible assumption | with_reducible apply State.collChunk_form | with_reducible apply done_form
    | with_reducible apply nextForm_next | with_reducible apply resForm_ok | with_reducible apply resForm_error
    | with_reducible apply resForm_bind | with_reducible apply foldl_form | with_reducible apply foldl_form_snd
    | with_reducible refine form_some (by assumption) ?_ | with_reducible refine form_some2 (by assumption) ?_ | split
    | (simp only [form_mk]; refine ⟨?_, ?_, ?_⟩) | with_reducible apply wf_filter | with_reducible apply ram_form
    | with_reducible apply host_form | with_reducible apply hy_form | intro _

theorem State.tee_form (s : State) (x : Coll) (k ver contrib rejected flags : Nat) (payload : Bytes) (hs : s.memOk = true) :
    (State.tee s x k ver contrib rejected flags payload).2.memOk = true := by
  unfold State.tee
  try dsimp only
  repeat' first
    | with_reducible assumption | with_reducible apply State.emit_form | with_reducible apply State.ramWrite_form
    | with_reducible refine form_snd (by assumption) ?_ | with_reducible refine form_snd3 (by assumption) ?_
    | with_reducible refine form_some (by assumption) ?_ | with_reducible refine form_some2 (by assumption) ?_ | split
    | intro _

theorem State.closeChunk_form (s : State) (c : Cmd) (x : Coll) (k : Nat) (hs : s.memOk = true) :
    (State.closeChunk s c x k).memOk = true := by
  unfold State.closeChunk
  try dsimp only
  repeat' first
    | with_reducible assumption | with_reducible apply State.bump_form | with_reducible apply State.dropCmd_form
    | with_reducible apply State.modCmd_form | with_reducible refine form_some (by assumption) ?_
    | with_reducible refine form_some2 (by assumption) ?_ | split | (simp only [form_mk]; refine ⟨?_, ?_, ?_⟩)
    | with_reducible apply wf_filter | with_reducible apply ram_form | with_reducible apply host_form
    | with_reducible apply hy_form | intro _

theorem State.collEntry_form (s : State) (c : Cmd) (x : Coll) (k : Nat) (res : CollResult) (ver : Nat) (hs : s.memOk = true) :
    (State.collEntry s c x k res ver).memOk = true := by
  unfold State.collEntry
  try dsimp only
  repeat' first
    | with_reducible assumption | with_reducible apply State.closeChunk_form
    | with_reducible apply State.cmdPlace_form | with_reducible apply State.cmdPut_form
    | with_reducible apply State.failCmd_form | with_reducible apply State.saturated_form
    | with_reducible apply State.tee_form | with_reducible apply resForm_ok | with_reducible apply resForm_error
    | with_reducible apply resForm_bind | with_reducible refine form_snd (by assumption) ?_
    | with_reducible refine form_snd3 (by assumption) ?_ | with_reducible refine form_ok (by assumption) ?_ | split
    | intro _

theorem State.collCommit_form (s : State) (c : Cmd) (x : Coll) (j : Job) (k : Nat) (atom : Option Nat) (hs : s.memOk = true) :
    (State.collCommit s c x j k atom).memOk = true := by
  unfold State.collCommit
  try dsimp only
  repeat' first
    | with_reducible assumption | with_reducible apply State.cmdStore_form | with_reducible apply State.collEntry_form
    | with_reducible apply State.failCmd_form | with_reducible apply resForm_ok | with_reducible apply resForm_error
    | with_reducible apply resForm_bind | with_reducible refine form_snd (by assumption) ?_
    | with_reducible refine form_snd3 (by assumption) ?_ | with_reducible refine form_some (by assumption) ?_
    | with_reducible refine form_some2 (by assumption) ?_ | with_reducible refine form_ok (by assumption) ?_ | split
    | (simp only [form_mk]; refine ⟨?_, ?_, ?_⟩) | with_reducible apply ram_form | with_reducible apply host_form
    | with_reducible apply hy_form | intro _

theorem State.commitChunk_form (s : State) (coll k : Nat) (atom : Option Nat) (hs : s.memOk = true) :
    (State.commitChunk s coll k atom).memOk = true := by
  unfold State.commitChunk
  try dsimp only
  repeat' first
    | with_reducible assumption | with_reducible apply State.collCommit_form
    | with_reducible refine form_snd (by assumption) ?_ | with_reducible refine form_snd3 (by assumption) ?_
    | with_reducible refine form_some (by assumption) ?_ | with_reducible refine form_some2 (by assumption) ?_ | split
    | intro _

theorem execCollChunkCommit_form (coll : Nat) (k : Portion Nat) (s : State) (hs : s.memOk = true) :
    nextForm (execCollChunkCommit coll k s) := by
  unfold execCollChunkCommit
  try dsimp only
  repeat' first
    | with_reducible assumption | with_reducible apply State.commitChunk_form | with_reducible apply nextForm_next
    | split | intro _

end Sys2Proof.Machine
end

