-- ==== Sys2Proof/Laws/FormControl.lean ====
section
/-! SUPPORT. Every definition of Machine/Control.lean keeps the canonical form of the byte memories. -/

namespace Sys2Proof.Machine

theorem execNop_form (x1 : PReg) (s : State) (hs : s.memOk = true) :
    nextForm (execNop x1 s) := by
  unfold execNop
  try dsimp only
  repeat' first
    | with_reducible assumption | with_reducible apply done_form | with_reducible apply nextForm_next
    | with_reducible apply resForm_ok | with_reducible apply resForm_error | with_reducible apply resForm_bind
    | with_reducible refine form_ok (by assumption) ?_ | split | intro _

theorem branch_form (s : State) (t : Target) (taken : Bool) (hs : s.memOk = true) :
    nextForm (branch s t taken) := by
  unfold branch
  try dsimp only
  repeat' first
    | with_reducible assumption | with_reducible apply done_form | with_reducible apply State.transfer_form
    | with_reducible apply withTarget_form | with_reducible apply nextForm_next | with_reducible apply resForm_ok
    | with_reducible apply resForm_error | with_reducible apply resForm_bind
    | with_reducible refine form_ok (by assumption) ?_ | split | intro _

theorem execBra_form (t : Target) (g : PReg) (s : State) (hs : s.memOk = true) :
    nextForm (execBra t g s) := by
  unfold execBra
  try dsimp only
  repeat' first
    | with_reducible assumption | with_reducible apply branch_form | with_reducible apply nextForm_next | split
    | intro _

theorem execBrcAny_form (t : Target) (g : PReg) (s : State) (hs : s.memOk = true) :
    nextForm (execBrcAny t g s) := by
  unfold execBrcAny
  try dsimp only
  repeat' first
    | with_reducible assumption | with_reducible apply branch_form | with_reducible apply nextForm_next | split
    | intro _

theorem execBrcAll_form (t : Target) (g : PReg) (s : State) (hs : s.memOk = true) :
    nextForm (execBrcAll t g s) := by
  unfold execBrcAll
  try dsimp only
  repeat' first
    | with_reducible assumption | with_reducible apply branch_form | with_reducible apply nextForm_next | split
    | intro _

theorem execBrcNone_form (t : Target) (g : PReg) (s : State) (hs : s.memOk = true) :
    nextForm (execBrcNone t g s) := by
  unfold execBrcNone
  try dsimp only
  repeat' first
    | with_reducible assumption | with_reducible apply branch_form | with_reducible apply nextForm_next | split
    | intro _

theorem execBrx_form (a : SReg) (g : PReg) (s : State) (hs : s.memOk = true) :
    nextForm (execBrx a g s) := by
  unfold execBrx
  try dsimp only
  repeat' first
    | with_reducible assumption | with_reducible apply State.transfer_form | with_reducible apply withScalar_form
    | with_reducible apply withTarget_form | with_reducible apply nextForm_next | with_reducible apply resForm_ok
    | with_reducible apply resForm_error | with_reducible apply resForm_bind
    | with_reducible refine form_ok (by assumption) ?_ | split | intro _

theorem frameChange_form (s : State) (body : State → Out) (hs : s.memOk = true) (hbody : ∀ y0, y0.memOk = true → nextForm (body y0)) :
    nextForm (frameChange s body) := by
  unfold frameChange
  try dsimp only
  repeat' first
    | with_reducible assumption | with_reducible apply State.hold_form | with_reducible apply State.modMe_form
    | with_reducible apply nextForm_next | with_reducible apply hbody | split | intro _

theorem State.enterFrame_form (s : State) (k v sc : Nat) (target ret : BitVec 64) (hs : s.memOk = true) :
    (State.enterFrame s k v sc target ret).memOk = true := by
  unfold State.enterFrame
  try dsimp only
  repeat' first
    | with_reducible assumption | with_reducible apply State.parkFrame_form
    | with_reducible apply State.pushFrame_form | with_reducible apply State.setCore_form
    | with_reducible apply State.transfer_form | with_reducible refine form_snd (by assumption) ?_
    | with_reducible refine form_snd3 (by assumption) ?_ | with_reducible refine form_some (by assumption) ?_
    | with_reducible refine form_some2 (by assumption) ?_ | split | intro _

theorem callTo_form (s : State) (dem : Demand) (target : Nat) (hs : s.memOk = true) :
    nextForm (callTo s dem target) := by
  unfold callTo
  try dsimp only
  repeat' first
    | with_reducible assumption | with_reducible apply State.enterFrame_form | with_reducible apply flow_form
    | with_reducible apply frameChange_form | with_reducible apply withTarget_form
    | with_reducible apply nextForm_next | with_reducible apply resForm_ok | with_reducible apply resForm_error
    | with_reducible apply resForm_bind | with_reducible refine form_ok (by assumption) ?_ | split | intro _

theorem execCallf_form (t : Target) (dem : Demand) (g : PReg) (s : State) (hs : s.memOk = true) :
    nextForm (execCallf t dem g s) := by
  unfold execCallf
  try dsimp only
  repeat' first
    | with_reducible assumption | with_reducible apply callTo_form | with_reducible apply done_form
    | with_reducible apply nextForm_next | with_reducible apply resForm_ok | with_reducible apply resForm_error
    | with_reducible apply resForm_bind | with_reducible refine form_ok (by assumption) ?_ | split | intro _

theorem execCallx_form (a : SReg) (dem : Demand) (g : PReg) (s : State) (hs : s.memOk = true) :
    nextForm (execCallx a dem g s) := by
  unfold execCallx
  try dsimp only
  repeat' first
    | with_reducible assumption | with_reducible apply callTo_form | with_reducible apply withScalar_form
    | with_reducible apply nextForm_next | split | intro _

theorem State.returnTo_form (s : State) (k n : Nat) (ret : BitVec 64) (hs : s.memOk = true) :
    (State.returnTo s k n ret).memOk = true := by
  unfold State.returnTo
  try dsimp only
  repeat' first
    | with_reducible assumption | with_reducible apply State.modRole_form | with_reducible apply State.popFrames_form
    | with_reducible apply State.transfer_form | with_reducible apply State.tryRefill_form
    | with_reducible refine form_some (by assumption) ?_ | with_reducible refine form_some2 (by assumption) ?_ | split
    | (simp only [form_mk]; refine ⟨?_, ?_, ?_⟩) | with_reducible apply ram_form | with_reducible apply host_form
    | with_reducible apply hy_form | intro _

theorem returnOf_form (s : State) (n : Nat) (hs : s.memOk = true) :
    nextForm (returnOf s n) := by
  unfold returnOf
  try dsimp only
  repeat' first
    | with_reducible assumption | with_reducible apply flow_form | with_reducible apply State.hold_form
    | with_reducible apply State.returnTo_form | with_reducible apply withTarget_form
    | with_reducible apply nextForm_next | with_reducible apply resForm_ok | with_reducible apply resForm_error
    | with_reducible apply resForm_bind | with_reducible refine form_some2p (by assumption) ?_
    | with_reducible refine form_some (by assumption) ?_ | with_reducible refine form_some (by assumption) ?_
    | with_reducible refine form_some2 (by assumption) ?_ | with_reducible refine form_ok (by assumption) ?_ | split
    | (simp only [form_mk]; refine ⟨?_, ?_, ?_⟩) | with_reducible apply ram_form | with_reducible apply host_form
    | with_reducible apply hy_form | intro _

theorem execRetf_form (g : PReg) (s : State) (hs : s.memOk = true) :
    nextForm (execRetf g s) := by
  unfold execRetf
  try dsimp only
  repeat' first
    | with_reducible assumption | with_reducible apply done_form | with_reducible apply State.endRole_form
    | with_reducible apply frameChange_form | with_reducible apply returnOf_form | with_reducible apply nextForm_next
    | with_reducible apply resForm_ok | with_reducible apply resForm_error | with_reducible apply resForm_bind
    | with_reducible refine form_ok (by assumption) ?_ | split | intro _

theorem execUnwind_form (n : Imm7) (g : PReg) (s : State) (hs : s.memOk = true) :
    nextForm (execUnwind n g s) := by
  unfold execUnwind
  try dsimp only
  repeat' first
    | with_reducible assumption | with_reducible apply done_form | with_reducible apply flow_form
    | with_reducible apply frameChange_form | with_reducible apply returnOf_form | with_reducible apply nextForm_next
    | with_reducible apply resForm_ok | with_reducible apply resForm_error | with_reducible apply resForm_bind
    | with_reducible refine form_ok (by assumption) ?_ | split | intro _

theorem execWinb_form (w : Imm7) (g : PReg) (s : State) (hs : s.memOk = true) :
    nextForm (execWinb w g s) := by
  unfold execWinb
  try dsimp only
  repeat' first
    | with_reducible assumption | with_reducible apply done_form | with_reducible apply flow_form
    | with_reducible apply State.hold_form | with_reducible apply State.modMe_form
    | with_reducible apply nextForm_next | with_reducible apply resForm_ok | with_reducible apply resForm_error
    | with_reducible apply resForm_bind | with_reducible refine form_ok (by assumption) ?_ | split
    | (simp only [form_mk]; refine ⟨?_, ?_, ?_⟩) | with_reducible apply ram_form | with_reducible apply host_form
    | with_reducible apply hy_form | intro _

theorem structured_form (s : State) (lits : Nat) (t : Target) (x : Structured) (hs : s.memOk = true) :
    nextForm (structured s lits t x) := by
  unfold structured
  try dsimp only
  repeat' first
    | with_reducible assumption | with_reducible apply done_form | with_reducible apply flow_form
    | with_reducible apply State.setMe_form | with_reducible apply State.transfer_form
    | with_reducible apply withTarget_form | with_reducible apply nextForm_next | with_reducible apply resForm_ok
    | with_reducible apply resForm_error | with_reducible apply resForm_bind
    | with_reducible refine form_some (by assumption) ?_ | with_reducible refine form_some2 (by assumption) ?_
    | with_reducible refine form_ok (by assumption) ?_ | split | intro _

theorem execIfp_form (a : PReg) (t : Target) (g : PReg) (s : State) (hs : s.memOk = true) :
    nextForm (execIfp a t g s) := by
  unfold execIfp
  try dsimp only
  repeat' first
    | with_reducible assumption | with_reducible apply structured_form | with_reducible apply nextForm_next | split
    | intro _

theorem execElsep_form (t : Target) (s : State) (hs : s.memOk = true) :
    nextForm (execElsep t s) := by
  unfold execElsep
  try dsimp only
  repeat' first
    | with_reducible assumption | with_reducible apply structured_form | with_reducible apply nextForm_next | split
    | intro _

theorem execEndif_form (s : State) (hs : s.memOk = true) :
    nextForm (execEndif s) := by
  unfold execEndif
  try dsimp only
  repeat' first
    | with_reducible assumption | with_reducible apply structured_form | with_reducible apply nextForm_next | split
    | intro _

theorem execLoop_form (t : Target) (s : State) (hs : s.memOk = true) :
    nextForm (execLoop t s) := by
  unfold execLoop
  try dsimp only
  repeat' first
    | with_reducible assumption | with_reducible apply structured_form | with_reducible apply nextForm_next | split
    | intro _

theorem execBrk_form (a : PReg) (g : PReg) (s : State) (hs : s.memOk = true) :
    nextForm (execBrk a g s) := by
  unfold execBrk
  try dsimp only
  repeat' first
    | with_reducible assumption | with_reducible apply structured_form | with_reducible apply nextForm_next | split
    | intro _

theorem execCont_form (a : PReg) (g : PReg) (s : State) (hs : s.memOk = true) :
    nextForm (execCont a g s) := by
  unfold execCont
  try dsimp only
  repeat' first
    | with_reducible assumption | with_reducible apply structured_form | with_reducible apply nextForm_next | split
    | intro _

theorem execEndl_form (t : Target) (s : State) (hs : s.memOk = true) :
    nextForm (execEndl t s) := by
  unfold execEndl
  try dsimp only
  repeat' first
    | with_reducible assumption | with_reducible apply structured_form | with_reducible apply nextForm_next | split
    | intro _

theorem execSerb_form (s : State) (hs : s.memOk = true) :
    nextForm (execSerb s) := by
  unfold execSerb
  try dsimp only
  repeat' first
    | with_reducible assumption | with_reducible apply structured_form | with_reducible apply nextForm_next | split
    | intro _

theorem execSere_form (t : Target) (s : State) (hs : s.memOk = true) :
    nextForm (execSere t s) := by
  unfold execSere
  try dsimp only
  repeat' first
    | with_reducible assumption | with_reducible apply structured_form | with_reducible apply nextForm_next | split
    | intro _

theorem execExit_form (g : PReg) (s : State) (hs : s.memOk = true) :
    nextForm (execExit g s) := by
  unfold execExit
  try dsimp only
  repeat' first
    | with_reducible assumption | with_reducible apply done_form | with_reducible apply State.endRole_form
    | with_reducible apply frameChange_form | with_reducible apply nextForm_next | with_reducible apply resForm_ok
    | with_reducible apply resForm_error | with_reducible apply resForm_bind
    | with_reducible refine form_ok (by assumption) ?_ | split | intro _

theorem execTrap_form (c : Imm7) (g : PReg) (s : State) (hs : s.memOk = true) :
    nextForm (execTrap c g s) := by
  unfold execTrap
  try dsimp only
  repeat' first
    | with_reducible assumption | with_reducible apply done_form | with_reducible apply takeTrap_form
    | with_reducible apply nextForm_next | with_reducible apply resForm_ok | with_reducible apply resForm_error
    | with_reducible apply resForm_bind | with_reducible refine form_ok (by assumption) ?_ | split
    | (simp only [form_mk]; refine ⟨?_, ?_, ?_⟩) | with_reducible apply ram_form | with_reducible apply host_form
    | with_reducible apply hy_form | intro _

theorem execSvc_form (n : BitVec 30) (g : PReg) (s : State) (hs : s.memOk = true) :
    nextForm (execSvc n g s) := by
  unfold execSvc
  try dsimp only
  repeat' first
    | with_reducible assumption | with_reducible apply done_form | with_reducible apply takeTrap_form
    | with_reducible apply nextForm_next | with_reducible apply resForm_ok | with_reducible apply resForm_error
    | with_reducible apply resForm_bind | with_reducible refine form_some (by assumption) ?_
    | with_reducible refine form_some2 (by assumption) ?_ | with_reducible refine form_ok (by assumption) ?_ | split
    | (simp only [form_mk]; refine ⟨?_, ?_, ?_⟩) | with_reducible apply ram_form | with_reducible apply host_form
    | with_reducible apply hy_form | intro _

theorem execBkpt_form (g : PReg) (s : State) (hs : s.memOk = true) :
    nextForm (execBkpt g s) := by
  unfold execBkpt
  try dsimp only
  repeat' first
    | with_reducible assumption | with_reducible apply done_form | with_reducible apply takeTrap_form
    | with_reducible apply nextForm_next | with_reducible apply resForm_ok | with_reducible apply resForm_error
    | with_reducible apply resForm_bind | with_reducible refine form_some (by assumption) ?_
    | with_reducible refine form_some2 (by assumption) ?_ | with_reducible refine form_ok (by assumption) ?_ | split
    | (simp only [form_mk]; refine ⟨?_, ?_, ?_⟩) | with_reducible apply ram_form | with_reducible apply host_form
    | with_reducible apply hy_form | intro _

theorem execYield_form (g : PReg) (s : State) (hs : s.memOk = true) :
    nextForm (execYield g s) := by
  unfold execYield
  try dsimp only
  repeat' first
    | with_reducible assumption | with_reducible apply done_form | with_reducible apply State.endRun_form
    | with_reducible apply State.modMe_form | with_reducible apply State.transfer_form
    | with_reducible apply nextForm_next | with_reducible apply resForm_ok | with_reducible apply resForm_error
    | with_reducible apply resForm_bind | with_reducible refine form_ok (by assumption) ?_ | split
    | (simp only [form_mk]; refine ⟨?_, ?_, ?_⟩) | with_reducible apply ram_form | with_reducible apply host_form
    | with_reducible apply hy_form | intro _

theorem execWaitf_form (m : BitVec 12) (g : PReg) (s : State) (hs : s.memOk = true) :
    nextForm (execWaitf m g s) := by
  unfold execWaitf
  try dsimp only
  repeat' first
    | with_reducible assumption | with_reducible apply done_form | with_reducible apply State.park_form
    | with_reducible apply nextForm_next | with_reducible apply resForm_ok | with_reducible apply resForm_error
    | with_reducible apply resForm_bind | with_reducible refine form_ok (by assumption) ?_ | split | intro _

end Sys2Proof.Machine
end

