-- ==== Sys2Proof/Laws/FormMatrix.lean ====
section
/-! SUPPORT. Every definition of Machine/Matrix.lean keeps the canonical form of the byte memories. -/

namespace Sys2Proof.Machine

theorem State.replaced_form (s : State) (k tk : Nat) (plot : Option Nat) (teamIdx roleId : Nat) (es : List OpErr) (hs : s.memOk = true) :
    (State.replaced s k tk plot teamIdx roleId es).memOk = true := by
  unfold State.replaced
  try dsimp only
  repeat' first
    | with_reducible assumption | with_reducible apply State.count_form | with_reducible apply State.defer_form
    | with_reducible apply State.modTeam_form | with_reducible apply State.setRole_form
    | with_reducible refine form_some2p (by assumption) ?_ | with_reducible refine form_some (by assumption) ?_
    | with_reducible refine form_some (by assumption) ?_ | with_reducible refine form_some2 (by assumption) ?_ | split
    | (simp only [form_mk]; refine ⟨?_, ?_, ?_⟩) | with_reducible apply ram_form | with_reducible apply host_form
    | with_reducible apply hy_form | intro _

theorem State.allocTcfg_form (s : State) (tk : Nat) (older : List Nat) (w : BitVec 64) (hs : s.memOk = true) :
    optForm (State.allocTcfg s tk older w) := by
  unfold State.allocTcfg
  try dsimp only
  repeat' first
    | with_reducible assumption | with_reducible apply State.modTeam_form | with_reducible apply State.reserve_form
    | with_reducible apply State.setCore_form | with_reducible apply optForm_some | with_reducible apply optForm_none
    | with_reducible apply optForm_map | with_reducible apply optForm_bind
    | with_reducible refine form_snd (by assumption) ?_ | with_reducible refine form_snd3 (by assumption) ?_
    | with_reducible refine form_some2p (by assumption) ?_ | with_reducible refine form_some (by assumption) ?_
    | with_reducible refine form_some (by assumption) ?_ | with_reducible refine form_some2 (by assumption) ?_ | split
    | (simp only [form_mk]; refine ⟨?_, ?_, ?_⟩) | with_reducible apply ram_form | with_reducible apply host_form
    | with_reducible apply hy_form | intro _

theorem execTcfg_form (a : SReg) (g : PReg) (s : State) (hs : s.memOk = true) :
    nextForm (execTcfg a g s) := by
  unfold execTcfg
  try dsimp only
  repeat' first
    | with_reducible assumption | with_reducible apply State.allocTcfg_form | with_reducible apply done_form
    | with_reducible apply flow_form | with_reducible apply State.parkFrame_form
    | with_reducible apply State.releaseTcfg_form | with_reducible apply withScalar_form
    | with_reducible apply nextForm_next | with_reducible apply resForm_ok | with_reducible apply resForm_error
    | with_reducible apply resForm_bind | with_reducible refine form_some (by assumption) ?_
    | with_reducible refine form_some2 (by assumption) ?_ | with_reducible refine form_ok (by assumption) ?_ | split
    | (simp only [form_mk]; refine ⟨?_, ?_, ?_⟩) | with_reducible apply ram_form | with_reducible apply host_form
    | with_reducible apply hy_form | intro _

theorem execTrel_form (x1 : SReg) (g : PReg) (s : State) (hs : s.memOk = true) :
    nextForm (execTrel x1 g s) := by
  unfold execTrel
  try dsimp only
  repeat' first
    | with_reducible assumption | with_reducible apply done_form | with_reducible apply State.releaseTcfg_form
    | with_reducible apply nextForm_next | with_reducible apply resForm_ok | with_reducible apply resForm_error
    | with_reducible apply resForm_bind | with_reducible refine form_ok (by assumption) ?_ | split
    | (simp only [form_mk]; refine ⟨?_, ?_, ?_⟩) | with_reducible apply ram_form | with_reducible apply host_form
    | with_reducible apply hy_form | intro _

theorem execCpys_form (d a : SReg) (b : BufSel) (g : PReg) (s : State) (hs : s.memOk = true) :
    nextForm (execCpys d a b g s) := by
  unfold execCpys
  try dsimp only
  repeat' first
    | with_reducible assumption | with_reducible apply acceptQ_form | with_reducible apply engineOp_form
    | with_reducible apply flow_form | with_reducible apply nextForm_next | with_reducible apply resForm_ok
    | with_reducible apply resForm_error | with_reducible apply resForm_bind
    | with_reducible refine form_snd (by assumption) ?_ | with_reducible refine form_snd3 (by assumption) ?_
    | with_reducible refine form_some2p (by assumption) ?_ | with_reducible refine form_some (by assumption) ?_
    | with_reducible refine form_some (by assumption) ?_ | with_reducible refine form_some2 (by assumption) ?_
    | with_reducible refine form_ok (by assumption) ?_ | split | (simp only [form_mk]; refine ⟨?_, ?_, ?_⟩)
    | with_reducible apply ram_form | with_reducible apply host_form | with_reducible apply hy_form | intro _

theorem tileMove_form (s : State) (isLoad : Bool) (t : TReg) (a : VReg) (b : BufSel) (g : PReg) (hs : s.memOk = true) :
    nextForm (tileMove s isLoad t a b g) := by
  unfold tileMove
  try dsimp only
  repeat' first
    | with_reducible assumption | with_reducible apply accept_form | with_reducible apply engineOp_form
    | with_reducible apply flow_form | with_reducible apply nextForm_next | with_reducible apply resForm_ok
    | with_reducible apply resForm_error | with_reducible apply resForm_bind
    | with_reducible refine form_snd (by assumption) ?_ | with_reducible refine form_snd3 (by assumption) ?_
    | with_reducible refine form_some2p (by assumption) ?_ | with_reducible refine form_some (by assumption) ?_
    | with_reducible refine form_some (by assumption) ?_ | with_reducible refine form_some2 (by assumption) ?_
    | with_reducible refine form_ok (by assumption) ?_ | split | (simp only [form_mk]; refine ⟨?_, ?_, ?_⟩)
    | with_reducible apply ram_form | with_reducible apply host_form | with_reducible apply hy_form | intro _

theorem execMld_form (d : TReg) (a : VReg) (b : BufSel) (g : PReg) (s : State) (hs : s.memOk = true) :
    nextForm (execMld d a b g s) := by
  unfold execMld
  try dsimp only
  repeat' first
    | with_reducible assumption | with_reducible apply tileMove_form | with_reducible apply nextForm_next | split
    | intro _

theorem execMst_form (d : TReg) (a : VReg) (b : BufSel) (g : PReg) (s : State) (hs : s.memOk = true) :
    nextForm (execMst d a b g s) := by
  unfold execMst
  try dsimp only
  repeat' first
    | with_reducible assumption | with_reducible apply tileMove_form | with_reducible apply nextForm_next | split
    | intro _

theorem execAccz_form (d : AReg) (g : PReg) (s : State) (hs : s.memOk = true) :
    nextForm (execAccz d g s) := by
  unfold execAccz
  try dsimp only
  repeat' first
    | with_reducible assumption | with_reducible apply done_form | with_reducible apply State.modTcfg_form
    | with_reducible apply State.numbered_form | with_reducible apply nextForm_next | with_reducible apply resForm_ok
    | with_reducible apply resForm_error | with_reducible apply resForm_bind
    | with_reducible refine form_some2p (by assumption) ?_ | with_reducible refine form_some (by assumption) ?_
    | with_reducible refine form_ok (by assumption) ?_ | split | (simp only [form_mk]; refine ⟨?_, ?_, ?_⟩)
    | with_reducible apply ram_form | with_reducible apply host_form | with_reducible apply hy_form | intro _

theorem accMove_form (s : State) (v : VReg) (a : AReg) (b : SReg) (g : PReg) (body : State → Tcfg → Nat → Mask → BitVec 64 → Res MatKind) (hs : s.memOk = true) :
    nextForm (accMove s v a b g body) := by
  unfold accMove
  try dsimp only
  repeat' first
    | with_reducible assumption | with_reducible apply done_form | with_reducible apply flow_form
    | with_reducible apply State.hold_form | with_reducible apply State.modMe_form
    | with_reducible apply State.numbered_form | with_reducible apply nextForm_next | with_reducible apply resForm_ok
    | with_reducible apply resForm_error | with_reducible apply resForm_bind
    | with_reducible refine form_some2p (by assumption) ?_ | with_reducible refine form_some (by assumption) ?_
    | with_reducible refine form_ok (by assumption) ?_ | split | (simp only [form_mk]; refine ⟨?_, ?_, ?_⟩)
    | with_reducible apply ram_form | with_reducible apply host_form | with_reducible apply hy_form | intro _

theorem execAccrd_form (d : VReg) (a : AReg) (b : SReg) (g : PReg) (s : State) (hs : s.memOk = true) :
    nextForm (execAccrd d a b g s) := by
  unfold execAccrd
  try dsimp only
  repeat' first
    | with_reducible assumption | with_reducible apply accMove_form | with_reducible apply nextForm_next
    | with_reducible apply resForm_ok | with_reducible apply resForm_error | with_reducible apply resForm_bind
    | with_reducible refine form_ok (by assumption) ?_ | split | intro _

theorem execAccwr_form (d : AReg) (a : VReg) (b : SReg) (g : PReg) (s : State) (hs : s.memOk = true) :
    nextForm (execAccwr d a b g s) := by
  unfold execAccwr
  try dsimp only
  repeat' first
    | with_reducible assumption | with_reducible apply accMove_form | with_reducible apply nextForm_next
    | with_reducible apply resForm_ok | with_reducible apply resForm_error | with_reducible apply resForm_bind
    | with_reducible refine form_some2p (by assumption) ?_ | with_reducible refine form_some (by assumption) ?_
    | with_reducible refine form_ok (by assumption) ?_ | split | intro _

theorem State.enqueue_form (s : State) (lits : Nat) (o : MatOp) (hs : s.memOk = true) :
    nextForm (State.enqueue s lits o) := by
  unfold State.enqueue
  try dsimp only
  repeat' first
    | with_reducible assumption | with_reducible apply State.advance_form | with_reducible apply State.hold_form
    | with_reducible apply State.numbered_form | with_reducible apply nextForm_next | split
    | (simp only [form_mk]; refine ⟨?_, ?_, ?_⟩) | with_reducible apply ram_form | with_reducible apply host_form
    | with_reducible apply hy_form | intro _

theorem mmaOp_form (s : State) (d : AReg) (a : TReg) (vb : VReg) (fb : SReg) (k2 : Bool) (sgn : Option TReg) (g : PReg) (hs : s.memOk = true) :
    nextForm (mmaOp s d a vb fb k2 sgn g) := by
  unfold mmaOp
  try dsimp only
  repeat' first
    | with_reducible assumption | with_reducible apply done_form | with_reducible apply State.enqueue_form
    | with_reducible apply flow_form | with_reducible apply State.modMe_form | with_reducible apply nextForm_next
    | with_reducible apply resForm_ok | with_reducible apply resForm_error | with_reducible apply resForm_bind
    | with_reducible refine form_snd (by assumption) ?_ | with_reducible refine form_snd3 (by assumption) ?_
    | with_reducible refine form_some2p (by assumption) ?_ | with_reducible refine form_some (by assumption) ?_
    | with_reducible refine form_some (by assumption) ?_ | with_reducible refine form_some2 (by assumption) ?_
    | with_reducible refine form_ok (by assumption) ?_ | split | intro _

theorem execMma_form (d : AReg) (a : TReg) (b : VReg) (fb : SReg) (k2 : Bool) (g : PReg) (s : State) (hs : s.memOk = true) :
    nextForm (execMma d a b fb k2 g s) := by
  unfold execMma
  try dsimp only
  repeat' first
    | with_reducible assumption | with_reducible apply mmaOp_form | with_reducible apply nextForm_next | split
    | intro _

theorem execMmaSgn_form (d : AReg) (a : TReg) (b : VReg) (fb : SReg) (k2 : Bool) (st : TReg) (g : PReg) (s : State) (hs : s.memOk = true) :
    nextForm (execMmaSgn d a b fb k2 st g s) := by
  unfold execMmaSgn
  try dsimp only
  repeat' first
    | with_reducible assumption | with_reducible apply mmaOp_form | with_reducible apply nextForm_next
    | with_reducible refine form_some (by assumption) ?_ | with_reducible refine form_some2 (by assumption) ?_ | split
    | intro _

theorem tileOp_form (s : State) (g : PReg) (k : MatKind) (has : Tcfg → Res Unit) (reads : Nat → List Nat) (vb : Option VReg) (hs : s.memOk = true) :
    nextForm (tileOp s g k has reads vb) := by
  unfold tileOp
  try dsimp only
  repeat' first
    | with_reducible assumption | with_reducible apply done_form | with_reducible apply State.enqueue_form
    | with_reducible apply flow_form | with_reducible apply State.modMe_form | with_reducible apply nextForm_next
    | with_reducible apply resForm_ok | with_reducible apply resForm_error | with_reducible apply resForm_bind
    | with_reducible refine form_some2p (by assumption) ?_ | with_reducible refine form_some (by assumption) ?_
    | with_reducible refine form_some (by assumption) ?_ | with_reducible refine form_some2 (by assumption) ?_
    | with_reducible refine form_ok (by assumption) ?_ | split | intro _

theorem execMtrn_form (d a : TReg) (g : PReg) (s : State) (hs : s.memOk = true) :
    nextForm (execMtrn d a g s) := by
  unfold execMtrn
  try dsimp only
  repeat' first
    | with_reducible assumption | with_reducible apply tileOp_form | with_reducible apply nextForm_next | split
    | intro _

theorem execMprm_form (d a : TReg) (b : VReg) (g : PReg) (s : State) (hs : s.memOk = true) :
    nextForm (execMprm d a b g s) := by
  unfold execMprm
  try dsimp only
  repeat' first
    | with_reducible assumption | with_reducible apply tileOp_form | with_reducible apply nextForm_next
    | with_reducible refine form_some (by assumption) ?_ | with_reducible refine form_some2 (by assumption) ?_ | split
    | intro _

theorem execMrsum_form (d : AReg) (a : TReg) (g : PReg) (s : State) (hs : s.memOk = true) :
    nextForm (execMrsum d a g s) := by
  unfold execMrsum
  try dsimp only
  repeat' first
    | with_reducible assumption | with_reducible apply tileOp_form | with_reducible apply nextForm_next | split
    | intro _

theorem State.setMat_form (s : State) (o : MatOp) (hs : s.memOk = true) :
    (State.setMat s o).memOk = true := by
  unfold State.setMat
  try dsimp only
  repeat' first
    | with_reducible assumption | with_reducible refine form_some2p (by assumption) ?_
    | with_reducible refine form_some (by assumption) ?_ | split | (simp only [form_mk]; refine ⟨?_, ?_, ?_⟩)
    | with_reducible apply ram_form | with_reducible apply host_form | with_reducible apply hy_form | intro _

theorem execMatrixQueueStart_form (op : Nat) (s : State) (hs : s.memOk = true) :
    nextForm (execMatrixQueueStart op s) := by
  unfold execMatrixQueueStart
  try dsimp only
  repeat' first
    | with_reducible assumption | with_reducible apply State.setMat_form | with_reducible apply nextForm_next
    | with_reducible refine form_some (by assumption) ?_ | with_reducible refine form_some2 (by assumption) ?_ | split
    | (simp only [form_mk]; refine ⟨?_, ?_, ?_⟩) | with_reducible apply ram_form | with_reducible apply host_form
    | with_reducible apply hy_form | intro _

theorem State.finishMat_form (s : State) (o : MatOp) (hs : s.memOk = true) :
    (State.finishMat s o).memOk = true := by
  unfold State.finishMat
  try dsimp only
  repeat' first
    | with_reducible assumption | with_reducible apply State.claim_form | with_reducible apply State.effect_form
    | with_reducible apply State.modRole_form | with_reducible apply State.modTcfg_form
    | with_reducible apply State.replaced_form | with_reducible apply resForm_ok | with_reducible apply resForm_error
    | with_reducible apply resForm_bind | with_reducible refine form_snd (by assumption) ?_
    | with_reducible refine form_snd3 (by assumption) ?_ | with_reducible refine form_some2p (by assumption) ?_
    | with_reducible refine form_some (by assumption) ?_ | with_reducible refine form_some (by assumption) ?_
    | with_reducible refine form_some2 (by assumption) ?_ | split | intro _

theorem State.endMat_form (s : State) (o : MatOp) (hs : s.memOk = true) :
    (State.endMat s o).memOk = true := by
  unfold State.endMat
  try dsimp only
  repeat' first
    | with_reducible assumption | with_reducible apply State.finishMat_form | split
    | (simp only [form_mk]; refine ⟨?_, ?_, ?_⟩) | with_reducible apply wf_filter | with_reducible apply ram_form
    | with_reducible apply host_form | with_reducible apply hy_form | intro _

theorem execMatrixComplete_form (op : Nat) (s : State) (hs : s.memOk = true) :
    nextForm (execMatrixComplete op s) := by
  unfold execMatrixComplete
  try dsimp only
  repeat' first
    | with_reducible assumption | with_reducible apply State.endMat_form | with_reducible apply State.reapTeam_form
    | with_reducible apply nextForm_next | with_reducible refine form_some (by assumption) ?_
    | with_reducible refine form_some2 (by assumption) ?_ | split | intro _

theorem State.finishUnit_form (s : State) (o : MatOp) (hs : s.memOk = true) :
    (State.finishUnit s o).memOk = true := by
  unfold State.finishUnit
  try dsimp only
  repeat' first
    | with_reducible assumption | with_reducible apply State.endMat_form | with_reducible apply State.modTcfg_form
    | with_reducible apply State.replaced_form | with_reducible apply State.setMat_form
    | with_reducible apply resForm_ok | with_reducible apply resForm_error | with_reducible apply resForm_bind
    | with_reducible refine form_some2p (by assumption) ?_ | with_reducible refine form_some (by assumption) ?_
    | split | (simp only [form_mk]; refine ⟨?_, ?_, ?_⟩) | with_reducible apply ram_form
    | with_reducible apply host_form | with_reducible apply hy_form | intro _

theorem State.stopMat_form (s : State) (o : MatOp) (hs : s.memOk = true) :
    (State.stopMat s o).memOk = true := by
  unfold State.stopMat
  try dsimp only
  repeat' first
    | with_reducible assumption | with_reducible apply State.finishUnit_form | split | intro _

theorem State.dropMatrix_form (s : State) (tk : Nat) (hs : s.memOk = true) :
    (State.dropMatrix s tk).memOk = true := by
  unfold State.dropMatrix
  try dsimp only
  repeat' first
    | with_reducible assumption | with_reducible apply State.finishUnit_form | with_reducible apply State.modCore_form
    | with_reducible apply foldl_form | with_reducible apply foldl_form_snd
    | with_reducible refine form_some2p (by assumption) ?_ | with_reducible refine form_some (by assumption) ?_
    | split | (simp only [form_mk]; refine ⟨?_, ?_, ?_⟩) | with_reducible apply wf_filter
    | with_reducible apply ram_form | with_reducible apply host_form | with_reducible apply hy_form | intro _

theorem execTrelDiscard_form (x1 : SReg) (g : PReg) (s : State) (hs : s.memOk = true) :
    nextForm (execTrelDiscard x1 g s) := by
  unfold execTrelDiscard
  try dsimp only
  repeat' first
    | with_reducible assumption | with_reducible apply done_form | with_reducible apply State.dropMatrix_form
    | with_reducible apply State.releaseTcfg_form | with_reducible apply nextForm_next
    | with_reducible apply resForm_ok | with_reducible apply resForm_error | with_reducible apply resForm_bind
    | with_reducible refine form_ok (by assumption) ?_ | split | intro _

end Sys2Proof.Machine
end

