-- ==== Sys2Proof/Laws/FormEngineRun.lean ====
section
/-! SUPPORT. Every definition of Machine/EngineRun.lean keeps the canonical form of the byte memories. -/

namespace Sys2Proof.Machine

theorem State.putPacket_form (s : State) (c : Cmd) (k : Nat) (ext : Bytes) (atom : Option Nat) (hs : s.memOk = true) :
    (State.putPacket s c k ext atom).memOk = true := by
  unfold State.putPacket
  try dsimp only
  repeat' first
    | with_reducible assumption | with_reducible apply State.cmdRead_form
    | with_reducible apply State.countPacket_form | with_reducible apply State.failCmd_form
    | with_reducible apply State.replicate_form | with_reducible apply State.sendPackets_form
    | with_reducible apply resForm_ok | with_reducible apply resForm_error | with_reducible apply resForm_bind
    | with_reducible refine form_snd (by assumption) ?_ | with_reducible refine form_snd3 (by assumption) ?_
    | with_reducible refine form_some2p (by assumption) ?_ | with_reducible refine form_some (by assumption) ?_
    | with_reducible refine form_ok (by assumption) ?_ | split | intro _

theorem State.getPacket_form (s : State) (c : Cmd) (k : Nat) (hs : s.memOk = true) :
    (State.getPacket s c k).memOk = true := by
  unfold State.getPacket
  try dsimp only
  repeat' first
    | with_reducible assumption | with_reducible apply State.failCmd_form
    | with_reducible apply State.sendPackets_form | with_reducible refine form_snd (by assumption) ?_
    | with_reducible refine form_snd3 (by assumption) ?_ | with_reducible refine form_some2p (by assumption) ?_
    | with_reducible refine form_some (by assumption) ?_ | split | intro _

theorem State.ratomLane_form (s : State) (c : Cmd) (op : BitVec 5) (wide : Bool) (k : Nat) (hs : s.memOk = true) :
    (State.ratomLane s c op wide k).memOk = true := by
  unfold State.ratomLane
  try dsimp only
  repeat' first
    | with_reducible assumption | with_reducible apply State.chunkDone_form
    | with_reducible apply State.countPacket_form | with_reducible apply done_form
    | with_reducible apply State.landLane_form | with_reducible apply State.refusedPkt_form
    | with_reducible apply State.sendPackets_form | with_reducible apply resForm_ok
    | with_reducible apply resForm_error | with_reducible apply resForm_bind
    | with_reducible refine form_snd (by assumption) ?_ | with_reducible refine form_snd3 (by assumption) ?_
    | with_reducible refine form_some2p (by assumption) ?_ | with_reducible refine form_some (by assumption) ?_
    | with_reducible refine form_some (by assumption) ?_ | with_reducible refine form_some2 (by assumption) ?_ | split
    | intro _

theorem State.stored_form (s : State) (c : Cmd) (k : Nat) (z0 : Io Bool) (hs : s.memOk = true) :
    (State.stored s c k z0).memOk = true := by
  unfold State.stored
  try dsimp only
  repeat' first
    | with_reducible assumption | with_reducible apply State.chunkDone_form | with_reducible apply State.failCmd_form
    | with_reducible apply resForm_ok | with_reducible apply resForm_error | with_reducible apply resForm_bind
    | with_reducible refine form_ok (by assumption) ?_ | split | intro _

theorem State.moveChunk_form (s : State) (c : Cmd) (k : Nat) (kind : Nat) (parts : List (Option Nat × Nat)) (ext : Bytes) (put : State → Bytes → List Nat → Io Bool × State) (hs : s.memOk = true) (hput : ∀ y0 y1 y2, y0.memOk = true → (put y0 y1 y2).2.memOk = true) :
    (State.moveChunk s c k kind parts ext put).memOk = true := by
  unfold State.moveChunk
  try dsimp only
  repeat' first
    | with_reducible assumption | with_reducible apply State.cmdRead_form | with_reducible apply State.failCmd_form
    | with_reducible apply State.stored_form | with_reducible apply resForm_ok | with_reducible apply resForm_error
    | with_reducible apply resForm_bind | with_reducible apply hput
    | with_reducible refine form_snd (by assumption) ?_ | with_reducible refine form_snd3 (by assumption) ?_
    | with_reducible refine form_ok (by assumption) ?_ | split | intro _

theorem State.doChunk_form (s : State) (c : Cmd) (k : Nat) (ext : Bytes) (atom : Option Nat) (hs : s.memOk = true) :
    (State.doChunk s c k ext atom).memOk = true := by
  unfold State.doChunk
  try dsimp only
  repeat' first
    | with_reducible assumption | with_reducible apply State.cmdStore_form | with_reducible apply done_form
    | with_reducible apply State.emit_form | with_reducible apply State.failCmd_form
    | with_reducible apply State.fenceAt_form | with_reducible apply State.getPacket_form
    | with_reducible apply State.modCmd_form | with_reducible apply State.modTcfg_form
    | with_reducible apply State.moveChunk_form | with_reducible apply State.putPacket_form
    | with_reducible apply State.ratomLane_form | with_reducible apply State.replaced_form
    | with_reducible apply State.stored_form | with_reducible apply State.used_form | with_reducible apply resForm_ok
    | with_reducible apply resForm_error | with_reducible apply resForm_bind | with_reducible apply foldl_form
    | with_reducible apply foldl_form_snd | with_reducible refine form_snd (by assumption) ?_
    | with_reducible refine form_snd3 (by assumption) ?_ | with_reducible refine form_some2p (by assumption) ?_
    | with_reducible refine form_some (by assumption) ?_ | with_reducible refine form_some (by assumption) ?_
    | with_reducible refine form_some2 (by assumption) ?_ | with_reducible refine form_ok (by assumption) ?_ | split
    | (simp only [form_mk]; refine ⟨?_, ?_, ?_⟩) | with_reducible apply ram_form | with_reducible apply host_form
    | with_reducible apply hy_form | intro _

theorem execEngineChunkDone_form (cmd : Nat) (k : Portion Nat) (ext : Bytes) (s : State) (hs : s.memOk = true) :
    nextForm (execEngineChunkDone cmd k ext s) := by
  unfold execEngineChunkDone
  try dsimp only
  repeat' first
    | with_reducible assumption | with_reducible apply State.collChunk_form | with_reducible apply State.doChunk_form
    | with_reducible apply nextForm_next | with_reducible refine form_some (by assumption) ?_
    | with_reducible refine form_some2 (by assumption) ?_ | split | intro _

theorem State.sourceDone_form (s : State) (c : Cmd) (hs : s.memOk = true) :
    (State.sourceDone s c).memOk = true := by
  unfold State.sourceDone
  try dsimp only
  repeat' first
    | with_reducible assumption | with_reducible apply State.bump_form | with_reducible apply State.modCmd_form
    | with_reducible apply State.modCore_form | with_reducible refine form_some (by assumption) ?_
    | with_reducible refine form_some2 (by assumption) ?_ | split | (simp only [form_mk]; refine ⟨?_, ?_, ?_⟩)
    | with_reducible apply wf_filter | with_reducible apply ram_form | with_reducible apply host_form
    | with_reducible apply hy_form | intro _

theorem execEngineSourceDone_form (cmd : Nat) (s : State) (hs : s.memOk = true) :
    nextForm (execEngineSourceDone cmd s) := by
  unfold execEngineSourceDone
  try dsimp only
  repeat' first
    | with_reducible assumption | with_reducible apply State.sourceDone_form | with_reducible apply nextForm_next
    | with_reducible refine form_some (by assumption) ?_ | with_reducible refine form_some2 (by assumption) ?_ | split
    | intro _

theorem State.complete_form (s : State) (c : Cmd) (hs : s.memOk = true) :
    (State.complete s c).memOk = true := by
  unfold State.complete
  try dsimp only
  repeat' first
    | with_reducible assumption | with_reducible apply State.bump_form | with_reducible apply State.deferFor_form
    | with_reducible apply State.dropCmd_form | with_reducible apply State.sourceDone_form
    | with_reducible refine form_some (by assumption) ?_ | with_reducible refine form_some2 (by assumption) ?_ | split
    | intro _

theorem execEngineCommandComplete_form (cmd : Nat) (s : State) (hs : s.memOk = true) :
    nextForm (execEngineCommandComplete cmd s) := by
  unfold execEngineCommandComplete
  try dsimp only
  repeat' first
    | with_reducible assumption | with_reducible apply State.complete_form | with_reducible apply nextForm_next
    | with_reducible refine form_some (by assumption) ?_ | with_reducible refine form_some2 (by assumption) ?_ | split
    | intro _

end Sys2Proof.Machine
end

