-- ==== Sys2Proof/Laws/FormSync.lean ====
section
/-! SUPPORT. Every definition of Machine/Sync.lean keeps the canonical form of the byte memories. -/

namespace Sys2Proof.Machine

theorem State.holdOrder_form (s : State) (scope : Nat) (hs : s.memOk = true) :
    (State.holdOrder s scope).memOk = true := by
  unfold State.holdOrder
  try dsimp only
  repeat' first
    | with_reducible assumption | with_reducible apply State.hold_form | split | intro _

theorem uniMem_form (s : State) (lits : Nat) (acc : Acc) (size : Nat) (locks : Bool) (d : List VReg) (a : VReg) (b : BufSel) (g : PReg) (body : State → Mask → List Nat → OpLane → Nat → Out) (hs : s.memOk = true) (hbody : ∀ y0 y1 y2 y3 y4, y0.memOk = true → nextForm (body y0 y1 y2 y3 y4)) :
    nextForm (uniMem s lits acc size locks d a b g body) := by
  unfold uniMem
  try dsimp only
  repeat' first
    | with_reducible assumption | with_reducible apply done_form | with_reducible apply flow_form
    | with_reducible apply State.modMe_form | with_reducible apply withLanes_form | with_reducible apply nextForm_next
    | with_reducible apply resForm_ok | with_reducible apply resForm_error | with_reducible apply resForm_bind
    | with_reducible apply hbody | with_reducible refine form_snd (by assumption) ?_
    | with_reducible refine form_snd3 (by assumption) ?_ | with_reducible refine form_some2p (by assumption) ?_
    | with_reducible refine form_some (by assumption) ?_ | with_reducible refine form_some (by assumption) ?_
    | with_reducible refine form_some2 (by assumption) ?_ | with_reducible refine form_ok (by assumption) ?_ | split
    | (simp only [form_mk]; refine ⟨?_, ?_, ?_⟩) | with_reducible apply ram_form | with_reducible apply host_form
    | with_reducible apply hy_form | intro _

theorem State.lockTry_form (s : State) (k op : Nat) (p : Place) (hs : s.memOk = true) :
    (State.lockTry s k op p).2.memOk = true := by
  unfold State.lockTry
  try dsimp only
  repeat' first
    | with_reducible assumption | with_reducible apply State.modRole_form | with_reducible apply State.writePlace_form
    | with_reducible refine form_snd (by assumption) ?_ | with_reducible refine form_snd3 (by assumption) ?_
    | with_reducible refine form_some (by assumption) ?_ | with_reducible refine form_some2 (by assumption) ?_ | split
    | (simp only [form_mk]; refine ⟨?_, ?_, ?_⟩) | with_reducible apply ram_form | with_reducible apply host_form
    | with_reducible apply hy_form | intro _

theorem State.uncount_form (s : State) (k : Nat) (hs : s.memOk = true) :
    (State.uncount s k).memOk = true := by
  unfold State.uncount
  try dsimp only
  repeat' first
    | with_reducible assumption | with_reducible apply State.modRole_form | with_reducible apply State.writePlace_form
    | with_reducible refine form_some (by assumption) ?_ | with_reducible refine form_some2 (by assumption) ?_ | split
    | (simp only [form_mk]; refine ⟨?_, ?_, ?_⟩) | with_reducible apply ram_form | with_reducible apply host_form
    | with_reducible apply hy_form | intro _

theorem lockOp_form (s : State) (op : Nat) (a : VReg) (b : BufSel) (g : PReg) (hs : s.memOk = true) :
    nextForm (lockOp s op a b g) := by
  unfold lockOp
  try dsimp only
  repeat' first
    | with_reducible assumption | with_reducible apply State.acquire_form | with_reducible apply done_form
    | with_reducible apply State.holdOrder_form | with_reducible apply State.lockTry_form
    | with_reducible apply State.park_form | with_reducible apply State.place_form | with_reducible apply uniMem_form
    | with_reducible apply nextForm_next | with_reducible apply resForm_ok | with_reducible apply resForm_error
    | with_reducible apply resForm_bind | with_reducible refine form_snd (by assumption) ?_
    | with_reducible refine form_snd3 (by assumption) ?_ | with_reducible refine form_ok (by assumption) ?_ | split
    | intro _

theorem execRlk_form (a : VReg) (b : BufSel) (g : PReg) (s : State) (hs : s.memOk = true) :
    nextForm (execRlk a b g s) := by
  unfold execRlk
  try dsimp only
  repeat' first
    | with_reducible assumption | with_reducible apply lockOp_form | with_reducible apply nextForm_next | split
    | intro _

theorem execRunl_form (a : VReg) (b : BufSel) (g : PReg) (s : State) (hs : s.memOk = true) :
    nextForm (execRunl a b g s) := by
  unfold execRunl
  try dsimp only
  repeat' first
    | with_reducible assumption | with_reducible apply lockOp_form | with_reducible apply nextForm_next | split
    | intro _

theorem execWlk_form (a : VReg) (b : BufSel) (g : PReg) (s : State) (hs : s.memOk = true) :
    nextForm (execWlk a b g s) := by
  unfold execWlk
  try dsimp only
  repeat' first
    | with_reducible assumption | with_reducible apply lockOp_form | with_reducible apply nextForm_next | split
    | intro _

theorem execWunl_form (a : VReg) (b : BufSel) (g : PReg) (s : State) (hs : s.memOk = true) :
    nextForm (execWunl a b g s) := by
  unfold execWunl
  try dsimp only
  repeat' first
    | with_reducible assumption | with_reducible apply lockOp_form | with_reducible apply nextForm_next | split
    | intro _

theorem fence_form (s : State) (kind scope : Nat) (hs : s.memOk = true) :
    nextForm (fence s kind scope) := by
  unfold fence
  try dsimp only
  repeat' first
    | with_reducible assumption | with_reducible apply State.flushHost_form | with_reducible apply State.hold_form
    | with_reducible apply nextForm_next | split | intro _

theorem execFenceAr_form (sc : BitVec 3) (g : PReg) (s : State) (hs : s.memOk = true) :
    nextForm (execFenceAr sc g s) := by
  unfold execFenceAr
  try dsimp only
  repeat' first
    | with_reducible assumption | with_reducible apply done_form | with_reducible apply fence_form
    | with_reducible apply nextForm_next | with_reducible apply resForm_ok | with_reducible apply resForm_error
    | with_reducible apply resForm_bind | with_reducible refine form_ok (by assumption) ?_ | split | intro _

theorem execFenceAcq_form (sc : BitVec 3) (g : PReg) (s : State) (hs : s.memOk = true) :
    nextForm (execFenceAcq sc g s) := by
  unfold execFenceAcq
  try dsimp only
  repeat' first
    | with_reducible assumption | with_reducible apply done_form | with_reducible apply fence_form
    | with_reducible apply nextForm_next | with_reducible apply resForm_ok | with_reducible apply resForm_error
    | with_reducible apply resForm_bind | with_reducible refine form_ok (by assumption) ?_ | split | intro _

theorem execFenceRel_form (sc : BitVec 3) (g : PReg) (s : State) (hs : s.memOk = true) :
    nextForm (execFenceRel sc g s) := by
  unfold execFenceRel
  try dsimp only
  repeat' first
    | with_reducible assumption | with_reducible apply done_form | with_reducible apply fence_form
    | with_reducible apply nextForm_next | with_reducible apply resForm_ok | with_reducible apply resForm_error
    | with_reducible apply resForm_bind | with_reducible refine form_ok (by assumption) ?_ | split | intro _

theorem State.waitRead_form (s : State) (core : Nat) (p : Place) (gen : BitVec 16) (acq : Option Nat) (hs : s.memOk = true) :
    (State.waitRead s core p gen acq).2.memOk = true := by
  unfold State.waitRead
  try dsimp only
  repeat' first
    | with_reducible assumption | with_reducible apply State.acquire_form | with_reducible apply State.dropLine_form
    | with_reducible refine form_snd (by assumption) ?_ | with_reducible refine form_snd3 (by assumption) ?_
    | with_reducible refine form_some (by assumption) ?_ | with_reducible refine form_some2 (by assumption) ?_ | split
    | intro _

theorem execWaitw_form (d a : VReg) (b : BufSel) (g : PReg) (s : State) (hs : s.memOk = true) :
    nextForm (execWaitw d a b g s) := by
  unfold execWaitw
  try dsimp only
  repeat' first
    | with_reducible assumption | with_reducible apply done_form | with_reducible apply flow_form
    | with_reducible apply State.holdOrder_form | with_reducible apply State.park_form
    | with_reducible apply State.place_form | with_reducible apply State.putReg_form
    | with_reducible apply uniMem_form | with_reducible apply State.waitRead_form | with_reducible apply nextForm_next
    | with_reducible apply resForm_ok | with_reducible apply resForm_error | with_reducible apply resForm_bind
    | with_reducible refine form_snd (by assumption) ?_ | with_reducible refine form_snd3 (by assumption) ?_
    | with_reducible refine form_some (by assumption) ?_ | with_reducible refine form_some2 (by assumption) ?_
    | with_reducible refine form_ok (by assumption) ?_ | split | intro _

theorem State.pushEntry_form (s : State) (k : Nat) (h : HReg) (m : Mask) (rows : List Lanes) (hs : s.memOk = true) :
    (State.pushEntry s k h m rows).memOk = true := by
  unfold State.pushEntry
  try dsimp only
  repeat' first
    | with_reducible assumption | with_reducible apply State.modTeam_form | split
    | (simp only [form_mk]; refine ⟨?_, ?_, ?_⟩) | with_reducible apply ram_form | with_reducible apply host_form
    | with_reducible apply hy_form | intro _

theorem execHpush_form (h : HReg) (a : VReg) (g : PReg) (s : State) (hs : s.memOk = true) :
    nextForm (execHpush h a g s) := by
  unfold execHpush
  try dsimp only
  repeat' first
    | with_reducible assumption | with_reducible apply done_form | with_reducible apply flow_form
    | with_reducible apply State.holdOrder_form | with_reducible apply State.modCore_form
    | with_reducible apply State.modMe_form | with_reducible apply State.modTeam_form
    | with_reducible apply State.park_form | with_reducible apply State.parkFrame_form
    | with_reducible apply State.pushEntry_form | with_reducible apply nextForm_next | with_reducible apply resForm_ok
    | with_reducible apply resForm_error | with_reducible apply resForm_bind
    | with_reducible refine form_ok (by assumption) ?_ | split | (simp only [form_mk]; refine ⟨?_, ?_, ?_⟩)
    | with_reducible apply ram_form | with_reducible apply host_form | with_reducible apply hy_form | intro _

theorem State.popEntry_form (s : State) (tk : Nat) (h : HReg) (rest : List HandoffEntry) (hs : s.memOk = true) :
    (State.popEntry s tk h rest).memOk = true := by
  unfold State.popEntry
  try dsimp only
  repeat' first
    | with_reducible assumption | with_reducible apply State.modTeam_form | split
    | (simp only [form_mk]; refine ⟨?_, ?_, ?_⟩) | with_reducible apply ram_form | with_reducible apply host_form
    | with_reducible apply hy_form | intro _

theorem execHpop_form (d : VReg) (h : HReg) (g : PReg) (s : State) (hs : s.memOk = true) :
    nextForm (execHpop d h g s) := by
  unfold execHpop
  try dsimp only
  repeat' first
    | with_reducible assumption | with_reducible apply done_form | with_reducible apply flow_form
    | with_reducible apply State.modMe_form | with_reducible apply State.park_form
    | with_reducible apply State.popEntry_form | with_reducible apply State.putReg_form
    | with_reducible apply nextForm_next | with_reducible apply resForm_ok | with_reducible apply resForm_error
    | with_reducible apply resForm_bind | with_reducible refine form_some2p (by assumption) ?_
    | with_reducible refine form_some (by assumption) ?_ | with_reducible refine form_ok (by assumption) ?_ | split
    | intro _

theorem execArrv_form (a : SReg) (sc : BitVec 3) (g : PReg) (s : State) (hs : s.memOk = true) :
    nextForm (execArrv a sc g s) := by
  unfold execArrv
  try dsimp only
  repeat' first
    | with_reducible assumption | with_reducible apply State.addOp_form | with_reducible apply State.advance_form
    | with_reducible apply flow_form | with_reducible apply State.modMe_form | with_reducible apply withScalar_form
    | with_reducible apply nextForm_next | with_reducible apply resForm_ok | with_reducible apply resForm_error
    | with_reducible apply resForm_bind | with_reducible refine form_some (by assumption) ?_
    | with_reducible refine form_some2 (by assumption) ?_ | with_reducible refine form_ok (by assumption) ?_ | split
    | (simp only [form_mk]; refine ⟨?_, ?_, ?_⟩) | with_reducible apply ram_form | with_reducible apply host_form
    | with_reducible apply hy_form | intro _

theorem execBarw_form (a : SReg) (sc : BitVec 3) (g : PReg) (s : State) (hs : s.memOk = true) :
    nextForm (execBarw a sc g s) := by
  unfold execBarw
  try dsimp only
  repeat' first
    | with_reducible assumption | with_reducible apply State.acquire_form | with_reducible apply done_form
    | with_reducible apply flow_form | with_reducible apply State.hold_form
    | with_reducible apply State.holdOrder_form | with_reducible apply State.modMe_form
    | with_reducible apply State.park_form | with_reducible apply State.place_form
    | with_reducible apply withScalar_form | with_reducible apply nextForm_next | with_reducible apply resForm_ok
    | with_reducible apply resForm_error | with_reducible apply resForm_bind
    | with_reducible refine form_snd (by assumption) ?_ | with_reducible refine form_snd3 (by assumption) ?_
    | with_reducible refine form_some (by assumption) ?_ | with_reducible refine form_some2 (by assumption) ?_
    | with_reducible refine form_ok (by assumption) ?_ | split | (simp only [form_mk]; refine ⟨?_, ?_, ?_⟩)
    | with_reducible apply ram_form | with_reducible apply host_form | with_reducible apply hy_form | intro _

theorem execBarc_form (g : PReg) (s : State) (hs : s.memOk = true) :
    nextForm (execBarc g s) := by
  unfold execBarc
  try dsimp only
  repeat' first
    | with_reducible assumption | with_reducible apply State.barcCheck_form | with_reducible apply done_form
    | with_reducible apply flow_form | with_reducible apply State.holdOrder_form
    | with_reducible apply State.modMe_form | with_reducible apply State.park_form
    | with_reducible apply nextForm_next | with_reducible apply resForm_ok | with_reducible apply resForm_error
    | with_reducible apply resForm_bind | with_reducible refine form_some (by assumption) ?_
    | with_reducible refine form_some2 (by assumption) ?_ | with_reducible refine form_ok (by assumption) ?_ | split
    | (simp only [form_mk]; refine ⟨?_, ?_, ?_⟩) | with_reducible apply ram_form | with_reducible apply host_form
    | with_reducible apply hy_form | intro _

end Sys2Proof.Machine
end

