-- ==== Sys2Proof/Laws/FormSystem.lean ====
section
/-! SUPPORT. Every definition of Machine/System.lean keeps the canonical form of the byte memories. -/

namespace Sys2Proof.Machine

theorem sysWait_form (s : State) (n : Imm7) (body : State → Out) (hs : s.memOk = true) (hbody : ∀ y0, y0.memOk = true → nextForm (body y0)) :
    nextForm (sysWait s n body) := by
  unfold sysWait
  try dsimp only
  repeat' first
    | with_reducible assumption | with_reducible apply State.modMe_form | with_reducible apply nextForm_next
    | with_reducible apply hbody | split | intro _

theorem execRdsr_form (d : SReg) (n : Imm7) (g : PReg) (s : State) (hs : s.memOk = true) :
    nextForm (execRdsr d n g s) := by
  unfold execRdsr
  try dsimp only
  repeat' first
    | with_reducible assumption | with_reducible apply flow_form | with_reducible apply scalGet_form
    | with_reducible apply sysWait_form | with_reducible apply nextForm_next | with_reducible apply resForm_ok
    | with_reducible apply resForm_error | with_reducible apply resForm_bind
    | with_reducible refine form_ok (by assumption) ?_ | split | (simp only [form_mk]; refine ⟨?_, ?_, ?_⟩)
    | with_reducible apply ram_form | with_reducible apply host_form | with_reducible apply hy_form | intro _

theorem execWrsr_form (a : SReg) (n : Imm7) (g : PReg) (s : State) (hs : s.memOk = true) :
    nextForm (execWrsr a n g s) := by
  unfold execWrsr
  try dsimp only
  repeat' first
    | with_reducible assumption | with_reducible apply done_form | with_reducible apply State.modMe_form
    | with_reducible apply sysWait_form | with_reducible apply withScalar_form | with_reducible apply nextForm_next
    | with_reducible apply resForm_ok | with_reducible apply resForm_error | with_reducible apply resForm_bind
    | with_reducible refine form_ok (by assumption) ?_ | split | (simp only [form_mk]; refine ⟨?_, ?_, ?_⟩)
    | with_reducible apply ram_form | with_reducible apply host_form | with_reducible apply hy_form | intro _

theorem execClock_form (d : SReg) (g : PReg) (s : State) (hs : s.memOk = true) :
    nextForm (execClock d g s) := by
  unfold execClock
  try dsimp only
  repeat' first
    | with_reducible assumption | with_reducible apply scalGet_form | with_reducible apply nextForm_next
    | with_reducible apply resForm_ok | with_reducible apply resForm_error | with_reducible apply resForm_bind
    | with_reducible refine form_ok (by assumption) ?_ | split | intro _

theorem execCacheIinv_form (a : SReg) (g : PReg) (s : State) (hs : s.memOk = true) :
    nextForm (execCacheIinv a g s) := by
  unfold execCacheIinv
  try dsimp only
  repeat' first
    | with_reducible assumption | with_reducible apply done_form | with_reducible apply State.modCore_form
    | with_reducible apply withScalar_form | with_reducible apply nextForm_next | with_reducible apply resForm_ok
    | with_reducible apply resForm_error | with_reducible apply resForm_bind
    | with_reducible refine form_snd (by assumption) ?_ | with_reducible refine form_snd3 (by assumption) ?_
    | with_reducible refine form_ok (by assumption) ?_ | split | (simp only [form_mk]; refine ⟨?_, ?_, ?_⟩)
    | with_reducible apply ram_form | with_reducible apply host_form | with_reducible apply hy_form | intro _

theorem execCacheIinvall_form (x1 : SReg) (g : PReg) (s : State) (hs : s.memOk = true) :
    nextForm (execCacheIinvall x1 g s) := by
  unfold execCacheIinvall
  try dsimp only
  repeat' first
    | with_reducible assumption | with_reducible apply done_form | with_reducible apply State.modCore_form
    | with_reducible apply nextForm_next | with_reducible apply resForm_ok | with_reducible apply resForm_error
    | with_reducible apply resForm_bind | with_reducible refine form_ok (by assumption) ?_ | split
    | (simp only [form_mk]; refine ⟨?_, ?_, ?_⟩) | with_reducible apply ram_form | with_reducible apply host_form
    | with_reducible apply hy_form | intro _

theorem execCacheL1inv_form (x1 : SReg) (g : PReg) (s : State) (hs : s.memOk = true) :
    nextForm (execCacheL1inv x1 g s) := by
  unfold execCacheL1inv
  try dsimp only
  repeat' first
    | with_reducible assumption | with_reducible apply done_form | with_reducible apply State.dropL1_form
    | with_reducible apply nextForm_next | with_reducible apply resForm_ok | with_reducible apply resForm_error
    | with_reducible apply resForm_bind | with_reducible refine form_ok (by assumption) ?_ | split | intro _

theorem State.readSpans_form (s : State) (r : Role) (alloc : Bool) (z0 : List (Place × Nat)) (hs : s.memOk = true) :
    (State.readSpans s r alloc z0).2.memOk = true := by
  induction z0 generalizing s with
  | nil =>
    unfold State.readSpans
    try dsimp only
    repeat' first
      | with_reducible assumption | with_reducible apply State.fillL1_form | with_reducible apply State.modCore_form
      | with_reducible refine form_snd (by assumption) ?_ | with_reducible refine form_snd3 (by assumption) ?_
      | with_reducible refine form_some (by assumption) ?_ | with_reducible refine form_some2 (by assumption) ?_ | split
      | intro _
  | cons x xs ih =>
    unfold State.readSpans
    try dsimp only
    repeat' first
      | with_reducible assumption | with_reducible apply State.fillL1_form | with_reducible apply State.modCore_form
      | with_reducible refine form_snd (by assumption) ?_ | with_reducible refine form_snd3 (by assumption) ?_
      | with_reducible refine form_some (by assumption) ?_ | with_reducible refine form_some2 (by assumption) ?_ | split
      | intro _ | with_reducible apply ih

theorem cryptoQueue_form (s : State) (q : CryptoReq) (hs : s.memOk = true) :
    nextForm (cryptoQueue s q) := by
  unfold cryptoQueue
  try dsimp only
  repeat' first
    | with_reducible assumption | with_reducible apply State.hold_form | with_reducible apply State.modCore_form
    | with_reducible apply nextForm_next | split | (simp only [form_mk]; refine ⟨?_, ?_, ?_⟩)
    | with_reducible apply ram_form | with_reducible apply host_form | with_reducible apply hy_form | intro _

theorem cryptoOp_form (s : State) (b : BufSel) (rc : Rec) (n : Nat) (q : CryptoReq) (hs : s.memOk = true) :
    nextForm (cryptoOp s b rc n q) := by
  unfold cryptoOp
  try dsimp only
  repeat' first
    | with_reducible assumption | with_reducible apply cryptoQueue_form | with_reducible apply flow_form
    | with_reducible apply State.hold_form | with_reducible apply nextForm_next | with_reducible apply resForm_ok
    | with_reducible apply resForm_error | with_reducible apply resForm_bind | split
    | (simp only [form_mk]; refine ⟨?_, ?_, ?_⟩) | with_reducible apply ram_form | with_reducible apply host_form
    | with_reducible apply hy_form | intro _

theorem execHash_form (d : SReg) (b : BufSel) (g : PReg) (s : State) (hs : s.memOk = true) :
    nextForm (execHash d b g s) := by
  unfold execHash
  try dsimp only
  repeat' first
    | with_reducible assumption | with_reducible apply cryptoOp_form | with_reducible apply done_form
    | with_reducible apply flow_form | with_reducible apply nextForm_next | with_reducible apply resForm_ok
    | with_reducible apply resForm_error | with_reducible apply resForm_bind
    | with_reducible refine form_snd (by assumption) ?_ | with_reducible refine form_snd3 (by assumption) ?_
    | with_reducible refine form_some2p (by assumption) ?_ | with_reducible refine form_some (by assumption) ?_
    | with_reducible refine form_ok (by assumption) ?_ | split | (simp only [form_mk]; refine ⟨?_, ?_, ?_⟩)
    | with_reducible apply ram_form | with_reducible apply host_form | with_reducible apply hy_form | intro _

theorem execSign_form (d a : SReg) (b : BufSel) (g : PReg) (s : State) (hs : s.memOk = true) :
    nextForm (execSign d a b g s) := by
  unfold execSign
  repeat' first
    | extract_lets | with_reducible assumption | with_reducible apply cryptoOp_form | with_reducible apply cryptoQueue_form
    | with_reducible apply done_form | with_reducible apply flow_form | with_reducible apply nextForm_next
    | with_reducible apply resForm_ok | with_reducible apply resForm_error | with_reducible apply resForm_bind
    | with_reducible refine form_snd (by assumption) ?_ | with_reducible refine form_snd3 (by assumption) ?_
    | with_reducible refine form_some2p (by assumption) ?_ | with_reducible refine form_some (by assumption) ?_
    | with_reducible refine form_some (by assumption) ?_ | with_reducible refine form_some2 (by assumption) ?_
    | with_reducible refine form_ok (by assumption) ?_ | split | (simp only [form_mk]; refine ⟨?_, ?_, ?_⟩)
    | with_reducible apply ram_form | with_reducible apply host_form | with_reducible apply hy_form | intro _

theorem State.cryptoDone_form (s : State) (q : CryptoReq) (res : List (BitVec 64)) (hs : s.memOk = true) :
    (State.cryptoDone s q res).memOk = true := by
  unfold State.cryptoDone
  try dsimp only
  repeat' first
    | with_reducible assumption | with_reducible apply State.claimS_form | with_reducible apply State.modRole_form
    | with_reducible apply State.wake_form | split | intro _

theorem State.cryptoServe_form (s : State) (core : Nat) (q : CryptoReq) (hs : s.memOk = true) :
    optForm (State.cryptoServe s core q) := by
  unfold State.cryptoServe
  try dsimp only
  repeat' first
    | with_reducible assumption | with_reducible apply State.acquire_form | with_reducible apply State.cryptoDone_form
    | with_reducible apply State.readSpans_form | with_reducible apply optForm_some
    | with_reducible apply optForm_none | with_reducible refine form_snd (by assumption) ?_
    | with_reducible refine form_snd3 (by assumption) ?_ | with_reducible refine form_some (by assumption) ?_
    | with_reducible refine form_some2 (by assumption) ?_ | split | intro _

theorem execHashComplete_form (core : Nat) (s : State) (hs : s.memOk = true) :
    nextForm (execHashComplete core s) := by
  unfold execHashComplete
  try dsimp only
  repeat' first
    | with_reducible assumption | with_reducible apply State.cryptoServe_form
    | with_reducible apply State.modCore_form | with_reducible apply nextForm_next
    | with_reducible refine form_some (by assumption) ?_ | with_reducible refine form_some2 (by assumption) ?_ | split
    | (simp only [form_mk]; refine ⟨?_, ?_, ?_⟩) | with_reducible apply ram_form | with_reducible apply host_form
    | with_reducible apply hy_form | intro _

theorem execSignComplete_form (core : Nat) (s : State) (hs : s.memOk = true) :
    nextForm (execSignComplete core s) := by
  unfold execSignComplete
  try dsimp only
  repeat' first
    | with_reducible assumption | with_reducible apply State.cryptoServe_form
    | with_reducible apply State.modCore_form | with_reducible apply nextForm_next
    | with_reducible refine form_some (by assumption) ?_ | with_reducible refine form_some2 (by assumption) ?_ | split
    | (simp only [form_mk]; refine ⟨?_, ?_, ?_⟩) | with_reducible apply ram_form | with_reducible apply host_form
    | with_reducible apply hy_form | intro _

theorem State.dbgSpilled_form (s : State) (r : Role) (f : Frame) (base : Nat) (u : DbgUnit) (unit group word : Nat) (put : Option (BitVec 64)) (hs : s.memOk = true) :
    (State.dbgSpilled s r f base u unit group word put).2.memOk = true := by
  unfold State.dbgSpilled
  try dsimp only
  repeat' first
    | with_reducible assumption | with_reducible apply State.devTr_form | with_reducible apply State.homeWrite_form
    | with_reducible refine form_snd (by assumption) ?_ | with_reducible refine form_snd3 (by assumption) ?_
    | with_reducible refine form_some2p (by assumption) ?_ | with_reducible refine form_some (by assumption) ?_
    | with_reducible refine form_some (by assumption) ?_ | with_reducible refine form_some2 (by assumption) ?_ | split
    | intro _

theorem State.dbgFrame_form (s : State) (tk : Nat) (u : DbgUnit) (fi0 unit0 group word : Nat) (put : Option (BitVec 64)) (hs : s.memOk = true) :
    (State.dbgFrame s tk u fi0 unit0 group word put).2.memOk = true := by
  unfold State.dbgFrame
  try dsimp only
  repeat' first
    | with_reducible assumption | with_reducible apply State.dbgSpilled_form | with_reducible apply State.setRole_form
    | with_reducible refine form_snd (by assumption) ?_ | with_reducible refine form_snd3 (by assumption) ?_
    | with_reducible refine form_some (by assumption) ?_ | with_reducible refine form_some2 (by assumption) ?_ | split
    | (simp only [form_mk]; refine ⟨?_, ?_, ?_⟩) | with_reducible apply ram_form | with_reducible apply host_form
    | with_reducible apply hy_form | intro _

theorem State.dbg_form (s : State) (u : DbgUnit) (sel : BitVec 64) (put : Option (BitVec 64)) (hs : s.memOk = true) :
    (State.dbg s u sel put).2.memOk = true := by
  unfold State.dbg
  try dsimp only
  repeat' first
    | with_reducible assumption | with_reducible apply State.dbgFrame_form | with_reducible apply State.setCore_form
    | with_reducible apply State.setTeam_form | with_reducible refine form_snd (by assumption) ?_
    | with_reducible refine form_snd3 (by assumption) ?_ | with_reducible refine form_some (by assumption) ?_
    | with_reducible refine form_some2 (by assumption) ?_ | split | (simp only [form_mk]; refine ⟨?_, ?_, ?_⟩)
    | with_reducible apply ram_form | with_reducible apply host_form | with_reducible apply hy_form | intro _

theorem dbgOp_form (s : State) (u : DbgUnit) (write : Bool) (d a : SReg) (g : PReg) (hs : s.memOk = true) :
    nextForm (dbgOp s u write d a g) := by
  unfold dbgOp
  try dsimp only
  repeat' first
    | with_reducible assumption | with_reducible apply State.dbg_form | with_reducible apply done_form
    | with_reducible apply flow_form | with_reducible apply State.putS_form | with_reducible apply State.used_form
    | with_reducible apply withScalar_form | with_reducible apply nextForm_next | with_reducible apply resForm_ok
    | with_reducible apply resForm_error | with_reducible apply resForm_bind
    | with_reducible refine form_snd (by assumption) ?_ | with_reducible refine form_snd3 (by assumption) ?_
    | with_reducible refine form_some2p (by assumption) ?_ | with_reducible refine form_some (by assumption) ?_
    | with_reducible refine form_some (by assumption) ?_ | with_reducible refine form_some2 (by assumption) ?_
    | with_reducible refine form_ok (by assumption) ?_ | split | (simp only [form_mk]; refine ⟨?_, ?_, ?_⟩)
    | with_reducible apply ram_form | with_reducible apply host_form | with_reducible apply hy_form | intro _

theorem execDrdv_form (d a : SReg) (g : PReg) (s : State) (hs : s.memOk = true) :
    nextForm (execDrdv d a g s) := by
  unfold execDrdv
  try dsimp only
  repeat' first
    | with_reducible assumption | with_reducible apply dbgOp_form | with_reducible apply nextForm_next | split
    | intro _

theorem execDwrv_form (d a : SReg) (g : PReg) (s : State) (hs : s.memOk = true) :
    nextForm (execDwrv d a g s) := by
  unfold execDwrv
  try dsimp only
  repeat' first
    | with_reducible assumption | with_reducible apply dbgOp_form | with_reducible apply nextForm_next | split
    | intro _

theorem execDrds_form (d a : SReg) (g : PReg) (s : State) (hs : s.memOk = true) :
    nextForm (execDrds d a g s) := by
  unfold execDrds
  try dsimp only
  repeat' first
    | with_reducible assumption | with_reducible apply dbgOp_form | with_reducible apply nextForm_next | split
    | intro _

theorem execDwrs_form (d a : SReg) (g : PReg) (s : State) (hs : s.memOk = true) :
    nextForm (execDwrs d a g s) := by
  unfold execDwrs
  try dsimp only
  repeat' first
    | with_reducible assumption | with_reducible apply dbgOp_form | with_reducible apply nextForm_next | split
    | intro _

theorem execDrdt_form (d a : SReg) (g : PReg) (s : State) (hs : s.memOk = true) :
    nextForm (execDrdt d a g s) := by
  unfold execDrdt
  try dsimp only
  repeat' first
    | with_reducible assumption | with_reducible apply dbgOp_form | with_reducible apply nextForm_next | split
    | intro _

theorem execDwrt_form (d a : SReg) (g : PReg) (s : State) (hs : s.memOk = true) :
    nextForm (execDwrt d a g s) := by
  unfold execDwrt
  try dsimp only
  repeat' first
    | with_reducible assumption | with_reducible apply dbgOp_form | with_reducible apply nextForm_next | split
    | intro _

theorem execDrda_form (d a : SReg) (g : PReg) (s : State) (hs : s.memOk = true) :
    nextForm (execDrda d a g s) := by
  unfold execDrda
  try dsimp only
  repeat' first
    | with_reducible assumption | with_reducible apply dbgOp_form | with_reducible apply nextForm_next | split
    | intro _

theorem execDwra_form (d a : SReg) (g : PReg) (s : State) (hs : s.memOk = true) :
    nextForm (execDwra d a g s) := by
  unfold execDwra
  try dsimp only
  repeat' first
    | with_reducible assumption | with_reducible apply dbgOp_form | with_reducible apply nextForm_next | split
    | intro _

theorem execDrdg_form (d a : SReg) (g : PReg) (s : State) (hs : s.memOk = true) :
    nextForm (execDrdg d a g s) := by
  unfold execDrdg
  try dsimp only
  repeat' first
    | with_reducible assumption | with_reducible apply dbgOp_form | with_reducible apply nextForm_next | split
    | intro _

theorem execDwrg_form (d a : SReg) (g : PReg) (s : State) (hs : s.memOk = true) :
    nextForm (execDwrg d a g s) := by
  unfold execDwrg
  try dsimp only
  repeat' first
    | with_reducible assumption | with_reducible apply dbgOp_form | with_reducible apply nextForm_next | split
    | intro _

theorem execGenrd_form (d x1 : SReg) (g : PReg) (s : State) (hs : s.memOk = true) :
    nextForm (execGenrd d x1 g s) := by
  unfold execGenrd
  try dsimp only
  repeat' first
    | with_reducible assumption | with_reducible apply flow_form | with_reducible apply scalGet_form
    | with_reducible apply nextForm_next | with_reducible apply resForm_ok | with_reducible apply resForm_error
    | with_reducible apply resForm_bind | with_reducible refine form_ok (by assumption) ?_ | split
    | (simp only [form_mk]; refine ⟨?_, ?_, ?_⟩) | with_reducible apply ram_form | with_reducible apply host_form
    | with_reducible apply hy_form | intro _

theorem execGencert_form (x1 x2 : SReg) (g : PReg) (s : State) (hs : s.memOk = true) :
    nextForm (execGencert x1 x2 g s) := by
  unfold execGencert
  try dsimp only
  repeat' first
    | with_reducible assumption | with_reducible apply done_form | with_reducible apply flow_form
    | with_reducible apply State.hold_form | with_reducible apply nextForm_next | with_reducible apply resForm_ok
    | with_reducible apply resForm_error | with_reducible apply resForm_bind
    | with_reducible refine form_ok (by assumption) ?_ | split | (simp only [form_mk]; refine ⟨?_, ?_, ?_⟩)
    | with_reducible apply ram_form | with_reducible apply host_form | with_reducible apply hy_form | intro _

end Sys2Proof.Machine
end

