-- ==== Sys2Proof/Laws/FormSched.lean ====
section
/-! SUPPORT. Every definition of Machine/Sched.lean keeps the canonical form of the byte memories. -/

namespace Sys2Proof.Machine

theorem State.issueTick_form (s : State) (core : Nat) (hs : s.memOk = true) :
    (State.issueTick s core).memOk = true := by
  unfold State.issueTick
  try dsimp only
  repeat' first
    | with_reducible assumption | with_reducible apply State.modCore_form
    | with_reducible refine form_some (by assumption) ?_ | with_reducible refine form_some2 (by assumption) ?_ | split
    | (simp only [form_mk]; refine ⟨?_, ?_, ?_⟩) | with_reducible apply ram_form | with_reducible apply host_form
    | with_reducible apply hy_form | intro _

theorem State.payIssue_form (s : State) (k : Nat) (hs : s.memOk = true) :
    (State.payIssue s k).memOk = true := by
  unfold State.payIssue
  try dsimp only
  repeat' first
    | with_reducible assumption | with_reducible apply State.modCore_form | split
    | (simp only [form_mk]; refine ⟨?_, ?_, ?_⟩) | with_reducible apply ram_form | with_reducible apply host_form
    | with_reducible apply hy_form | intro _

theorem State.tick_form (s : State) (hs : s.memOk = true) :
    (State.tick s).memOk = true := by
  unfold State.tick
  try dsimp only
  repeat' first
    | with_reducible assumption | with_reducible apply State.used_form | split
    | (simp only [form_mk]; refine ⟨?_, ?_, ?_⟩) | with_reducible apply ram_form | with_reducible apply host_form
    | with_reducible apply hy_form | intro _

theorem State.cycle_form (s : State) (core : Nat) (hs : s.memOk = true) :
    (State.cycle s core).memOk = true := by
  unfold State.cycle
  try dsimp only
  repeat' first
    | with_reducible assumption | with_reducible apply State.issueTick_form | with_reducible apply State.tick_form
    | split | intro _

theorem State.endHold_form (s : State) (k : Nat) (hs : s.memOk = true) :
    (State.endHold s k).memOk = true := by
  unfold State.endHold
  try dsimp only
  repeat' first
    | with_reducible assumption | with_reducible apply State.acquire_form | with_reducible apply fence_form | split
    | intro _

theorem State.lookAt_form (s : State) (k : Nat) (hs : s.memOk = true) :
    (State.lookAt s k).memOk = true := by
  unfold State.lookAt
  try dsimp only
  repeat' first
    | with_reducible assumption | with_reducible apply State.modRole_form | with_reducible apply State.numbered_form
    | split | (simp only [form_mk]; refine ⟨?_, ?_, ?_⟩) | with_reducible apply ram_form
    | with_reducible apply host_form | with_reducible apply hy_form | intro _

theorem State.noteReady_form (s : State) (core : Nat) (hs : s.memOk = true) :
    (State.noteReady s core).memOk = true := by
  unfold State.noteReady
  try dsimp only
  repeat' first
    | with_reducible assumption | with_reducible apply State.lookAt_form | with_reducible apply foldl_form
    | with_reducible apply foldl_form_snd | split | intro _

theorem execIssueCycle_form (core : Nat) (s : State) (hs : s.memOk = true) :
    nextForm (execIssueCycle core s) := by
  unfold execIssueCycle
  try dsimp only
  repeat' first
    | with_reducible assumption | with_reducible apply State.issueTick_form
    | with_reducible apply State.noteReady_form | with_reducible apply nextForm_next
    | with_reducible refine form_some (by assumption) ?_ | with_reducible refine form_some2 (by assumption) ?_ | split
    | (simp only [form_mk]; refine ⟨?_, ?_, ?_⟩) | with_reducible apply ram_form | with_reducible apply host_form
    | with_reducible apply hy_form | intro _

theorem State.clearYield_form (s : State) (core : Nat) (plot : Option Nat) (hs : s.memOk = true) :
    (State.clearYield s core plot).memOk = true := by
  unfold State.clearYield
  try dsimp only
  repeat' first
    | with_reducible assumption | with_reducible apply State.modRole_form | with_reducible apply foldl_form
    | with_reducible apply foldl_form_snd | split | (simp only [form_mk]; refine ⟨?_, ?_, ?_⟩)
    | with_reducible apply ram_form | with_reducible apply host_form | with_reducible apply hy_form | intro _

theorem State.deliver_form (s : State) (k : Nat) (d : Deferred) (hs : s.memOk = true) :
    (State.deliver s k d).memOk = true := by
  unfold State.deliver
  try dsimp only
  repeat' first
    | with_reducible assumption | with_reducible apply State.modRole_form | with_reducible apply State.modTeam_form
    | with_reducible apply takeTrap_form | split | (simp only [form_mk]; refine ⟨?_, ?_, ?_⟩)
    | with_reducible apply ram_form | with_reducible apply host_form | with_reducible apply hy_form | intro _

theorem State.beginRun_form (s : State) (k : Nat) (lent : Bool) (hs : s.memOk = true) :
    (State.beginRun s k lent).memOk = true := by
  unfold State.beginRun
  try dsimp only
  repeat' first
    | with_reducible assumption | with_reducible apply State.clearYield_form | with_reducible apply State.deliver_form
    | with_reducible apply State.fetch_form | with_reducible apply State.fetchWords_form
    | with_reducible apply State.modCore_form | with_reducible apply State.modRole_form
    | with_reducible apply takeTrap_form | with_reducible refine form_snd (by assumption) ?_
    | with_reducible refine form_snd3 (by assumption) ?_ | with_reducible refine form_some (by assumption) ?_
    | with_reducible refine form_some2 (by assumption) ?_ | split | (simp only [form_mk]; refine ⟨?_, ?_, ?_⟩)
    | with_reducible apply ram_form | with_reducible apply host_form | with_reducible apply hy_form | intro _

theorem execRunStart_form (core : Nat) (s : State) (hs : s.memOk = true) :
    nextForm (execRunStart core s) := by
  unfold execRunStart
  try dsimp only
  repeat' first
    | with_reducible assumption | with_reducible apply State.beginRun_form | with_reducible apply State.endHold_form
    | with_reducible apply State.modRole_form | with_reducible apply State.noteReady_form
    | with_reducible apply State.tryRefill_form | with_reducible apply nextForm_next
    | with_reducible refine form_snd (by assumption) ?_ | with_reducible refine form_snd3 (by assumption) ?_
    | with_reducible refine form_some (by assumption) ?_ | with_reducible refine form_some2 (by assumption) ?_ | split
    | (simp only [form_mk]; refine ⟨?_, ?_, ?_⟩) | with_reducible apply ram_form | with_reducible apply host_form
    | with_reducible apply hy_form | intro _

theorem execDecodeFault_form (c : Imm8) (s : State) (hs : s.memOk = true) :
    nextForm (execDecodeFault c s) := by
  unfold execDecodeFault
  try dsimp only
  repeat' first
    | with_reducible assumption | with_reducible apply flow_form | with_reducible apply nextForm_next
    | with_reducible apply resForm_ok | with_reducible apply resForm_error | with_reducible apply resForm_bind
    | with_reducible refine form_snd (by assumption) ?_ | with_reducible refine form_snd3 (by assumption) ?_
    | with_reducible refine form_some (by assumption) ?_ | with_reducible refine form_some2 (by assumption) ?_ | split
    | (simp only [form_mk]; refine ⟨?_, ?_, ?_⟩) | with_reducible apply ram_form | with_reducible apply host_form
    | with_reducible apply hy_form | intro _

theorem execPipeWriteback_form (role : Nat) (s : State) (hs : s.memOk = true) :
    nextForm (execPipeWriteback role s) := by
  unfold execPipeWriteback
  try dsimp only
  repeat' first
    | with_reducible assumption | with_reducible apply State.modRole_form | with_reducible apply nextForm_next | split
    | intro _

theorem execLocalityDecay_form (core : Nat) (s : State) (hs : s.memOk = true) :
    nextForm (execLocalityDecay core s) := by
  unfold execLocalityDecay
  try dsimp only
  repeat' first
    | with_reducible assumption | with_reducible apply State.modCore_form | with_reducible apply State.used_form
    | with_reducible apply nextForm_next | split | (simp only [form_mk]; refine ⟨?_, ?_, ?_⟩)
    | with_reducible apply wf_filter | with_reducible apply ram_form | with_reducible apply host_form
    | with_reducible apply hy_form | intro _

end Sys2Proof.Machine
end

