-- ==== Sys2Proof/Laws/FormLaunch.lean ====
section
/-! SUPPORT. Every definition of Machine/Launch.lean keeps the canonical form of the byte memories. -/

namespace Sys2Proof.Machine

theorem State.takePlotSlot_form (s : State) (core plot : Nat) (hs : s.memOk = true) :
    optForm (s.takePlotSlot core plot) := by
  unfold State.takePlotSlot
  extract_lets c
  split
  · exact optForm_some hs
  · exact optForm_step _ _ fun p _ => optForm_step _ _ fun slot _ =>
      optForm_pair _ _ (State.reserve_form _ _ _ hs) fun x hx => optForm_some (State.modCore_form _ _ _ hx)

theorem State.issueGen_form (s : State) (core : Nat) (hs : s.memOk = true) :
    optForm2 (State.issueGen s core) := by
  unfold State.issueGen
  try dsimp only
  repeat' first
    | with_reducible assumption | with_reducible apply State.setCore_form | with_reducible apply optForm2_some
    | with_reducible apply optForm2_none | with_reducible apply optForm2_map
    | with_reducible refine form_snd (by assumption) ?_ | with_reducible refine form_snd3 (by assumption) ?_
    | with_reducible refine form_some2p (by assumption) ?_ | with_reducible refine form_some (by assumption) ?_
    | split | intro _

theorem State.takeRows_form (s : State) (core : Nat) (n : Need) (hs : s.memOk = true) :
    optForm (State.takeRows s core n) := by
  unfold State.takeRows
  try dsimp only
  repeat' first
    | with_reducible assumption | with_reducible apply State.modCore_form | with_reducible apply optForm_some
    | with_reducible apply optForm_none | with_reducible refine form_some (by assumption) ?_
    | with_reducible refine form_some2 (by assumption) ?_ | split | intro _

theorem State.startRole_form (s : State) (core plot tk t : Nat) (p : Plot) (x : RoleSpec) (hs : s.memOk = true) :
    optForm (s.startRole core plot tk t p x) := by
  unfold State.startRole
  exact optForm_step _ _ fun slot _ => optForm_pair _ _ (State.reserve_form _ _ _ hs) fun b hb =>
    optForm_state _ _ (State.takeRows_form _ _ _ hb) fun s2 h2 =>
      optForm_pair _ _ (State.issueGen_form _ _ h2) fun g hg => optForm_some (State.numbered_form _
        (State.modTeam_form _ _ _ (State.modCore_form _ _ _ (State.setRole_form _ _ _ (State.ramZero_form _ _ _ hg)))))

theorem State.preFault_form (s : State) (k : Nat) (hs : s.memOk = true) :
    (State.preFault s k).memOk = true := by
  unfold State.preFault
  try dsimp only
  repeat' first
    | with_reducible assumption | with_reducible apply State.devTr_form | with_reducible apply State.faultFor_form
    | with_reducible apply State.modRole_form | with_reducible apply State.pageCame_form
    | with_reducible apply State.reserve_form | with_reducible apply foldl_form | with_reducible apply foldl_form_snd
    | with_reducible apply foldl_form_fst | with_reducible refine form_snd (by assumption) ?_
    | with_reducible refine form_snd3 (by assumption) ?_ | with_reducible refine form_some (by assumption) ?_
    | with_reducible refine form_some2 (by assumption) ?_ | split | (simp only [form_mk]; refine ⟨?_, ?_, ?_⟩)
    | with_reducible apply ram_form | with_reducible apply host_form | with_reducible apply hy_form | intro _

theorem State.takeHandoff_form (s : State) (core : Nat) (p : Plot) (hs : s.memOk = true) :
    optForm (State.takeHandoff s core p) := by
  unfold State.takeHandoff
  try dsimp only
  repeat' first
    | with_reducible assumption | with_reducible apply State.takeRows_form | with_reducible apply optForm_some
    | with_reducible apply optForm_none | with_reducible refine form_some (by assumption) ?_
    | with_reducible refine form_some2 (by assumption) ?_ | split | intro _

theorem State.teamGen_form (s : State) (core : Nat) (p : Plot) (hs : s.memOk = true) :
    optForm2 (State.teamGen s core p) := by
  unfold State.teamGen
  try dsimp only
  repeat' first
    | with_reducible assumption | with_reducible apply State.issueGen_form | with_reducible apply optForm2_some
    | with_reducible apply optForm2_none | with_reducible refine form_snd (by assumption) ?_
    | with_reducible refine form_snd3 (by assumption) ?_ | with_reducible refine form_some (by assumption) ?_
    | with_reducible refine form_some2 (by assumption) ?_ | split | intro _

theorem State.startTeam_form (s : State) (core plot t : Nat) (set : Option Nat) (hs : s.memOk = true) :
    optForm (s.startTeam core plot t set) := by
  unfold State.startTeam
  exact optForm_step _ _ fun p _ => optForm_step _ _ fun base _ => optForm_step _ _ fun tags _ =>
    optForm_pair _ _ (State.reserve_form _ _ _ hs) fun b hb =>
      optForm_state _ _ (State.takeHandoff_form _ _ _ hb) fun s2 h2 =>
        optForm_pair _ _ (State.teamGen_form _ _ _ h2) fun g hg =>
          optForm_state _ _ (foldlM_form _ _ _ (State.modCore_form _ _ _ (State.numbered_form _
              (State.setTeam_form _ _ _ hg))) fun u x hu => State.startRole_form _ _ _ _ _ _ _ hu)
            fun s6 h6 => optForm_some (foldl_form _ _ _ h6 fun u k hu => State.preFault_form _ _ hu)

theorem State.startOn_form (s : State) (core plot : Nat) (ts : List Nat) (set : Option Nat) (hs : s.memOk = true) :
    optForm (s.startOn core plot ts set) := by
  unfold State.startOn
  refine optForm_step _ _ fun p _ => ?_
  split
  · exact optForm_some hs
  · split
    · exact optForm_state _ _ (State.takePlotSlot_form _ _ _ hs) fun s1 h1 =>
        foldlM_form _ _ _ h1 fun u t hu => State.startTeam_form _ _ _ _ _ hu
    · exact optForm_none

theorem State.startSet_form (s : State) (cluster plot : Nat) (hs : s.memOk = true) :
    optForm2 (s.startSet cluster plot) := by
  unfold State.startSet
  refine optForm2_map _ _ fun a ha => ?_
  have h2 : a.2.memOk = true := by
    split at ha
    · exact State.issueGen_form _ _ hs a.1 a.2 ha
    · exact absurd ha (by simp)
  have h : ∀ u : State, u.memOk = true → ∀ x, State.memOk { u.numbered with sets := x } = true := fun u hu x =>
    form_mk.mpr ⟨ram_form hu, host_form hu, hy_form hu⟩
  exact h _ (foldl_form _ _ _ h2 fun u q hu => State.modCore_form _ _ _ hu) _

end Sys2Proof.Machine
end

