-- ==== Sys2Proof/Laws/FormWake.lean ====
section
/-! SUPPORT. Every definition of Machine/Wake.lean keeps the canonical form of the byte memories. -/

namespace Sys2Proof.Machine

theorem State.dropReq_form (s : State) (k : Nat) (hs : s.memOk = true) :
    (State.dropReq s k).memOk = true := by
  unfold State.dropReq
  try dsimp only
  repeat' first
    | with_reducible assumption | with_reducible apply State.modCore_form | split | intro _

theorem State.meetReq_form (s : State) (k : Nat) (older : List Nat) (hs : s.memOk = true) :
    optForm (State.meetReq s k older) := by
  unfold State.meetReq
  try dsimp only
  repeat' first
    | with_reducible assumption | with_reducible apply State.allocTcfg_form | with_reducible apply State.dropReq_form
    | with_reducible apply State.modCore_form | with_reducible apply State.modTeam_form
    | with_reducible apply State.pushFrame_form | with_reducible apply State.refillFrom_form
    | with_reducible apply State.setCore_form | with_reducible apply State.transfer_form
    | with_reducible apply State.wake_form | with_reducible apply optForm_some | with_reducible apply optForm_none
    | with_reducible apply optForm_map | with_reducible refine form_snd (by assumption) ?_
    | with_reducible refine form_snd3 (by assumption) ?_ | with_reducible refine form_some2p (by assumption) ?_
    | with_reducible refine form_some (by assumption) ?_ | with_reducible refine form_some (by assumption) ?_
    | with_reducible refine form_some2 (by assumption) ?_ | split | (simp only [form_mk]; refine ⟨?_, ?_, ?_⟩)
    | with_reducible apply ram_form | with_reducible apply host_form | with_reducible apply hy_form | intro _

theorem State.grantFirst_form (s : State) (older : List Nat) (z0 : List Nat) (hs : s.memOk = true) :
    (State.grantFirst s older z0).memOk = true := by
  induction z0 generalizing s older with
  | nil =>
    unfold State.grantFirst
    try dsimp only
    repeat' first
      | with_reducible assumption | with_reducible apply State.meetReq_form
      | with_reducible refine form_some (by assumption) ?_ | with_reducible refine form_some2 (by assumption) ?_ | split
      | intro _
  | cons x xs ih =>
    unfold State.grantFirst
    try dsimp only
    repeat' first
      | with_reducible assumption | with_reducible apply State.meetReq_form
      | with_reducible refine form_some (by assumption) ?_ | with_reducible refine form_some2 (by assumption) ?_ | split
      | intro _ | with_reducible apply ih

theorem execFrameGrant_form (core : Nat) (s : State) (hs : s.memOk = true) :
    nextForm (execFrameGrant core s) := by
  unfold execFrameGrant
  try dsimp only
  repeat' first
    | with_reducible assumption | with_reducible apply State.grantFirst_form | with_reducible apply nextForm_next
    | split | intro _

theorem State.putRecord_form (s : State) (r : Role) (base : Nat) (rec : List (Nat × Nat × Bytes)) (hs : s.memOk = true) :
    (State.putRecord s r base rec).memOk = true := by
  unfold State.putRecord
  try dsimp only
  repeat' first
    | with_reducible assumption | with_reducible apply State.homeWrite_form | with_reducible apply foldl_form
    | with_reducible apply foldl_form_snd | split | intro _

theorem State.exhausted_form (s : State) (k : Nat) (hs : s.memOk = true) :
    (State.exhausted s k).memOk = true := by
  unfold State.exhausted
  try dsimp only
  repeat' first
    | with_reducible assumption | with_reducible apply State.dropReq_form | with_reducible apply takeTrap_form
    | with_reducible refine form_snd (by assumption) ?_ | with_reducible refine form_snd3 (by assumption) ?_ | split
    | (simp only [form_mk]; refine ⟨?_, ?_, ?_⟩) | with_reducible apply ram_form | with_reducible apply host_form
    | with_reducible apply hy_form | intro _

theorem State.spillFrame_form (s0 : State) (core k i : Nat) (hs0 : s0.memOk = true) :
    (State.spillFrame s0 core k i).memOk = true := by
  unfold State.spillFrame
  try dsimp only
  repeat' first
    | with_reducible assumption | with_reducible apply State.checkUnits_form | with_reducible apply State.devSpan_form
    | with_reducible apply State.dropReq_form | with_reducible apply State.modCore_form
    | with_reducible apply State.modRole_form | with_reducible apply State.parkFault_form
    | with_reducible apply State.putRecord_form | with_reducible apply takeTrap_form
    | with_reducible refine form_snd (by assumption) ?_ | with_reducible refine form_snd3 (by assumption) ?_
    | with_reducible refine form_some2p (by assumption) ?_ | with_reducible refine form_some (by assumption) ?_
    | with_reducible refine form_some (by assumption) ?_ | with_reducible refine form_some2 (by assumption) ?_ | split
    | (simp only [form_mk]; refine ⟨?_, ?_, ?_⟩) | with_reducible apply ram_form | with_reducible apply host_form
    | with_reducible apply hy_form | intro _

theorem State.glean_form (s : State) (core k : Nat) (hs : s.memOk = true) :
    (State.glean s core k).memOk = true := by
  unfold State.glean
  try dsimp only
  repeat' first
    | with_reducible assumption | with_reducible apply State.exhausted_form | with_reducible apply State.modCore_form
    | with_reducible apply State.spillFrame_form | with_reducible refine form_some2p (by assumption) ?_
    | with_reducible refine form_some (by assumption) ?_ | with_reducible refine form_some (by assumption) ?_
    | with_reducible refine form_some2 (by assumption) ?_ | split | (simp only [form_mk]; refine ⟨?_, ?_, ?_⟩)
    | with_reducible apply ram_form | with_reducible apply host_form | with_reducible apply hy_form | intro _

theorem execGleanerSpill_form (core : Nat) (s : State) (hs : s.memOk = true) :
    nextForm (execGleanerSpill core s) := by
  unfold execGleanerSpill
  try dsimp only
  repeat' first
    | with_reducible assumption | with_reducible apply State.glean_form | with_reducible apply nextForm_next | split
    | intro _

theorem execSpillStoreAck_form (core : Nat) (s : State) (hs : s.memOk = true) :
    nextForm (execSpillStoreAck core s) := by
  unfold execSpillStoreAck
  try dsimp only
  repeat' first
    | with_reducible assumption | with_reducible apply State.modCore_form | with_reducible apply State.setRole_form
    | with_reducible apply nextForm_next | with_reducible refine form_some (by assumption) ?_
    | with_reducible refine form_some2 (by assumption) ?_ | split | (simp only [form_mk]; refine ⟨?_, ?_, ?_⟩)
    | with_reducible apply ram_form | with_reducible apply host_form | with_reducible apply hy_form | intro _

theorem State.paritySweep_form (s : State) (core : Nat) (hs : s.memOk = true) :
    (State.paritySweep s core).memOk = true := by
  unfold State.paritySweep
  try dsimp only
  repeat' first
    | with_reducible assumption | with_reducible apply State.checkUnits_form | with_reducible apply foldl_form
    | with_reducible apply foldl_form_snd | split | intro _

theorem State.newFlaws_form (s : State) (core : Nat) (hs : s.memOk = true) :
    (State.newFlaws s core).memOk = true := by
  unfold State.newFlaws
  try dsimp only
  repeat' first
    | with_reducible assumption | with_reducible refine form_some2p (by assumption) ?_
    | with_reducible refine form_some (by assumption) ?_ | split | (simp only [form_mk]; refine ⟨?_, ?_, ?_⟩)
    | with_reducible apply ram_form | with_reducible apply host_form | with_reducible apply hy_form | intro _

theorem State.voidScratch_form (s : State) (core : Nat) (hs : s.memOk = true) :
    (State.voidScratch s core).memOk = true := by
  unfold State.voidScratch
  try dsimp only
  repeat' first
    | with_reducible assumption | with_reducible apply State.modCore_form
    | with_reducible refine form_snd (by assumption) ?_ | with_reducible refine form_snd3 (by assumption) ?_ | split
    | (simp only [form_mk]; refine ⟨?_, ?_, ?_⟩) | with_reducible apply ram_form | with_reducible apply host_form
    | with_reducible apply hy_form | intro _

theorem State.spoilTiles_form (s : State) (core : Nat) (hs : s.memOk = true) :
    (State.spoilTiles s core).memOk = true := by
  unfold State.spoilTiles
  try dsimp only
  repeat' first
    | with_reducible assumption | with_reducible refine form_some2p (by assumption) ?_
    | with_reducible refine form_some (by assumption) ?_ | split | (simp only [form_mk]; refine ⟨?_, ?_, ?_⟩)
    | with_reducible apply ram_form | with_reducible apply host_form | with_reducible apply hy_form | intro _

theorem State.surround_form (s : State) (hs : s.memOk = true) :
    (State.surround s).memOk = true := by
  unfold State.surround
  try dsimp only
  repeat' first
    | with_reducible assumption | with_reducible apply State.count_form | with_reducible apply State.used_form
    | with_reducible apply foldl_form | with_reducible apply foldl_form_snd | split
    | (simp only [form_mk]; refine ⟨?_, ?_, ?_⟩) | with_reducible apply wf_filter | with_reducible apply ram_form
    | with_reducible apply host_form | with_reducible apply hy_form | intro _

theorem execHarrowSweepComplete_form (core : Nat) (s : State) (hs : s.memOk = true) :
    nextForm (execHarrowSweepComplete core s) := by
  unfold execHarrowSweepComplete
  try dsimp only
  repeat' first
    | with_reducible assumption | with_reducible apply State.modCore_form | with_reducible apply State.newFlaws_form
    | with_reducible apply State.paritySweep_form | with_reducible apply State.spoilTiles_form
    | with_reducible apply State.surround_form | with_reducible apply State.voidScratch_form
    | with_reducible apply nextForm_next | split | (simp only [form_mk]; refine ⟨?_, ?_, ?_⟩)
    | with_reducible apply ram_form | with_reducible apply host_form | with_reducible apply hy_form | intro _

theorem State.retryPush_form (s : State) (k : Nat) (h : HReg) (x : Nat) (m : Mask) (hs : s.memOk = true) :
    (State.retryPush s k h x m).memOk = true := by
  unfold State.retryPush
  try dsimp only
  repeat' first
    | with_reducible assumption | with_reducible apply State.pushEntry_form | with_reducible apply takeTrap_form
    | with_reducible apply State.wake_form | with_reducible apply resForm_ok | with_reducible apply resForm_error
    | with_reducible apply resForm_bind | with_reducible refine form_ok (by assumption) ?_ | split | intro _

theorem State.retryPop_form (s : State) (k : Nat) (h : HReg) (x : Nat) (m : Mask) (hs : s.memOk = true) :
    (State.retryPop s k h x m).memOk = true := by
  unfold State.retryPop
  try dsimp only
  repeat' first
    | with_reducible assumption | with_reducible apply State.popEntry_form | with_reducible apply State.putRegOf_form
    | with_reducible apply takeTrap_form | with_reducible apply State.wake_form
    | with_reducible refine form_some2p (by assumption) ?_ | with_reducible refine form_some (by assumption) ?_
    | split | intro _

theorem State.retryWord_form (s : State) (k : Nat) (p : Place) (v : BitVec 32) (x : Nat) (m : Mask) (acq : Option Nat) (hs : s.memOk = true) :
    (State.retryWord s k p v x m acq).memOk = true := by
  unfold State.retryWord
  try dsimp only
  repeat' first
    | with_reducible assumption | with_reducible apply State.putRegOf_form | with_reducible apply State.waitRead_form
    | with_reducible apply State.wake_form | with_reducible refine form_snd (by assumption) ?_
    | with_reducible refine form_snd3 (by assumption) ?_ | split | intro _

theorem State.retryLock_form (s : State) (k : Nat) (p : Place) (op scope : Nat) (hs : s.memOk = true) :
    (State.retryLock s k p op scope).memOk = true := by
  unfold State.retryLock
  try dsimp only
  repeat' first
    | with_reducible assumption | with_reducible apply State.acquire_form | with_reducible apply State.lockTry_form
    | with_reducible apply State.wake_form | with_reducible refine form_snd (by assumption) ?_
    | with_reducible refine form_snd3 (by assumption) ?_ | split | intro _

theorem State.tryWake_form (s : State) (k : Nat) (w : WaitOn) (hs : s.memOk = true) :
    (State.tryWake s k w).memOk = true := by
  unfold State.tryWake
  try dsimp only
  repeat' first
    | with_reducible assumption | with_reducible apply accMove_form | with_reducible apply State.acquire_form
    | with_reducible apply State.barcCheck_form | with_reducible apply State.dropL1_form
    | with_reducible apply State.modRole_form | with_reducible apply State.pageCame_form
    | with_reducible apply State.retryLock_form | with_reducible apply State.retryPop_form
    | with_reducible apply State.retryPush_form | with_reducible apply State.retryWord_form
    | with_reducible apply State.wake_form | with_reducible refine form_some (by assumption) ?_
    | with_reducible refine form_some2 (by assumption) ?_ | split | (simp only [form_mk]; refine ⟨?_, ?_, ?_⟩)
    | with_reducible apply ram_form | with_reducible apply host_form | with_reducible apply hy_form | intro _

theorem execParkWake_form (role : Nat) (x1 : Bytes) (s : State) (hs : s.memOk = true) :
    nextForm (execParkWake role x1 s) := by
  unfold execParkWake
  try dsimp only
  repeat' first
    | with_reducible assumption | with_reducible apply State.tryWake_form | with_reducible apply nextForm_next
    | with_reducible refine form_some (by assumption) ?_ | with_reducible refine form_some2 (by assumption) ?_ | split
    | intro _

end Sys2Proof.Machine
end

