-- ==== Sys2Proof/Laws/FormSwitch.lean ====
section
/-! SUPPORT. Every definition of Machine/Switch.lean keeps the canonical form of the byte memories. -/

namespace Sys2Proof.Machine

theorem State.putMem_form (s : State) (a n : Nat) (x : Mem) (hs : s.memOk = true) :
    (State.putMem s a n x).memOk = true := by
  unfold State.putMem
  try dsimp only
  repeat' first
    | with_reducible assumption | with_reducible apply State.ramWrite_form | with_reducible apply State.ramZero_form
    | with_reducible apply foldl_form | with_reducible apply foldl_form_snd | split | intro _

theorem State.saveFault_form (s : State) (r : Role) (z0 : List (Nat × List Nat)) (hs : s.memOk = true) :
    (State.saveFault s r z0).2.memOk = true := by
  induction z0 generalizing s with
  | nil =>
    unfold State.saveFault
    try dsimp only
    repeat' first
      | with_reducible assumption | with_reducible apply State.devSpan_form
      | with_reducible refine form_snd (by assumption) ?_ | with_reducible refine form_snd3 (by assumption) ?_ | split
      | intro _
  | cons x xs ih =>
    unfold State.saveFault
    try dsimp only
    repeat' first
      | with_reducible assumption | with_reducible apply State.devSpan_form
      | with_reducible refine form_snd (by assumption) ?_ | with_reducible refine form_snd3 (by assumption) ?_ | split
      | intro _ | with_reducible apply ih

theorem State.saveRole_form (s : State) (k : Nat) (preempt : Bool) (hs : s.memOk = true) :
    (State.saveRole s k preempt).memOk = true := by
  unfold State.saveRole
  try dsimp only
  repeat' first
    | with_reducible assumption | with_reducible apply State.checkUnits_form | with_reducible apply State.dropReq_form
    | with_reducible apply State.modCore_form | with_reducible apply State.modRole_form
    | with_reducible apply State.putRecord_form | with_reducible apply State.setRole_form
    | with_reducible apply State.uncount_form | with_reducible apply State.verdict_form
    | with_reducible apply State.writeBlock_form | with_reducible apply foldl_form
    | with_reducible apply foldl_form_snd | with_reducible refine form_snd (by assumption) ?_
    | with_reducible refine form_snd3 (by assumption) ?_ | with_reducible refine form_some2p (by assumption) ?_
    | with_reducible refine form_some (by assumption) ?_ | with_reducible refine form_some (by assumption) ?_
    | with_reducible refine form_some2 (by assumption) ?_ | split | (simp only [form_mk]; refine ⟨?_, ?_, ?_⟩)
    | with_reducible apply ram_form | with_reducible apply host_form | with_reducible apply hy_form | intro _

theorem State.saveTiles_form (s : State) (c : Tcfg) (hs : s.memOk = true) : (s.saveTiles c).memOk = true := by
  unfold State.saveTiles
  split
  · exact hs
  · exact foldl_form_fst _ _ _ (State.ramWrite_form _ _ _ (State.ramZero_form _ _ _ hs)) fun q x hq =>
      State.putMem_form _ _ _ _ hq

theorem State.saveTeam_form (s : State) (tk : Nat) (hs : s.memOk = true) :
    (State.saveTeam s tk).memOk = true := by
  unfold State.saveTeam
  try dsimp only
  repeat' first
    | with_reducible assumption | with_reducible apply State.modCore_form | with_reducible apply State.modTeam_form
    | with_reducible apply State.putMem_form | with_reducible apply State.ramWrite_form
    | with_reducible apply State.ramZero_form | with_reducible apply State.saveTiles_form
    | with_reducible apply State.writePieces_form | with_reducible refine form_snd (by assumption) ?_
    | with_reducible refine form_snd3 (by assumption) ?_ | with_reducible refine form_some (by assumption) ?_
    | with_reducible refine form_some2 (by assumption) ?_ | split | (simp only [form_mk]; refine ⟨?_, ?_, ?_⟩)
    | with_reducible apply ram_form | with_reducible apply host_form | with_reducible apply hy_form | intro _

theorem State.saveContext_form (s : State) (core : Nat) (p : Plot) (b slot : Nat) (cmds trigs : Nat) (coop : Bool) (hs : s.memOk = true) :
    (State.saveContext s core p b slot cmds trigs coop).memOk = true := by
  unfold State.saveContext
  try dsimp only
  repeat' first
    | with_reducible assumption | with_reducible apply State.putMem_form | with_reducible apply State.ramWrite_form
    | with_reducible apply State.ramZero_form | with_reducible apply State.used_form
    | with_reducible refine form_snd (by assumption) ?_ | with_reducible refine form_snd3 (by assumption) ?_ | split
    | intro _

theorem State.stopCtx_form (s : State) (core : Nat) (h : Headland) (hs : s.memOk = true) :
    (State.stopCtx s core h).memOk = true := by
  unfold State.stopCtx
  try dsimp only
  repeat' first
    | with_reducible assumption | with_reducible apply State.modCore_form | split
    | (simp only [form_mk]; refine ⟨?_, ?_, ?_⟩) | with_reducible apply ram_form | with_reducible apply host_form
    | with_reducible apply hy_form | intro _

theorem State.classStop_form (s : State) (core : Nat) (h : Headland) (cls : EngineClass) (hs : s.memOk = true) :
    (State.classStop s core h cls).memOk = true := by
  unfold State.classStop
  try dsimp only
  repeat' first
    | with_reducible assumption | with_reducible apply State.endHold_form | with_reducible apply fence_form
    | with_reducible apply State.stopMat_form | with_reducible apply State.wake_form | with_reducible apply foldl_form
    | with_reducible apply foldl_form_snd | with_reducible refine form_some (by assumption) ?_
    | with_reducible refine form_some2 (by assumption) ?_ | split | intro _

theorem execEngineStopAck_form (core : Nat) (cls : EngineClass) (s : State) (hs : s.memOk = true) :
    nextForm (execEngineStopAck core cls s) := by
  unfold execEngineStopAck
  try dsimp only
  repeat' first
    | with_reducible assumption | with_reducible apply State.classStop_form | with_reducible apply State.modCore_form
    | with_reducible apply nextForm_next | split | (simp only [form_mk]; refine ⟨?_, ?_, ?_⟩)
    | with_reducible apply ram_form | with_reducible apply host_form | with_reducible apply hy_form | intro _

theorem State.ctxComplete_form (s : State) (hs : s.memOk = true) :
    (State.ctxComplete s).memOk = true := by
  unfold State.ctxComplete
  try dsimp only
  repeat' first
    | with_reducible assumption | with_reducible apply State.emit_form | split
    | (simp only [form_mk]; refine ⟨?_, ?_, ?_⟩) | with_reducible apply ram_form | with_reducible apply host_form
    | with_reducible apply hy_form | intro _

theorem State.ctxCheck_form (s : State) (hs : s.memOk = true) :
    (State.ctxCheck s).memOk = true := by
  unfold State.ctxCheck
  try dsimp only
  repeat' first
    | with_reducible assumption | with_reducible apply State.ctxComplete_form | split | intro _

theorem State.markLeft_form (s : State) (core : Nat) (h : Headland) (hs : s.memOk = true) :
    (State.markLeft s core h).memOk = true := by
  unfold State.markLeft
  try dsimp only
  repeat' first
    | with_reducible assumption | with_reducible apply State.modRole_form | with_reducible apply foldl_form
    | with_reducible apply foldl_form_snd | split | (simp only [form_mk]; refine ⟨?_, ?_, ?_⟩)
    | with_reducible apply ram_form | with_reducible apply host_form | with_reducible apply hy_form | intro _

theorem State.nextStop_go_form (core n : Nat) (s : State) (hs : s.memOk = true) :
    (State.nextStop.go core s n).memOk = true := by
  induction n generalizing s with
  | zero => exact hs
  | succ n ih =>
    unfold State.nextStop.go
    split
    · exact hs
    · dsimp only
      split
      · exact ih _ (State.modCore_form _ _ _ (State.markLeft_form _ _ _ hs))
      · exact State.modCore_form _ _ _ hs

theorem State.nextStop_form (s : State) (core : Nat) (hs : s.memOk = true) : (s.nextStop core).memOk = true :=
  State.nextStop_go_form _ _ _ hs

theorem State.saveFaults_form (s : State) (z0 : List Nat) (hs : s.memOk = true) :
    (State.saveFaults s z0).2.2.memOk = true := by
  induction z0 generalizing s with
  | nil =>
    unfold State.saveFaults
    try dsimp only
    repeat' first
      | with_reducible assumption | with_reducible apply State.faultFor_form | with_reducible apply State.saveFault_form
      | with_reducible refine form_snd (by assumption) ?_ | with_reducible refine form_snd3 (by assumption) ?_
      | with_reducible refine form_some (by assumption) ?_ | with_reducible refine form_some2 (by assumption) ?_ | split
      | intro _
  | cons x xs ih =>
    unfold State.saveFaults
    try dsimp only
    repeat' first
      | with_reducible assumption | with_reducible apply State.faultFor_form | with_reducible apply State.saveFault_form
      | with_reducible refine form_snd (by assumption) ?_ | with_reducible refine form_snd3 (by assumption) ?_
      | with_reducible refine form_some (by assumption) ?_ | with_reducible refine form_some2 (by assumption) ?_ | split
      | intro _ | with_reducible apply ih

theorem State.unsaved_form (s : State) (core : Nat) (x : Nat × Imm8 × Nat) (hs : s.memOk = true) :
    (State.unsaved s core x).memOk = true := by
  unfold State.unsaved
  try dsimp only
  repeat' first
    | with_reducible assumption | with_reducible apply State.modCore_form | with_reducible apply takeTrap_form
    | with_reducible refine form_some2p (by assumption) ?_ | with_reducible refine form_some (by assumption) ?_
    | with_reducible refine form_some (by assumption) ?_ | with_reducible refine form_some2 (by assumption) ?_ | split
    | (simp only [form_mk]; refine ⟨?_, ?_, ?_⟩) | with_reducible apply wf_filter | with_reducible apply ram_form
    | with_reducible apply host_form | with_reducible apply hy_form | intro _

theorem execHeadlandSave_form (core : Nat) (s : State) (hs : s.memOk = true) :
    nextForm (execHeadlandSave core s) := by
  unfold execHeadlandSave
  try dsimp only
  repeat' first
    | with_reducible assumption | with_reducible apply State.ctxCheck_form | with_reducible apply State.modCore_form
    | with_reducible apply State.nextStop_form | with_reducible apply State.saveFaults_form
    | with_reducible apply State.unsaved_form | with_reducible apply nextForm_next | with_reducible apply foldl_form
    | with_reducible apply foldl_form_snd | with_reducible refine form_snd (by assumption) ?_
    | with_reducible refine form_snd3 (by assumption) ?_ | split | (simp only [form_mk]; refine ⟨?_, ?_, ?_⟩)
    | with_reducible apply ram_form | with_reducible apply host_form | with_reducible apply hy_form | intro _

theorem State.liftCmds_form (s : State) (core : Nat) (h : Headland) (hs : s.memOk = true) :
    (State.liftCmds s core h).2.2.2.memOk = true := by
  unfold State.liftCmds
  try dsimp only
  repeat' first
    | with_reducible assumption | with_reducible apply State.modCore_form
    | with_reducible refine form_snd (by assumption) ?_ | with_reducible refine form_snd3 (by assumption) ?_
    | with_reducible refine form_some2p (by assumption) ?_ | with_reducible refine form_some (by assumption) ?_
    | split | (simp only [form_mk]; refine ⟨?_, ?_, ?_⟩) | with_reducible apply wf_filter
    | with_reducible apply ram_form | with_reducible apply host_form | with_reducible apply hy_form | intro _

theorem State.freePlotSlot_form (s : State) (core plot : Nat) (hs : s.memOk = true) :
    (State.freePlotSlot s core plot).memOk = true := by
  unfold State.freePlotSlot
  try dsimp only
  repeat' first
    | with_reducible assumption | with_reducible apply State.modCore_form
    | with_reducible refine form_some (by assumption) ?_ | with_reducible refine form_some2 (by assumption) ?_ | split
    | (simp only [form_mk]; refine ⟨?_, ?_, ?_⟩) | with_reducible apply ram_form | with_reducible apply host_form
    | with_reducible apply hy_form | intro _

theorem State.setLeaves_form (s : State) (set : Option Nat) (hs : s.memOk = true) :
    (State.setLeaves s set).memOk = true := by
  unfold State.setLeaves
  try dsimp only
  repeat' first
    | with_reducible assumption | with_reducible refine form_some (by assumption) ?_
    | with_reducible refine form_some2 (by assumption) ?_ | split | (simp only [form_mk]; refine ⟨?_, ?_, ?_⟩)
    | with_reducible apply ram_form | with_reducible apply host_form | with_reducible apply hy_form | intro _

theorem State.saveCtx_form (s : State) (core : Nat) (h : Headland) (hs : s.memOk = true) :
    (State.saveCtx s core h).memOk = true := by
  unfold State.saveCtx
  try dsimp only
  repeat' first
    | with_reducible assumption | with_reducible apply State.freePlotSlot_form
    | with_reducible apply State.liftCmds_form | with_reducible apply State.numbered_form
    | with_reducible apply State.saveContext_form | with_reducible apply State.saveRole_form
    | with_reducible apply State.saveTeam_form | with_reducible apply State.setLeaves_form
    | with_reducible apply foldl_form | with_reducible apply foldl_form_snd
    | with_reducible refine form_snd (by assumption) ?_ | with_reducible refine form_snd3 (by assumption) ?_
    | with_reducible refine form_some2p (by assumption) ?_ | with_reducible refine form_some (by assumption) ?_
    | with_reducible refine form_some (by assumption) ?_ | with_reducible refine form_some2 (by assumption) ?_ | split
    | (simp only [form_mk]; refine ⟨?_, ?_, ?_⟩) | with_reducible apply ram_form | with_reducible apply host_form
    | with_reducible apply hy_form | intro _

theorem execHeadlandSaveDone_form (core : Nat) (s : State) (hs : s.memOk = true) :
    nextForm (execHeadlandSaveDone core s) := by
  unfold execHeadlandSaveDone
  try dsimp only
  repeat' first
    | with_reducible assumption | with_reducible apply State.ctxCheck_form | with_reducible apply State.modCore_form
    | with_reducible apply State.nextStop_form | with_reducible apply State.saveCtx_form
    | with_reducible apply State.saveFaults_form | with_reducible apply nextForm_next
    | with_reducible refine form_snd (by assumption) ?_ | with_reducible refine form_snd3 (by assumption) ?_ | split
    | (simp only [form_mk]; refine ⟨?_, ?_, ?_⟩) | with_reducible apply ram_form | with_reducible apply host_form
    | with_reducible apply hy_form | intro _

theorem stopWhole_form (s : State) (core plot : Nat) (preempt : Bool) (hs : s.memOk = true) :
    (stopWhole s core plot preempt).memOk = true := by
  unfold stopWhole
  try dsimp only
  repeat' first
    | with_reducible assumption | with_reducible apply State.stopCtx_form
    | with_reducible refine form_some (by assumption) ?_ | with_reducible refine form_some2 (by assumption) ?_ | split
    | intro _

theorem execContextSwitchOut_form (core plot : Nat) (s : State) (hs : s.memOk = true) :
    nextForm (execContextSwitchOut core plot s) := by
  unfold execContextSwitchOut
  try dsimp only
  repeat' first
    | with_reducible assumption | with_reducible apply stopWhole_form | with_reducible apply nextForm_next
    | with_reducible apply foldl_form | with_reducible apply foldl_form_snd | split | intro _

theorem execTeamSwitchOut_form (role : Nat) (s : State) (hs : s.memOk = true) :
    nextForm (execTeamSwitchOut role s) := by
  unfold execTeamSwitchOut
  try dsimp only
  repeat' first
    | with_reducible assumption | with_reducible apply State.stopCtx_form | with_reducible apply nextForm_next
    | with_reducible apply foldl_form | with_reducible apply foldl_form_snd
    | with_reducible refine form_snd (by assumption) ?_ | with_reducible refine form_snd3 (by assumption) ?_
    | with_reducible refine form_some (by assumption) ?_ | with_reducible refine form_some2 (by assumption) ?_ | split
    | intro _

theorem execStallSwitchOut_form (role : Nat) (s : State) (hs : s.memOk = true) :
    nextForm (execStallSwitchOut role s) := by
  unfold execStallSwitchOut
  try dsimp only
  repeat' first
    | with_reducible assumption | with_reducible apply State.stopCtx_form | with_reducible apply nextForm_next
    | with_reducible refine form_some (by assumption) ?_ | with_reducible refine form_some2 (by assumption) ?_ | split
    | intro _

theorem State.bringGen_form (s : State) (from' to' : Nat) (g : BitVec 16) (hs : s.memOk = true) :
    optForm2 (State.bringGen s from' to' g) := by
  unfold State.bringGen
  try dsimp only
  repeat' first
    | with_reducible assumption | with_reducible apply State.issueGen_form | with_reducible apply State.modCore_form
    | with_reducible apply optForm2_some | with_reducible apply optForm2_none
    | with_reducible refine form_snd (by assumption) ?_ | with_reducible refine form_snd3 (by assumption) ?_
    | with_reducible refine form_some (by assumption) ?_ | with_reducible refine form_some2 (by assumption) ?_ | split
    | (simp only [form_mk]; refine ⟨?_, ?_, ?_⟩) | with_reducible apply ram_form | with_reducible apply host_form
    | with_reducible apply hy_form | intro _

theorem State.takeShared_form (s : State) (core : Nat) (t : Team) (hs : s.memOk = true) :
    optForm (s.takeShared core t) := by
  unfold State.takeShared
  dsimp only
  split
  · exact optForm_state _ _ (State.takeRows_form _ _ _ hs) fun u hu => State.takeRows_form _ _ _ hu
  · exact State.takeRows_form _ _ _ hs

theorem State.bringTeamGen_form (s : State) (core : Nat) (t : Team) (hs : s.memOk = true) :
    optForm2 (State.bringTeamGen s core t) := by
  unfold State.bringTeamGen
  try dsimp only
  repeat' first
    | with_reducible assumption | with_reducible apply State.bringGen_form | with_reducible apply optForm2_some
    | with_reducible apply optForm2_none | with_reducible refine form_snd (by assumption) ?_
    | with_reducible refine form_snd3 (by assumption) ?_ | with_reducible refine form_some (by assumption) ?_
    | with_reducible refine form_some2 (by assumption) ?_ | split | intro _

theorem State.bringTcfgGen_form (s : State) (core : Nat) (t : Team) (hs : s.memOk = true) :
    optForm2 (State.bringTcfgGen s core t) := by
  unfold State.bringTcfgGen
  try dsimp only
  repeat' first
    | with_reducible assumption | with_reducible apply State.bringGen_form | with_reducible apply optForm2_some
    | with_reducible apply optForm2_none | with_reducible refine form_snd (by assumption) ?_
    | with_reducible refine form_snd3 (by assumption) ?_ | with_reducible refine form_some (by assumption) ?_
    | with_reducible refine form_some2 (by assumption) ?_ | split | intro _

theorem State.loadTeam_form (s : State) (tk core : Nat) (hs : s.memOk = true) : optForm (s.loadTeam tk core) := by
  unfold State.loadTeam
  dsimp only
  split
  · exact optForm_some hs
  · exact optForm_step _ _ fun b _ => optForm_step _ _ fun span _ =>
      optForm_state _ _ (State.takeShared_form _ _ _ hs) fun s2 h2 =>
        optForm_pair _ _ (State.bringTeamGen_form _ _ _ h2) fun gen h3 =>
          optForm_pair _ _ (State.bringTcfgGen_form _ _ _ h3) fun tg h4 =>
            optForm_some (State.modTeam_form _ _ _ (State.modCore_form _ _ _ h4))

theorem State.bringFrames_form (s : State) (from' to' : Nat) (fs : List Frame) (hs : s.memOk = true) :
    optForm2 (s.bringFrames from' to' fs) := by
  induction fs generalizing s with
  | nil => exact optForm2_some hs
  | cons f fs ih =>
    unfold State.bringFrames
    refine optForm2_pair _ _ (State.bringGen_form _ _ _ _ hs) fun g hg => ?_
    refine optForm2_map _ _ fun r hr => ?_
    dsimp only
    exact form_some2p hr (ih _ hg)

theorem State.refillTop_form (s : State) (k : Nat) (hs : s.memOk = true) : optForm (s.refillTop k) := by
  unfold State.refillTop
  dsimp only
  split
  · rename_i s1 heq
    exact optForm_map _ _ fun s2 h2 => State.setRole_form _ _ _
      (form_some h2 (State.takeRows_form _ _ _ (form_snd heq (State.saveFault_form _ _ _ hs))))
  · rename_i heq
    exact optForm_some (form_snd heq (State.saveFault_form _ _ _ hs))

theorem State.loadRole_form (s : State) (k core : Nat) (hs : s.memOk = true) : optForm (s.loadRole k core) := by
  unfold State.loadRole
  exact optForm_bind _ _ fun slot _ => optForm_pair _ _ (State.bringFrames_form _ _ _ _ hs) fun x hx =>
    optForm_map _ _ fun s3 h3 => State.reread_form _ _ _ (form_some h3 (State.refillTop_form _ _
      (State.numbered_form _ (State.modCore_form _ _ _ (State.setRole_form _ _ _ hx)))))

theorem State.loadCmds_form (s : State) (x : SavedCtx) (core : Nat) (hs : s.memOk = true) :
    optForm (State.loadCmds s x core) := by
  unfold State.loadCmds
  try dsimp only
  repeat' first
    | with_reducible assumption | with_reducible apply State.setCore_form | with_reducible apply optForm_some
    | with_reducible apply optForm_none | with_reducible apply optForm_map | with_reducible apply optForm_bind
    | with_reducible refine form_snd (by assumption) ?_ | with_reducible refine form_snd3 (by assumption) ?_
    | with_reducible refine form_some2p (by assumption) ?_ | with_reducible refine form_some (by assumption) ?_
    | with_reducible refine form_some (by assumption) ?_ | with_reducible refine form_some2 (by assumption) ?_ | split
    | (simp only [form_mk]; refine ⟨?_, ?_, ?_⟩) | with_reducible apply ram_form | with_reducible apply host_form
    | with_reducible apply hy_form | intro _

theorem State.takeSlotFor_form (s : State) (core : Nat) (p : Plot) (x : SavedCtx) (hs : s.memOk = true) :
    optForm (State.takeSlotFor s core p x) := by
  unfold State.takeSlotFor
  try dsimp only
  repeat' first
    | with_reducible assumption | with_reducible apply State.modCore_form
    | with_reducible apply State.takePlotSlot_form | with_reducible apply optForm_some
    | with_reducible apply optForm_none | with_reducible apply optForm_map
    | with_reducible refine form_some2p (by assumption) ?_ | with_reducible refine form_some (by assumption) ?_
    | split | (simp only [form_mk]; refine ⟨?_, ?_, ?_⟩) | with_reducible apply ram_form
    | with_reducible apply host_form | with_reducible apply hy_form | intro _

theorem State.follow_form (s : State) (x : SavedCtx) (core : Nat) (hs : s.memOk = true) :
    (State.follow s x core).memOk = true := by
  unfold State.follow
  try dsimp only
  repeat' first
    | with_reducible assumption | with_reducible refine form_some2p (by assumption) ?_
    | with_reducible refine form_some (by assumption) ?_ | split | (simp only [form_mk]; refine ⟨?_, ?_, ?_⟩)
    | with_reducible apply ram_form | with_reducible apply host_form | with_reducible apply hy_form | intro _

theorem State.loadCtx_form (s : State) (key core : Nat) (x : SavedCtx) (hs : s.memOk = true) :
    optForm (s.loadCtx key core x) := by
  unfold State.loadCtx
  refine optForm_bind _ _ fun p _ => ?_
  split
  · exact optForm_none
  · exact optForm_state _ _ (State.takeSlotFor_form _ _ _ _
        (form_mk.mpr ⟨ram_form hs, host_form hs, hy_form hs⟩)) fun s2 h2 =>
      optForm_state _ _ (foldlM_form _ _ _ h2 fun u tk hu => State.loadTeam_form _ _ _ hu) fun s3 h3 =>
        optForm_state _ _ (foldlM_form _ _ _ h3 fun u k hu => State.loadRole_form _ _ _ hu) fun s4 h4 =>
          optForm_state _ _ (State.loadCmds_form _ _ _ h4) fun s5 h5 => optForm_some (State.follow_form _ _ _ h5)

theorem State.loadHalves_form (s : State) (x : SavedCtx) (core : Nat) (old new : BitVec 16) (hs : s.memOk = true) :
    (State.loadHalves s x core old new).memOk = true := by
  unfold State.loadHalves
  try dsimp only
  repeat' first
    | with_reducible assumption | with_reducible apply State.modCore_form
    | with_reducible refine form_some (by assumption) ?_ | with_reducible refine form_some2 (by assumption) ?_ | split
    | (simp only [form_mk]; refine ⟨?_, ?_, ?_⟩) | with_reducible apply ram_form | with_reducible apply host_form
    | with_reducible apply hy_form | intro _

theorem State.liveGen_form (s : State) (core n : Nat) (g : BitVec 16) (hs : s.memOk = true) :
    (State.liveGen s core n g).memOk = true := by
  unfold State.liveGen
  try dsimp only
  repeat' first
    | with_reducible assumption | with_reducible apply State.modCore_form | with_reducible apply foldl_form
    | with_reducible apply foldl_form_snd | split | (simp only [form_mk]; refine ⟨?_, ?_, ?_⟩)
    | with_reducible apply ram_form | with_reducible apply host_form | with_reducible apply hy_form | intro _

theorem State.setGen_form (s : State) (core : Nat) (g : BitVec 16) (hs : s.memOk = true) :
    optForm2 (State.setGen s core g) := by
  unfold State.setGen
  try dsimp only
  repeat' first
    | with_reducible assumption | with_reducible apply State.issueGen_form | with_reducible apply State.liveGen_form
    | with_reducible apply optForm2_some | with_reducible apply optForm2_none
    | with_reducible refine form_snd (by assumption) ?_ | with_reducible refine form_snd3 (by assumption) ?_
    | with_reducible refine form_some (by assumption) ?_ | with_reducible refine form_some2 (by assumption) ?_ | split
    | intro _

theorem State.bringSet_form (s : State) (sk cluster : Nat) (hs : s.memOk = true) :
    optForm2 (s.bringSet sk cluster) := by
  unfold State.bringSet
  refine optForm2_bind _ _ fun x _ => ?_
  split
  · exact optForm2_some (form_mk.mpr ⟨ram_form hs, host_form hs, hy_form hs⟩)
  · split
    · exact optForm2_none
    · refine optForm2_map _ _ fun g hg => ?_
      have h : g.2.memOk = true := form_some2p hg (State.setGen_form _ _ _
        (foldl_form _ _ _ hs fun u q hu => State.modCore_form _ _ _ hu))
      have h3 := State.liveGen_form g.2 (4 * cluster + 1) 3 g.1 h
      exact form_mk.mpr ⟨ram_form h3, host_form h3, hy_form h3⟩

theorem State.loadMember_form (s : State) (cluster : Nat) (old new : BitVec 16) (y : Nat × SavedCtx)
    (hs : s.memOk = true) : optForm (s.loadMember cluster old new y) := by
  unfold State.loadMember
  exact optForm_map _ _ fun t ht => State.loadHalves_form _ _ _ _ _ (form_some ht (State.loadCtx_form _ _ _ _ hs))

theorem State.loadSet_form (s : State) (sk cluster : Nat) (hs : s.memOk = true) :
    optForm (s.loadSet sk cluster) := by
  unfold State.loadSet
  extract_lets xs
  split
  · exact optForm_none
  · exact optForm_pair _ _ (State.bringSet_form _ _ _ hs) fun g hg =>
      foldlM_form _ _ _ hg fun u y hu => State.loadMember_form _ _ _ _ _ hu

theorem State.resumeOn_form (s : State) (core key : Nat) (x : SavedCtx) (hs : s.memOk = true) :
    optForm (s.resumeOn core key x) := by
  unfold State.resumeOn
  split
  · split
    · exact State.loadSet_form _ _ _ hs
    · split
      · exact optForm_none
      · exact State.loadCtx_form _ _ _ _ hs
  · exact State.loadCtx_form _ _ _ _ hs

theorem State.comes_form (s : State) (core : Nat) (y : Nat × SavedCtx) (hs : s.memOk = true) :
    optForm (s.comes core y) := by
  unfold State.comes
  split
  · exact optForm_none
  · exact State.resumeOn_form _ _ _ _ hs

theorem execContextResume_form (core ctx : Nat) (s : State) (hs : s.memOk = true) :
    nextForm (execContextResume core ctx s) := by
  unfold execContextResume
  refine nextForm_next ?_
  split
  · exact hs
  · rename_i x _
    split
    · exact hs
    · cases h : s.comes core (ctx, x) with
      | none => exact hs
      | some t => exact State.comes_form _ _ _ hs t h

theorem execClaimPull_form (core plot : Nat) (s : State) (hs : s.memOk = true) :
    nextForm (execClaimPull core plot s) := by
  unfold execClaimPull
  try dsimp only
  repeat' first
    | with_reducible assumption | with_reducible apply State.claim_form | with_reducible apply State.modPlot_form
    | with_reducible apply State.startOn_form | with_reducible apply nextForm_next
    | with_reducible refine form_some (by assumption) ?_ | with_reducible refine form_some2 (by assumption) ?_ | split
    | (simp only [form_mk]; refine ⟨?_, ?_, ?_⟩) | with_reducible apply ram_form | with_reducible apply host_form
    | with_reducible apply hy_form | intro _

theorem execCoopClaimPull_form (cluster plot : Nat) (s : State) (hs : s.memOk = true) :
    nextForm (execCoopClaimPull cluster plot s) := by
  unfold execCoopClaimPull
  refine nextForm_next ?_
  split
  · exact hs
  · split
    · exact hs
    · extract_lets ts
      split
      · rename_i p _ _ s1 heq
        refine State.modPlot_form _ _ _ (form_some heq ?_)
        refine optForm_pair _ _ (State.startSet_form _ _ _ hs) fun x hx => ?_
        dsimp only
        split
        · exact foldlM_form _ _ _ hx fun u q hu => State.startOn_form _ _ _ _ _ hu
        · exact optForm_none
      · exact hs

theorem State.abortFences_form (s : State) (k : Nat) (hs : s.memOk = true) :
    (State.abortFences s k).memOk = true := by
  unfold State.abortFences
  try dsimp only
  repeat' first
    | with_reducible assumption | with_reducible apply State.count_form | with_reducible apply State.emit_form
    | with_reducible apply foldl_form | with_reducible apply foldl_form_snd | split | intro _

theorem State.killRole_form (s : State) (k : Nat) (hs : s.memOk = true) :
    (State.killRole s k).memOk = true := by
  unfold State.killRole
  try dsimp only
  repeat' first
    | with_reducible assumption | with_reducible apply State.abortFences_form
    | with_reducible apply State.endRole_form | with_reducible apply State.modRole_form
    | with_reducible apply State.ramWrite_form | with_reducible apply State.uncount_form
    | with_reducible apply State.writeBlock_form | with_reducible refine form_some (by assumption) ?_
    | with_reducible refine form_some2 (by assumption) ?_ | split | (simp only [form_mk]; refine ⟨?_, ?_, ?_⟩)
    | with_reducible apply ram_form | with_reducible apply host_form | with_reducible apply hy_form | intro _

theorem State.finishCmd_form (s : State) (c : Cmd) (hs : s.memOk = true) :
    (State.finishCmd s c).memOk = true := by
  unfold State.finishCmd
  try dsimp only
  repeat' first
    | with_reducible assumption | with_reducible apply State.commitChunk_form
    | with_reducible apply State.doChunk_form | with_reducible apply State.used_form | with_reducible apply foldl_form
    | with_reducible apply foldl_form_snd | with_reducible refine form_some2p (by assumption) ?_
    | with_reducible refine form_some (by assumption) ?_ | split | intro _

theorem State.finishChunks_form (s : State) (plot : Nat) (hs : s.memOk = true) :
    (State.finishChunks s plot).memOk = true := by
  unfold State.finishChunks
  try dsimp only
  repeat' first
    | with_reducible assumption | with_reducible apply State.finishCmd_form | with_reducible apply foldl_form
    | with_reducible apply foldl_form_snd | with_reducible refine form_some (by assumption) ?_
    | with_reducible refine form_some2 (by assumption) ?_ | split | intro _

theorem State.cancelWork_form (s : State) (plot : Nat) (hs : s.memOk = true) :
    (State.cancelWork s plot).memOk = true := by
  unfold State.cancelWork
  try dsimp only
  repeat' first
    | with_reducible assumption | with_reducible apply done_form | with_reducible apply State.emit_form
    | with_reducible apply fence_form | with_reducible apply resForm_ok | with_reducible apply resForm_error
    | with_reducible apply resForm_bind | with_reducible apply foldl_form | with_reducible apply foldl_form_snd
    | with_reducible refine form_some2p (by assumption) ?_ | with_reducible refine form_some (by assumption) ?_
    | with_reducible refine form_some (by assumption) ?_ | with_reducible refine form_some2 (by assumption) ?_ | split
    | (simp only [form_mk]; refine ⟨?_, ?_, ?_⟩) | with_reducible apply wf_filter | with_reducible apply ram_form
    | with_reducible apply host_form | with_reducible apply hy_form | intro _

theorem State.dropSaved_form (s : State) (plot : Nat) (vi : Nat) (hs : s.memOk = true) :
    (State.dropSaved s plot vi).memOk = true := by
  unfold State.dropSaved
  try dsimp only
  repeat' first
    | with_reducible assumption | with_reducible apply State.unreserve_form | with_reducible apply foldl_form
    | with_reducible apply foldl_form_snd | with_reducible refine form_some (by assumption) ?_
    | with_reducible refine form_some2 (by assumption) ?_ | split | (simp only [form_mk]; refine ⟨?_, ?_, ?_⟩)
    | with_reducible apply wf_filter | with_reducible apply ram_form | with_reducible apply host_form
    | with_reducible apply hy_form | intro _

theorem State.ctxKilled_form (s : State) (vi : Nat) (hs : s.memOk = true) :
    (State.ctxKilled s vi).memOk = true := by
  unfold State.ctxKilled
  try dsimp only
  repeat' first
    | with_reducible assumption | with_reducible apply State.emit_form
    | with_reducible refine form_some (by assumption) ?_ | with_reducible refine form_some2 (by assumption) ?_ | split
    | intro _

theorem State.killPlot_form (s : State) (plot : Nat) (hs : s.memOk = true) :
    (State.killPlot s plot).memOk = true := by
  unfold State.killPlot
  try dsimp only
  repeat' first
    | with_reducible assumption | with_reducible apply State.cancelWork_form
    | with_reducible apply State.ctxCheck_form | with_reducible apply State.ctxKilled_form
    | with_reducible apply State.dropSaved_form | with_reducible apply State.finishChunks_form
    | with_reducible apply State.killRole_form | with_reducible apply State.modPlot_form
    | with_reducible apply foldl_form | with_reducible apply foldl_form_snd
    | with_reducible refine form_some2p (by assumption) ?_ | with_reducible refine form_some (by assumption) ?_
    | with_reducible refine form_some (by assumption) ?_ | with_reducible refine form_some2 (by assumption) ?_ | split
    | (simp only [form_mk]; refine ⟨?_, ?_, ?_⟩) | with_reducible apply wf_filter | with_reducible apply ram_form
    | with_reducible apply host_form | with_reducible apply hy_form | intro _

theorem State.setPreempted_form (s : State) (k : Nat) (b : Bool) (hs : s.memOk = true) :
    (State.setPreempted s k b).memOk = true := by
  unfold State.setPreempted
  try dsimp only
  repeat' first
    | with_reducible assumption | with_reducible apply State.modRole_form | with_reducible apply State.ramWrite_form
    | with_reducible refine form_some (by assumption) ?_ | with_reducible refine form_some2 (by assumption) ?_ | split
    | (simp only [form_mk]; refine ⟨?_, ?_, ?_⟩) | with_reducible apply ram_form | with_reducible apply host_form
    | with_reducible apply hy_form | intro _

theorem ctxCmd_form (s : State) (v : BitVec 64) (op : Nat) (body : State → Nat → State) (hs : s.memOk = true) (hbody : ∀ y0 y1, y0.memOk = true → (body y0 y1).memOk = true) :
    nextForm (ctxCmd s v op body) := by
  unfold ctxCmd
  try dsimp only
  repeat' first
    | with_reducible assumption | with_reducible apply State.ctxComplete_form | with_reducible apply nextForm_next
    | with_reducible apply hbody | with_reducible refine form_some (by assumption) ?_
    | with_reducible refine form_some2 (by assumption) ?_ | split | (simp only [form_mk]; refine ⟨?_, ?_, ?_⟩)
    | with_reducible apply ram_form | with_reducible apply host_form | with_reducible apply hy_form | intro _

theorem execCtxcmdPreempt_form (v : BitVec 64) (s : State) (hs : s.memOk = true) :
    nextForm (execCtxcmdPreempt v s) := by
  unfold execCtxcmdPreempt
  try dsimp only
  repeat' first
    | with_reducible assumption | with_reducible apply State.ctxCheck_form | with_reducible apply ctxCmd_form
    | with_reducible apply State.ctxComplete_form | with_reducible apply State.setPreempted_form
    | with_reducible apply State.stopCtx_form | with_reducible apply nextForm_next | with_reducible apply foldl_form
    | with_reducible apply foldl_form_snd | with_reducible refine form_some2p (by assumption) ?_
    | with_reducible refine form_some (by assumption) ?_ | with_reducible refine form_some (by assumption) ?_
    | with_reducible refine form_some2 (by assumption) ?_ | split | (simp only [form_mk]; refine ⟨?_, ?_, ?_⟩)
    | with_reducible apply wf_filter | with_reducible apply ram_form | with_reducible apply host_form
    | with_reducible apply hy_form | intro _

theorem execCtxcmdResume_form (v : BitVec 64) (s : State) (hs : s.memOk = true) :
    nextForm (execCtxcmdResume v s) := by
  unfold execCtxcmdResume
  try dsimp only
  repeat' first
    | with_reducible assumption | with_reducible apply ctxCmd_form | with_reducible apply State.ctxComplete_form
    | with_reducible apply State.setPreempted_form | with_reducible apply nextForm_next
    | with_reducible apply foldl_form | with_reducible apply foldl_form_snd | split
    | (simp only [form_mk]; refine ⟨?_, ?_, ?_⟩) | with_reducible apply ram_form | with_reducible apply host_form
    | with_reducible apply hy_form | intro _

theorem execCtxcmdKill_form (v : BitVec 64) (s : State) (hs : s.memOk = true) :
    nextForm (execCtxcmdKill v s) := by
  unfold execCtxcmdKill
  try dsimp only
  repeat' first
    | with_reducible assumption | with_reducible apply ctxCmd_form | with_reducible apply State.ctxComplete_form
    | with_reducible apply State.killPlot_form | with_reducible apply nextForm_next | split | intro _

end Sys2Proof.Machine
end

