-- ==== Sys2Proof/Laws/FormQueue.lean ====
section
/-! SUPPORT. Every definition of Machine/Queue.lean keeps the canonical form of the byte memories. -/

namespace Sys2Proof.Machine

theorem hostAccess_form (s : State) (vi : Nat) (trusted : Bool) (body : State → State) (hs : s.memOk = true) (hbody : ∀ y0, y0.memOk = true → (body y0).memOk = true) :
    nextForm (hostAccess s vi trusted body) := by
  unfold hostAccess
  try dsimp only
  repeat' first
    | with_reducible assumption | with_reducible apply State.emit_form | with_reducible apply nextForm_next
    | with_reducible apply hbody | split | intro _

theorem queueAccess_form (s : State) (vi i : Nat) (trusted : Bool) (body : State → Nat → State) (hs : s.memOk = true) (hbody : ∀ y0 y1, y0.memOk = true → (body y0 y1).memOk = true) :
    nextForm (queueAccess s vi i trusted body) := by
  unfold queueAccess
  try dsimp only
  repeat' first
    | with_reducible assumption | with_reducible apply hostAccess_form | with_reducible apply nextForm_next
    | with_reducible apply hbody | split | intro _

theorem State.advanceHead_form (s : State) (q : Nat) (hs : s.memOk = true) :
    (State.advanceHead s q).memOk = true := by
  unfold State.advanceHead
  try dsimp only
  repeat' first
    | with_reducible assumption | with_reducible apply State.hostWrite_form | with_reducible apply State.setQueue_form
    | split | (simp only [form_mk]; refine ⟨?_, ?_, ?_⟩) | with_reducible apply ram_form
    | with_reducible apply host_form | with_reducible apply hy_form | intro _

theorem State.stopQueue_form (s : State) (vi q err : Nat) (entry : List (BitVec 64)) (hs : s.memOk = true) :
    (State.stopQueue s vi q err entry).memOk = true := by
  unfold State.stopQueue
  try dsimp only
  repeat' first
    | with_reducible assumption | with_reducible apply State.emit_form | with_reducible apply State.setQueue_form
    | split | (simp only [form_mk]; refine ⟨?_, ?_, ?_⟩) | with_reducible apply ram_form
    | with_reducible apply host_form | with_reducible apply hy_form | intro _

theorem State.readLocal_form (s : State) (vi asid va n : Nat) (hs : s.memOk = true) :
    (State.readLocal s vi asid va n).2.memOk = true := by
  unfold State.readLocal
  try dsimp only
  repeat' first
    | with_reducible assumption | with_reducible apply State.devTrAt_form
    | with_reducible refine form_snd (by assumption) ?_ | with_reducible refine form_snd3 (by assumption) ?_
    | with_reducible refine form_some (by assumption) ?_ | with_reducible refine form_some2 (by assumption) ?_ | split
    | intro _

theorem State.readEntry_form (s : State) (vi q : Nat) (ext : Bytes) (hs : s.memOk = true) :
    (State.readEntry s vi q ext).2.memOk = true := by
  unfold State.readEntry
  try dsimp only
  repeat' first
    | with_reducible assumption | with_reducible apply State.readLocal_form
    | with_reducible apply State.replicate_form | with_reducible apply optForm2_some
    | with_reducible apply optForm2_none | with_reducible apply optForm2_map
    | with_reducible refine form_snd (by assumption) ?_ | with_reducible refine form_snd3 (by assumption) ?_
    | with_reducible refine form_some2p (by assumption) ?_ | with_reducible refine form_some (by assumption) ?_
    | with_reducible refine form_some (by assumption) ?_ | with_reducible refine form_some2 (by assumption) ?_ | split
    | intro _

theorem withEntry_form (s : State) (q : Nat) (ext : Bytes) (body : State → Nat → Option (List (BitVec 64)) → State) (hs : s.memOk = true) (hbody : ∀ y0 y1 y2, y0.memOk = true → (body y0 y1 y2).memOk = true) :
    nextForm (withEntry s q ext body) := by
  unfold withEntry
  try dsimp only
  repeat' first
    | with_reducible assumption | with_reducible apply State.readEntry_form | with_reducible apply nextForm_next
    | with_reducible apply resForm_ok | with_reducible apply resForm_error | with_reducible apply resForm_bind
    | with_reducible apply hbody | with_reducible refine form_snd (by assumption) ?_
    | with_reducible refine form_snd3 (by assumption) ?_ | with_reducible refine form_some (by assumption) ?_
    | with_reducible refine form_some2 (by assumption) ?_ | split | intro _

theorem execDoorbellWrite_form (vi q : Nat) (v : BitVec 64) (trusted : Bool) (s : State) (hs : s.memOk = true) :
    nextForm (execDoorbellWrite vi q v trusted s) := by
  unfold execDoorbellWrite
  try dsimp only
  repeat' first
    | with_reducible assumption | with_reducible apply queueAccess_form | with_reducible apply State.setQueue_form
    | with_reducible apply State.stopQueue_form | with_reducible apply nextForm_next | split
    | (simp only [form_mk]; refine ⟨?_, ?_, ?_⟩) | with_reducible apply ram_form | with_reducible apply host_form
    | with_reducible apply hy_form | intro _

theorem execQueueCfgWrite_form (vi q : Nat) (v : BitVec 64) (trusted : Bool) (s : State) (hs : s.memOk = true) :
    nextForm (execQueueCfgWrite vi q v trusted s) := by
  unfold execQueueCfgWrite
  try dsimp only
  repeat' first
    | with_reducible assumption | with_reducible apply queueAccess_form | with_reducible apply State.setQueue_form
    | with_reducible apply nextForm_next | split | (simp only [form_mk]; refine ⟨?_, ?_, ?_⟩)
    | with_reducible apply ram_form | with_reducible apply host_form | with_reducible apply hy_form | intro _

theorem State.clearStop_form (s : State) (k : Nat) (hs : s.memOk = true) :
    (State.clearStop s k).memOk = true := by
  unfold State.clearStop
  try dsimp only
  repeat' first
    | with_reducible assumption | with_reducible apply State.modQueue_form | split
    | (simp only [form_mk]; refine ⟨?_, ?_, ?_⟩) | with_reducible apply ram_form | with_reducible apply host_form
    | with_reducible apply hy_form | intro _

theorem execQueueCtlResume_form (vi q : Nat) (trusted : Bool) (s : State) (hs : s.memOk = true) :
    nextForm (execQueueCtlResume vi q trusted s) := by
  unfold execQueueCtlResume
  try dsimp only
  repeat' first
    | with_reducible assumption | with_reducible apply State.clearStop_form | with_reducible apply queueAccess_form
    | with_reducible apply nextForm_next | split | intro _

theorem State.forgetPlot_form (s : State) (plot : Nat) (hs : s.memOk = true) :
    (State.forgetPlot s plot).memOk = true := by
  unfold State.forgetPlot
  try dsimp only
  repeat' first
    | with_reducible assumption | with_reducible apply State.modQueue_form | with_reducible apply State.unreserve_form
    | with_reducible refine form_some (by assumption) ?_ | with_reducible refine form_some2 (by assumption) ?_ | split
    | (simp only [form_mk]; refine ⟨?_, ?_, ?_⟩) | with_reducible apply wf_filter | with_reducible apply ram_form
    | with_reducible apply host_form | with_reducible apply hy_form | intro _

theorem State.recDone_form (s : State) (r : PendRec) (hs : s.memOk = true) :
    (State.recDone s r).memOk = true := by
  unfold State.recDone
  try dsimp only
  repeat' first
    | with_reducible assumption | with_reducible apply State.emit_form | with_reducible apply State.forgetPlot_form
    | with_reducible refine form_some (by assumption) ?_ | with_reducible refine form_some2 (by assumption) ?_ | split
    | intro _

theorem State.tryRec_form (s : State) (r : PendRec) (hs : s.memOk = true) :
    (State.tryRec s r).memOk = true := by
  unfold State.tryRec
  try dsimp only
  repeat' first
    | with_reducible assumption | with_reducible apply State.devTrAt_form | with_reducible apply State.faultFor_form
    | with_reducible apply State.hostTr_form | with_reducible apply State.hostWrite_form
    | with_reducible apply State.ramWrite_form | with_reducible apply State.recDone_form
    | with_reducible apply resForm_ok | with_reducible apply resForm_error | with_reducible apply resForm_bind
    | with_reducible refine form_snd (by assumption) ?_ | with_reducible refine form_snd3 (by assumption) ?_
    | with_reducible refine form_ok (by assumption) ?_ | split | (simp only [form_mk]; refine ⟨?_, ?_, ?_⟩)
    | with_reducible apply ram_form | with_reducible apply host_form | with_reducible apply hy_form | intro _

theorem State.flushRecs_form (s : State) (hs : s.memOk = true) :
    (State.flushRecs s).memOk = true := by
  unfold State.flushRecs
  try dsimp only
  repeat' first
    | with_reducible assumption | with_reducible apply State.tryRec_form | with_reducible apply foldl_form
    | with_reducible apply foldl_form_snd | split | (simp only [form_mk]; refine ⟨?_, ?_, ?_⟩)
    | with_reducible apply ram_form | with_reducible apply host_form | with_reducible apply hy_form | intro _

theorem execQueueCtlSkip_form (vi q : Nat) (trusted : Bool) (s : State) (hs : s.memOk = true) :
    nextForm (execQueueCtlSkip vi q trusted s) := by
  unfold execQueueCtlSkip
  try dsimp only
  repeat' first
    | with_reducible assumption | with_reducible apply State.advanceHead_form
    | with_reducible apply State.clearStop_form | with_reducible apply queueAccess_form
    | with_reducible apply State.tryRec_form | with_reducible apply nextForm_next | split
    | (simp only [form_mk]; refine ⟨?_, ?_, ?_⟩) | with_reducible apply ram_form | with_reducible apply host_form
    | with_reducible apply hy_form | intro _

theorem execQueueEntryNop_form (q : Nat) (ext : Bytes) (s : State) (hs : s.memOk = true) :
    nextForm (execQueueEntryNop q ext s) := by
  unfold execQueueEntryNop
  try dsimp only
  repeat' first
    | with_reducible assumption | with_reducible apply State.advanceHead_form | with_reducible apply withEntry_form
    | with_reducible apply nextForm_next | with_reducible refine form_some (by assumption) ?_
    | with_reducible refine form_some2 (by assumption) ?_ | split | intro _

theorem execQueueEntryWait_form (q : Nat) (ext : Bytes) (s : State) (hs : s.memOk = true) :
    nextForm (execQueueEntryWait q ext s) := by
  unfold execQueueEntryWait
  try dsimp only
  repeat' first
    | with_reducible assumption | with_reducible apply State.modQueue_form | with_reducible apply withEntry_form
    | with_reducible apply nextForm_next | with_reducible refine form_some (by assumption) ?_
    | with_reducible refine form_some2 (by assumption) ?_ | split | (simp only [form_mk]; refine ⟨?_, ?_, ?_⟩)
    | with_reducible apply ram_form | with_reducible apply host_form | with_reducible apply hy_form | intro _

theorem execQueueWaitRelease_form (q : Nat) (s : State) (hs : s.memOk = true) :
    nextForm (execQueueWaitRelease q s) := by
  unfold execQueueWaitRelease
  try dsimp only
  repeat' first
    | with_reducible assumption | with_reducible apply State.advanceHead_form
    | with_reducible apply State.setQueue_form | with_reducible apply nextForm_next
    | with_reducible refine form_some (by assumption) ?_ | with_reducible refine form_some2 (by assumption) ?_ | split
    | (simp only [form_mk]; refine ⟨?_, ?_, ?_⟩) | with_reducible apply ram_form | with_reducible apply host_form
    | with_reducible apply hy_form | intro _

theorem execQueueEntrySignal_form (q : Nat) (ext : Bytes) (s : State) (hs : s.memOk = true) :
    nextForm (execQueueEntrySignal q ext s) := by
  unfold execQueueEntrySignal
  try dsimp only
  repeat' first
    | with_reducible assumption | with_reducible apply State.advanceHead_form
    | with_reducible apply State.modQueue_form | with_reducible apply withEntry_form
    | with_reducible apply nextForm_next | with_reducible refine form_some (by assumption) ?_
    | with_reducible refine form_some2 (by assumption) ?_ | split | (simp only [form_mk]; refine ⟨?_, ?_, ?_⟩)
    | with_reducible apply ram_form | with_reducible apply host_form | with_reducible apply hy_form | intro _

theorem execSignalFire_form (q : Nat) (s : State) (hs : s.memOk = true) :
    nextForm (execSignalFire q s) := by
  unfold execSignalFire
  try dsimp only
  repeat' first
    | with_reducible assumption | with_reducible apply State.setQueue_form | with_reducible apply State.tryRec_form
    | with_reducible apply nextForm_next | with_reducible refine form_some (by assumption) ?_
    | with_reducible refine form_some2 (by assumption) ?_ | split | (simp only [form_mk]; refine ⟨?_, ?_, ?_⟩)
    | with_reducible apply ram_form | with_reducible apply host_form | with_reducible apply hy_form | intro _

theorem State.readBlock_form (s : State) (vi asid va n : Nat) (hs : s.memOk = true) :
    (State.readBlock s vi asid va n).2.memOk = true := by
  unfold State.readBlock
  try dsimp only
  repeat' first
    | with_reducible assumption | with_reducible apply State.readLocal_form | with_reducible apply optForm2_some
    | with_reducible apply optForm2_none | with_reducible apply optForm2_map
    | with_reducible refine form_snd (by assumption) ?_ | with_reducible refine form_snd3 (by assumption) ?_
    | with_reducible refine form_some2p (by assumption) ?_ | with_reducible refine form_some (by assumption) ?_
    | split | intro _

theorem State.launch_form (s : State) (vi q : Nat) (e : List (BitVec 64)) (p : Plot) (hs : s.memOk = true) :
    (State.launch s vi q e p).memOk = true := by
  unfold State.launch
  try dsimp only
  repeat' first
    | with_reducible assumption | with_reducible apply State.advanceHead_form
    | with_reducible apply State.modQueue_form | with_reducible apply State.numbered_form
    | with_reducible apply State.ramZero_form | with_reducible apply State.reserve_form
    | with_reducible apply State.setPlot_form | with_reducible apply State.stopQueue_form
    | with_reducible refine form_snd (by assumption) ?_ | with_reducible refine form_snd3 (by assumption) ?_
    | with_reducible refine form_some (by assumption) ?_ | with_reducible refine form_some2 (by assumption) ?_ | split
    | (simp only [form_mk]; refine ⟨?_, ?_, ?_⟩) | with_reducible apply ram_form | with_reducible apply host_form
    | with_reducible apply hy_form | intro _

theorem State.tryLaunch_form (s : State) (vi q : Nat) (e : List (BitVec 64)) (hs : s.memOk = true) :
    (State.tryLaunch s vi q e).memOk = true := by
  unfold State.tryLaunch
  try dsimp only
  repeat' first
    | with_reducible assumption | with_reducible apply State.launch_form | with_reducible apply State.readBlock_form
    | with_reducible apply State.stopQueue_form | with_reducible refine form_snd (by assumption) ?_
    | with_reducible refine form_snd3 (by assumption) ?_ | with_reducible refine form_some (by assumption) ?_
    | with_reducible refine form_some2 (by assumption) ?_ | split | intro _

theorem execQueueEntryLaunch_form (q : Nat) (ext : Bytes) (s : State) (hs : s.memOk = true) :
    nextForm (execQueueEntryLaunch q ext s) := by
  unfold execQueueEntryLaunch
  try dsimp only
  repeat' first
    | with_reducible assumption | with_reducible apply State.stopQueue_form
    | with_reducible apply State.tryLaunch_form | with_reducible apply withEntry_form
    | with_reducible apply nextForm_next | with_reducible refine form_some (by assumption) ?_
    | with_reducible refine form_some2 (by assumption) ?_ | split | intro _

theorem State.freePlot_form (s : State) (plot : Nat) (p : Plot) (hs : s.memOk = true) :
    (State.freePlot s plot p).memOk = true := by
  unfold State.freePlot
  try dsimp only
  repeat' first
    | with_reducible assumption | with_reducible apply State.freePlotSlot_form
    | with_reducible apply State.unreserve_form | with_reducible apply foldl_form
    | with_reducible apply foldl_form_snd | with_reducible refine form_some (by assumption) ?_
    | with_reducible refine form_some2 (by assumption) ?_ | split | intro _

theorem State.endPlot_form (s : State) (plot : Nat) (p : Plot) (hs : s.memOk = true) :
    (State.endPlot s plot p).memOk = true := by
  unfold State.endPlot
  try dsimp only
  repeat' first
    | with_reducible assumption | with_reducible apply State.freePlot_form | with_reducible apply State.modPlot_form
    | with_reducible apply State.tryRec_form | with_reducible refine form_some (by assumption) ?_
    | with_reducible refine form_some2 (by assumption) ?_ | split | (simp only [form_mk]; refine ⟨?_, ?_, ?_⟩)
    | with_reducible apply ram_form | with_reducible apply host_form | with_reducible apply hy_form | intro _

theorem State.tryEnd_form (s : State) (plot : Nat) (hs : s.memOk = true) :
    (State.tryEnd s plot).memOk = true := by
  unfold State.tryEnd
  try dsimp only
  repeat' first
    | with_reducible assumption | with_reducible apply State.endPlot_form
    | with_reducible refine form_some (by assumption) ?_ | with_reducible refine form_some2 (by assumption) ?_ | split
    | intro _

theorem execPlotEnd_form (plot : Nat) (s : State) (hs : s.memOk = true) :
    nextForm (execPlotEnd plot s) := by
  unfold execPlotEnd
  try dsimp only
  repeat' first
    | with_reducible assumption | with_reducible apply State.tryEnd_form | with_reducible apply nextForm_next | split
    | intro _

end Sys2Proof.Machine
end

