-- ==== Sys2Proof/Laws/FormHostIf.lean ====
section
/-! SUPPORT. Every definition of Machine/HostIf.lean keeps the canonical form of the byte memories. -/

namespace Sys2Proof.Machine

theorem execFaulttailWrite_form (vi : Nat) (v : BitVec 64) (trusted : Bool) (s : State) (hs : s.memOk = true) :
    nextForm (execFaulttailWrite vi v trusted s) := by
  unfold execFaulttailWrite
  try dsimp only
  repeat' first
    | with_reducible assumption | with_reducible apply State.drainFaults_form | with_reducible apply hostAccess_form
    | with_reducible apply State.modIface_form | with_reducible apply nextForm_next | split
    | (simp only [form_mk]; refine ⟨?_, ?_, ?_⟩) | with_reducible apply ram_form | with_reducible apply host_form
    | with_reducible apply hy_form | intro _

theorem execFaultcfgWrite_form (vi : Nat) (v : BitVec 64) (trusted : Bool) (s : State) (hs : s.memOk = true) :
    nextForm (execFaultcfgWrite vi v trusted s) := by
  unfold execFaultcfgWrite
  try dsimp only
  repeat' first
    | with_reducible assumption | with_reducible apply State.drainFaults_form | with_reducible apply hostAccess_form
    | with_reducible apply State.modIface_form | with_reducible apply nextForm_next | split
    | (simp only [form_mk]; refine ⟨?_, ?_, ?_⟩) | with_reducible apply ram_form | with_reducible apply host_form
    | with_reducible apply hy_form | intro _

theorem State.served_form (s : State) (vi asid page : Nat) (hs : s.memOk = true) :
    (State.served s vi asid page).memOk = true := by
  unfold State.served
  try dsimp only
  repeat' first
    | with_reducible assumption | with_reducible apply State.flushRecs_form | with_reducible apply State.pageCame_form
    | with_reducible apply State.retryPackets_form | with_reducible apply foldl_form
    | with_reducible apply foldl_form_snd | split | intro _

theorem State.stopSaved_form (s : State) (k : Nat) (hs : s.memOk = true) :
    (State.stopSaved s k).memOk = true := by
  unfold State.stopSaved
  try dsimp only
  repeat' first
    | with_reducible assumption | with_reducible apply State.modRole_form | with_reducible apply State.notifyTrap_form
    | with_reducible apply State.ramWrite_form | with_reducible apply State.writeBlock_form
    | with_reducible refine form_some2p (by assumption) ?_ | with_reducible refine form_some (by assumption) ?_
    | with_reducible refine form_some (by assumption) ?_ | with_reducible refine form_some2 (by assumption) ?_ | split
    | (simp only [form_mk]; refine ⟨?_, ?_, ?_⟩) | with_reducible apply ram_form | with_reducible apply host_form
    | with_reducible apply hy_form | intro _

theorem State.failRole_form (s : State) (k page : Nat) (hs : s.memOk = true) :
    (State.failRole s k page).memOk = true := by
  unfold State.failRole
  try dsimp only
  repeat' first
    | with_reducible assumption | with_reducible apply State.modRole_form | with_reducible apply State.pageCame_form
    | with_reducible apply State.reserve_form | with_reducible apply State.stopSaved_form
    | with_reducible apply takeTrap_form | with_reducible apply State.wake_form
    | with_reducible refine form_snd (by assumption) ?_ | with_reducible refine form_snd3 (by assumption) ?_
    | with_reducible refine form_some (by assumption) ?_ | with_reducible refine form_some2 (by assumption) ?_ | split
    | (simp only [form_mk]; refine ⟨?_, ?_, ?_⟩) | with_reducible apply wf_filter | with_reducible apply ram_form
    | with_reducible apply host_form | with_reducible apply hy_form | intro _

theorem State.failWaiting_form (s : State) (id addr : Nat) (hs : s.memOk = true) :
    (State.failWaiting s id addr).memOk = true := by
  unfold State.failWaiting
  try dsimp only
  repeat' first
    | with_reducible assumption | with_reducible apply State.failCmd_form
    | with_reducible refine form_some (by assumption) ?_ | with_reducible refine form_some2 (by assumption) ?_ | split
    | intro _

theorem State.dropRecs_form (s : State) (vi asid page : Nat) (hs : s.memOk = true) :
    (State.dropRecs s vi asid page).memOk = true := by
  unfold State.dropRecs
  try dsimp only
  repeat' first
    | with_reducible assumption | with_reducible apply State.recDone_form | with_reducible apply foldl_form
    | with_reducible apply foldl_form_snd | split | (simp only [form_mk]; refine ⟨?_, ?_, ?_⟩)
    | with_reducible apply ram_form | with_reducible apply host_form | with_reducible apply hy_form | intro _

theorem State.failSaves_form (s : State) (vi asid page : Nat) (hs : s.memOk = true) :
    (State.failSaves s vi asid page).memOk = true := by
  unfold State.failSaves
  try dsimp only
  repeat' first
    | with_reducible assumption | with_reducible apply State.ctxCheck_form | with_reducible apply State.nextStop_form
    | with_reducible apply State.unsaved_form | with_reducible apply foldl_form | with_reducible apply foldl_form_snd
    | with_reducible refine form_snd (by assumption) ?_ | with_reducible refine form_snd3 (by assumption) ?_
    | with_reducible refine form_some (by assumption) ?_ | with_reducible refine form_some2 (by assumption) ?_ | split
    | intro _

theorem State.failed_form (s : State) (f : FaultRec) (vi : Nat) (hs : s.memOk = true) :
    (State.failed s f vi).memOk = true := by
  unfold State.failed
  try dsimp only
  repeat' first
    | with_reducible assumption | with_reducible apply State.dropRecs_form | with_reducible apply State.failRole_form
    | with_reducible apply State.failSaves_form | with_reducible apply State.failWaiting_form
    | with_reducible apply State.retryPackets_form | with_reducible apply foldl_form
    | with_reducible apply foldl_form_snd | split | intro _

theorem faultDone_form (s : State) (vi : Nat) (v : BitVec 64) (trusted : Bool) (outcome : Nat) (reasons : List Nat) (body : State → FaultRec → State) (hs : s.memOk = true) (hbody : ∀ y0 y1, y0.memOk = true → (body y0 y1).memOk = true) :
    nextForm (faultDone s vi v trusted outcome reasons body) := by
  unfold faultDone
  try dsimp only
  repeat' first
    | with_reducible assumption | with_reducible apply hostAccess_form | with_reducible apply State.modIface_form
    | with_reducible apply nextForm_next | with_reducible apply hbody
    | with_reducible refine form_some (by assumption) ?_ | with_reducible refine form_some2 (by assumption) ?_ | split
    | (simp only [form_mk]; refine ⟨?_, ?_, ?_⟩) | with_reducible apply wf_filter | with_reducible apply ram_form
    | with_reducible apply host_form | with_reducible apply hy_form | intro _

theorem execFaultdoneRetry_form (vi : Nat) (v : BitVec 64) (trusted : Bool) (s : State) (hs : s.memOk = true) :
    nextForm (execFaultdoneRetry vi v trusted s) := by
  unfold execFaultdoneRetry
  try dsimp only
  repeat' first
    | with_reducible assumption | with_reducible apply faultDone_form | with_reducible apply State.served_form
    | with_reducible apply nextForm_next | split | intro _

theorem execFaultdoneFail_form (vi : Nat) (v : BitVec 64) (trusted : Bool) (s : State) (hs : s.memOk = true) :
    nextForm (execFaultdoneFail vi v trusted s) := by
  unfold execFaultdoneFail
  try dsimp only
  repeat' first
    | with_reducible assumption | with_reducible apply State.failed_form | with_reducible apply faultDone_form
    | with_reducible apply nextForm_next | split | intro _

theorem execFaultdoneResume_form (vi : Nat) (v : BitVec 64) (trusted : Bool) (s : State) (hs : s.memOk = true) :
    nextForm (execFaultdoneResume vi v trusted s) := by
  unfold execFaultdoneResume
  try dsimp only
  repeat' first
    | with_reducible assumption | with_reducible apply faultDone_form | with_reducible apply State.modRole_form
    | with_reducible apply State.ramWrite_form | with_reducible apply State.resumeRole_form
    | with_reducible apply nextForm_next | with_reducible refine form_some (by assumption) ?_
    | with_reducible refine form_some2 (by assumption) ?_ | split | (simp only [form_mk]; refine ⟨?_, ?_, ?_⟩)
    | with_reducible apply ram_form | with_reducible apply host_form | with_reducible apply hy_form | intro _

theorem execFaultdoneKill_form (vi : Nat) (v : BitVec 64) (trusted : Bool) (s : State) (hs : s.memOk = true) :
    nextForm (execFaultdoneKill vi v trusted s) := by
  unfold execFaultdoneKill
  try dsimp only
  repeat' first
    | with_reducible assumption | with_reducible apply faultDone_form | with_reducible apply State.killPlot_form
    | with_reducible apply nextForm_next | with_reducible refine form_some2p (by assumption) ?_
    | with_reducible refine form_some (by assumption) ?_ | with_reducible refine form_some (by assumption) ?_
    | with_reducible refine form_some2 (by assumption) ?_ | split | intro _

theorem State.dropLeaves_form (s : State) (vi : Nat) (asid : Option Nat) (lo hi : Nat) (hs : s.memOk = true) :
    (State.dropLeaves s vi asid lo hi).memOk = true := by
  unfold State.dropLeaves
  try dsimp only
  repeat' first
    | with_reducible assumption | with_reducible refine form_some (by assumption) ?_
    | with_reducible refine form_some2 (by assumption) ?_ | split | (simp only [form_mk]; refine ⟨?_, ?_, ?_⟩)
    | with_reducible apply wf_filter | with_reducible apply ram_form | with_reducible apply host_form
    | with_reducible apply hy_form | intro _

theorem invCmd_form (s : State) (vi : Nat) (v : BitVec 64) (trusted : Bool) (scope : Nat) (cmd : Iface → InvCmd) (hs : s.memOk = true) :
    nextForm (invCmd s vi v trusted scope cmd) := by
  unfold invCmd
  try dsimp only
  repeat' first
    | with_reducible assumption | with_reducible apply hostAccess_form | with_reducible apply State.setIface_form
    | with_reducible apply nextForm_next | split | (simp only [form_mk]; refine ⟨?_, ?_, ?_⟩)
    | with_reducible apply ram_form | with_reducible apply host_form | with_reducible apply hy_form | intro _

theorem execInvcmdPages_form (vi : Nat) (v : BitVec 64) (trusted : Bool) (s : State) (hs : s.memOk = true) :
    nextForm (execInvcmdPages vi v trusted s) := by
  unfold execInvcmdPages
  try dsimp only
  repeat' first
    | with_reducible assumption | with_reducible apply invCmd_form | with_reducible apply nextForm_next
    | with_reducible refine form_some (by assumption) ?_ | with_reducible refine form_some2 (by assumption) ?_ | split
    | intro _

theorem execInvcmdAsid_form (vi : Nat) (v : BitVec 64) (trusted : Bool) (s : State) (hs : s.memOk = true) :
    nextForm (execInvcmdAsid vi v trusted s) := by
  unfold execInvcmdAsid
  try dsimp only
  repeat' first
    | with_reducible assumption | with_reducible apply invCmd_form | with_reducible apply nextForm_next
    | with_reducible refine form_some (by assumption) ?_ | with_reducible refine form_some2 (by assumption) ?_ | split
    | intro _

theorem execInvcmdAll_form (vi : Nat) (v : BitVec 64) (trusted : Bool) (s : State) (hs : s.memOk = true) :
    nextForm (execInvcmdAll vi v trusted s) := by
  unfold execInvcmdAll
  try dsimp only
  repeat' first
    | with_reducible assumption | with_reducible apply invCmd_form | with_reducible apply nextForm_next | split
    | intro _

theorem execInvalidationComplete_form (vi : Nat) (s : State) (hs : s.memOk = true) :
    nextForm (execInvalidationComplete vi s) := by
  unfold execInvalidationComplete
  try dsimp only
  repeat' first
    | with_reducible assumption | with_reducible apply State.dropLeaves_form
    | with_reducible apply State.modIface_form | with_reducible apply nextForm_next
    | with_reducible refine form_some (by assumption) ?_ | with_reducible refine form_some2 (by assumption) ?_ | split
    | (simp only [form_mk]; refine ⟨?_, ?_, ?_⟩) | with_reducible apply ram_form | with_reducible apply host_form
    | with_reducible apply hy_form | intro _

theorem execInvstatRead_form (vi : Nat) (trusted : Bool) (s : State) (hs : s.memOk = true) :
    nextForm (execInvstatRead vi trusted s) := by
  unfold execInvstatRead
  try dsimp only
  repeat' first
    | with_reducible assumption | with_reducible apply State.emit_form | with_reducible apply hostAccess_form
    | with_reducible apply State.setIface_form | with_reducible apply nextForm_next | split
    | (simp only [form_mk]; refine ⟨?_, ?_, ?_⟩) | with_reducible apply ram_form | with_reducible apply host_form
    | with_reducible apply hy_form | intro _

theorem State.killIface_form (s : State) (vi : Nat) (hs : s.memOk = true) :
    (State.killIface s vi).memOk = true := by
  unfold State.killIface
  try dsimp only
  repeat' first
    | with_reducible assumption | with_reducible apply State.killPlot_form | with_reducible apply State.tryEnd_form
    | with_reducible apply foldl_form | with_reducible apply foldl_form_snd
    | with_reducible refine form_some2p (by assumption) ?_ | with_reducible refine form_some (by assumption) ?_
    | split | intro _

theorem State.tdiError_form (s : State) (vi : Nat) (hs : s.memOk = true) :
    (State.tdiError s vi).memOk = true := by
  unfold State.tdiError
  try dsimp only
  repeat' first
    | with_reducible assumption | with_reducible apply State.killIface_form | with_reducible apply State.modIface_form
    | with_reducible apply resForm_ok | with_reducible apply resForm_error | with_reducible apply resForm_bind | split
    | (simp only [form_mk]; refine ⟨?_, ?_, ?_⟩) | with_reducible apply ram_form | with_reducible apply host_form
    | with_reducible apply hy_form | intro _

theorem lockedWrite_form (s : State) (vi : Nat) (changes : Bool) (body : State → State) (hs : s.memOk = true) (hbody : ∀ y0, y0.memOk = true → (body y0).memOk = true) :
    (lockedWrite s vi changes body).memOk = true := by
  unfold lockedWrite
  try dsimp only
  repeat' first
    | with_reducible assumption | with_reducible apply State.tdiError_form | with_reducible apply resForm_ok
    | with_reducible apply resForm_error | with_reducible apply resForm_bind | with_reducible apply hbody | split
    | intro _

theorem State.disable_form (s : State) (vi : Nat) (hs : s.memOk = true) :
    (State.disable s vi).memOk = true := by
  unfold State.disable
  try dsimp only
  repeat' first
    | with_reducible assumption | with_reducible apply State.killIface_form | with_reducible apply State.modIface_form
    | split | (simp only [form_mk]; refine ⟨?_, ?_, ?_⟩) | with_reducible apply ram_form
    | with_reducible apply host_form | with_reducible apply hy_form | intro _

theorem State.flr_form (s : State) (vi : Nat) (hs : s.memOk = true) :
    (State.flr s vi).memOk = true := by
  unfold State.flr
  try dsimp only
  repeat' first
    | with_reducible assumption | with_reducible apply State.disable_form | with_reducible apply State.modIface_form
    | with_reducible apply State.tdiError_form | split | (simp only [form_mk]; refine ⟨?_, ?_, ?_⟩)
    | with_reducible apply ram_form | with_reducible apply host_form | with_reducible apply hy_form | intro _

theorem execFunctionLevelReset_form (vi : Nat) (s : State) (hs : s.memOk = true) :
    nextForm (execFunctionLevelReset vi s) := by
  unfold execFunctionLevelReset
  try dsimp only
  repeat' first
    | with_reducible assumption | with_reducible apply State.flr_form | with_reducible apply State.modIface_form
    | with_reducible apply nextForm_next | split | (simp only [form_mk]; refine ⟨?_, ?_, ?_⟩)
    | with_reducible apply ram_form | with_reducible apply host_form | with_reducible apply hy_form | intro _

theorem State.dropLines_form (s : State) (a n : Nat) (hs : s.memOk = true) :
    (State.dropLines s a n).memOk = true := by
  unfold State.dropLines
  try dsimp only
  repeat' first
    | with_reducible assumption | split | (simp only [form_mk]; refine ⟨?_, ?_, ?_⟩) | with_reducible apply wf_filter
    | with_reducible apply ram_form | with_reducible apply host_form | with_reducible apply hy_form | intro _

theorem State.rekey_form (s : State) (vi : Nat) (hs : s.memOk = true) :
    (State.rekey s vi).memOk = true := by
  unfold State.rekey
  try dsimp only
  repeat' first
    | with_reducible assumption | with_reducible apply State.dropLines_form | with_reducible apply State.ramZero_form
    | split | (simp only [form_mk]; refine ⟨?_, ?_, ?_⟩) | with_reducible apply ram_form
    | with_reducible apply host_form | with_reducible apply hy_form | intro _

theorem State.stopTdi_form (s : State) (vi : Nat) (hs : s.memOk = true) :
    (State.stopTdi s vi).memOk = true := by
  unfold State.stopTdi
  try dsimp only
  repeat' first
    | with_reducible assumption | with_reducible apply State.drainFaults_form
    | with_reducible apply State.killIface_form | with_reducible apply State.modIface_form
    | with_reducible apply State.rekey_form | split | (simp only [form_mk]; refine ⟨?_, ?_, ?_⟩)
    | with_reducible apply ram_form | with_reducible apply host_form | with_reducible apply hy_form | intro _

theorem State.beginMig_form (s : State) (vi : Nat) (m : Migration) (hs : s.memOk = true) :
    (State.beginMig s vi m).memOk = true := by
  unfold State.beginMig
  try dsimp only
  repeat' first
    | with_reducible assumption | with_reducible apply State.dropLeaves_form
    | with_reducible apply State.modIface_form | with_reducible refine form_some (by assumption) ?_
    | with_reducible refine form_some2 (by assumption) ?_ | split | (simp only [form_mk]; refine ⟨?_, ?_, ?_⟩)
    | with_reducible apply ram_form | with_reducible apply host_form | with_reducible apply hy_form | intro _

theorem execFaultdoneMigrate_form (vi : Nat) (v : BitVec 64) (trusted : Bool) (s : State) (hs : s.memOk = true) :
    nextForm (execFaultdoneMigrate vi v trusted s) := by
  unfold execFaultdoneMigrate
  try dsimp only
  repeat' first
    | with_reducible assumption | with_reducible apply State.beginMig_form | with_reducible apply faultDone_form
    | with_reducible apply State.served_form | with_reducible apply nextForm_next | split | intro _

theorem execMigcmdGo_form (vi : Nat) (v : BitVec 64) (trusted : Bool) (s : State) (hs : s.memOk = true) :
    nextForm (execMigcmdGo vi v trusted s) := by
  unfold execMigcmdGo
  try dsimp only
  repeat' first
    | with_reducible assumption | with_reducible apply State.beginMig_form | with_reducible apply hostAccess_form
    | with_reducible apply State.modIface_form | with_reducible apply nextForm_next | split
    | (simp only [form_mk]; refine ⟨?_, ?_, ?_⟩) | with_reducible apply ram_form | with_reducible apply host_form
    | with_reducible apply hy_form | intro _

theorem State.copyPage_form (s : State) (vi : Nat) (m : Migration) (ext : Bytes) (hs : s.memOk = true) :
    (State.copyPage s vi m ext).memOk = true := by
  unfold State.copyPage
  try dsimp only
  repeat' first
    | with_reducible assumption | with_reducible apply State.hostWrite_form | with_reducible apply State.ramWrite_form
    | with_reducible apply State.replicate_form | split | intro _

theorem execMigrationComplete_form (vi token : Nat) (ext : Bytes) (s : State) (hs : s.memOk = true) :
    nextForm (execMigrationComplete vi token ext s) := by
  unfold execMigrationComplete
  try dsimp only
  repeat' first
    | with_reducible assumption | with_reducible apply State.copyPage_form
    | with_reducible apply State.dropLeaves_form | with_reducible apply State.dropLines_form
    | with_reducible apply State.flr_form | with_reducible apply State.modIface_form
    | with_reducible apply State.pushFault_form | with_reducible apply State.ramWrite_form
    | with_reducible apply State.served_form | with_reducible apply State.stopTdi_form
    | with_reducible apply nextForm_next | with_reducible refine form_some (by assumption) ?_
    | with_reducible refine form_some2 (by assumption) ?_ | split | (simp only [form_mk]; refine ⟨?_, ?_, ?_⟩)
    | with_reducible apply ram_form | with_reducible apply host_form | with_reducible apply hy_form | intro _

theorem State.winWrite_form (s : State) (vi off : Nat) (bs : Bytes) (hs : s.memOk = true) :
    (State.winWrite s vi off bs).memOk = true := by
  unfold State.winWrite
  try dsimp only
  repeat' first
    | with_reducible assumption | with_reducible apply State.ramWrite_form | split | intro _

theorem execBar4Read_form (vi off n : Nat) (trusted : Bool) (s : State) (hs : s.memOk = true) :
    nextForm (execBar4Read vi off n trusted s) := by
  unfold execBar4Read
  try dsimp only
  repeat' first
    | with_reducible assumption | with_reducible apply State.emit_form | with_reducible apply hostAccess_form
    | with_reducible apply nextForm_next | split | intro _

theorem execBar4Write_form (vi off : Nat) (data : Bytes) (trusted : Bool) (s : State) (hs : s.memOk = true) :
    nextForm (execBar4Write vi off data trusted s) := by
  unfold execBar4Write
  try dsimp only
  repeat' first
    | with_reducible assumption | with_reducible apply hostAccess_form | with_reducible apply State.winWrite_form
    | with_reducible apply nextForm_next | split | intro _

theorem execBar4Atomic_form (vi off : Nat) (a : HostAtomic) (trusted : Bool) (s : State) (hs : s.memOk = true) :
    nextForm (execBar4Atomic vi off a trusted s) := by
  unfold execBar4Atomic
  try dsimp only
  repeat' first
    | with_reducible assumption | with_reducible apply State.emit_form | with_reducible apply hostAccess_form
    | with_reducible apply State.winWrite_form | with_reducible apply nextForm_next | split | intro _

theorem execAtsTranslationCompletion_form (who : Nat) (ok : Bool) (s : State) (hs : s.memOk = true) :
    nextForm (execAtsTranslationCompletion who ok s) := by
  unfold execAtsTranslationCompletion
  try dsimp only
  repeat' first
    | with_reducible assumption | with_reducible apply State.emit_form | with_reducible apply State.flushRecs_form
    | with_reducible apply State.modIface_form | with_reducible apply State.modRole_form
    | with_reducible apply State.wake_form | with_reducible apply nextForm_next | with_reducible apply foldl_form
    | with_reducible apply foldl_form_snd | with_reducible refine form_snd (by assumption) ?_
    | with_reducible refine form_snd3 (by assumption) ?_ | with_reducible refine form_some (by assumption) ?_
    | with_reducible refine form_some2 (by assumption) ?_ | split | (simp only [form_mk]; refine ⟨?_, ?_, ?_⟩)
    | with_reducible apply ram_form | with_reducible apply host_form | with_reducible apply hy_form | intro _

theorem execPriPageResponse_form (who : Nat) (ok : Bool) (s : State) (hs : s.memOk = true) :
    nextForm (execPriPageResponse who ok s) := by
  unfold execPriPageResponse
  try dsimp only
  repeat' first
    | with_reducible assumption | with_reducible apply State.failWaiting_form
    | with_reducible apply State.flushRecs_form | with_reducible apply State.modIface_form
    | with_reducible apply State.modRole_form | with_reducible apply State.stopSaved_form
    | with_reducible apply State.wake_form | with_reducible apply nextForm_next | with_reducible apply foldl_form
    | with_reducible apply foldl_form_snd | with_reducible refine form_snd (by assumption) ?_
    | with_reducible refine form_snd3 (by assumption) ?_ | with_reducible refine form_some (by assumption) ?_
    | with_reducible refine form_some2 (by assumption) ?_ | split | (simp only [form_mk]; refine ⟨?_, ?_, ?_⟩)
    | with_reducible apply ram_form | with_reducible apply host_form | with_reducible apply hy_form | intro _

theorem execAtsInvalidateRequest_form (vi lo hi : Nat) (s : State) (hs : s.memOk = true) :
    nextForm (execAtsInvalidateRequest vi lo hi s) := by
  unfold execAtsInvalidateRequest
  try dsimp only
  repeat' first
    | with_reducible assumption | with_reducible apply State.emit_form | with_reducible apply State.modIface_form
    | with_reducible apply nextForm_next | split | (simp only [form_mk]; refine ⟨?_, ?_, ?_⟩)
    | with_reducible apply wf_filter | with_reducible apply ram_form | with_reducible apply host_form
    | with_reducible apply hy_form | intro _

theorem execAtsInvalidateComplete_form (vi : Nat) (s : State) (hs : s.memOk = true) :
    nextForm (execAtsInvalidateComplete vi s) := by
  unfold execAtsInvalidateComplete
  try dsimp only
  repeat' first
    | with_reducible assumption | with_reducible apply State.emit_form | with_reducible apply State.modIface_form
    | with_reducible apply nextForm_next | split | (simp only [form_mk]; refine ⟨?_, ?_, ?_⟩)
    | with_reducible apply ram_form | with_reducible apply host_form | with_reducible apply hy_form | intro _

theorem execPcieCompletionTimeout_form (cmd : Nat) (s : State) (hs : s.memOk = true) :
    nextForm (execPcieCompletionTimeout cmd s) := by
  unfold execPcieCompletionTimeout
  try dsimp only
  repeat' first
    | with_reducible assumption | with_reducible apply State.failCmd_form | with_reducible apply nextForm_next
    | with_reducible refine form_some (by assumption) ?_ | with_reducible refine form_some2 (by assumption) ?_ | split
    | intro _

theorem State.shrinkAsids_form (s : State) (vi old : Nat) (hs : s.memOk = true) :
    (State.shrinkAsids s vi old).memOk = true := by
  unfold State.shrinkAsids
  try dsimp only
  repeat' first
    | with_reducible assumption | with_reducible apply State.killPlot_form | with_reducible apply State.modIface_form
    | with_reducible apply State.tryEnd_form | with_reducible apply foldl_form | with_reducible apply foldl_form_snd
    | with_reducible refine form_some2p (by assumption) ?_ | with_reducible refine form_some (by assumption) ?_
    | split | (simp only [form_mk]; refine ⟨?_, ?_, ?_⟩) | with_reducible apply wf_filter
    | with_reducible apply ram_form | with_reducible apply host_form | with_reducible apply hy_form | intro _

theorem State.entryWrite_form (s : State) (vi k : Nat) (v : BitVec 64) (hs : s.memOk = true) :
    (State.entryWrite s vi k v).memOk = true := by
  unfold State.entryWrite
  try dsimp only
  repeat' first
    | with_reducible assumption | with_reducible apply State.disable_form | with_reducible apply State.modIface_form
    | with_reducible apply State.setIface_form | with_reducible apply State.shrinkAsids_form
    | with_reducible refine form_some (by assumption) ?_ | with_reducible refine form_some2 (by assumption) ?_ | split
    | (simp only [form_mk]; refine ⟨?_, ?_, ?_⟩) | with_reducible apply ram_form | with_reducible apply host_form
    | with_reducible apply hy_form | intro _

theorem execVientryWrite_form (vi k : Nat) (v : BitVec 64) (s : State) (hs : s.memOk = true) :
    nextForm (execVientryWrite vi k v s) := by
  unfold execVientryWrite
  try dsimp only
  repeat' first
    | with_reducible assumption | with_reducible apply State.disable_form | with_reducible apply State.entryWrite_form
    | with_reducible apply lockedWrite_form | with_reducible apply State.tdiError_form
    | with_reducible apply nextForm_next | split | intro _

theorem execSavepoolWrite_form (vi : Nat) (size : Bool) (v : BitVec 64) (s : State) (hs : s.memOk = true) :
    nextForm (execSavepoolWrite vi size v s) := by
  unfold execSavepoolWrite
  try dsimp only
  repeat' first
    | with_reducible assumption | with_reducible apply lockedWrite_form | with_reducible apply State.setIface_form
    | with_reducible apply nextForm_next | split | (simp only [form_mk]; refine ⟨?_, ?_, ?_⟩)
    | with_reducible apply ram_form | with_reducible apply host_form | with_reducible apply hy_form | intro _

theorem execRegisterWrite_form (r : HostReg) (v : BitVec 64) (trusted : Bool) (s : State) (hs : s.memOk = true) :
    nextForm (execRegisterWrite r v trusted s) := by
  unfold execRegisterWrite
  try dsimp only
  repeat' first
    | with_reducible assumption | with_reducible apply hostAccess_form | with_reducible apply State.modIface_form
    | with_reducible apply State.modQueue_form | with_reducible apply queueAccess_form
    | with_reducible apply nextForm_next | split | (simp only [form_mk]; refine ⟨?_, ?_, ?_⟩)
    | with_reducible apply ram_form | with_reducible apply host_form | with_reducible apply hy_form | intro _

end Sys2Proof.Machine
end

