-- ==== Sys2Proof/Laws/FormWorld.lean ====
section
/-! SUPPORT. Every definition of Machine/World.lean keeps the canonical form of the byte memories. -/

namespace Sys2Proof.Machine

theorem State.beginHandover_form (s : State) (c w : Nat) (hs : s.memOk = true) :
    (State.beginHandover s c w).memOk = true := by
  unfold State.beginHandover
  try dsimp only
  repeat' first
    | with_reducible assumption | with_reducible apply State.modCore_form | with_reducible apply foldl_form
    | with_reducible apply foldl_form_snd | with_reducible refine form_some (by assumption) ?_
    | with_reducible refine form_some2 (by assumption) ?_ | split | (simp only [form_mk]; refine ⟨?_, ?_, ?_⟩)
    | with_reducible apply ram_form | with_reducible apply host_form | with_reducible apply hy_form | intro _

theorem execWorldreq_form (v : BitVec 64) (s : State) (hs : s.memOk = true) :
    nextForm (execWorldreq v s) := by
  unfold execWorldreq
  try dsimp only
  repeat' first
    | with_reducible assumption | with_reducible apply State.beginHandover_form | with_reducible apply nextForm_next
    | split | (simp only [form_mk]; refine ⟨?_, ?_, ?_⟩) | with_reducible apply ram_form
    | with_reducible apply host_form | with_reducible apply hy_form | intro _

theorem execHandoverComplete_form (s : State) (hs : s.memOk = true) :
    nextForm (execHandoverComplete s) := by
  unfold execHandoverComplete
  try dsimp only
  repeat' first
    | with_reducible assumption | with_reducible apply State.count_form | with_reducible apply State.extendBy_form
    | with_reducible apply State.modCore_form | with_reducible apply nextForm_next | with_reducible apply foldl_form
    | with_reducible apply foldl_form_snd | with_reducible refine form_some (by assumption) ?_
    | with_reducible refine form_some2 (by assumption) ?_ | split | (simp only [form_mk]; refine ⟨?_, ?_, ?_⟩)
    | with_reducible apply ram_form | with_reducible apply host_form | with_reducible apply hy_form | intro _

theorem State.zeroChanged_form (s : State) (base : Nat) (old new : Nat × Nat) (hs : s.memOk = true) :
    (State.zeroChanged s base old new).memOk = true := by
  unfold State.zeroChanged
  try dsimp only
  repeat' first
    | with_reducible assumption | split | (simp only [form_mk]; refine ⟨?_, ?_, ?_⟩) | with_reducible apply wf_filter
    | with_reducible apply ram_form | with_reducible apply host_form | with_reducible apply hy_form | intro _

theorem execSealedRangeWrite_form (vi k : Nat) (v : BitVec 64) (s : State) (hs : s.memOk = true) :
    nextForm (execSealedRangeWrite vi k v s) := by
  unfold execSealedRangeWrite
  try dsimp only
  repeat' first
    | with_reducible assumption | with_reducible apply lockedWrite_form | with_reducible apply State.setIface_form
    | with_reducible apply State.zeroChanged_form | with_reducible apply nextForm_next
    | with_reducible refine form_snd (by assumption) ?_ | with_reducible refine form_snd3 (by assumption) ?_ | split
    | (simp only [form_mk]; refine ⟨?_, ?_, ?_⟩) | with_reducible apply ram_form | with_reducible apply host_form
    | with_reducible apply hy_form | intro _

theorem tdisp_form (s : State) (vi : Nat) (inError : Bool) (body : State → State) (hs : s.memOk = true) (hbody : ∀ y0, y0.memOk = true → (body y0).memOk = true) :
    nextForm (tdisp s vi inError body) := by
  unfold tdisp
  try dsimp only
  repeat' first
    | with_reducible assumption | with_reducible apply State.emit_form | with_reducible apply nextForm_next
    | with_reducible apply resForm_ok | with_reducible apply resForm_error | with_reducible apply resForm_bind
    | with_reducible apply hbody | split | intro _

theorem State.tdispErr_form (s : State) (vi : Nat) (hs : s.memOk = true) :
    (State.tdispErr s vi).memOk = true := by
  unfold State.tdispErr
  try dsimp only
  repeat' first
    | with_reducible assumption | with_reducible apply State.emit_form | with_reducible apply tdisp_form | split
    | intro _

theorem execGetTdispVersion_form (vi : Nat) (x1 : Bool) (s : State) (hs : s.memOk = true) :
    nextForm (execGetTdispVersion vi x1 s) := by
  unfold execGetTdispVersion
  try dsimp only
  repeat' first
    | with_reducible assumption | with_reducible apply State.emit_form | with_reducible apply tdisp_form
    | with_reducible apply nextForm_next | split | intro _

theorem execGetTdispCapabilities_form (vi : Nat) (x1 : Bool) (s : State) (hs : s.memOk = true) :
    nextForm (execGetTdispCapabilities vi x1 s) := by
  unfold execGetTdispCapabilities
  try dsimp only
  repeat' first
    | with_reducible assumption | with_reducible apply State.emit_form | with_reducible apply tdisp_form
    | with_reducible apply nextForm_next | split | intro _

theorem State.lockTdi_form (s : State) (vi : Nat) (hs : s.memOk = true) :
    (State.lockTdi s vi).memOk = true := by
  unfold State.lockTdi
  try dsimp only
  repeat' first
    | with_reducible assumption | with_reducible apply State.count_form | with_reducible apply State.emit_form
    | with_reducible apply State.extendBy_form | with_reducible apply State.modIface_form
    | with_reducible apply State.rekey_form | with_reducible apply tdisp_form | with_reducible apply State.used_form
    | split | (simp only [form_mk]; refine ⟨?_, ?_, ?_⟩) | with_reducible apply ram_form
    | with_reducible apply host_form | with_reducible apply hy_form | intro _

theorem execLockInterfaceRequest_form (vi : Nat) (pfSession : Bool) (s : State) (hs : s.memOk = true) :
    nextForm (execLockInterfaceRequest vi pfSession s) := by
  unfold execLockInterfaceRequest
  try dsimp only
  repeat' first
    | with_reducible assumption | with_reducible apply State.lockTdi_form | with_reducible apply tdisp_form
    | with_reducible apply State.tdispErr_form | with_reducible apply nextForm_next | split | intro _

theorem execGetDeviceInterfaceReport_form (vi : Nat) (x1 : Bool) (s : State) (hs : s.memOk = true) :
    nextForm (execGetDeviceInterfaceReport vi x1 s) := by
  unfold execGetDeviceInterfaceReport
  try dsimp only
  repeat' first
    | with_reducible assumption | with_reducible apply State.emit_form | with_reducible apply tdisp_form
    | with_reducible apply nextForm_next | split | intro _

theorem execGetDeviceInterfaceState_form (vi : Nat) (x1 : Bool) (s : State) (hs : s.memOk = true) :
    nextForm (execGetDeviceInterfaceState vi x1 s) := by
  unfold execGetDeviceInterfaceState
  try dsimp only
  repeat' first
    | with_reducible assumption | with_reducible apply State.emit_form | with_reducible apply tdisp_form
    | with_reducible apply nextForm_next | split | intro _

theorem execStartInterfaceRequest_form (vi : Nat) (pfSession : Bool) (nonce : BitVec 256) (s : State) (hs : s.memOk = true) :
    nextForm (execStartInterfaceRequest vi pfSession nonce s) := by
  unfold execStartInterfaceRequest
  try dsimp only
  repeat' first
    | with_reducible assumption | with_reducible apply State.emit_form | with_reducible apply State.setIface_form
    | with_reducible apply State.tdiError_form | with_reducible apply tdisp_form
    | with_reducible apply State.tdispErr_form | with_reducible apply nextForm_next | split
    | (simp only [form_mk]; refine ⟨?_, ?_, ?_⟩) | with_reducible apply ram_form | with_reducible apply host_form
    | with_reducible apply hy_form | intro _

theorem execStopInterfaceRequest_form (vi : Nat) (pfSession : Bool) (s : State) (hs : s.memOk = true) :
    nextForm (execStopInterfaceRequest vi pfSession s) := by
  unfold execStopInterfaceRequest
  try dsimp only
  repeat' first
    | with_reducible assumption | with_reducible apply State.emit_form | with_reducible apply State.killIface_form
    | with_reducible apply State.modIface_form | with_reducible apply State.stopTdi_form
    | with_reducible apply tdisp_form | with_reducible apply State.tdispErr_form | with_reducible apply nextForm_next
    | split | (simp only [form_mk]; refine ⟨?_, ?_, ?_⟩) | with_reducible apply ram_form
    | with_reducible apply host_form | with_reducible apply hy_form | intro _

theorem State.failStream_form (s : State) (vi : Nat) (hs : s.memOk = true) :
    (State.failStream s vi).memOk = true := by
  unfold State.failStream
  try dsimp only
  repeat' first
    | with_reducible assumption | with_reducible apply State.failCmd_form | with_reducible apply foldl_form
    | with_reducible apply foldl_form_snd | with_reducible refine form_some2p (by assumption) ?_
    | with_reducible refine form_some (by assumption) ?_ | with_reducible refine form_some (by assumption) ?_
    | with_reducible refine form_some2 (by assumption) ?_ | split | intro _

theorem execIdeStreamInsecure_form (vi : Nat) (s : State) (hs : s.memOk = true) :
    nextForm (execIdeStreamInsecure vi s) := by
  unfold execIdeStreamInsecure
  try dsimp only
  repeat' first
    | with_reducible assumption | with_reducible apply State.failStream_form
    | with_reducible apply State.modIface_form | with_reducible apply State.tdiError_form
    | with_reducible apply nextForm_next | split | (simp only [form_mk]; refine ⟨?_, ?_, ?_⟩)
    | with_reducible apply ram_form | with_reducible apply host_form | with_reducible apply hy_form | intro _

theorem execIdeKmRequest_form (vi : Nat) (s : State) (hs : s.memOk = true) :
    nextForm (execIdeKmRequest vi s) := by
  unfold execIdeKmRequest
  try dsimp only
  repeat' first
    | with_reducible assumption | with_reducible apply State.modIface_form | with_reducible apply nextForm_next
    | split | (simp only [form_mk]; refine ⟨?_, ?_, ?_⟩) | with_reducible apply ram_form
    | with_reducible apply host_form | with_reducible apply hy_form | intro _

theorem execStateBlockRewriteDone_form (world : Nat) (s : State) (hs : s.memOk = true) :
    nextForm (execStateBlockRewriteDone world s) := by
  unfold execStateBlockRewriteDone
  try dsimp only
  repeat' first
    | with_reducible assumption | with_reducible apply nextForm_next | split
    | (simp only [form_mk]; refine ⟨?_, ?_, ?_⟩) | with_reducible apply wf_filter | with_reducible apply ram_form
    | with_reducible apply host_form | with_reducible apply hy_form | intro _

theorem State.logWithheld_form (s : State) (requester : BitVec 16) (sel : BitVec 32) (vi : Nat) (hs : s.memOk = true) :
    (State.logWithheld s requester sel vi).memOk = true := by
  unfold State.logWithheld
  try dsimp only
  repeat' first
    | with_reducible assumption | with_reducible apply State.count_form | with_reducible apply State.place_form
    | with_reducible apply State.ramWrite_form | with_reducible apply State.setIface_form
    | with_reducible refine form_snd (by assumption) ?_ | with_reducible refine form_snd3 (by assumption) ?_
    | with_reducible refine form_some (by assumption) ?_ | with_reducible refine form_some2 (by assumption) ?_ | split
    | (simp only [form_mk]; refine ⟨?_, ?_, ?_⟩) | with_reducible apply ram_form | with_reducible apply host_form
    | with_reducible apply hy_form | intro _

theorem State.sample_form (s : State) (requester : BitVec 16) (sel : BitVec 32) (hs : s.memOk = true) :
    (State.sample s requester sel).2.2.memOk = true := by
  unfold State.sample
  try dsimp only
  repeat' first
    | with_reducible assumption | with_reducible apply State.logWithheld_form | with_reducible apply State.used_form
    | with_reducible apply foldl_form | with_reducible apply foldl_form_snd
    | with_reducible refine form_snd (by assumption) ?_ | with_reducible refine form_snd3 (by assumption) ?_ | split
    | intro _

theorem execTeldataRead_form (requester : BitVec 16) (s : State) (hs : s.memOk = true) :
    nextForm (execTeldataRead requester s) := by
  unfold execTeldataRead
  try dsimp only
  repeat' first
    | with_reducible assumption | with_reducible apply State.emit_form | with_reducible apply State.sample_form
    | with_reducible apply nextForm_next | with_reducible refine form_snd (by assumption) ?_
    | with_reducible refine form_snd3 (by assumption) ?_ | split | (simp only [form_mk]; refine ⟨?_, ?_, ?_⟩)
    | with_reducible apply ram_form | with_reducible apply host_form | with_reducible apply hy_form | intro _

end Sys2Proof.Machine
end

