-- ==== Sys2Proof/Laws/FormSpdm.lean ====
section
/-! SUPPORT. Every definition of Machine/Spdm.lean keeps the canonical form of the byte memories. -/

namespace Sys2Proof.Machine

theorem execMeasExtend_form (i : BitVec 32) (s : State) (hs : s.memOk = true) :
    nextForm (execMeasExtend i s) := by
  unfold execMeasExtend
  try dsimp only
  repeat' first
    | with_reducible assumption | with_reducible apply State.measExtend_form | with_reducible apply nextForm_next
    | split | intro _

theorem execLockbootWrite_form (v : BitVec 32) (s : State) (hs : s.memOk = true) :
    nextForm (execLockbootWrite v s) := by
  unfold execLockbootWrite
  try dsimp only
  repeat' first
    | with_reducible assumption | with_reducible apply State.lockBoot_form | with_reducible apply nextForm_next
    | split | intro _

theorem execRsplenWrite_form (fn : Nat) (v : BitVec 32) (s : State) (hs : s.memOk = true) :
    nextForm (execRsplenWrite fn v s) := by
  unfold execRsplenWrite
  try dsimp only
  repeat' first
    | with_reducible assumption | with_reducible apply State.rspLen_form | with_reducible apply nextForm_next | split
    | intro _

theorem execDoeRequestArrive_form (fn typ : Nat) (data : Bytes) (s : State) (hs : s.memOk = true) :
    nextForm (execDoeRequestArrive fn typ data s) := by
  unfold execDoeRequestArrive
  try dsimp only
  repeat' first
    | with_reducible assumption | with_reducible apply State.emit_form | with_reducible apply State.modResponder_form
    | with_reducible apply nextForm_next | split | (simp only [form_mk]; refine ⟨?_, ?_, ?_⟩)
    | with_reducible apply wf_wrBytes | with_reducible apply ram_form | with_reducible apply host_form
    | with_reducible apply hy_form | intro _

theorem execDoeAbort_form (fn : Nat) (s : State) (hs : s.memOk = true) :
    nextForm (execDoeAbort fn s) := by
  unfold execDoeAbort
  try dsimp only
  repeat' first
    | with_reducible assumption | with_reducible apply State.modResponder_form | with_reducible apply nextForm_next
    | split | (simp only [form_mk]; refine ⟨?_, ?_, ?_⟩) | with_reducible apply ram_form
    | with_reducible apply host_form | with_reducible apply hy_form | intro _

theorem State.spdmNonce_form (s : State) (hs : s.memOk = true) :
    (State.spdmNonce s).2.memOk = true := by
  unfold State.spdmNonce
  try dsimp only
  repeat' first
    | with_reducible assumption | with_reducible refine form_snd (by assumption) ?_
    | with_reducible refine form_snd3 (by assumption) ?_ | split | (simp only [form_mk]; refine ⟨?_, ?_, ?_⟩)
    | with_reducible apply ram_form | with_reducible apply host_form | with_reducible apply hy_form | intro _

theorem State.spdmBody_form (s : State) (code : Nat) (m : Bytes) (hs : s.memOk = true) :
    (State.spdmBody s code m).2.2.memOk = true := by
  unfold State.spdmBody
  try dsimp only
  repeat' first
    | with_reducible assumption | with_reducible apply State.spdmNonce_form | with_reducible apply State.used_form
    | with_reducible refine form_snd (by assumption) ?_ | with_reducible refine form_snd3 (by assumption) ?_
    | with_reducible refine form_some (by assumption) ?_ | with_reducible refine form_some2 (by assumption) ?_ | split
    | intro _

theorem State.spdmAnswer_form (s : State) (fn code : Nat) (m : Bytes) (hs : s.memOk = true) :
    (State.spdmAnswer s fn code m).memOk = true := by
  unfold State.spdmAnswer
  try dsimp only
  repeat' first
    | with_reducible assumption | with_reducible apply State.emit_form | with_reducible apply State.spdmBody_form
    | with_reducible refine form_snd (by assumption) ?_ | with_reducible refine form_snd3 (by assumption) ?_
    | with_reducible refine form_some (by assumption) ?_ | with_reducible refine form_some2 (by assumption) ?_ | split
    | (simp only [form_mk]; refine ⟨?_, ?_, ?_⟩) | with_reducible apply ram_form | with_reducible apply host_form
    | with_reducible apply hy_form | intro _

theorem State.spdmRequest_form (s : State) (fn : Nat) (m : Bytes) (hs : s.memOk = true) :
    (State.spdmRequest s fn m).memOk = true := by
  unfold State.spdmRequest
  try dsimp only
  repeat' first
    | with_reducible assumption | with_reducible apply State.emit_form | with_reducible apply State.spdmAnswer_form
    | split | intro _

theorem spdm_form (s : State) (fn code : Nat) (m : Bytes) (hs : s.memOk = true) :
    nextForm (spdm s fn code m) := by
  unfold spdm
  try dsimp only
  repeat' first
    | with_reducible assumption | with_reducible apply State.spdmRequest_form | with_reducible apply nextForm_next
    | split | intro _

theorem execGetVersion_form (fn : Nat) (msg : Bytes) (s : State) (hs : s.memOk = true) :
    nextForm (execGetVersion fn msg s) := by
  unfold execGetVersion
  try dsimp only
  repeat' first
    | with_reducible assumption | with_reducible apply spdm_form | with_reducible apply nextForm_next | split
    | intro _

theorem execGetCapabilities_form (fn : Nat) (msg : Bytes) (s : State) (hs : s.memOk = true) :
    nextForm (execGetCapabilities fn msg s) := by
  unfold execGetCapabilities
  try dsimp only
  repeat' first
    | with_reducible assumption | with_reducible apply spdm_form | with_reducible apply nextForm_next | split
    | intro _

theorem execNegotiateAlgorithms_form (fn : Nat) (msg : Bytes) (s : State) (hs : s.memOk = true) :
    nextForm (execNegotiateAlgorithms fn msg s) := by
  unfold execNegotiateAlgorithms
  try dsimp only
  repeat' first
    | with_reducible assumption | with_reducible apply spdm_form | with_reducible apply nextForm_next | split
    | intro _

theorem execGetDigests_form (fn : Nat) (msg : Bytes) (s : State) (hs : s.memOk = true) :
    nextForm (execGetDigests fn msg s) := by
  unfold execGetDigests
  try dsimp only
  repeat' first
    | with_reducible assumption | with_reducible apply spdm_form | with_reducible apply nextForm_next | split
    | intro _

theorem execGetCertificate_form (fn : Nat) (msg : Bytes) (s : State) (hs : s.memOk = true) :
    nextForm (execGetCertificate fn msg s) := by
  unfold execGetCertificate
  try dsimp only
  repeat' first
    | with_reducible assumption | with_reducible apply spdm_form | with_reducible apply nextForm_next | split
    | intro _

theorem execChallenge_form (fn : Nat) (msg : Bytes) (s : State) (hs : s.memOk = true) :
    nextForm (execChallenge fn msg s) := by
  unfold execChallenge
  try dsimp only
  repeat' first
    | with_reducible assumption | with_reducible apply spdm_form | with_reducible apply nextForm_next | split
    | intro _

theorem execGetMeasurements_form (fn : Nat) (msg : Bytes) (s : State) (hs : s.memOk = true) :
    nextForm (execGetMeasurements fn msg s) := by
  unfold execGetMeasurements
  try dsimp only
  repeat' first
    | with_reducible assumption | with_reducible apply spdm_form | with_reducible apply nextForm_next | split
    | intro _

theorem execKeyExchange_form (fn : Nat) (msg : Bytes) (s : State) (hs : s.memOk = true) :
    nextForm (execKeyExchange fn msg s) := by
  unfold execKeyExchange
  try dsimp only
  repeat' first
    | with_reducible assumption | with_reducible apply spdm_form | with_reducible apply nextForm_next | split
    | intro _

theorem execSetObservation_form (fn : Nat) (secured : Bool) (msg : Bytes) (s : State) (hs : s.memOk = true) :
    nextForm (execSetObservation fn secured msg s) := by
  unfold execSetObservation
  try dsimp only
  repeat' first
    | with_reducible assumption | with_reducible apply State.emit_form | with_reducible apply State.setIface_form
    | with_reducible apply spdm_form | with_reducible apply State.spdmBody_form | with_reducible apply State.used_form
    | with_reducible apply nextForm_next | with_reducible refine form_snd (by assumption) ?_
    | with_reducible refine form_snd3 (by assumption) ?_ | with_reducible refine form_some (by assumption) ?_
    | with_reducible refine form_some2 (by assumption) ?_ | split | (simp only [form_mk]; refine ⟨?_, ?_, ?_⟩)
    | with_reducible apply ram_form | with_reducible apply host_form | with_reducible apply hy_form | intro _

end Sys2Proof.Machine
end

