-- ==== Sys2Proof/Laws/FormFleet.lean ====
section
/-! SUPPORT. Every definition of Machine/Fleet.lean keeps the canonical form of the byte memories. -/

namespace Sys2Proof.Machine

theorem State.respond_form (s : State) (cmd : Nat) (tag : BitVec 16) (r : Reply) (hs : s.memOk = true) :
    (State.respond s cmd tag r).memOk = true := by
  unfold State.respond
  try dsimp only
  repeat' first
    | with_reducible assumption | with_reducible apply State.emit_form | split | intro _

theorem fleetCmd_form (s : State) (secured : Bool) (cmd : Nat) (tag : BitVec 16) (msg : Bytes) (bad : Bytes → Bool) (body : State → Bytes → Reply × State) (hs : s.memOk = true) (hbody : ∀ y0 y1, y0.memOk = true → (body y0 y1).2.memOk = true) :
    nextForm (fleetCmd s secured cmd tag msg bad body) := by
  unfold fleetCmd
  try dsimp only
  repeat' first
    | with_reducible assumption | with_reducible apply State.respond_form | with_reducible apply nextForm_next
    | with_reducible apply hbody | split | intro _

theorem applyIf_form (ok : Bool) (s t : State) (hs : s.memOk = true) (ht : t.memOk = true) :
    (applyIf ok s t).2.memOk = true := by
  unfold applyIf
  try dsimp only
  repeat' first
    | with_reducible assumption | with_reducible refine form_snd (by assumption) ?_
    | with_reducible refine form_snd3 (by assumption) ?_ | split | intro _

theorem State.rewritten_form (s t : State) (e : TableEntry) (hs : s.memOk = true) (ht : t.memOk = true) :
    (State.rewritten s t e).memOk = true := by
  unfold State.rewritten
  try dsimp only
  repeat' first
    | with_reducible assumption | with_reducible apply State.failTo_form | with_reducible apply foldl_form
    | with_reducible apply foldl_form_snd | with_reducible refine form_snd (by assumption) ?_
    | with_reducible refine form_snd3 (by assumption) ?_ | with_reducible refine form_some2p (by assumption) ?_
    | with_reducible refine form_some (by assumption) ?_ | split | intro _

theorem execSetrank_form (secured : Bool) (tag : BitVec 16) (msg : Bytes) (s : State) (hs : s.memOk = true) :
    nextForm (execSetrank secured tag msg s) := by
  unfold execSetrank
  try dsimp only
  repeat' first
    | with_reducible assumption | with_reducible apply applyIf_form | with_reducible apply fleetCmd_form
    | with_reducible apply nextForm_next | with_reducible refine form_snd (by assumption) ?_
    | with_reducible refine form_snd3 (by assumption) ?_ | split | (simp only [form_mk]; refine ⟨?_, ?_, ?_⟩)
    | with_reducible apply ram_form | with_reducible apply host_form | with_reducible apply hy_form | intro _

theorem execSetpod_form (secured : Bool) (tag : BitVec 16) (msg : Bytes) (s : State) (hs : s.memOk = true) :
    nextForm (execSetpod secured tag msg s) := by
  unfold execSetpod
  try dsimp only
  repeat' first
    | with_reducible assumption | with_reducible apply fleetCmd_form | with_reducible apply State.rewritten_form
    | with_reducible apply nextForm_next | split | (simp only [form_mk]; refine ⟨?_, ?_, ?_⟩)
    | with_reducible apply ram_form | with_reducible apply host_form | with_reducible apply hy_form | intro _

theorem execSetpath_form (secured : Bool) (tag : BitVec 16) (msg : Bytes) (s : State) (hs : s.memOk = true) :
    nextForm (execSetpath secured tag msg s) := by
  unfold execSetpath
  try dsimp only
  repeat' first
    | with_reducible assumption | with_reducible apply fleetCmd_form | with_reducible apply State.rewritten_form
    | with_reducible apply nextForm_next | split | (simp only [form_mk]; refine ⟨?_, ?_, ?_⟩)
    | with_reducible apply ram_form | with_reducible apply host_form | with_reducible apply hy_form | intro _

theorem execSetcam_form (secured : Bool) (tag : BitVec 16) (msg : Bytes) (s : State) (hs : s.memOk = true) :
    nextForm (execSetcam secured tag msg s) := by
  unfold execSetcam
  try dsimp only
  repeat' first
    | with_reducible assumption | with_reducible apply fleetCmd_form | with_reducible apply State.rewritten_form
    | with_reducible apply nextForm_next | split | (simp only [form_mk]; refine ⟨?_, ?_, ?_⟩)
    | with_reducible apply ram_form | with_reducible apply host_form | with_reducible apply hy_form | intro _

theorem execSetmember_form (secured : Bool) (tag : BitVec 16) (msg : Bytes) (s : State) (hs : s.memOk = true) :
    nextForm (execSetmember secured tag msg s) := by
  unfold execSetmember
  try dsimp only
  repeat' first
    | with_reducible assumption | with_reducible apply fleetCmd_form | with_reducible apply State.ramWrite_form
    | with_reducible apply State.rewritten_form | with_reducible apply nextForm_next | split | intro _

theorem State.zeroSpan_form (s : State) (a n : Nat) (hs : s.memOk = true) :
    (State.zeroSpan s a n).memOk = true := by
  unfold State.zeroSpan
  try dsimp only
  repeat' first
    | with_reducible assumption | split | (simp only [form_mk]; refine ⟨?_, ?_, ?_⟩) | with_reducible apply wf_filter
    | with_reducible apply ram_form | with_reducible apply host_form | with_reducible apply hy_form | intro _

theorem State.bindJob_form (s : State) (m : Bytes) (r : Roster) (hs : s.memOk = true) :
    (State.bindJob s m r).memOk = true := by
  unfold State.bindJob
  try dsimp only
  repeat' first
    | with_reducible assumption | with_reducible apply State.modIface_form | with_reducible apply State.ramWrite_form
    | with_reducible apply State.zeroSpan_form | with_reducible refine form_some (by assumption) ?_
    | with_reducible refine form_some2 (by assumption) ?_ | split | (simp only [form_mk]; refine ⟨?_, ?_, ?_⟩)
    | with_reducible apply ram_form | with_reducible apply host_form | with_reducible apply hy_form | intro _

theorem execJobset_form (secured : Bool) (tag : BitVec 16) (msg : Bytes) (s : State) (hs : s.memOk = true) :
    nextForm (execJobset secured tag msg s) := by
  unfold execJobset
  try dsimp only
  repeat' first
    | with_reducible assumption | with_reducible apply State.bindJob_form | with_reducible apply fleetCmd_form
    | with_reducible apply State.modIface_form | with_reducible apply nextForm_next
    | with_reducible refine form_some2p (by assumption) ?_ | with_reducible refine form_some (by assumption) ?_
    | with_reducible refine form_some (by assumption) ?_ | with_reducible refine form_some2 (by assumption) ?_ | split
    | (simp only [form_mk]; refine ⟨?_, ?_, ?_⟩) | with_reducible apply ram_form | with_reducible apply host_form
    | with_reducible apply hy_form | intro _

theorem State.departed_form (s : State) (vi : Nat) (job : BitVec 32) (ranks : List Nat) (hs : s.memOk = true) :
    (State.departed s vi job ranks).memOk = true := by
  unfold State.departed
  try dsimp only
  repeat' first
    | with_reducible assumption | with_reducible apply State.retryPackets_form | split
    | (simp only [form_mk]; refine ⟨?_, ?_, ?_⟩) | with_reducible apply wf_filter | with_reducible apply ram_form
    | with_reducible apply host_form | with_reducible apply hy_form | intro _

theorem State.applyRoster_form (s : State) (vi : Nat) (j : Job) (es : List RosterEntry) (hs : s.memOk = true) :
    (State.applyRoster s vi j es).memOk = true := by
  unfold State.applyRoster
  try dsimp only
  repeat' first
    | with_reducible assumption | with_reducible apply State.departed_form | with_reducible apply State.modIface_form
    | with_reducible apply State.rosterApplied_form | with_reducible apply foldl_form
    | with_reducible apply foldl_form_snd | with_reducible refine form_some2p (by assumption) ?_
    | with_reducible refine form_some (by assumption) ?_ | with_reducible refine form_some (by assumption) ?_
    | with_reducible refine form_some2 (by assumption) ?_ | split | (simp only [form_mk]; refine ⟨?_, ?_, ?_⟩)
    | with_reducible apply wf_filter | with_reducible apply ram_form | with_reducible apply host_form
    | with_reducible apply hy_form | intro _

theorem State.reachBuffered_form (s : State) (vi : Nat) (hs : s.memOk = true) :
    (State.reachBuffered s vi).memOk = true := by
  unfold State.reachBuffered
  try dsimp only
  repeat' first
    | with_reducible assumption | with_reducible refine form_some (by assumption) ?_
    | with_reducible refine form_some2 (by assumption) ?_ | split | (simp only [form_mk]; refine ⟨?_, ?_, ?_⟩)
    | with_reducible apply ram_form | with_reducible apply host_form | with_reducible apply hy_form | intro _

theorem execRoster_form (secured : Bool) (tag : BitVec 16) (msg : Bytes) (s : State) (hs : s.memOk = true) :
    nextForm (execRoster secured tag msg s) := by
  unfold execRoster
  try dsimp only
  repeat' first
    | with_reducible assumption | with_reducible apply State.applyRoster_form | with_reducible apply fleetCmd_form
    | with_reducible apply State.modIface_form | with_reducible apply State.reachBuffered_form
    | with_reducible apply State.respond_form | with_reducible apply nextForm_next
    | with_reducible refine form_snd (by assumption) ?_ | with_reducible refine form_snd3 (by assumption) ?_
    | with_reducible refine form_some (by assumption) ?_ | with_reducible refine form_some2 (by assumption) ?_ | split
    | (simp only [form_mk]; refine ⟨?_, ?_, ?_⟩) | with_reducible apply ram_form | with_reducible apply host_form
    | with_reducible apply hy_form | intro _

theorem State.tryBuffered_form (s : State) (vi : Nat) (xs : List (Bytes × BitVec 16)) (d : Bool) (hs : s.memOk = true) :
    (s.tryBuffered vi xs d).2.memOk = true := by
  induction xs generalizing s d with
  | nil => exact hs
  | cons x xs ih =>
    obtain ⟨es, tag⟩ := x
    cases d with
    | true => exact ih _ _ (State.respond_form _ _ _ _ hs)
    | false =>
      simp only [State.tryBuffered]
      split
      · exact hs
      · split
        · exact ih _ _ (State.respond_form _ _ _ _ hs)
        · exact ih _ _ (State.respond_form _ _ _ _ (State.applyRoster_form _ _ _ _ hs))

theorem execRosterBufferedApply_form (vi : Nat) (s : State) (hs : s.memOk = true) :
    nextForm (execRosterBufferedApply vi s) := by
  unfold execRosterBufferedApply
  try dsimp only
  repeat' first
    | with_reducible assumption | with_reducible apply State.modIface_form
    | with_reducible apply State.reachBuffered_form | with_reducible apply State.tryBuffered_form
    | with_reducible apply nextForm_next | with_reducible refine form_snd (by assumption) ?_
    | with_reducible refine form_snd3 (by assumption) ?_ | with_reducible refine form_some (by assumption) ?_
    | with_reducible refine form_some2 (by assumption) ?_ | split | (simp only [form_mk]; refine ⟨?_, ?_, ?_⟩)
    | with_reducible apply ram_form | with_reducible apply host_form | with_reducible apply hy_form | intro _

theorem execLogtail_form (secured : Bool) (tag : BitVec 16) (msg : Bytes) (s : State) (hs : s.memOk = true) :
    nextForm (execLogtail secured tag msg s) := by
  unfold execLogtail
  try dsimp only
  repeat' first
    | with_reducible assumption | with_reducible apply fleetCmd_form | with_reducible apply State.modIface_form
    | with_reducible apply State.ramWrite_form | with_reducible apply nextForm_next
    | with_reducible refine form_snd (by assumption) ?_ | with_reducible refine form_snd3 (by assumption) ?_
    | with_reducible refine form_some (by assumption) ?_ | with_reducible refine form_some2 (by assumption) ?_ | split
    | (simp only [form_mk]; refine ⟨?_, ?_, ?_⟩) | with_reducible apply ram_form | with_reducible apply host_form
    | with_reducible apply hy_form | intro _

theorem execLoginfo_form (secured : Bool) (tag : BitVec 16) (msg : Bytes) (s : State) (hs : s.memOk = true) :
    nextForm (execLoginfo secured tag msg s) := by
  unfold execLoginfo
  try dsimp only
  repeat' first
    | with_reducible assumption | with_reducible apply fleetCmd_form | with_reducible apply nextForm_next
    | with_reducible refine form_snd (by assumption) ?_ | with_reducible refine form_snd3 (by assumption) ?_
    | with_reducible refine form_some (by assumption) ?_ | with_reducible refine form_some2 (by assumption) ?_ | split
    | intro _

theorem execGetLifetimeBlock_form (block off : Nat) (s : State) (hs : s.memOk = true) :
    nextForm (execGetLifetimeBlock block off s) := by
  unfold execGetLifetimeBlock
  try dsimp only
  repeat' first
    | with_reducible assumption | with_reducible apply State.emit_form | with_reducible apply nextForm_next
    | with_reducible refine form_snd (by assumption) ?_ | with_reducible refine form_snd3 (by assumption) ?_
    | with_reducible refine form_some2p (by assumption) ?_ | with_reducible refine form_some (by assumption) ?_
    | split | intro _

theorem State.flushLife_form (s : State) (hs : s.memOk = true) :
    (State.flushLife s).memOk = true := by
  unfold State.flushLife
  try dsimp only
  repeat' first
    | with_reducible assumption | with_reducible apply State.stored_form | with_reducible apply foldl_form
    | with_reducible apply foldl_form_snd | split | (simp only [form_mk]; refine ⟨?_, ?_, ?_⟩)
    | with_reducible apply ram_form | with_reducible apply host_form | with_reducible apply hy_form | intro _

theorem execLifetimeFlush_form (s : State) (hs : s.memOk = true) :
    nextForm (execLifetimeFlush s) := by
  unfold execLifetimeFlush
  try dsimp only
  repeat' first
    | with_reducible assumption | with_reducible apply State.flushLife_form | with_reducible apply nextForm_next
    | split | intro _

theorem execOrderlyPowerDown_form (s : State) (hs : s.memOk = true) :
    nextForm (execOrderlyPowerDown s) := by
  unfold execOrderlyPowerDown
  try dsimp only
  repeat' first
    | with_reducible assumption | with_reducible apply State.flushLife_form | with_reducible apply nextForm_next
    | split | (simp only [form_mk]; refine ⟨?_, ?_, ?_⟩) | with_reducible apply ram_form
    | with_reducible apply host_form | with_reducible apply hy_form | intro _

theorem execPackageReset_form (s : State) (hs : s.memOk = true) : nextForm (execPackageReset s) := by
  unfold execPackageReset
  exact nextForm_next (State.count_form _ _ _ (form_mk.mpr ⟨rfl, host_form hs, wf_filter _ _ (hy_form hs)⟩))

theorem execThermalThrottle_form (s : State) (hs : s.memOk = true) :
    nextForm (execThermalThrottle s) := by
  unfold execThermalThrottle
  try dsimp only
  repeat' first
    | with_reducible assumption | with_reducible apply nextForm_next | split
    | (simp only [form_mk]; refine ⟨?_, ?_, ?_⟩) | with_reducible apply ram_form | with_reducible apply host_form
    | with_reducible apply hy_form | intro _

theorem execThrottleEnd_form (s : State) (hs : s.memOk = true) :
    nextForm (execThrottleEnd s) := by
  unfold execThrottleEnd
  try dsimp only
  repeat' first
    | with_reducible assumption | with_reducible apply nextForm_next | split
    | (simp only [form_mk]; refine ⟨?_, ?_, ?_⟩) | with_reducible apply ram_form | with_reducible apply host_form
    | with_reducible apply hy_form | intro _

theorem execThermalTrip_form (s : State) (hs : s.memOk = true) :
    nextForm (execThermalTrip s) := by
  unfold execThermalTrip
  try dsimp only
  repeat' first
    | with_reducible assumption | with_reducible apply State.count_form | with_reducible apply nextForm_next | split
    | (simp only [form_mk]; refine ⟨?_, ?_, ?_⟩) | with_reducible apply ram_form | with_reducible apply host_form
    | with_reducible apply hy_form | intro _

theorem execPowerLoss_form (s : State) (hs : s.memOk = true) :
    nextForm (execPowerLoss s) := by
  unfold execPowerLoss
  try dsimp only
  repeat' first
    | with_reducible assumption | with_reducible apply nextForm_next | split
    | (simp only [form_mk]; refine ⟨?_, ?_, ?_⟩) | with_reducible apply ram_form | with_reducible apply host_form
    | with_reducible apply hy_form | intro _

theorem execLinkRetrain_form (link : Nat) (s : State) (hs : s.memOk = true) :
    nextForm (execLinkRetrain link s) := by
  unfold execLinkRetrain
  try dsimp only
  repeat' first
    | with_reducible assumption | with_reducible apply State.count_form | with_reducible apply State.emit_form
    | with_reducible apply nextForm_next | split | intro _

end Sys2Proof.Machine
end

