-- ==== Sys2Proof/Laws/FormInteger.lean ====
section
/-! SUPPORT. Every definition of Machine/Integer.lean keeps the canonical form of the byte memories. -/

namespace Sys2Proof.Machine

theorem execIaddV_form (d a b : VReg) (g : PReg) (s : State) (hs : s.memOk = true) :
    nextForm (execIaddV d a b g s) := by
  unfold execIaddV
  try dsimp only
  repeat' first
    | with_reducible assumption | with_reducible apply vecInt_form | with_reducible apply nextForm_next | split
    | intro _

theorem execIsubV_form (d a b : VReg) (g : PReg) (s : State) (hs : s.memOk = true) :
    nextForm (execIsubV d a b g s) := by
  unfold execIsubV
  try dsimp only
  repeat' first
    | with_reducible assumption | with_reducible apply vecInt_form | with_reducible apply nextForm_next | split
    | intro _

theorem execImulV_form (d a b : VReg) (g : PReg) (s : State) (hs : s.memOk = true) :
    nextForm (execImulV d a b g s) := by
  unfold execImulV
  try dsimp only
  repeat' first
    | with_reducible assumption | with_reducible apply vecInt_form | with_reducible apply nextForm_next | split
    | intro _

theorem execIaddiV_form (d a : VReg) (i : Imm7) (g : PReg) (s : State) (hs : s.memOk = true) :
    nextForm (execIaddiV d a i g s) := by
  unfold execIaddiV
  try dsimp only
  repeat' first
    | with_reducible assumption | with_reducible apply vecInt_form | with_reducible apply nextForm_next | split
    | intro _

theorem execAndV_form (d a b : VReg) (g : PReg) (s : State) (hs : s.memOk = true) :
    nextForm (execAndV d a b g s) := by
  unfold execAndV
  try dsimp only
  repeat' first
    | with_reducible assumption | with_reducible apply vecInt_form | with_reducible apply nextForm_next | split
    | intro _

theorem execOrV_form (d a b : VReg) (g : PReg) (s : State) (hs : s.memOk = true) :
    nextForm (execOrV d a b g s) := by
  unfold execOrV
  try dsimp only
  repeat' first
    | with_reducible assumption | with_reducible apply vecInt_form | with_reducible apply nextForm_next | split
    | intro _

theorem execXorV_form (d a b : VReg) (g : PReg) (s : State) (hs : s.memOk = true) :
    nextForm (execXorV d a b g s) := by
  unfold execXorV
  try dsimp only
  repeat' first
    | with_reducible assumption | with_reducible apply vecInt_form | with_reducible apply nextForm_next | split
    | intro _

theorem execShlV_form (d a b : VReg) (g : PReg) (s : State) (hs : s.memOk = true) :
    nextForm (execShlV d a b g s) := by
  unfold execShlV
  try dsimp only
  repeat' first
    | with_reducible assumption | with_reducible apply vecInt_form | with_reducible apply nextForm_next | split
    | intro _

theorem execShrZ32V_form (d a b : VReg) (g : PReg) (s : State) (hs : s.memOk = true) :
    nextForm (execShrZ32V d a b g s) := by
  unfold execShrZ32V
  try dsimp only
  repeat' first
    | with_reducible assumption | with_reducible apply vecInt_form | with_reducible apply nextForm_next | split
    | intro _

theorem execImulhV_form (sg : Bool) (d a b : VReg) (g : PReg) (s : State) (hs : s.memOk = true) :
    nextForm (execImulhV sg d a b g s) := by
  unfold execImulhV
  try dsimp only
  repeat' first
    | with_reducible assumption | with_reducible apply vecInt_form | with_reducible apply nextForm_next | split
    | intro _

theorem execIdivV_form (sg : Bool) (d a b : VReg) (g : PReg) (s : State) (hs : s.memOk = true) :
    nextForm (execIdivV sg d a b g s) := by
  unfold execIdivV
  try dsimp only
  repeat' first
    | with_reducible assumption | with_reducible apply vecInt_form | with_reducible apply nextForm_next
    | with_reducible refine form_snd (by assumption) ?_ | with_reducible refine form_snd3 (by assumption) ?_ | split
    | intro _

theorem execIremV_form (sg : Bool) (d a b : VReg) (g : PReg) (s : State) (hs : s.memOk = true) :
    nextForm (execIremV sg d a b g s) := by
  unfold execIremV
  try dsimp only
  repeat' first
    | with_reducible assumption | with_reducible apply vecInt_form | with_reducible apply nextForm_next
    | with_reducible refine form_snd (by assumption) ?_ | with_reducible refine form_snd3 (by assumption) ?_ | split
    | intro _

theorem execIminV_form (sg : Bool) (d a b : VReg) (g : PReg) (s : State) (hs : s.memOk = true) :
    nextForm (execIminV sg d a b g s) := by
  unfold execIminV
  try dsimp only
  repeat' first
    | with_reducible assumption | with_reducible apply vecInt_form | with_reducible apply nextForm_next | split
    | intro _

theorem execImaxV_form (sg : Bool) (d a b : VReg) (g : PReg) (s : State) (hs : s.memOk = true) :
    nextForm (execImaxV sg d a b g s) := by
  unfold execImaxV
  try dsimp only
  repeat' first
    | with_reducible assumption | with_reducible apply vecInt_form | with_reducible apply nextForm_next | split
    | intro _

theorem execShrS32V_form (d a b : VReg) (g : PReg) (s : State) (hs : s.memOk = true) :
    nextForm (execShrS32V d a b g s) := by
  unfold execShrS32V
  try dsimp only
  repeat' first
    | with_reducible assumption | with_reducible apply vecInt_form | with_reducible apply nextForm_next | split
    | intro _

theorem execRotlV_form (d a b : VReg) (g : PReg) (s : State) (hs : s.memOk = true) :
    nextForm (execRotlV d a b g s) := by
  unfold execRotlV
  try dsimp only
  repeat' first
    | with_reducible assumption | with_reducible apply vecInt_form | with_reducible apply nextForm_next | split
    | intro _

theorem execMovlV_form (d : VReg) (v : BitVec 30) (g : PReg) (s : State) (hs : s.memOk = true) :
    nextForm (execMovlV d v g s) := by
  unfold execMovlV
  try dsimp only
  repeat' first
    | with_reducible assumption | with_reducible apply vecInt_form | with_reducible apply nextForm_next | split
    | intro _

theorem execBfx_form (d a : VReg) (pos : BitVec 5) (len : BitVec 6) (sg : Bool) (g : PReg) (s : State) (hs : s.memOk = true) :
    nextForm (execBfx d a pos len sg g s) := by
  unfold execBfx
  try dsimp only
  repeat' first
    | with_reducible assumption | with_reducible apply vecInt_form | with_reducible apply nextForm_next | split
    | intro _

theorem execBfi_form (d a : VReg) (pos : BitVec 5) (len : BitVec 6) (g : PReg) (s : State) (hs : s.memOk = true) :
    nextForm (execBfi d a pos len g s) := by
  unfold execBfi
  try dsimp only
  repeat' first
    | with_reducible assumption | with_reducible apply vecInt_form | with_reducible apply nextForm_next | split
    | intro _

theorem execMov_form (d a : VReg) (g : PReg) (s : State) (hs : s.memOk = true) :
    nextForm (execMov d a g s) := by
  unfold execMov
  try dsimp only
  repeat' first
    | with_reducible assumption | with_reducible apply vecInt_form | with_reducible apply nextForm_next | split
    | intro _

theorem execNot_form (d a : VReg) (g : PReg) (s : State) (hs : s.memOk = true) :
    nextForm (execNot d a g s) := by
  unfold execNot
  try dsimp only
  repeat' first
    | with_reducible assumption | with_reducible apply vecInt_form | with_reducible apply nextForm_next | split
    | intro _

theorem execNeg_form (d a : VReg) (g : PReg) (s : State) (hs : s.memOk = true) :
    nextForm (execNeg d a g s) := by
  unfold execNeg
  try dsimp only
  repeat' first
    | with_reducible assumption | with_reducible apply vecInt_form | with_reducible apply nextForm_next | split
    | intro _

theorem execIabs_form (d a : VReg) (g : PReg) (s : State) (hs : s.memOk = true) :
    nextForm (execIabs d a g s) := by
  unfold execIabs
  try dsimp only
  repeat' first
    | with_reducible assumption | with_reducible apply vecInt_form | with_reducible apply nextForm_next | split
    | intro _

theorem execPopc_form (d a : VReg) (g : PReg) (s : State) (hs : s.memOk = true) :
    nextForm (execPopc d a g s) := by
  unfold execPopc
  try dsimp only
  repeat' first
    | with_reducible assumption | with_reducible apply vecInt_form | with_reducible apply nextForm_next | split
    | intro _

theorem execClz_form (d a : VReg) (g : PReg) (s : State) (hs : s.memOk = true) :
    nextForm (execClz d a g s) := by
  unfold execClz
  try dsimp only
  repeat' first
    | with_reducible assumption | with_reducible apply vecInt_form | with_reducible apply nextForm_next | split
    | intro _

theorem execBrev_form (d a : VReg) (g : PReg) (s : State) (hs : s.memOk = true) :
    nextForm (execBrev d a g s) := by
  unfold execBrev
  try dsimp only
  repeat' first
    | with_reducible assumption | with_reducible apply vecInt_form | with_reducible apply nextForm_next | split
    | intro _

theorem execSext8_form (d a : VReg) (g : PReg) (s : State) (hs : s.memOk = true) :
    nextForm (execSext8 d a g s) := by
  unfold execSext8
  try dsimp only
  repeat' first
    | with_reducible assumption | with_reducible apply vecInt_form | with_reducible apply nextForm_next | split
    | intro _

theorem execSext16_form (d a : VReg) (g : PReg) (s : State) (hs : s.memOk = true) :
    nextForm (execSext16 d a g s) := by
  unfold execSext16
  try dsimp only
  repeat' first
    | with_reducible assumption | with_reducible apply vecInt_form | with_reducible apply nextForm_next | split
    | intro _

theorem execLaneid_form (d : VReg) (g : PReg) (s : State) (hs : s.memOk = true) :
    nextForm (execLaneid d g s) := by
  unfold execLaneid
  try dsimp only
  repeat' first
    | with_reducible assumption | with_reducible apply vecRows_form | with_reducible apply nextForm_next | split
    | intro _

theorem scal2_form (s : State) (lits : Nat) (d a b : SReg) (g : PReg) (fn : Nat → Nat → Nat) (hs : s.memOk = true) :
    nextForm (scal2 s lits d a b g fn) := by
  unfold scal2
  try dsimp only
  repeat' first
    | with_reducible assumption | with_reducible apply scalOp_form | with_reducible apply nextForm_next | split
    | intro _

theorem execIaddS_form (d a b : SReg) (g : PReg) (s : State) (hs : s.memOk = true) :
    nextForm (execIaddS d a b g s) := by
  unfold execIaddS
  try dsimp only
  repeat' first
    | with_reducible assumption | with_reducible apply scal2_form | with_reducible apply nextForm_next | split
    | intro _

theorem execIsubS_form (d a b : SReg) (g : PReg) (s : State) (hs : s.memOk = true) :
    nextForm (execIsubS d a b g s) := by
  unfold execIsubS
  try dsimp only
  repeat' first
    | with_reducible assumption | with_reducible apply scal2_form | with_reducible apply nextForm_next | split
    | intro _

theorem execIaddiS_form (d a : SReg) (i : Imm7) (g : PReg) (s : State) (hs : s.memOk = true) :
    nextForm (execIaddiS d a i g s) := by
  unfold execIaddiS
  try dsimp only
  repeat' first
    | with_reducible assumption | with_reducible apply scalOp_form | with_reducible apply nextForm_next | split
    | intro _

theorem execImulS_form (d a b : SReg) (g : PReg) (s : State) (hs : s.memOk = true) :
    nextForm (execImulS d a b g s) := by
  unfold execImulS
  try dsimp only
  repeat' first
    | with_reducible assumption | with_reducible apply scal2_form | with_reducible apply nextForm_next | split
    | intro _

theorem execMovlS_form (d : SReg) (v : BitVec 60) (g : PReg) (s : State) (hs : s.memOk = true) :
    nextForm (execMovlS d v g s) := by
  unfold execMovlS
  try dsimp only
  repeat' first
    | with_reducible assumption | with_reducible apply scalOp_form | with_reducible apply nextForm_next | split
    | intro _

theorem execImulhS_form (sg : Bool) (d a b : SReg) (g : PReg) (s : State) (hs : s.memOk = true) :
    nextForm (execImulhS sg d a b g s) := by
  unfold execImulhS
  try dsimp only
  repeat' first
    | with_reducible assumption | with_reducible apply scal2_form | with_reducible apply nextForm_next | split
    | intro _

theorem execIdivS_form (sg : Bool) (d a b : SReg) (g : PReg) (s : State) (hs : s.memOk = true) :
    nextForm (execIdivS sg d a b g s) := by
  unfold execIdivS
  try dsimp only
  repeat' first
    | with_reducible assumption | with_reducible apply scal2_form | with_reducible apply nextForm_next
    | with_reducible refine form_snd (by assumption) ?_ | with_reducible refine form_snd3 (by assumption) ?_ | split
    | intro _

theorem execIremS_form (sg : Bool) (d a b : SReg) (g : PReg) (s : State) (hs : s.memOk = true) :
    nextForm (execIremS sg d a b g s) := by
  unfold execIremS
  try dsimp only
  repeat' first
    | with_reducible assumption | with_reducible apply scal2_form | with_reducible apply nextForm_next
    | with_reducible refine form_snd (by assumption) ?_ | with_reducible refine form_snd3 (by assumption) ?_ | split
    | intro _

theorem execIminS_form (sg : Bool) (d a b : SReg) (g : PReg) (s : State) (hs : s.memOk = true) :
    nextForm (execIminS sg d a b g s) := by
  unfold execIminS
  try dsimp only
  repeat' first
    | with_reducible assumption | with_reducible apply scal2_form | with_reducible apply nextForm_next | split
    | intro _

theorem execImaxS_form (sg : Bool) (d a b : SReg) (g : PReg) (s : State) (hs : s.memOk = true) :
    nextForm (execImaxS sg d a b g s) := by
  unfold execImaxS
  try dsimp only
  repeat' first
    | with_reducible assumption | with_reducible apply scal2_form | with_reducible apply nextForm_next | split
    | intro _

theorem execShrS32S_form (d a b : SReg) (g : PReg) (s : State) (hs : s.memOk = true) :
    nextForm (execShrS32S d a b g s) := by
  unfold execShrS32S
  try dsimp only
  repeat' first
    | with_reducible assumption | with_reducible apply scal2_form | with_reducible apply nextForm_next | split
    | intro _

theorem execRotlS_form (d a b : SReg) (g : PReg) (s : State) (hs : s.memOk = true) :
    nextForm (execRotlS d a b g s) := by
  unfold execRotlS
  try dsimp only
  repeat' first
    | with_reducible assumption | with_reducible apply scal2_form | with_reducible apply nextForm_next | split
    | intro _

theorem execAndS_form (d a b : SReg) (g : PReg) (s : State) (hs : s.memOk = true) :
    nextForm (execAndS d a b g s) := by
  unfold execAndS
  try dsimp only
  repeat' first
    | with_reducible assumption | with_reducible apply scal2_form | with_reducible apply nextForm_next | split
    | intro _

theorem execOrS_form (d a b : SReg) (g : PReg) (s : State) (hs : s.memOk = true) :
    nextForm (execOrS d a b g s) := by
  unfold execOrS
  try dsimp only
  repeat' first
    | with_reducible assumption | with_reducible apply scal2_form | with_reducible apply nextForm_next | split
    | intro _

theorem execXorS_form (d a b : SReg) (g : PReg) (s : State) (hs : s.memOk = true) :
    nextForm (execXorS d a b g s) := by
  unfold execXorS
  try dsimp only
  repeat' first
    | with_reducible assumption | with_reducible apply scal2_form | with_reducible apply nextForm_next | split
    | intro _

theorem execShlS_form (d a b : SReg) (g : PReg) (s : State) (hs : s.memOk = true) :
    nextForm (execShlS d a b g s) := by
  unfold execShlS
  try dsimp only
  repeat' first
    | with_reducible assumption | with_reducible apply scal2_form | with_reducible apply nextForm_next | split
    | intro _

theorem execShrZ32S_form (d a b : SReg) (g : PReg) (s : State) (hs : s.memOk = true) :
    nextForm (execShrZ32S d a b g s) := by
  unfold execShrZ32S
  try dsimp only
  repeat' first
    | with_reducible assumption | with_reducible apply scal2_form | with_reducible apply nextForm_next | split
    | intro _

end Sys2Proof.Machine
end

