-- ==== Sys2Proof/Laws/FormFloatInstr.lean ====
section
/-! SUPPORT. Every definition of Machine/FloatInstr.lean keeps the canonical form of the byte memories. -/

namespace Sys2Proof.Machine

theorem execFadd_form (d a b : VReg) (g : PReg) (s : State) (hs : s.memOk = true) :
    nextForm (execFadd d a b g s) := by
  unfold execFadd
  try dsimp only
  repeat' first
    | with_reducible assumption | with_reducible apply onlineOp_form | with_reducible apply nextForm_next | split
    | intro _

theorem execFmul_form (d a b : VReg) (g : PReg) (s : State) (hs : s.memOk = true) :
    nextForm (execFmul d a b g s) := by
  unfold execFmul
  try dsimp only
  repeat' first
    | with_reducible assumption | with_reducible apply onlineOp_form | with_reducible apply nextForm_next | split
    | intro _

theorem execFdiv_form (d a b : VReg) (g : PReg) (s : State) (hs : s.memOk = true) :
    nextForm (execFdiv d a b g s) := by
  unfold execFdiv
  try dsimp only
  repeat' first
    | with_reducible assumption | with_reducible apply onlineOp_form | with_reducible apply nextForm_next | split
    | intro _

theorem execFmin_form (d a b : VReg) (g : PReg) (s : State) (hs : s.memOk = true) :
    nextForm (execFmin d a b g s) := by
  unfold execFmin
  try dsimp only
  repeat' first
    | with_reducible assumption | with_reducible apply onlineOp_form | with_reducible apply nextForm_next | split
    | intro _

theorem execFmax_form (d a b : VReg) (g : PReg) (s : State) (hs : s.memOk = true) :
    nextForm (execFmax d a b g s) := by
  unfold execFmax
  try dsimp only
  repeat' first
    | with_reducible assumption | with_reducible apply onlineOp_form | with_reducible apply nextForm_next | split
    | intro _

theorem execFmaxz_form (d a : VReg) (g : PReg) (s : State) (hs : s.memOk = true) :
    nextForm (execFmaxz d a g s) := by
  unfold execFmaxz
  try dsimp only
  repeat' first
    | with_reducible assumption | with_reducible apply onlineOp_form | with_reducible apply nextForm_next | split
    | intro _

theorem execFminz_form (d a : VReg) (g : PReg) (s : State) (hs : s.memOk = true) :
    nextForm (execFminz d a g s) := by
  unfold execFminz
  try dsimp only
  repeat' first
    | with_reducible assumption | with_reducible apply onlineOp_form | with_reducible apply nextForm_next | split
    | intro _

theorem execFfma_form (k : BitVec 3) (d a b : VReg) (g : PReg) (s : State) (hs : s.memOk = true) :
    nextForm (execFfma k d a b g s) := by
  unfold execFfma
  try dsimp only
  repeat' first
    | with_reducible assumption | with_reducible apply onlineOp_form | with_reducible apply nextForm_next | split
    | intro _

theorem execFsetk_form (d a : VReg) (c : BitVec 4) (g : PReg) (s : State) (hs : s.memOk = true) :
    nextForm (execFsetk d a c g s) := by
  unfold execFsetk
  try dsimp only
  repeat' first
    | with_reducible assumption | with_reducible apply onlineOp_form | with_reducible apply nextForm_next | split
    | intro _

theorem execFaddLong_form (r : Rnd) (d a b : VReg) (g : PReg) (s : State) (hs : s.memOk = true) :
    nextForm (execFaddLong r d a b g s) := by
  unfold execFaddLong
  try dsimp only
  repeat' first
    | with_reducible assumption | with_reducible apply onlineOp_form | with_reducible apply nextForm_next | split
    | intro _

theorem execFsub_form (r : Rnd) (d a b : VReg) (g : PReg) (s : State) (hs : s.memOk = true) :
    nextForm (execFsub r d a b g s) := by
  unfold execFsub
  try dsimp only
  repeat' first
    | with_reducible assumption | with_reducible apply onlineOp_form | with_reducible apply nextForm_next | split
    | intro _

theorem execFmulLong_form (r : Rnd) (d a b : VReg) (g : PReg) (s : State) (hs : s.memOk = true) :
    nextForm (execFmulLong r d a b g s) := by
  unfold execFmulLong
  try dsimp only
  repeat' first
    | with_reducible assumption | with_reducible apply onlineOp_form | with_reducible apply nextForm_next | split
    | intro _

theorem execFfmaLong_form (r : Rnd) (d a b c : VReg) (g : PReg) (s : State) (hs : s.memOk = true) :
    nextForm (execFfmaLong r d a b c g s) := by
  unfold execFfmaLong
  try dsimp only
  repeat' first
    | with_reducible assumption | with_reducible apply onlineOp_form | with_reducible apply nextForm_next | split
    | intro _

theorem execFdivLong_form (r : Rnd) (d a b : VReg) (g : PReg) (s : State) (hs : s.memOk = true) :
    nextForm (execFdivLong r d a b g s) := by
  unfold execFdivLong
  try dsimp only
  repeat' first
    | with_reducible assumption | with_reducible apply onlineOp_form | with_reducible apply nextForm_next | split
    | intro _

theorem execFfms_form (r : Rnd) (d a b c : VReg) (g : PReg) (s : State) (hs : s.memOk = true) :
    nextForm (execFfms r d a b c g s) := by
  unfold execFfms
  try dsimp only
  repeat' first
    | with_reducible assumption | with_reducible apply onlineOp_form | with_reducible apply nextForm_next | split
    | intro _

theorem execFnma_form (r : Rnd) (d a b c : VReg) (g : PReg) (s : State) (hs : s.memOk = true) :
    nextForm (execFnma r d a b c g s) := by
  unfold execFnma
  try dsimp only
  repeat' first
    | with_reducible assumption | with_reducible apply onlineOp_form | with_reducible apply nextForm_next | split
    | intro _

theorem execFminLong_form (r : Rnd) (d a b : VReg) (g : PReg) (s : State) (hs : s.memOk = true) :
    nextForm (execFminLong r d a b g s) := by
  unfold execFminLong
  try dsimp only
  repeat' first
    | with_reducible assumption | with_reducible apply onlineOp_form | with_reducible apply nextForm_next | split
    | intro _

theorem execFmaxLong_form (r : Rnd) (d a b : VReg) (g : PReg) (s : State) (hs : s.memOk = true) :
    nextForm (execFmaxLong r d a b g s) := by
  unfold execFmaxLong
  try dsimp only
  repeat' first
    | with_reducible assumption | with_reducible apply onlineOp_form | with_reducible apply nextForm_next | split
    | intro _

theorem execFsqrt_form (r : Rnd) (d a : VReg) (g : PReg) (s : State) (hs : s.memOk = true) :
    nextForm (execFsqrt r d a g s) := by
  unfold execFsqrt
  try dsimp only
  repeat' first
    | with_reducible assumption | with_reducible apply onlineOp_form | with_reducible apply nextForm_next | split
    | intro _

theorem execFrcp_form (r : Rnd) (d a : VReg) (g : PReg) (s : State) (hs : s.memOk = true) :
    nextForm (execFrcp r d a g s) := by
  unfold execFrcp
  try dsimp only
  repeat' first
    | with_reducible assumption | with_reducible apply onlineOp_form | with_reducible apply nextForm_next | split
    | intro _

theorem execFset_form (d : PReg) (a b : VReg) (c : BitVec 4) (g : PReg) (s : State) (hs : s.memOk = true) :
    nextForm (execFset d a b c g s) := by
  unfold execFset
  try dsimp only
  repeat' first
    | with_reducible assumption | with_reducible apply predOp_form | with_reducible apply nextForm_next | split
    | intro _

theorem unary_form (s : State) (d a : VReg) (g : PReg) (fn : FVal → FRes) (hs : s.memOk = true) :
    nextForm (unary s d a g fn) := by
  unfold unary
  try dsimp only
  repeat' first
    | with_reducible assumption | with_reducible apply vecOp_form | with_reducible apply nextForm_next | split
    | intro _

theorem execFrsq_form (r : Rnd) (d a : VReg) (g : PReg) (s : State) (hs : s.memOk = true) :
    nextForm (execFrsq r d a g s) := by
  unfold execFrsq
  try dsimp only
  repeat' first
    | with_reducible assumption | with_reducible apply unary_form | with_reducible apply nextForm_next | split
    | intro _

theorem execFexp2_form (r : Rnd) (d a : VReg) (g : PReg) (s : State) (hs : s.memOk = true) :
    nextForm (execFexp2 r d a g s) := by
  unfold execFexp2
  try dsimp only
  repeat' first
    | with_reducible assumption | with_reducible apply unary_form | with_reducible apply nextForm_next | split
    | intro _

theorem execFlog2_form (r : Rnd) (d a : VReg) (g : PReg) (s : State) (hs : s.memOk = true) :
    nextForm (execFlog2 r d a g s) := by
  unfold execFlog2
  try dsimp only
  repeat' first
    | with_reducible assumption | with_reducible apply unary_form | with_reducible apply nextForm_next | split
    | intro _

theorem execFsin_form (r : Rnd) (d a : VReg) (g : PReg) (s : State) (hs : s.memOk = true) :
    nextForm (execFsin r d a g s) := by
  unfold execFsin
  try dsimp only
  repeat' first
    | with_reducible assumption | with_reducible apply unary_form | with_reducible apply nextForm_next | split
    | intro _

theorem execFcos_form (r : Rnd) (d a : VReg) (g : PReg) (s : State) (hs : s.memOk = true) :
    nextForm (execFcos r d a g s) := by
  unfold execFcos
  try dsimp only
  repeat' first
    | with_reducible assumption | with_reducible apply unary_form | with_reducible apply nextForm_next | split
    | intro _

theorem execFtanh_form (r : Rnd) (d a : VReg) (g : PReg) (s : State) (hs : s.memOk = true) :
    nextForm (execFtanh r d a g s) := by
  unfold execFtanh
  try dsimp only
  repeat' first
    | with_reducible assumption | with_reducible apply unary_form | with_reducible apply nextForm_next | split
    | intro _

theorem execFrint_form (r : Rnd) (d a : VReg) (g : PReg) (s : State) (hs : s.memOk = true) :
    nextForm (execFrint r d a g s) := by
  unfold execFrint
  try dsimp only
  repeat' first
    | with_reducible assumption | with_reducible apply vecOp_form | with_reducible apply nextForm_next | split
    | intro _

theorem execFabs_form (d a : VReg) (g : PReg) (s : State) (hs : s.memOk = true) :
    nextForm (execFabs d a g s) := by
  unfold execFabs
  try dsimp only
  repeat' first
    | with_reducible assumption | with_reducible apply vecOp_form | with_reducible apply nextForm_next | split
    | intro _

theorem execFneg_form (d a : VReg) (g : PReg) (s : State) (hs : s.memOk = true) :
    nextForm (execFneg d a g s) := by
  unfold execFneg
  try dsimp only
  repeat' first
    | with_reducible assumption | with_reducible apply vecOp_form | with_reducible apply nextForm_next | split
    | intro _

theorem widen_form (f : Fmt) (s : State) (d a : VReg) (g : PReg) (hs : s.memOk = true) :
    nextForm (widen f s d a g) := by
  unfold widen
  try dsimp only
  repeat' first
    | with_reducible assumption | with_reducible apply vecOp_form | with_reducible apply nextForm_next | split
    | intro _

theorem execFcvtS32F32_form (r : Rnd) (d a : VReg) (g : PReg) (s : State) (hs : s.memOk = true) :
    nextForm (execFcvtS32F32 r d a g s) := by
  unfold execFcvtS32F32
  try dsimp only
  repeat' first
    | with_reducible assumption | with_reducible apply unary_form | with_reducible apply nextForm_next | split
    | intro _

theorem execFcvtZ32F32_form (r : Rnd) (d a : VReg) (g : PReg) (s : State) (hs : s.memOk = true) :
    nextForm (execFcvtZ32F32 r d a g s) := by
  unfold execFcvtZ32F32
  try dsimp only
  repeat' first
    | with_reducible assumption | with_reducible apply unary_form | with_reducible apply nextForm_next | split
    | intro _

theorem execFcvtF32S32_form (r : Rnd) (d a : VReg) (g : PReg) (s : State) (hs : s.memOk = true) :
    nextForm (execFcvtF32S32 r d a g s) := by
  unfold execFcvtF32S32
  try dsimp only
  repeat' first
    | with_reducible assumption | with_reducible apply vecOp_form | with_reducible apply nextForm_next | split
    | intro _

theorem execFcvtF32Z32_form (r : Rnd) (d a : VReg) (g : PReg) (s : State) (hs : s.memOk = true) :
    nextForm (execFcvtF32Z32 r d a g s) := by
  unfold execFcvtF32Z32
  try dsimp only
  repeat' first
    | with_reducible assumption | with_reducible apply vecOp_form | with_reducible apply nextForm_next | split
    | intro _

theorem execFcvtBf16F32_form (r : Rnd) (d a : VReg) (g : PReg) (s : State) (hs : s.memOk = true) :
    nextForm (execFcvtBf16F32 r d a g s) := by
  unfold execFcvtBf16F32
  try dsimp only
  repeat' first
    | with_reducible assumption | with_reducible apply unary_form | with_reducible apply nextForm_next | split
    | intro _

theorem execFcvtF16F32_form (r : Rnd) (d a : VReg) (g : PReg) (s : State) (hs : s.memOk = true) :
    nextForm (execFcvtF16F32 r d a g s) := by
  unfold execFcvtF16F32
  try dsimp only
  repeat' first
    | with_reducible assumption | with_reducible apply unary_form | with_reducible apply nextForm_next | split
    | intro _

theorem execFcvtF32Bf16_form (x1 : Rnd) (d a : VReg) (g : PReg) (s : State) (hs : s.memOk = true) :
    nextForm (execFcvtF32Bf16 x1 d a g s) := by
  unfold execFcvtF32Bf16
  try dsimp only
  repeat' first
    | with_reducible assumption | with_reducible apply widen_form | with_reducible apply nextForm_next | split
    | intro _

theorem execFcvtF32F16_form (x1 : Rnd) (d a : VReg) (g : PReg) (s : State) (hs : s.memOk = true) :
    nextForm (execFcvtF32F16 x1 d a g s) := by
  unfold execFcvtF32F16
  try dsimp only
  repeat' first
    | with_reducible assumption | with_reducible apply widen_form | with_reducible apply nextForm_next | split
    | intro _

theorem execFcvtE4m3F32_form (r : Rnd) (d a : VReg) (g : PReg) (s : State) (hs : s.memOk = true) :
    nextForm (execFcvtE4m3F32 r d a g s) := by
  unfold execFcvtE4m3F32
  try dsimp only
  repeat' first
    | with_reducible assumption | with_reducible apply unary_form | with_reducible apply nextForm_next | split
    | intro _

theorem execFcvtE5m2F32_form (r : Rnd) (d a : VReg) (g : PReg) (s : State) (hs : s.memOk = true) :
    nextForm (execFcvtE5m2F32 r d a g s) := by
  unfold execFcvtE5m2F32
  try dsimp only
  repeat' first
    | with_reducible assumption | with_reducible apply unary_form | with_reducible apply nextForm_next | split
    | intro _

theorem execFcvtF32E4m3_form (x1 : Rnd) (d a : VReg) (g : PReg) (s : State) (hs : s.memOk = true) :
    nextForm (execFcvtF32E4m3 x1 d a g s) := by
  unfold execFcvtF32E4m3
  try dsimp only
  repeat' first
    | with_reducible assumption | with_reducible apply widen_form | with_reducible apply nextForm_next | split
    | intro _

theorem execFcvtF32E5m2_form (x1 : Rnd) (d a : VReg) (g : PReg) (s : State) (hs : s.memOk = true) :
    nextForm (execFcvtF32E5m2 x1 d a g s) := by
  unfold execFcvtF32E5m2
  try dsimp only
  repeat' first
    | with_reducible assumption | with_reducible apply widen_form | with_reducible apply nextForm_next | split
    | intro _

theorem packed_form (s : State) (bf : Bool) (d : VReg) (srcs : List VReg) (g : PReg) (fn : Fmt → List Nat → FRes) (hs : s.memOk = true) :
    nextForm (packed s bf d srcs g fn) := by
  unfold packed
  try dsimp only
  repeat' first
    | with_reducible assumption | with_reducible apply vecOp_form | with_reducible apply nextForm_next
    | with_reducible refine form_some2p (by assumption) ?_ | with_reducible refine form_some (by assumption) ?_
    | split | intro _

theorem execHadd2_form (bf : Bool) (r : Rnd) (d a b : VReg) (x1 : VReg) (g : PReg) (s : State) (hs : s.memOk = true) :
    nextForm (execHadd2 bf r d a b x1 g s) := by
  unfold execHadd2
  try dsimp only
  repeat' first
    | with_reducible assumption | with_reducible apply packed_form | with_reducible apply nextForm_next | split
    | intro _

theorem execHmul2_form (bf : Bool) (r : Rnd) (d a b : VReg) (x1 : VReg) (g : PReg) (s : State) (hs : s.memOk = true) :
    nextForm (execHmul2 bf r d a b x1 g s) := by
  unfold execHmul2
  try dsimp only
  repeat' first
    | with_reducible assumption | with_reducible apply packed_form | with_reducible apply nextForm_next | split
    | intro _

theorem execHfma2_form (bf : Bool) (r : Rnd) (d a b c : VReg) (g : PReg) (s : State) (hs : s.memOk = true) :
    nextForm (execHfma2 bf r d a b c g s) := by
  unfold execHfma2
  try dsimp only
  repeat' first
    | with_reducible assumption | with_reducible apply packed_form | with_reducible apply nextForm_next | split
    | intro _

theorem execHmin2_form (bf : Bool) (x1 : Rnd) (d a b : VReg) (x2 : VReg) (g : PReg) (s : State) (hs : s.memOk = true) :
    nextForm (execHmin2 bf x1 d a b x2 g s) := by
  unfold execHmin2
  try dsimp only
  repeat' first
    | with_reducible assumption | with_reducible apply packed_form | with_reducible apply nextForm_next | split
    | intro _

theorem execHmax2_form (bf : Bool) (x1 : Rnd) (d a b : VReg) (x2 : VReg) (g : PReg) (s : State) (hs : s.memOk = true) :
    nextForm (execHmax2 bf x1 d a b x2 g s) := by
  unfold execHmax2
  try dsimp only
  repeat' first
    | with_reducible assumption | with_reducible apply packed_form | with_reducible apply nextForm_next | split
    | intro _

end Sys2Proof.Machine
end

