-- ==== Sys2Proof/Laws/FormIssue.lean ====
section
/-! SUPPORT. Every definition of Machine/Issue.lean keeps the canonical form of the byte memories. -/

namespace Sys2Proof.Machine

theorem State.issued_form (s : State) (k : Nat) (ws : List Word) (hs : s.memOk = true) :
    (State.issued s k ws).memOk = true := by
  unfold State.issued
  try dsimp only
  repeat' first
    | with_reducible assumption | with_reducible apply State.cycle_form | with_reducible apply State.modRole_form
    | with_reducible apply State.payIssue_form | split | (simp only [form_mk]; refine ⟨?_, ?_, ?_⟩)
    | with_reducible apply ram_form | with_reducible apply host_form | with_reducible apply hy_form | intro _

theorem State.refusedWord_form (s : State) (k : Nat) (hs : s.memOk = true) :
    (State.refusedWord s k).memOk = true := by
  unfold State.refusedWord
  try dsimp only
  repeat' first
    | with_reducible assumption | with_reducible apply State.cycle_form | split
    | (simp only [form_mk]; refine ⟨?_, ?_, ?_⟩) | with_reducible apply ram_form | with_reducible apply host_form
    | with_reducible apply hy_form | intro _

theorem State.issueTo_form (s : State) (k : Nat) (i : Instr) (ws : List Word) (hs : s.memOk = true) :
    (s.issueTo k i ws).1.memOk = true :=
  State.issued_form _ _ _ (State.checkUnits_form _ _ _ _ hs)

theorem State.resumeAt_form (s : State) (k : Nat) (hs : s.memOk = true) :
    (State.resumeAt s k).memOk = true := by
  unfold State.resumeAt
  try dsimp only
  repeat' first
    | with_reducible assumption | with_reducible apply State.hold_form | split | intro _

theorem State.walkFirst_form (s : State) (k va : Nat) (hs : s.memOk = true) :
    (State.walkFirst s k va).memOk = true := by
  unfold State.walkFirst
  try dsimp only
  repeat' first
    | with_reducible assumption | with_reducible apply State.hold_form | split | intro _

theorem State.placeHyaluo_form (s : State) (ws : List Word) (hs : s.memOk = true) :
    (State.placeHyaluo s ws).memOk = true := by
  unfold State.placeHyaluo
  try dsimp only
  repeat' first
    | with_reducible assumption | with_reducible apply State.modCore_form
    | with_reducible refine form_some (by assumption) ?_ | with_reducible refine form_some2 (by assumption) ?_ | split
    | (simp only [form_mk]; refine ⟨?_, ?_, ?_⟩) | with_reducible apply wf_wrBytes | with_reducible apply ram_form
    | with_reducible apply host_form | with_reducible apply hy_form | intro _

theorem State.placeCore_form (s : State) (ws : List Word) (hs : s.memOk = true) :
    (State.placeCore s ws).memOk = true := by
  unfold State.placeCore
  try dsimp only
  repeat' first
    | with_reducible assumption | with_reducible apply State.modCore_form | with_reducible apply State.replicate_form
    | with_reducible refine form_some (by assumption) ?_ | with_reducible refine form_some2 (by assumption) ?_ | split
    | (simp only [form_mk]; refine ⟨?_, ?_, ?_⟩) | with_reducible apply wf_wrBytes | with_reducible apply ram_form
    | with_reducible apply host_form | with_reducible apply hy_form | intro _

end Sys2Proof.Machine
end

