-- ==== Sys2Proof/Laws/FormLaneOps.lean ====
section
/-! SUPPORT. Every definition of Machine/LaneOps.lean keeps the canonical form of the byte memories. -/

namespace Sys2Proof.Machine

theorem execIcmpV_form (d : PReg) (a b : VReg) (c : BitVec 4) (g : PReg) (s : State) (hs : s.memOk = true) :
    nextForm (execIcmpV d a b c g s) := by
  unfold execIcmpV
  try dsimp only
  repeat' first
    | with_reducible assumption | with_reducible apply predOp_form | with_reducible apply nextForm_next | split
    | intro _

theorem execIcmpS_form (d : PReg) (a b : SReg) (c : BitVec 4) (g : PReg) (s : State) (hs : s.memOk = true) :
    nextForm (execIcmpS d a b c g s) := by
  unfold execIcmpS
  try dsimp only
  repeat' first
    | with_reducible assumption | with_reducible apply done_form | with_reducible apply flow_form
    | with_reducible apply State.modMe_form | with_reducible apply nextForm_next | with_reducible apply resForm_ok
    | with_reducible apply resForm_error | with_reducible apply resForm_bind
    | with_reducible refine form_some2p (by assumption) ?_ | with_reducible refine form_some (by assumption) ?_
    | with_reducible refine form_ok (by assumption) ?_ | split | intro _

theorem execPlog_form (d a b : PReg) (tt : BitVec 4) (g : PReg) (s : State) (hs : s.memOk = true) :
    nextForm (execPlog d a b tt g s) := by
  unfold execPlog
  try dsimp only
  repeat' first
    | with_reducible assumption | with_reducible apply done_form | with_reducible apply State.modMe_form
    | with_reducible apply nextForm_next | with_reducible apply resForm_ok | with_reducible apply resForm_error
    | with_reducible apply resForm_bind | with_reducible refine form_ok (by assumption) ?_ | split | intro _

theorem execVoteAny_form (d : SReg) (a : PReg) (g : PReg) (s : State) (hs : s.memOk = true) :
    nextForm (execVoteAny d a g s) := by
  unfold execVoteAny
  try dsimp only
  repeat' first
    | with_reducible assumption | with_reducible apply scalGet_form | with_reducible apply nextForm_next
    | with_reducible apply resForm_ok | with_reducible apply resForm_error | with_reducible apply resForm_bind
    | with_reducible refine form_ok (by assumption) ?_ | split | intro _

theorem execVoteAll_form (d : SReg) (a : PReg) (g : PReg) (s : State) (hs : s.memOk = true) :
    nextForm (execVoteAll d a g s) := by
  unfold execVoteAll
  try dsimp only
  repeat' first
    | with_reducible assumption | with_reducible apply scalGet_form | with_reducible apply nextForm_next
    | with_reducible apply resForm_ok | with_reducible apply resForm_error | with_reducible apply resForm_bind
    | with_reducible refine form_ok (by assumption) ?_ | split | intro _

theorem execVoteCount_form (d : SReg) (a : PReg) (g : PReg) (s : State) (hs : s.memOk = true) :
    nextForm (execVoteCount d a g s) := by
  unfold execVoteCount
  try dsimp only
  repeat' first
    | with_reducible assumption | with_reducible apply scalGet_form | with_reducible apply nextForm_next
    | with_reducible apply resForm_ok | with_reducible apply resForm_error | with_reducible apply resForm_bind
    | with_reducible refine form_ok (by assumption) ?_ | split | intro _

theorem execBallot_form (d : VReg) (a : PReg) (g : PReg) (s : State) (hs : s.memOk = true) :
    nextForm (execBallot d a g s) := by
  unfold execBallot
  try dsimp only
  repeat' first
    | with_reducible assumption | with_reducible apply vecRows_form | with_reducible apply nextForm_next | split
    | intro _

theorem shuffle_form (s : State) (d a b : VReg) (g : PReg) (j : Nat → Nat → Nat) (hs : s.memOk = true) :
    nextForm (shuffle s d a b g j) := by
  unfold shuffle
  try dsimp only
  repeat' first
    | with_reducible assumption | with_reducible apply vecRows_form | with_reducible apply nextForm_next | split
    | intro _

theorem execShfl_form (d a b : VReg) (g : PReg) (s : State) (hs : s.memOk = true) :
    nextForm (execShfl d a b g s) := by
  unfold execShfl
  try dsimp only
  repeat' first
    | with_reducible assumption | with_reducible apply shuffle_form | with_reducible apply nextForm_next | split
    | intro _

theorem execShflu_form (d a b : VReg) (g : PReg) (s : State) (hs : s.memOk = true) :
    nextForm (execShflu d a b g s) := by
  unfold execShflu
  try dsimp only
  repeat' first
    | with_reducible assumption | with_reducible apply shuffle_form | with_reducible apply nextForm_next | split
    | intro _

theorem execShfld_form (d a b : VReg) (g : PReg) (s : State) (hs : s.memOk = true) :
    nextForm (execShfld d a b g s) := by
  unfold execShfld
  try dsimp only
  repeat' first
    | with_reducible assumption | with_reducible apply shuffle_form | with_reducible apply nextForm_next | split
    | intro _

theorem execShflx_form (d a b : VReg) (g : PReg) (s : State) (hs : s.memOk = true) :
    nextForm (execShflx d a b g s) := by
  unfold execShflx
  try dsimp only
  repeat' first
    | with_reducible assumption | with_reducible apply shuffle_form | with_reducible apply nextForm_next | split
    | intro _

theorem gred_form (s : State) (d a : VReg) (g : PReg) (fn : List Nat → FRes) (hs : s.memOk = true) :
    nextForm (gred s d a g fn) := by
  unfold gred
  try dsimp only
  repeat' first
    | with_reducible assumption | with_reducible apply vecRows_form | with_reducible apply nextForm_next | split
    | intro _

theorem gredBy_form (s : State) (d a : VReg) (g : PReg) (fn : Nat → Nat → Nat) (hs : s.memOk = true) :
    nextForm (gredBy s d a g fn) := by
  unfold gredBy
  try dsimp only
  repeat' first
    | with_reducible assumption | with_reducible apply gred_form | with_reducible apply nextForm_next
    | with_reducible apply foldl_form | with_reducible apply foldl_form_snd | split | intro _

theorem execGredIadd_form (d a : VReg) (g : PReg) (s : State) (hs : s.memOk = true) :
    nextForm (execGredIadd d a g s) := by
  unfold execGredIadd
  try dsimp only
  repeat' first
    | with_reducible assumption | with_reducible apply gredBy_form | with_reducible apply nextForm_next | split
    | intro _

theorem execGredIminS32_form (d a : VReg) (g : PReg) (s : State) (hs : s.memOk = true) :
    nextForm (execGredIminS32 d a g s) := by
  unfold execGredIminS32
  try dsimp only
  repeat' first
    | with_reducible assumption | with_reducible apply gredBy_form | with_reducible apply nextForm_next | split
    | intro _

theorem execGredIminZ32_form (d a : VReg) (g : PReg) (s : State) (hs : s.memOk = true) :
    nextForm (execGredIminZ32 d a g s) := by
  unfold execGredIminZ32
  try dsimp only
  repeat' first
    | with_reducible assumption | with_reducible apply gredBy_form | with_reducible apply nextForm_next | split
    | intro _

theorem execGredImaxS32_form (d a : VReg) (g : PReg) (s : State) (hs : s.memOk = true) :
    nextForm (execGredImaxS32 d a g s) := by
  unfold execGredImaxS32
  try dsimp only
  repeat' first
    | with_reducible assumption | with_reducible apply gredBy_form | with_reducible apply nextForm_next | split
    | intro _

theorem execGredImaxZ32_form (d a : VReg) (g : PReg) (s : State) (hs : s.memOk = true) :
    nextForm (execGredImaxZ32 d a g s) := by
  unfold execGredImaxZ32
  try dsimp only
  repeat' first
    | with_reducible assumption | with_reducible apply gredBy_form | with_reducible apply nextForm_next | split
    | intro _

theorem execGredAnd_form (d a : VReg) (g : PReg) (s : State) (hs : s.memOk = true) :
    nextForm (execGredAnd d a g s) := by
  unfold execGredAnd
  try dsimp only
  repeat' first
    | with_reducible assumption | with_reducible apply gredBy_form | with_reducible apply nextForm_next | split
    | intro _

theorem execGredOr_form (d a : VReg) (g : PReg) (s : State) (hs : s.memOk = true) :
    nextForm (execGredOr d a g s) := by
  unfold execGredOr
  try dsimp only
  repeat' first
    | with_reducible assumption | with_reducible apply gredBy_form | with_reducible apply nextForm_next | split
    | intro _

theorem execGredXor_form (d a : VReg) (g : PReg) (s : State) (hs : s.memOk = true) :
    nextForm (execGredXor d a g s) := by
  unfold execGredXor
  try dsimp only
  repeat' first
    | with_reducible assumption | with_reducible apply gredBy_form | with_reducible apply nextForm_next | split
    | intro _

theorem execGredFadd_form (d a : VReg) (g : PReg) (s : State) (hs : s.memOk = true) :
    nextForm (execGredFadd d a g s) := by
  unfold execGredFadd
  try dsimp only
  repeat' first
    | with_reducible assumption | with_reducible apply gred_form | with_reducible apply nextForm_next
    | with_reducible refine form_some2p (by assumption) ?_ | with_reducible refine form_some (by assumption) ?_
    | split | intro _

theorem execGredFmin_form (d a : VReg) (g : PReg) (s : State) (hs : s.memOk = true) :
    nextForm (execGredFmin d a g s) := by
  unfold execGredFmin
  try dsimp only
  repeat' first
    | with_reducible assumption | with_reducible apply gred_form | with_reducible apply nextForm_next | split
    | intro _

theorem execGredFmax_form (d a : VReg) (g : PReg) (s : State) (hs : s.memOk = true) :
    nextForm (execGredFmax d a g s) := by
  unfold execGredFmax
  try dsimp only
  repeat' first
    | with_reducible assumption | with_reducible apply gred_form | with_reducible apply nextForm_next | split
    | intro _

theorem execMovs_form (d : VReg) (a : SReg) (g : PReg) (s : State) (hs : s.memOk = true) :
    nextForm (execMovs d a g s) := by
  unfold execMovs
  try dsimp only
  repeat' first
    | with_reducible assumption | with_reducible apply flow_form | with_reducible apply vecInt_form
    | with_reducible apply nextForm_next | with_reducible apply resForm_ok | with_reducible apply resForm_error
    | with_reducible apply resForm_bind | with_reducible refine form_ok (by assumption) ?_ | split | intro _

theorem execRdln_form (d : SReg) (a : VReg) (n : BitVec 10) (g : PReg) (s : State) (hs : s.memOk = true) :
    nextForm (execRdln d a n g s) := by
  unfold execRdln
  try dsimp only
  repeat' first
    | with_reducible assumption | with_reducible apply flow_form | with_reducible apply State.modMe_form
    | with_reducible apply scalGet_form | with_reducible apply nextForm_next | with_reducible apply resForm_ok
    | with_reducible apply resForm_error | with_reducible apply resForm_bind
    | with_reducible refine form_some2p (by assumption) ?_ | with_reducible refine form_some (by assumption) ?_
    | with_reducible refine form_ok (by assumption) ?_ | split | intro _

theorem execSel_form (d a b : VReg) (p : PReg) (g : PReg) (s : State) (hs : s.memOk = true) :
    nextForm (execSel d a b p g s) := by
  unfold execSel
  try dsimp only
  repeat' first
    | with_reducible assumption | with_reducible apply vecRows_form | with_reducible apply nextForm_next | split
    | intro _

end Sys2Proof.Machine
end

