-- ==== Sys2Proof/Laws/Only.lean ====
section
/-! SUPPORT. What the shared operations leave alone: `onlyRole` under the ways in which a run goes on or ends, and what
becomes of the role itself (R64 to R68). -/

namespace Sys2Proof.Machine

theorem onlyRole_refl (k : Nat) (s : State) : onlyRole k s s :=
  ⟨fun _ => ⟨rfl, rfl, rfl, fun _ => ⟨rfl, rfl, rfl⟩⟩, fun _ _ => rfl, fun _ => rfl, rfl, rfl⟩

theorem onlyRole_trans {k : Nat} {s t u : State} (h1 : onlyRole k s t) (h2 : onlyRole k t u) : onlyRole k s u := by
  obtain ⟨a1, b1, c1, d1, e1⟩ := h1
  obtain ⟨a2, b2, c2, d2, e2⟩ := h2
  refine ⟨fun a => ?_, fun j hj => (b2 j hj).trans (b1 j hj), fun c => (c2 c).trans (c1 c), d2.trans d1, e2.trans e1⟩
  obtain ⟨p1, p2, p3, p4⟩ := a1 a
  obtain ⟨q1, q2, q3, q4⟩ := a2 a
  exact ⟨q1.trans p1, q2.trans p2, q3.trans p3, fun c =>
    ⟨(q4 c).1.trans (p4 c).1, (q4 c).2.1.trans (p4 c).2.1, (q4 c).2.2.trans (p4 c).2.2⟩⟩

/-- The bytes follow from the rest: a change that keeps the memories and every core but for its issue stage. -/
theorem sameBytes_of {s t : State} (h1 : t.ram = s.ram) (h2 : t.hostMem = s.hostMem) (h3 : t.hy = s.hy)
    (h4 : ∀ c, (t.core c).rest = (s.core c).rest) : sameBytes s t := by
  intro a
  refine ⟨by rw [h1], by rw [h2], by rw [h3], fun c => ?_⟩
  have h := h4 c
  exact ⟨by rw [show (t.core c).scratch = (s.core c).scratch by
      simpa [Core.rest] using congrArg Core.scratch h],
    by rw [show (t.core c).xch0 = (s.core c).xch0 by
      simpa [Core.rest] using congrArg Core.xch0 h],
    by rw [show (t.core c).xch1 = (s.core c).xch1 by
      simpa [Core.rest] using congrArg Core.xch1 h]⟩

theorem onlyRole_setRole (k : Nat) (s : State) (r : Role) : onlyRole k s (s.setRole k r) :=
  ⟨sameBytes_of rfl rfl rfl fun _ => rfl, fun j hj => by simp [State.setRole, mget_mset, hj], fun _ => rfl, rfl, rfl⟩

theorem onlyRole_modRole (k : Nat) (s : State) (f : Role → Role) : onlyRole k s (s.modRole k f) := by
  unfold State.modRole
  split
  · exact onlyRole_setRole _ _ _
  · exact onlyRole_refl _ _

theorem onlyRole_modCore (k : Nat) (s : State) (q : Nat) (f : Core → Core) (h : ∀ c, (f c).rest = c.rest) :
    onlyRole k s (s.modCore q f) := by
  have hc : ∀ c, ((s.modCore q f).core c).rest = (s.core c).rest := by
    intro c
    rw [State.core_modCore]
    split
    · rename_i e; subst e; exact h _
    · rfl
  exact ⟨sameBytes_of rfl rfl rfl hc, fun _ _ => rfl, hc, rfl, rfl⟩

theorem onlyRole_numbered (k : Nat) (s : State) : onlyRole k s s.numbered :=
  ⟨sameBytes_of rfl rfl rfl fun _ => rfl, fun _ _ => rfl, fun _ => rfl, rfl, rfl⟩
theorem onlyRole_used (k : Nat) (s : State) : onlyRole k s s.used :=
  ⟨sameBytes_of rfl rfl rfl fun _ => rfl, fun _ _ => rfl, fun _ => rfl, rfl, rfl⟩

theorem rest_release (c : Core) (k : Nat) : (c.release k).rest = c.rest := by
  unfold Core.release
  split <;> rfl

theorem onlyRole_endRun (k : Nat) (s : State) (hdr : BitVec 64) (off : Nat) (st : Status) :
    onlyRole k s (s.endRun k hdr off st) := by
  unfold State.endRun
  exact onlyRole_trans (onlyRole_trans (onlyRole_setRole _ _ _)
    (onlyRole_modCore _ _ _ _ fun c => rest_release c k)) (onlyRole_numbered _ _)

theorem onlyRole_goOn (k : Nat) (s : State) (off : Nat) : onlyRole k s (s.goOn k off) := by
  unfold State.goOn
  dsimp only
  split
  · exact onlyRole_endRun _ _ _ _ _
  · exact onlyRole_setRole _ _ _

theorem onlyRole_advance (k : Nat) (s : State) (n : Nat) : onlyRole k s (s.advance k n) :=
  onlyRole_trans (onlyRole_modRole _ _ _) (onlyRole_goOn _ _ _)
theorem onlyRole_transfer (k : Nat) (s : State) (a : BitVec 64) : onlyRole k s (s.transfer k a) :=
  onlyRole_trans (onlyRole_modRole _ _ _) (onlyRole_endRun _ _ _ _ _)
theorem onlyRole_park (k : Nat) (s : State) (w : WaitOn) : onlyRole k s (s.park k w) :=
  onlyRole_trans (onlyRole_setRole _ _ _) (onlyRole_endRun _ _ _ _ _)
theorem onlyRole_wake (k : Nat) (s : State) (n : Nat) : onlyRole k s (s.wake k n) :=
  onlyRole_trans (onlyRole_modRole _ _ _) (onlyRole_numbered _ _)
theorem onlyRole_hold (k : Nat) (s : State) (n : Nat) (h : HoldOn) : onlyRole k s (s.hold k n h) := by
  unfold State.hold
  dsimp only
  split <;> exact onlyRole_endRun _ _ _ _ _

theorem pending_claim (o : MemOp) (k x : Nat) (m : Mask) : (o.claim k x m).pending = o.pending := by
  unfold MemOp.claim
  split <;> rfl
theorem pending_cmd (c : Cmd) (k x : Nat) (m : Mask) : (c.claim k x m).pending = c.pending := by
  unfold Cmd.claim
  split <;> rfl

theorem mget_mmap {α β : Type} (f : Nat → α → β) (m : AMap α) (k : Nat) :
    mget (mmap f m) k = (mget m k).map (f k) := by
  induction m with
  | nil => rfl
  | cons p m ih =>
    obtain ⟨i, v⟩ := p
    simp only [mmap, List.map_cons, mget] at ih ⊢
    by_cases h : k = i
    · simp [h]
    · by_cases h2 : k < i
      · simp [h, h2]
      · simp only [h, h2, if_false]; exact ih

theorem onlyRole_claim (j : Nat) (s : State) (k x : Nat) (m : Mask) : onlyRole j s (s.claim k x m) := by
  have hp : (s.ops.map (·.claim k x m)).map MemOp.pending = s.ops.map MemOp.pending := by
    rw [List.map_map]
    exact List.map_congr_left fun o _ => pending_claim o k x m
  unfold State.claim
  dsimp only
  split
  · have hc : ∀ c, (({ s with
          ops := s.ops.map (·.claim k x m)
          cores := mmap (fun _ c => { c with cmds := c.cmds.map (·.claim k x m) }) s.cores } : State).core c).rest
        = (s.core c).rest := by
      intro c
      simp only [State.core, mget_mmap]
      cases mget s.cores c with
      | none => rfl
      | some c0 =>
        show Core.rest _ = Core.rest _
        simp only [Option.map_some, Option.getD_some, Core.rest, List.map_map]
        congr 1
        exact List.map_congr_left fun d _ => pending_cmd d k x m
    exact ⟨sameBytes_of rfl rfl rfl hc, fun _ _ => rfl, hc, hp, rfl⟩
  · exact ⟨sameBytes_of rfl rfl rfl fun _ => rfl, fun _ _ => rfl, fun _ => rfl, hp, rfl⟩

theorem onlyRole_claimS (j : Nat) (s : State) (k n cnt : Nat) : onlyRole j s (s.claimS k n cnt) := by
  refine ⟨sameBytes_of rfl rfl rfl fun _ => rfl, fun _ _ => rfl, fun _ => rfl, ?_, rfl⟩
  show (s.ops.map _).map MemOp.pending = _
  rw [List.map_map]
  refine List.map_congr_left fun o _ => ?_
  simp only [Function.comp]
  split
  · split <;> rfl
  · rfl

/-! ## The role itself -/

/-- Where advancing takes the role. -/
theorem advance_wentOn (s : State) (k n : Nat) (r : Role) (h : mget s.roles k = some r) :
    ∃ r', mget (s.advance k n).roles k = some r' ∧ r'.still = r.still ∧ r.wentOn (1 + n) r' := by
  unfold State.advance State.goOn Role.wentOn
  simp only [State.modRole, h, State.role, State.setRole, mget_mset_self, Option.getD_some, Nat.add_assoc]
  split
  · simp [State.endRun, State.role, State.setRole, State.numbered, State.modCore, State.setCore, Role.still,
      Role.fallThrough]
  · simp [Role.still]

/-- What advancing leaves of the role: all but its place. -/
theorem advance_role (s : State) (k n : Nat) (r : Role) (h : mget s.roles k = some r) :
    ∃ r', mget (s.advance k n).roles k = some r' ∧ r'.still = r.still := by
  unfold State.advance State.goOn
  simp only [State.modRole, h, State.role, State.setRole, mget_mset_self, Option.getD_some]
  split
  · simp [State.endRun, State.role, State.setRole, State.numbered, State.modCore, State.setCore, Role.still]
  · simp [Role.still]

theorem claim_roles (s : State) (k x : Nat) (m : Mask) : (s.claim k x m).roles = s.roles := by
  unfold State.claim
  dsimp only
  split <;> rfl

end Sys2Proof.Machine
end

