-- ==== Sys2Proof/Laws/Lanes.lean ====
section
/-! SUPPORT. Lanes and masks (R9, R17): fields of numbers made of fields, rows made lane by lane, and blends. -/

namespace Sys2Proof.Machine

theorem packNat_lt (w : Nat) (f : Nat → Nat) (n : Nat) : packNat w f n < 2 ^ (w * n) := by
  induction n with
  | zero => simp [packNat]
  | succ n ih =>
    have h := Nat.mod_lt (f n) (Nat.two_pow_pos w)
    simp only [packNat, Nat.mul_succ, Nat.pow_add]
    have h2 : f n % 2 ^ w * 2 ^ (w * n) ≤ (2 ^ w - 1) * 2 ^ (w * n) := Nat.mul_le_mul_right _ (by omega)
    have h3 : (2 ^ w - 1) * 2 ^ (w * n) = 2 ^ w * 2 ^ (w * n) - 2 ^ (w * n) := by rw [Nat.sub_mul, Nat.one_mul]
    have h4 : 2 ^ (w * n) ≤ 2 ^ w * 2 ^ (w * n) := Nat.le_mul_of_pos_left _ (Nat.two_pow_pos w)
    rw [Nat.mul_comm (2 ^ (w * n))]
    omega

/-- Field k of a number made of fields. -/
theorem packNat_field (w : Nat) (f : Nat → Nat) (n k : Nat) (h : k < n) :
    packNat w f n / 2 ^ (w * k) % 2 ^ w = f k % 2 ^ w := by
  induction n with
  | zero => omega
  | succ n ih =>
    simp only [packNat]
    by_cases hk : k = n
    · subst hk
      have h1 := packNat_lt w f k
      rw [Nat.add_mul_div_right _ _ (Nat.two_pow_pos _), Nat.div_eq_of_lt h1, Nat.zero_add, Nat.mod_mod]
    · have hk : k < n := by omega
      rw [← ih hk]
      have he : 2 ^ (w * n) = 2 ^ w * 2 ^ (w * (n - k - 1)) * 2 ^ (w * k) := by
        rw [← Nat.pow_add, ← Nat.pow_add]
        have e : w * n = w * (k + (1 + (n - k - 1))) := by congr 1; omega
        rw [e, Nat.mul_add, Nat.mul_add, Nat.mul_one]
        congr 1; omega
      rw [he, ← Nat.mul_assoc, Nat.add_mul_div_right _ _ (Nat.two_pow_pos _), Nat.mul_left_comm,
        Nat.add_mul_mod_self_left]

/-- A field of a number held in a bit vector wide enough for it. -/
theorem field_ofNat {n w : Nat} (X k : Nat) (h : X < 2 ^ n) :
    ((BitVec.ofNat n X).extractLsb' k w).toNat = X / 2 ^ k % 2 ^ w := by
  rw [BitVec.extractLsb'_toNat, BitVec.toNat_ofNat, Nat.mod_eq_of_lt h, Nat.shiftRight_eq_div_pow]

theorem lane_lanesOf (f : Nat → BitVec 32) (l : Nat) (h : l < 32) : lane (lanesOf f) l = f l := by
  apply BitVec.eq_of_toNat_eq
  unfold lane lanesOf
  rw [field_ofNat _ _ (packNat_lt 32 (fun l => (f l).toNat) 32), packNat_field 32 (fun l => (f l).toNat) 32 l h]
  exact Nat.mod_eq_of_lt (f l).isLt

theorem lane_blend (m : BitVec 32) (x y : Lanes) (l : Nat) (h : l < 32) :
    lane (blend m x y) l = if m.getLsbD l then lane y l else lane x l := by
  unfold blend
  rw [lane_lanesOf _ _ h]

@[simp] theorem lane_zero (l : Nat) : lane 0#1024 l = 0#32 := by
  apply BitVec.eq_of_toNat_eq
  unfold lane
  rw [BitVec.extractLsb'_toNat]
  simp

theorem groupMask_bit (m : Mask) (g l : Nat) (h : l < 32) : (groupMask m g).getLsbD l = m.getLsbD (32 * g + l) := by
  simp [groupMask, h]

theorem groupMask_bit' (m : Mask) (n : Nat) : (groupMask m (n / 32)).getLsbD (n % 32) = m.getLsbD n := by
  rw [groupMask_bit _ _ _ (Nat.mod_lt _ (by omega))]
  congr 1; omega

theorem getLsbD_allOnes32 (l : Nat) (h : l < 32) : (BitVec.allOnes 32).getLsbD l = true := by
  rw [BitVec.getLsbD_allOnes]
  exact decide_eq_true h

/-! ## One row written (R45) -/

/-- Lane l of what a key holds, as a read that does not trap gives it. -/
def Frame.keyValue (f : Frame) (k l : Nat) : BitVec 32 :=
  match mget f.rows k with
  | some r => if r.tag = f.gen then lane r.data l else 0
  | none => 0

theorem writeRow_gen (f : Frame) (x g : Nat) (m : BitVec 32) (v : Lanes) : (f.writeRow x g m v).gen = f.gen := by
  unfold Frame.writeRow
  split <;> rfl
theorem writeRow_beside (f : Frame) (x g : Nat) (m : BitVec 32) (v : Lanes) :
    (f.writeRow x g m v).besideRows = f.besideRows := by
  unfold Frame.writeRow
  split <;> rfl
theorem writeRow_other (f : Frame) (x g k : Nat) (m : BitVec 32) (v : Lanes) (h : k ≠ rowKey x g) :
    mget (f.writeRow x g m v).rows k = mget f.rows k := by
  unfold Frame.writeRow
  split
  · rfl
  · simp [mget_mset, h]
/-- The row written reads as the value in the lanes of the mask and as before in the others. -/
theorem writeRow_value (f : Frame) (x g : Nat) (m : BitVec 32) (v : Lanes) (h : f.rowLost x g m = false) (l : Nat)
    (hl : l < 32) :
    (f.writeRow x g m v).keyValue (rowKey x g) l = if m.getLsbD l then lane v l else f.keyValue (rowKey x g) l := by
  unfold Frame.rowLost at h
  by_cases h0 : m = 0
  · subst h0
    simp [Frame.writeRow]
  · simp only [Frame.keyValue, writeRow_gen]
    simp only [Frame.writeRow, h0, if_false, mget_mset_self]
    by_cases h1 : m = BitVec.allOnes 32
    · subst h1
      rw [getLsbD_allOnes32 _ hl]
      simp
    · simp only [h1, if_false]
      cases hr : mget f.rows (rowKey x g) with
      | none =>
        simp only [if_true]
        rw [lane_blend _ _ _ _ hl]
        split
        · rfl
        · exact lane_zero l
      | some r =>
        rw [hr] at h
        by_cases h2 : r.tag = f.gen
        · simp only [h2, if_true]
          rw [lane_blend _ _ _ _ hl]
        · have hp : ¬r.tag = poisonTag := by
            intro hp
            have hg : ¬poisonTag = f.gen := fun e => h2 (hp.trans e)
            have hb : (m != BitVec.allOnes 32) = true := by simpa using h1
            have hz : (m != 0) = true := by simpa using h0
            have hf : (r.tag != f.gen) = true := by simpa using h2
            have h' : (m != 0 && r.tag != f.gen && r.tag == poisonTag && m != BitVec.allOnes 32) = false := h
            have he : (r.tag == poisonTag) = true := by simpa using hp
            rw [hb, hz, hf, he] at h'
            cases h'
          simp only [h2, hp, if_false, if_true]
          rw [lane_blend _ _ _ _ hl]
          split
          · rfl
          · exact lane_zero l

/-! ## One register written -/

theorem rowKey_inj {x g h : Nat} (e : rowKey x g = rowKey x h) : g = h := by
  unfold rowKey at e; omega

theorem rowLost_other (f : Frame) (x g h : Nat) (m m' : BitVec 32) (v : Lanes) (hne : h ≠ g) :
    (f.writeRow x g m v).rowLost x h m' = f.rowLost x h m' := by
  unfold Frame.rowLost
  rw [writeRow_other _ _ _ _ _ _ fun e => hne (rowKey_inj e), writeRow_gen]

/-- The rows of a list of groups written one after the other. -/
theorem foldRows (x : Nat) (m : Mask) (rows : List Lanes) (gs : List Nat) (f : Frame) (hnd : gs.Nodup)
    (h : ∀ g ∈ gs, f.rowLost x g (groupMask m g) = false) :
    let f' := gs.foldl (fun f g => f.writeRow x g (groupMask m g) (rows.getD g 0)) f
    f'.gen = f.gen ∧ f'.besideRows = f.besideRows
      ∧ (∀ k, (∀ g ∈ gs, k ≠ rowKey x g) → mget f'.rows k = mget f.rows k)
      ∧ ∀ g ∈ gs, ∀ l, l < 32 → f'.keyValue (rowKey x g) l =
          if (groupMask m g).getLsbD l then lane (rows.getD g 0) l else f.keyValue (rowKey x g) l := by
  induction gs generalizing f with
  | nil => exact ⟨rfl, rfl, fun _ _ => rfl, fun _ hg => by cases hg⟩
  | cons g gs ih =>
    obtain ⟨hg, hnd⟩ := List.nodup_cons.mp hnd
    have hl : ∀ h' ∈ gs, (f.writeRow x g (groupMask m g) (rows.getD g 0)).rowLost x h' (groupMask m h') = false := by
      intro h' hh
      rw [rowLost_other _ _ _ _ _ _ _ (fun e => hg (by rw [← e]; exact hh))]
      exact h h' (List.mem_cons_of_mem _ hh)
    obtain ⟨a, b, c, d⟩ := ih (f.writeRow x g (groupMask m g) (rows.getD g 0)) hnd hl
    simp only [List.foldl_cons]
    refine ⟨a.trans (writeRow_gen _ _ _ _ _), b.trans (writeRow_beside _ _ _ _ _), fun k hk => ?_, fun g' hg' l hl' => ?_⟩
    · rw [c k fun q hq => hk q (List.mem_cons_of_mem _ hq), writeRow_other _ _ _ _ _ _ (hk g List.mem_cons_self)]
    · rcases List.mem_cons.mp hg' with e | hm
      · subst e
        have hk := c (rowKey x g') fun q hq e => hg (rowKey_inj e ▸ hq)
        have : ∀ F : Frame, F.gen = (f.writeRow x g' (groupMask m g') (rows.getD g' 0)).gen →
            mget F.rows (rowKey x g') = mget (f.writeRow x g' (groupMask m g') (rows.getD g' 0)).rows (rowKey x g') →
            F.keyValue (rowKey x g') l = (f.writeRow x g' (groupMask m g') (rows.getD g' 0)).keyValue (rowKey x g') l := by
          intro F e1 e2
          simp only [Frame.keyValue, e1, e2]
        rw [this _ a hk]
        exact writeRow_value _ _ _ _ _ (h g' List.mem_cons_self) l hl'
      · rw [d g' hm l hl']
        have hne : rowKey x g' ≠ rowKey x g := fun e => hg (rowKey_inj e ▸ hm)
        have : (f.writeRow x g (groupMask m g) (rows.getD g 0)).keyValue (rowKey x g') l = f.keyValue (rowKey x g') l := by
          simp only [Frame.keyValue, writeRow_gen, writeRow_other _ _ _ _ _ _ hne]
        rw [this]

theorem checkReg_ok {r : Role} {x : Nat} {m : Mask} (h : r.checkReg x m = .ok ()) :
    ∀ g, g < r.groups → r.frame.rowLost x g (groupMask m g) = false := by
  unfold Role.checkReg at h
  split at h
  · rename_i hn
    intro g hg
    have := (List.find?_eq_none.mp hn) g (List.mem_range.mpr hg)
    simpa using this
  · cases h

/-- What writing a register does (R45). -/
theorem writeReg_spec (r : Role) (x : Nat) (m : Mask) (rows : List Lanes) (hlen : rows.length = r.groups)
    (hc : r.checkReg x m = .ok ()) :
    (r.writeReg x m rows).besideFrames = r.besideFrames ∧ (r.writeReg x m rows).frames.tail = r.frames.tail
      ∧ (r.writeReg x m rows).frame.besideRows = r.frame.besideRows
      ∧ (∀ n, n < 32 * r.groups → (r.writeReg x m rows).frame.value x n =
          if m.getLsbD n then laneOfRows rows n else r.frame.value x n)
      ∧ ∀ k, (∀ g, g < r.groups → k ≠ rowKey x g) →
          mget (r.writeReg x m rows).frame.rows k = mget r.frame.rows k := by
  obtain ⟨a, b, c, d⟩ := foldRows x m rows (List.range rows.length) r.frame List.nodup_range
    (fun g hg => checkReg_ok hc g (hlen ▸ List.mem_range.mp hg))
  refine ⟨rfl, rfl, b, fun n hn => ?_, fun k hk => c k fun g hg => hk g (hlen ▸ List.mem_range.mp hg)⟩
  have h := d (n / 32) (List.mem_range.mpr (by omega)) (n % 32) (Nat.mod_lt _ (by omega))
  rw [groupMask_bit'] at h
  exact h

end Sys2Proof.Machine
end

