-- ==== Sys2Proof/Laws/PerInstr.lean ====
section
/-! SUPPORT. Decode and encode agree, instruction by instruction (R56, R61, R91 to R113): the words of a well-formed
instruction, followed by any words, decode to it and to its length. A machine event has no words. -/

set_option linter.unusedSimpArgs false
set_option Elab.async false

namespace Sys2Proof.Laws.RoundTrip

/-- The words of i decode to i, whatever follows. -/
def Statement (i : Instr) : Prop :=
  i.wf = true → i.isEvent = false → ∀ rest : List Word, decode (encode i ++ rest) = .ok (i, (encode i).length)

theorem nop (g : PReg) : Statement (.nop g) := by
  intro _ _ rest
  exact decode_one _ _ _ _ _ rest _
    (by unfold litCount; rw [fMajor_mkW]; rfl)
    (by rw [build_low (n := 0x00) rfl (by decide)]; delta buildLow; dsimp only; simp only [fD_mkW, fA_mkW, fB_mkW, fG_mkW, kS_eS, kP_e3, kC_e3, kT_e4, kH_e4, dec_bind, minor2_op, minor2_field]; rfl)

theorem bra (t : Target) (g : PReg) : Statement (.bra t g) := by
  intro _ _ rest
  exact decode_two _ _ _ _ _ _ rest _
    (by unfold litCount; rw [fMajor_mkW]; rfl)
    (by rw [build_low (n := 0x01) rfl (by decide)]; delta buildLow; dsimp only; simp only [fD_mkW, fA_mkW, fB_mkW, fG_mkW, kS_eS, kP_e3, kC_e3, kT_e4, kH_e4, dec_bind, minor2_op, minor2_field]; rfl)

theorem brcAny (t : Target) (g : PReg) : Statement (.brcAny t g) := by
  intro _ _ rest
  exact decode_two _ _ _ _ _ _ rest _
    (by unfold litCount; rw [fMajor_mkW, fB_mkW]; rfl)
    (by rw [build_low (n := 0x02) rfl (by decide)]; delta buildLow; dsimp only; simp only [fD_mkW, fA_mkW, fB_mkW, fG_mkW, kS_eS, kP_e3, kC_e3, kT_e4, kH_e4, dec_bind, minor2_op, minor2_field]; rfl)

theorem brcAll (t : Target) (g : PReg) : Statement (.brcAll t g) := by
  intro _ _ rest
  exact decode_two _ _ _ _ _ _ rest _
    (by unfold litCount; rw [fMajor_mkW, fB_mkW]; rfl)
    (by rw [build_low (n := 0x02) rfl (by decide)]; delta buildLow; dsimp only; simp only [fD_mkW, fA_mkW, fB_mkW, fG_mkW, kS_eS, kP_e3, kC_e3, kT_e4, kH_e4, dec_bind, minor2_op, minor2_field]; rfl)

theorem brcNone (t : Target) (g : PReg) : Statement (.brcNone t g) := by
  intro _ _ rest
  exact decode_two _ _ _ _ _ _ rest _
    (by unfold litCount; rw [fMajor_mkW, fB_mkW]; rfl)
    (by rw [build_low (n := 0x02) rfl (by decide)]; delta buildLow; dsimp only; simp only [fD_mkW, fA_mkW, fB_mkW, fG_mkW, kS_eS, kP_e3, kC_e3, kT_e4, kH_e4, dec_bind, minor2_op, minor2_field]; rfl)

theorem brx (a : SReg) (g : PReg) : Statement (.brx a g) := by
  intro _ _ rest
  exact decode_one _ _ _ _ _ rest _
    (by unfold litCount; rw [fMajor_mkW]; rfl)
    (by rw [build_low (n := 0x03) rfl (by decide)]; delta buildLow; dsimp only; simp only [fD_mkW, fA_mkW, fB_mkW, fG_mkW, kS_eS, kP_e3, kC_e3, kT_e4, kH_e4, dec_bind, minor2_op, minor2_field]; rfl)

theorem callf (t : Target) (dem : Demand) (g : PReg) : Statement (.callf t dem g) := by
  intro h _ rest
  delta Instr.wf at h
  dsimp only at h
  try simp [storeTypeLegal, loadTypeLegal] at h
  exact decode_three _ _ _ _ _ _ _ rest _
    (by unfold litCount; rw [fMajor_mkW]; rfl)
    (by rw [build_low (n := 0x04) rfl (by decide)]; delta buildLow; dsimp only; simp [h, kZ, ill, reg, -BitVec.getLsbD_eq_getElem])

theorem callx (a : SReg) (dem : Demand) (g : PReg) : Statement (.callx a dem g) := by
  intro h _ rest
  delta Instr.wf at h
  dsimp only at h
  try simp [storeTypeLegal, loadTypeLegal] at h
  exact decode_two _ _ _ _ _ _ rest _
    (by unfold litCount; rw [fMajor_mkW]; rfl)
    (by rw [build_low (n := 0x05) rfl (by decide)]; delta buildLow; dsimp only; simp [h, kZ, ill, reg, -BitVec.getLsbD_eq_getElem])

theorem retf (g : PReg) : Statement (.retf g) := by
  intro _ _ rest
  exact decode_one _ _ _ _ _ rest _
    (by unfold litCount; rw [fMajor_mkW]; rfl)
    (by rw [build_low (n := 0x06) rfl (by decide)]; delta buildLow; dsimp only; simp only [fD_mkW, fA_mkW, fB_mkW, fG_mkW, kS_eS, kP_e3, kC_e3, kT_e4, kH_e4, dec_bind, minor2_op, minor2_field]; rfl)

theorem unwind (n : Imm7) (g : PReg) : Statement (.unwind n g) := by
  intro _ _ rest
  exact decode_one _ _ _ _ _ rest _
    (by unfold litCount; rw [fMajor_mkW]; rfl)
    (by rw [build_low (n := 0x07) rfl (by decide)]; delta buildLow; dsimp only; simp only [fD_mkW, fA_mkW, fB_mkW, fG_mkW, kS_eS, kP_e3, kC_e3, kT_e4, kH_e4, dec_bind, minor2_op, minor2_field]; rfl)

theorem winb (w : Imm7) (g : PReg) : Statement (.winb w g) := by
  intro _ _ rest
  exact decode_one _ _ _ _ _ rest _
    (by unfold litCount; rw [fMajor_mkW]; rfl)
    (by rw [build_low (n := 0x08) rfl (by decide)]; delta buildLow; dsimp only; simp only [fD_mkW, fA_mkW, fB_mkW, fG_mkW, kS_eS, kP_e3, kC_e3, kT_e4, kH_e4, dec_bind, minor2_op, minor2_field]; rfl)

theorem ifp (a : PReg) (t : Target) (g : PReg) : Statement (.ifp a t g) := by
  intro _ _ rest
  exact decode_two _ _ _ _ _ _ rest _
    (by unfold litCount; rw [fMajor_mkW]; rfl)
    (by rw [build_low (n := 0x09) rfl (by decide)]; delta buildLow; dsimp only; simp only [fD_mkW, fA_mkW, fB_mkW, fG_mkW, kS_eS, kP_e3, kC_e3, kT_e4, kH_e4, dec_bind, minor2_op, minor2_field]; rfl)

theorem elsep (t : Target) : Statement (.elsep t) := by
  intro _ _ rest
  exact decode_two _ _ _ _ _ _ rest _
    (by unfold litCount; rw [fMajor_mkW]; rfl)
    (by rw [build_low (n := 0x0A) rfl (by decide)]; delta buildLow; dsimp only; simp only [fD_mkW, fA_mkW, fB_mkW, fG_mkW, kS_eS, kP_e3, kC_e3, kT_e4, kH_e4, dec_bind, minor2_op, minor2_field]; rfl)

theorem endif : Statement .endif := by
  intro _ _ rest
  exact decode_one _ _ _ _ _ rest _
    (by unfold litCount; rw [fMajor_mkW]; rfl)
    (by rw [build_low (n := 0x0B) rfl (by decide)]; delta buildLow; dsimp only; simp only [fD_mkW, fA_mkW, fB_mkW, fG_mkW, kS_eS, kP_e3, kC_e3, kT_e4, kH_e4, dec_bind, minor2_op, minor2_field]; rfl)

theorem loop (t : Target) : Statement (.loop t) := by
  intro _ _ rest
  exact decode_two _ _ _ _ _ _ rest _
    (by unfold litCount; rw [fMajor_mkW]; rfl)
    (by rw [build_low (n := 0x0C) rfl (by decide)]; delta buildLow; dsimp only; simp only [fD_mkW, fA_mkW, fB_mkW, fG_mkW, kS_eS, kP_e3, kC_e3, kT_e4, kH_e4, dec_bind, minor2_op, minor2_field]; rfl)

theorem brk (a : PReg) (g : PReg) : Statement (.brk a g) := by
  intro _ _ rest
  exact decode_one _ _ _ _ _ rest _
    (by unfold litCount; rw [fMajor_mkW]; rfl)
    (by rw [build_low (n := 0x0D) rfl (by decide)]; delta buildLow; dsimp only; simp only [fD_mkW, fA_mkW, fB_mkW, fG_mkW, kS_eS, kP_e3, kC_e3, kT_e4, kH_e4, dec_bind, minor2_op, minor2_field]; rfl)

theorem cont (a : PReg) (g : PReg) : Statement (.cont a g) := by
  intro _ _ rest
  exact decode_one _ _ _ _ _ rest _
    (by unfold litCount; rw [fMajor_mkW]; rfl)
    (by rw [build_low (n := 0x0E) rfl (by decide)]; delta buildLow; dsimp only; simp only [fD_mkW, fA_mkW, fB_mkW, fG_mkW, kS_eS, kP_e3, kC_e3, kT_e4, kH_e4, dec_bind, minor2_op, minor2_field]; rfl)

theorem endl (t : Target) : Statement (.endl t) := by
  intro _ _ rest
  exact decode_two _ _ _ _ _ _ rest _
    (by unfold litCount; rw [fMajor_mkW]; rfl)
    (by rw [build_low (n := 0x0F) rfl (by decide)]; delta buildLow; dsimp only; simp only [fD_mkW, fA_mkW, fB_mkW, fG_mkW, kS_eS, kP_e3, kC_e3, kT_e4, kH_e4, dec_bind, minor2_op, minor2_field]; rfl)

theorem serb : Statement .serb := by
  intro _ _ rest
  exact decode_one _ _ _ _ _ rest _
    (by unfold litCount; rw [fMajor_mkW]; rfl)
    (by rw [build_low (n := 0x10) rfl (by decide)]; delta buildLow; dsimp only; simp only [fD_mkW, fA_mkW, fB_mkW, fG_mkW, kS_eS, kP_e3, kC_e3, kT_e4, kH_e4, dec_bind, minor2_op, minor2_field]; rfl)

theorem sere (t : Target) : Statement (.sere t) := by
  intro _ _ rest
  exact decode_two _ _ _ _ _ _ rest _
    (by unfold litCount; rw [fMajor_mkW]; rfl)
    (by rw [build_low (n := 0x11) rfl (by decide)]; delta buildLow; dsimp only; simp only [fD_mkW, fA_mkW, fB_mkW, fG_mkW, kS_eS, kP_e3, kC_e3, kT_e4, kH_e4, dec_bind, minor2_op, minor2_field]; rfl)

theorem exit (g : PReg) : Statement (.exit g) := by
  intro _ _ rest
  exact decode_one _ _ _ _ _ rest _
    (by unfold litCount; rw [fMajor_mkW]; rfl)
    (by rw [build_low (n := 0x12) rfl (by decide)]; delta buildLow; dsimp only; simp only [fD_mkW, fA_mkW, fB_mkW, fG_mkW, kS_eS, kP_e3, kC_e3, kT_e4, kH_e4, dec_bind, minor2_op, minor2_field]; rfl)

theorem trap (c : Imm7) (g : PReg) : Statement (.trap c g) := by
  intro h _ rest
  delta Instr.wf at h
  dsimp only at h
  try simp [storeTypeLegal, loadTypeLegal] at h
  exact decode_one _ _ _ _ _ rest _
    (by unfold litCount; rw [fMajor_mkW, fB_mkW]; dsimp only; rw [h]; rfl)
    (by rw [build_low (n := 0x13) rfl (by decide)]; delta buildLow; dsimp only; simp [h, kZ, ill, reg, -BitVec.getLsbD_eq_getElem])

theorem svc (n : BitVec 30) (g : PReg) : Statement (.svc n g) := by
  intro _ _ rest
  exact decode_two _ _ _ _ _ _ rest _
    (by unfold litCount; rw [fMajor_mkW]; rfl)
    (by rw [build_low (n := 0x14) rfl (by decide)]; delta buildLow; dsimp only; simp only [fD_mkW, fA_mkW, fB_mkW, fG_mkW, kS_eS, kP_e3, kC_e3, kT_e4, kH_e4, dec_bind, minor2_op, minor2_field]; rfl)

theorem bkpt (g : PReg) : Statement (.bkpt g) := by
  intro _ _ rest
  exact decode_one _ _ _ _ _ rest _
    (by unfold litCount; rw [fMajor_mkW]; rfl)
    (by rw [build_low (n := 0x15) rfl (by decide)]; delta buildLow; dsimp only; simp only [fD_mkW, fA_mkW, fB_mkW, fG_mkW, kS_eS, kP_e3, kC_e3, kT_e4, kH_e4, dec_bind, minor2_op, minor2_field]; rfl)

theorem yield (g : PReg) : Statement (.yield g) := by
  intro _ _ rest
  exact decode_one _ _ _ _ _ rest _
    (by unfold litCount; rw [fMajor_mkW]; rfl)
    (by rw [build_low (n := 0x16) rfl (by decide)]; delta buildLow; dsimp only; simp only [fD_mkW, fA_mkW, fB_mkW, fG_mkW, kS_eS, kP_e3, kC_e3, kT_e4, kH_e4, dec_bind, minor2_op, minor2_field]; rfl)

theorem waitf (m : BitVec 12) (g : PReg) : Statement (.waitf m g) := by
  intro _ _ rest
  exact decode_two _ _ _ _ _ _ rest _
    (by unfold litCount; rw [fMajor_mkW]; rfl)
    (by rw [build_low (n := 0x17) rfl (by decide)]; delta buildLow; dsimp only; simp [kZ, ill, reg, -BitVec.getLsbD_eq_getElem])

theorem rdsr (d : SReg) (n : Imm7) (g : PReg) : Statement (.rdsr d n g) := by
  intro h _ rest
  delta Instr.wf at h
  dsimp only at h
  try simp [storeTypeLegal, loadTypeLegal] at h
  exact decode_one _ _ _ _ _ rest _
    (by unfold litCount; rw [fMajor_mkW, fB_mkW]; dsimp only; rw [h]; rfl)
    (by rw [build_low (n := 0x18) rfl (by decide)]; delta buildLow; dsimp only; simp [h, kZ, ill, reg, -BitVec.getLsbD_eq_getElem])

theorem wrsr (a : SReg) (n : Imm7) (g : PReg) : Statement (.wrsr a n g) := by
  intro h _ rest
  delta Instr.wf at h
  dsimp only at h
  try simp [storeTypeLegal, loadTypeLegal] at h
  exact decode_one _ _ _ _ _ rest _
    (by unfold litCount; rw [fMajor_mkW, fB_mkW]; dsimp only; rw [h]; rfl)
    (by rw [build_low (n := 0x19) rfl (by decide)]; delta buildLow; dsimp only; simp [h, kZ, ill, reg, -BitVec.getLsbD_eq_getElem])

theorem clock (d : SReg) (g : PReg) : Statement (.clock d g) := by
  intro _ _ rest
  exact decode_one _ _ _ _ _ rest _
    (by unfold litCount; rw [fMajor_mkW]; rfl)
    (by rw [build_low (n := 0x1A) rfl (by decide)]; delta buildLow; dsimp only; simp only [fD_mkW, fA_mkW, fB_mkW, fG_mkW, kS_eS, kP_e3, kC_e3, kT_e4, kH_e4, dec_bind, minor2_op, minor2_field]; rfl)

theorem cacheIinv (a : SReg) (g : PReg) : Statement (.cacheIinv a g) := by
  intro _ _ rest
  exact decode_one _ _ _ _ _ rest _
    (by unfold litCount; rw [fMajor_mkW, fB_mkW]; rfl)
    (by rw [build_low (n := 0x1B) rfl (by decide)]; delta buildLow; dsimp only; simp only [fD_mkW, fA_mkW, fB_mkW, fG_mkW, kS_eS, kP_e3, kC_e3, kT_e4, kH_e4, dec_bind, minor2_op, minor2_field]; rfl)

theorem cacheIinvall (a : SReg) (g : PReg) : Statement (.cacheIinvall a g) := by
  intro _ _ rest
  exact decode_one _ _ _ _ _ rest _
    (by unfold litCount; rw [fMajor_mkW, fB_mkW]; rfl)
    (by rw [build_low (n := 0x1B) rfl (by decide)]; delta buildLow; dsimp only; simp only [fD_mkW, fA_mkW, fB_mkW, fG_mkW, kS_eS, kP_e3, kC_e3, kT_e4, kH_e4, dec_bind, minor2_op, minor2_field]; rfl)

theorem cacheL1inv (a : SReg) (g : PReg) : Statement (.cacheL1inv a g) := by
  intro _ _ rest
  exact decode_one _ _ _ _ _ rest _
    (by unfold litCount; rw [fMajor_mkW, fB_mkW]; rfl)
    (by rw [build_low (n := 0x1B) rfl (by decide)]; delta buildLow; dsimp only; simp only [fD_mkW, fA_mkW, fB_mkW, fG_mkW, kS_eS, kP_e3, kC_e3, kT_e4, kH_e4, dec_bind, minor2_op, minor2_field]; rfl)

theorem hash (d : SReg) (b : BufSel) (g : PReg) : Statement (.hash d b g) := by
  intro h _ rest
  delta Instr.wf at h
  dsimp only at h
  try simp [storeTypeLegal, loadTypeLegal] at h
  exact decode_one _ _ _ _ _ rest _
    (by unfold litCount; rw [fMajor_mkW]; rfl)
    (by rw [build_low (n := 0x1C) rfl (by decide)]; delta buildLow; dsimp only; simp [h, kZ, ill, reg, -BitVec.getLsbD_eq_getElem])

theorem sign (d : SReg) (a : SReg) (b : BufSel) (g : PReg) : Statement (.sign d a b g) := by
  intro h _ rest
  delta Instr.wf at h
  dsimp only at h
  try simp [storeTypeLegal, loadTypeLegal] at h
  exact decode_one _ _ _ _ _ rest _
    (by unfold litCount; rw [fMajor_mkW]; rfl)
    (by rw [build_low (n := 0x1D) rfl (by decide)]; delta buildLow; dsimp only; simp [h, kZ, ill, reg, -BitVec.getLsbD_eq_getElem])

theorem drdv (d : SReg) (a : SReg) (g : PReg) : Statement (.drdv d a g) := by
  intro h _ rest
  delta Instr.wf at h
  dsimp only at h
  try simp [storeTypeLegal, loadTypeLegal] at h
  exact decode_one _ _ _ _ _ rest _
    (by unfold litCount; rw [fMajor_mkW, fB_mkW]; dsimp only; simp [h])
    (by rw [build_low (n := 0x1E) rfl (by decide)]; delta buildLow; dsimp only; simp [h, kZ, ill, reg, buildDbg, -BitVec.getLsbD_eq_getElem])

theorem dwrv (d : SReg) (a : SReg) (g : PReg) : Statement (.dwrv d a g) := by
  intro h _ rest
  delta Instr.wf at h
  dsimp only at h
  try simp [storeTypeLegal, loadTypeLegal] at h
  exact decode_one _ _ _ _ _ rest _
    (by unfold litCount; rw [fMajor_mkW, fB_mkW]; dsimp only; simp [h])
    (by rw [build_low (n := 0x1E) rfl (by decide)]; delta buildLow; dsimp only; simp [h, kZ, ill, reg, buildDbg, -BitVec.getLsbD_eq_getElem])

theorem drds (d : SReg) (a : SReg) (g : PReg) : Statement (.drds d a g) := by
  intro h _ rest
  delta Instr.wf at h
  dsimp only at h
  try simp [storeTypeLegal, loadTypeLegal] at h
  exact decode_one _ _ _ _ _ rest _
    (by unfold litCount; rw [fMajor_mkW, fB_mkW]; dsimp only; simp [h])
    (by rw [build_low (n := 0x1E) rfl (by decide)]; delta buildLow; dsimp only; simp [h, kZ, ill, reg, buildDbg, -BitVec.getLsbD_eq_getElem])

theorem dwrs (d : SReg) (a : SReg) (g : PReg) : Statement (.dwrs d a g) := by
  intro h _ rest
  delta Instr.wf at h
  dsimp only at h
  try simp [storeTypeLegal, loadTypeLegal] at h
  exact decode_one _ _ _ _ _ rest _
    (by unfold litCount; rw [fMajor_mkW, fB_mkW]; dsimp only; simp [h])
    (by rw [build_low (n := 0x1E) rfl (by decide)]; delta buildLow; dsimp only; simp [h, kZ, ill, reg, buildDbg, -BitVec.getLsbD_eq_getElem])

theorem drdt (d : SReg) (a : SReg) (g : PReg) : Statement (.drdt d a g) := by
  intro h _ rest
  delta Instr.wf at h
  dsimp only at h
  try simp [storeTypeLegal, loadTypeLegal] at h
  exact decode_one _ _ _ _ _ rest _
    (by unfold litCount; rw [fMajor_mkW, fB_mkW]; dsimp only; simp [h])
    (by rw [build_low (n := 0x1E) rfl (by decide)]; delta buildLow; dsimp only; simp [h, kZ, ill, reg, buildDbg, -BitVec.getLsbD_eq_getElem])

theorem dwrt (d : SReg) (a : SReg) (g : PReg) : Statement (.dwrt d a g) := by
  intro h _ rest
  delta Instr.wf at h
  dsimp only at h
  try simp [storeTypeLegal, loadTypeLegal] at h
  exact decode_one _ _ _ _ _ rest _
    (by unfold litCount; rw [fMajor_mkW, fB_mkW]; dsimp only; simp [h])
    (by rw [build_low (n := 0x1E) rfl (by decide)]; delta buildLow; dsimp only; simp [h, kZ, ill, reg, buildDbg, -BitVec.getLsbD_eq_getElem])

theorem drda (d : SReg) (a : SReg) (g : PReg) : Statement (.drda d a g) := by
  intro h _ rest
  delta Instr.wf at h
  dsimp only at h
  try simp [storeTypeLegal, loadTypeLegal] at h
  exact decode_one _ _ _ _ _ rest _
    (by unfold litCount; rw [fMajor_mkW, fB_mkW]; dsimp only; simp [h])
    (by rw [build_low (n := 0x1E) rfl (by decide)]; delta buildLow; dsimp only; simp [h, kZ, ill, reg, buildDbg, -BitVec.getLsbD_eq_getElem])

theorem dwra (d : SReg) (a : SReg) (g : PReg) : Statement (.dwra d a g) := by
  intro h _ rest
  delta Instr.wf at h
  dsimp only at h
  try simp [storeTypeLegal, loadTypeLegal] at h
  exact decode_one _ _ _ _ _ rest _
    (by unfold litCount; rw [fMajor_mkW, fB_mkW]; dsimp only; simp [h])
    (by rw [build_low (n := 0x1E) rfl (by decide)]; delta buildLow; dsimp only; simp [h, kZ, ill, reg, buildDbg, -BitVec.getLsbD_eq_getElem])

theorem drdg (d : SReg) (a : SReg) (g : PReg) : Statement (.drdg d a g) := by
  intro h _ rest
  delta Instr.wf at h
  dsimp only at h
  try simp [storeTypeLegal, loadTypeLegal] at h
  exact decode_one _ _ _ _ _ rest _
    (by unfold litCount; rw [fMajor_mkW, fB_mkW]; dsimp only; simp [h])
    (by rw [build_low (n := 0x1E) rfl (by decide)]; delta buildLow; dsimp only; simp [h, kZ, ill, reg, buildDbg, -BitVec.getLsbD_eq_getElem])

theorem dwrg (d : SReg) (a : SReg) (g : PReg) : Statement (.dwrg d a g) := by
  intro h _ rest
  delta Instr.wf at h
  dsimp only at h
  try simp [storeTypeLegal, loadTypeLegal] at h
  exact decode_one _ _ _ _ _ rest _
    (by unfold litCount; rw [fMajor_mkW, fB_mkW]; dsimp only; simp [h])
    (by rw [build_low (n := 0x1E) rfl (by decide)]; delta buildLow; dsimp only; simp [h, kZ, ill, reg, buildDbg, -BitVec.getLsbD_eq_getElem])

theorem genrd (d : SReg) (a : SReg) (g : PReg) : Statement (.genrd d a g) := by
  intro h _ rest
  delta Instr.wf at h
  dsimp only at h
  try simp [storeTypeLegal, loadTypeLegal] at h
  exact decode_one _ _ _ _ _ rest _
    (by unfold litCount; rw [fMajor_mkW, fB_mkW]; dsimp only; simp [h])
    (by rw [build_low (n := 0x1E) rfl (by decide)]; delta buildLow; dsimp only; simp [h, kZ, ill, reg, buildDbg, -BitVec.getLsbD_eq_getElem])

theorem gencert (d : SReg) (a : SReg) (g : PReg) : Statement (.gencert d a g) := by
  intro _ _ rest
  exact decode_one _ _ _ _ _ rest _
    (by unfold litCount; rw [fMajor_mkW, fB_mkW]; rfl)
    (by rw [build_low (n := 0x1E) rfl (by decide)]; delta buildLow; dsimp only; simp only [fD_mkW, fA_mkW, fB_mkW, fG_mkW, kS_eS, kP_e3, kC_e3, kT_e4, kH_e4, dec_bind, minor2_op, minor2_field]; rfl)

theorem iaddV (d : VReg) (a : VReg) (b : VReg) (g : PReg) : Statement (.iaddV d a b g) := by
  intro _ _ rest
  exact decode_one _ _ _ _ _ rest _
    (by unfold litCount; rw [fMajor_mkW]; rfl)
    (by rw [build_low (n := 0x20) rfl (by decide)]; delta buildLow; dsimp only; simp only [fD_mkW, fA_mkW, fB_mkW, fG_mkW, kS_eS, kP_e3, kC_e3, kT_e4, kH_e4, dec_bind, minor2_op, minor2_field])

theorem isubV (d : VReg) (a : VReg) (b : VReg) (g : PReg) : Statement (.isubV d a b g) := by
  intro _ _ rest
  exact decode_one _ _ _ _ _ rest _
    (by unfold litCount; rw [fMajor_mkW]; rfl)
    (by rw [build_low (n := 0x21) rfl (by decide)]; delta buildLow; dsimp only; simp only [fD_mkW, fA_mkW, fB_mkW, fG_mkW, kS_eS, kP_e3, kC_e3, kT_e4, kH_e4, dec_bind, minor2_op, minor2_field])

theorem imulV (d : VReg) (a : VReg) (b : VReg) (g : PReg) : Statement (.imulV d a b g) := by
  intro _ _ rest
  exact decode_one _ _ _ _ _ rest _
    (by unfold litCount; rw [fMajor_mkW]; rfl)
    (by rw [build_low (n := 0x22) rfl (by decide)]; delta buildLow; dsimp only; simp only [fD_mkW, fA_mkW, fB_mkW, fG_mkW, kS_eS, kP_e3, kC_e3, kT_e4, kH_e4, dec_bind, minor2_op, minor2_field])

theorem iaddiV (d : VReg) (a : VReg) (i : Imm7) (g : PReg) : Statement (.iaddiV d a i g) := by
  intro _ _ rest
  exact decode_one _ _ _ _ _ rest _
    (by unfold litCount; rw [fMajor_mkW]; rfl)
    (by rw [build_low (n := 0x23) rfl (by decide)]; delta buildLow; dsimp only; simp only [fD_mkW, fA_mkW, fB_mkW, fG_mkW, kS_eS, kP_e3, kC_e3, kT_e4, kH_e4, dec_bind, minor2_op, minor2_field])

theorem andV (d : VReg) (a : VReg) (b : VReg) (g : PReg) : Statement (.andV d a b g) := by
  intro _ _ rest
  exact decode_one _ _ _ _ _ rest _
    (by unfold litCount; rw [fMajor_mkW]; rfl)
    (by rw [build_low (n := 0x24) rfl (by decide)]; delta buildLow; dsimp only; simp only [fD_mkW, fA_mkW, fB_mkW, fG_mkW, kS_eS, kP_e3, kC_e3, kT_e4, kH_e4, dec_bind, minor2_op, minor2_field])

theorem orV (d : VReg) (a : VReg) (b : VReg) (g : PReg) : Statement (.orV d a b g) := by
  intro _ _ rest
  exact decode_one _ _ _ _ _ rest _
    (by unfold litCount; rw [fMajor_mkW]; rfl)
    (by rw [build_low (n := 0x25) rfl (by decide)]; delta buildLow; dsimp only; simp only [fD_mkW, fA_mkW, fB_mkW, fG_mkW, kS_eS, kP_e3, kC_e3, kT_e4, kH_e4, dec_bind, minor2_op, minor2_field])

theorem xorV (d : VReg) (a : VReg) (b : VReg) (g : PReg) : Statement (.xorV d a b g) := by
  intro _ _ rest
  exact decode_one _ _ _ _ _ rest _
    (by unfold litCount; rw [fMajor_mkW]; rfl)
    (by rw [build_low (n := 0x26) rfl (by decide)]; delta buildLow; dsimp only; simp only [fD_mkW, fA_mkW, fB_mkW, fG_mkW, kS_eS, kP_e3, kC_e3, kT_e4, kH_e4, dec_bind, minor2_op, minor2_field])

theorem shlV (d : VReg) (a : VReg) (b : VReg) (g : PReg) : Statement (.shlV d a b g) := by
  intro _ _ rest
  exact decode_one _ _ _ _ _ rest _
    (by unfold litCount; rw [fMajor_mkW]; rfl)
    (by rw [build_low (n := 0x27) rfl (by decide)]; delta buildLow; dsimp only; simp only [fD_mkW, fA_mkW, fB_mkW, fG_mkW, kS_eS, kP_e3, kC_e3, kT_e4, kH_e4, dec_bind, minor2_op, minor2_field])

theorem shrZ32V (d : VReg) (a : VReg) (b : VReg) (g : PReg) : Statement (.shrZ32V d a b g) := by
  intro _ _ rest
  exact decode_one _ _ _ _ _ rest _
    (by unfold litCount; rw [fMajor_mkW]; rfl)
    (by rw [build_low (n := 0x28) rfl (by decide)]; delta buildLow; dsimp only; simp only [fD_mkW, fA_mkW, fB_mkW, fG_mkW, kS_eS, kP_e3, kC_e3, kT_e4, kH_e4, dec_bind, minor2_op, minor2_field])

theorem imulhV (sg : Bool) (d : VReg) (a : VReg) (b : VReg) (g : PReg) : Statement (.imulhV sg d a b g) := by
  intro _ _ rest
  cases sg <;> exact decode_two _ _ _ _ _ _ rest _
    (by unfold litCount; rw [fMajor_mkW]; rfl)
    (by rw [build_low (n := 0x29) rfl (by decide)]; delta buildLow; dsimp only; simp only [fD_mkW, fA_mkW, fB_mkW, fG_mkW, kS_eS, kP_e3, kC_e3, kT_e4, kH_e4, dec_bind, minor2_op, minor2_field]; rfl)

theorem idivV (sg : Bool) (d : VReg) (a : VReg) (b : VReg) (g : PReg) : Statement (.idivV sg d a b g) := by
  intro _ _ rest
  cases sg <;> exact decode_two _ _ _ _ _ _ rest _
    (by unfold litCount; rw [fMajor_mkW]; rfl)
    (by rw [build_low (n := 0x29) rfl (by decide)]; delta buildLow; dsimp only; simp only [fD_mkW, fA_mkW, fB_mkW, fG_mkW, kS_eS, kP_e3, kC_e3, kT_e4, kH_e4, dec_bind, minor2_op, minor2_field]; rfl)

theorem iremV (sg : Bool) (d : VReg) (a : VReg) (b : VReg) (g : PReg) : Statement (.iremV sg d a b g) := by
  intro _ _ rest
  cases sg <;> exact decode_two _ _ _ _ _ _ rest _
    (by unfold litCount; rw [fMajor_mkW]; rfl)
    (by rw [build_low (n := 0x29) rfl (by decide)]; delta buildLow; dsimp only; simp only [fD_mkW, fA_mkW, fB_mkW, fG_mkW, kS_eS, kP_e3, kC_e3, kT_e4, kH_e4, dec_bind, minor2_op, minor2_field]; rfl)

theorem iminV (sg : Bool) (d : VReg) (a : VReg) (b : VReg) (g : PReg) : Statement (.iminV sg d a b g) := by
  intro _ _ rest
  cases sg <;> exact decode_two _ _ _ _ _ _ rest _
    (by unfold litCount; rw [fMajor_mkW]; rfl)
    (by rw [build_low (n := 0x29) rfl (by decide)]; delta buildLow; dsimp only; simp only [fD_mkW, fA_mkW, fB_mkW, fG_mkW, kS_eS, kP_e3, kC_e3, kT_e4, kH_e4, dec_bind, minor2_op, minor2_field]; rfl)

theorem imaxV (sg : Bool) (d : VReg) (a : VReg) (b : VReg) (g : PReg) : Statement (.imaxV sg d a b g) := by
  intro _ _ rest
  cases sg <;> exact decode_two _ _ _ _ _ _ rest _
    (by unfold litCount; rw [fMajor_mkW]; rfl)
    (by rw [build_low (n := 0x29) rfl (by decide)]; delta buildLow; dsimp only; simp only [fD_mkW, fA_mkW, fB_mkW, fG_mkW, kS_eS, kP_e3, kC_e3, kT_e4, kH_e4, dec_bind, minor2_op, minor2_field]; rfl)

theorem shrS32V (d : VReg) (a : VReg) (b : VReg) (g : PReg) : Statement (.shrS32V d a b g) := by
  intro _ _ rest
  exact decode_two _ _ _ _ _ _ rest _
    (by unfold litCount; rw [fMajor_mkW]; rfl)
    (by rw [build_low (n := 0x29) rfl (by decide)]; delta buildLow; dsimp only; simp only [fD_mkW, fA_mkW, fB_mkW, fG_mkW, kS_eS, kP_e3, kC_e3, kT_e4, kH_e4, dec_bind, minor2_op, minor2_field]; rfl)

theorem rotlV (d : VReg) (a : VReg) (b : VReg) (g : PReg) : Statement (.rotlV d a b g) := by
  intro _ _ rest
  exact decode_two _ _ _ _ _ _ rest _
    (by unfold litCount; rw [fMajor_mkW]; rfl)
    (by rw [build_low (n := 0x29) rfl (by decide)]; delta buildLow; dsimp only; simp only [fD_mkW, fA_mkW, fB_mkW, fG_mkW, kS_eS, kP_e3, kC_e3, kT_e4, kH_e4, dec_bind, minor2_op, minor2_field]; rfl)

theorem movlV (d : VReg) (v : BitVec 30) (g : PReg) : Statement (.movlV d v g) := by
  intro _ _ rest
  exact decode_two _ _ _ _ _ _ rest _
    (by unfold litCount; rw [fMajor_mkW]; rfl)
    (by rw [build_low (n := 0x2A) rfl (by decide)]; delta buildLow; dsimp only; simp only [fD_mkW, fA_mkW, fB_mkW, fG_mkW, kS_eS, kP_e3, kC_e3, kT_e4, kH_e4, dec_bind, minor2_op, minor2_field]; rfl)

theorem bfx (d : VReg) (a : VReg) (pos : BitVec 5) (len : BitVec 6) (sg : Bool) (g : PReg) : Statement (.bfx d a pos len sg g) := by
  intro h _ rest
  delta Instr.wf at h
  dsimp only at h
  try simp [storeTypeLegal, loadTypeLegal] at h
  exact decode_two _ _ _ _ _ _ rest _
    (by unfold litCount; rw [fMajor_mkW]; rfl)
    (by rw [build_low (n := 0x2B) rfl (by decide)]; delta buildLow; dsimp only; simp [h, kZ, ill, reg, -BitVec.getLsbD_eq_getElem])

theorem bfi (d : VReg) (a : VReg) (pos : BitVec 5) (len : BitVec 6) (g : PReg) : Statement (.bfi d a pos len g) := by
  intro h _ rest
  delta Instr.wf at h
  dsimp only at h
  try simp [storeTypeLegal, loadTypeLegal] at h
  exact decode_two _ _ _ _ _ _ rest _
    (by unfold litCount; rw [fMajor_mkW]; rfl)
    (by rw [build_low (n := 0x2C) rfl (by decide)]; delta buildLow; dsimp only; simp [h, kZ, ill, reg, -BitVec.getLsbD_eq_getElem])

theorem mov (d : VReg) (a : VReg) (g : PReg) : Statement (.mov d a g) := by
  intro _ _ rest
  exact decode_one _ _ _ _ _ rest _
    (by unfold litCount; rw [fMajor_mkW, fB_mkW]; rfl)
    (by rw [build_low (n := 0x2D) rfl (by decide)]; delta buildLow; dsimp only; simp only [fD_mkW, fA_mkW, fB_mkW, fG_mkW, kS_eS, kP_e3, kC_e3, kT_e4, kH_e4, dec_bind, minor2_op, minor2_field]; rfl)

theorem not (d : VReg) (a : VReg) (g : PReg) : Statement (.not d a g) := by
  intro _ _ rest
  exact decode_one _ _ _ _ _ rest _
    (by unfold litCount; rw [fMajor_mkW, fB_mkW]; rfl)
    (by rw [build_low (n := 0x2D) rfl (by decide)]; delta buildLow; dsimp only; simp only [fD_mkW, fA_mkW, fB_mkW, fG_mkW, kS_eS, kP_e3, kC_e3, kT_e4, kH_e4, dec_bind, minor2_op, minor2_field]; rfl)

theorem neg (d : VReg) (a : VReg) (g : PReg) : Statement (.neg d a g) := by
  intro _ _ rest
  exact decode_one _ _ _ _ _ rest _
    (by unfold litCount; rw [fMajor_mkW, fB_mkW]; rfl)
    (by rw [build_low (n := 0x2D) rfl (by decide)]; delta buildLow; dsimp only; simp only [fD_mkW, fA_mkW, fB_mkW, fG_mkW, kS_eS, kP_e3, kC_e3, kT_e4, kH_e4, dec_bind, minor2_op, minor2_field]; rfl)

theorem iabs (d : VReg) (a : VReg) (g : PReg) : Statement (.iabs d a g) := by
  intro _ _ rest
  exact decode_one _ _ _ _ _ rest _
    (by unfold litCount; rw [fMajor_mkW, fB_mkW]; rfl)
    (by rw [build_low (n := 0x2D) rfl (by decide)]; delta buildLow; dsimp only; simp only [fD_mkW, fA_mkW, fB_mkW, fG_mkW, kS_eS, kP_e3, kC_e3, kT_e4, kH_e4, dec_bind, minor2_op, minor2_field]; rfl)

theorem popc (d : VReg) (a : VReg) (g : PReg) : Statement (.popc d a g) := by
  intro _ _ rest
  exact decode_one _ _ _ _ _ rest _
    (by unfold litCount; rw [fMajor_mkW, fB_mkW]; rfl)
    (by rw [build_low (n := 0x2D) rfl (by decide)]; delta buildLow; dsimp only; simp only [fD_mkW, fA_mkW, fB_mkW, fG_mkW, kS_eS, kP_e3, kC_e3, kT_e4, kH_e4, dec_bind, minor2_op, minor2_field]; rfl)

theorem clz (d : VReg) (a : VReg) (g : PReg) : Statement (.clz d a g) := by
  intro _ _ rest
  exact decode_one _ _ _ _ _ rest _
    (by unfold litCount; rw [fMajor_mkW, fB_mkW]; rfl)
    (by rw [build_low (n := 0x2D) rfl (by decide)]; delta buildLow; dsimp only; simp only [fD_mkW, fA_mkW, fB_mkW, fG_mkW, kS_eS, kP_e3, kC_e3, kT_e4, kH_e4, dec_bind, minor2_op, minor2_field]; rfl)

theorem brev (d : VReg) (a : VReg) (g : PReg) : Statement (.brev d a g) := by
  intro _ _ rest
  exact decode_one _ _ _ _ _ rest _
    (by unfold litCount; rw [fMajor_mkW, fB_mkW]; rfl)
    (by rw [build_low (n := 0x2D) rfl (by decide)]; delta buildLow; dsimp only; simp only [fD_mkW, fA_mkW, fB_mkW, fG_mkW, kS_eS, kP_e3, kC_e3, kT_e4, kH_e4, dec_bind, minor2_op, minor2_field]; rfl)

theorem sext8 (d : VReg) (a : VReg) (g : PReg) : Statement (.sext8 d a g) := by
  intro _ _ rest
  exact decode_one _ _ _ _ _ rest _
    (by unfold litCount; rw [fMajor_mkW, fB_mkW]; rfl)
    (by rw [build_low (n := 0x2D) rfl (by decide)]; delta buildLow; dsimp only; simp only [fD_mkW, fA_mkW, fB_mkW, fG_mkW, kS_eS, kP_e3, kC_e3, kT_e4, kH_e4, dec_bind, minor2_op, minor2_field]; rfl)

theorem sext16 (d : VReg) (a : VReg) (g : PReg) : Statement (.sext16 d a g) := by
  intro _ _ rest
  exact decode_one _ _ _ _ _ rest _
    (by unfold litCount; rw [fMajor_mkW, fB_mkW]; rfl)
    (by rw [build_low (n := 0x2D) rfl (by decide)]; delta buildLow; dsimp only; simp only [fD_mkW, fA_mkW, fB_mkW, fG_mkW, kS_eS, kP_e3, kC_e3, kT_e4, kH_e4, dec_bind, minor2_op, minor2_field]; rfl)

theorem laneid (d : VReg) (g : PReg) : Statement (.laneid d g) := by
  intro _ _ rest
  exact decode_one _ _ _ _ _ rest _
    (by unfold litCount; rw [fMajor_mkW, fB_mkW]; rfl)
    (by rw [build_low (n := 0x2D) rfl (by decide)]; delta buildLow; dsimp only; simp only [fD_mkW, fA_mkW, fB_mkW, fG_mkW, kS_eS, kP_e3, kC_e3, kT_e4, kH_e4, dec_bind, minor2_op, minor2_field]; rfl)

theorem iaddS (d : SReg) (a : SReg) (b : SReg) (g : PReg) : Statement (.iaddS d a b g) := by
  intro _ _ rest
  exact decode_one _ _ _ _ _ rest _
    (by unfold litCount; rw [fMajor_mkW]; rfl)
    (by rw [build_low (n := 0x2E) rfl (by decide)]; delta buildLow; dsimp only; simp only [fD_mkW, fA_mkW, fB_mkW, fG_mkW, kS_eS, kP_e3, kC_e3, kT_e4, kH_e4, dec_bind, minor2_op, minor2_field])

theorem isubS (d : SReg) (a : SReg) (b : SReg) (g : PReg) : Statement (.isubS d a b g) := by
  intro _ _ rest
  exact decode_one _ _ _ _ _ rest _
    (by unfold litCount; rw [fMajor_mkW]; rfl)
    (by rw [build_low (n := 0x2F) rfl (by decide)]; delta buildLow; dsimp only; simp only [fD_mkW, fA_mkW, fB_mkW, fG_mkW, kS_eS, kP_e3, kC_e3, kT_e4, kH_e4, dec_bind, minor2_op, minor2_field])

theorem iaddiS (d : SReg) (a : SReg) (i : Imm7) (g : PReg) : Statement (.iaddiS d a i g) := by
  intro _ _ rest
  exact decode_one _ _ _ _ _ rest _
    (by unfold litCount; rw [fMajor_mkW]; rfl)
    (by rw [build_low (n := 0x30) rfl (by decide)]; delta buildLow; dsimp only; simp only [fD_mkW, fA_mkW, fB_mkW, fG_mkW, kS_eS, kP_e3, kC_e3, kT_e4, kH_e4, dec_bind, minor2_op, minor2_field])

theorem imulS (d : SReg) (a : SReg) (b : SReg) (g : PReg) : Statement (.imulS d a b g) := by
  intro _ _ rest
  exact decode_one _ _ _ _ _ rest _
    (by unfold litCount; rw [fMajor_mkW]; rfl)
    (by rw [build_low (n := 0x31) rfl (by decide)]; delta buildLow; dsimp only; simp only [fD_mkW, fA_mkW, fB_mkW, fG_mkW, kS_eS, kP_e3, kC_e3, kT_e4, kH_e4, dec_bind, minor2_op, minor2_field])

theorem movlS (d : SReg) (v : BitVec 60) (g : PReg) : Statement (.movlS d v g) := by
  intro _ _ rest
  exact decode_three _ _ _ _ _ _ _ rest _
    (by unfold litCount; rw [fMajor_mkW]; rfl)
    (by rw [build_low (n := 0x32) rfl (by decide)]; delta buildLow; dsimp only; simp [kZ, ill, reg, -BitVec.getLsbD_eq_getElem])

theorem imulhS (sg : Bool) (d : SReg) (a : SReg) (b : SReg) (g : PReg) : Statement (.imulhS sg d a b g) := by
  intro _ _ rest
  cases sg <;> exact decode_two _ _ _ _ _ _ rest _
    (by unfold litCount; rw [fMajor_mkW]; rfl)
    (by rw [build_low (n := 0x33) rfl (by decide)]; delta buildLow; dsimp only; simp only [fD_mkW, fA_mkW, fB_mkW, fG_mkW, kS_eS, kP_e3, kC_e3, kT_e4, kH_e4, dec_bind, minor2_op, minor2_field]; rfl)

theorem idivS (sg : Bool) (d : SReg) (a : SReg) (b : SReg) (g : PReg) : Statement (.idivS sg d a b g) := by
  intro _ _ rest
  cases sg <;> exact decode_two _ _ _ _ _ _ rest _
    (by unfold litCount; rw [fMajor_mkW]; rfl)
    (by rw [build_low (n := 0x33) rfl (by decide)]; delta buildLow; dsimp only; simp only [fD_mkW, fA_mkW, fB_mkW, fG_mkW, kS_eS, kP_e3, kC_e3, kT_e4, kH_e4, dec_bind, minor2_op, minor2_field]; rfl)

theorem iremS (sg : Bool) (d : SReg) (a : SReg) (b : SReg) (g : PReg) : Statement (.iremS sg d a b g) := by
  intro _ _ rest
  cases sg <;> exact decode_two _ _ _ _ _ _ rest _
    (by unfold litCount; rw [fMajor_mkW]; rfl)
    (by rw [build_low (n := 0x33) rfl (by decide)]; delta buildLow; dsimp only; simp only [fD_mkW, fA_mkW, fB_mkW, fG_mkW, kS_eS, kP_e3, kC_e3, kT_e4, kH_e4, dec_bind, minor2_op, minor2_field]; rfl)

theorem iminS (sg : Bool) (d : SReg) (a : SReg) (b : SReg) (g : PReg) : Statement (.iminS sg d a b g) := by
  intro _ _ rest
  cases sg <;> exact decode_two _ _ _ _ _ _ rest _
    (by unfold litCount; rw [fMajor_mkW]; rfl)
    (by rw [build_low (n := 0x33) rfl (by decide)]; delta buildLow; dsimp only; simp only [fD_mkW, fA_mkW, fB_mkW, fG_mkW, kS_eS, kP_e3, kC_e3, kT_e4, kH_e4, dec_bind, minor2_op, minor2_field]; rfl)

theorem imaxS (sg : Bool) (d : SReg) (a : SReg) (b : SReg) (g : PReg) : Statement (.imaxS sg d a b g) := by
  intro _ _ rest
  cases sg <;> exact decode_two _ _ _ _ _ _ rest _
    (by unfold litCount; rw [fMajor_mkW]; rfl)
    (by rw [build_low (n := 0x33) rfl (by decide)]; delta buildLow; dsimp only; simp only [fD_mkW, fA_mkW, fB_mkW, fG_mkW, kS_eS, kP_e3, kC_e3, kT_e4, kH_e4, dec_bind, minor2_op, minor2_field]; rfl)

theorem shrS32S (d : SReg) (a : SReg) (b : SReg) (g : PReg) : Statement (.shrS32S d a b g) := by
  intro _ _ rest
  exact decode_two _ _ _ _ _ _ rest _
    (by unfold litCount; rw [fMajor_mkW]; rfl)
    (by rw [build_low (n := 0x33) rfl (by decide)]; delta buildLow; dsimp only; simp only [fD_mkW, fA_mkW, fB_mkW, fG_mkW, kS_eS, kP_e3, kC_e3, kT_e4, kH_e4, dec_bind, minor2_op, minor2_field]; rfl)

theorem rotlS (d : SReg) (a : SReg) (b : SReg) (g : PReg) : Statement (.rotlS d a b g) := by
  intro _ _ rest
  exact decode_two _ _ _ _ _ _ rest _
    (by unfold litCount; rw [fMajor_mkW]; rfl)
    (by rw [build_low (n := 0x33) rfl (by decide)]; delta buildLow; dsimp only; simp only [fD_mkW, fA_mkW, fB_mkW, fG_mkW, kS_eS, kP_e3, kC_e3, kT_e4, kH_e4, dec_bind, minor2_op, minor2_field]; rfl)

theorem andS (d : SReg) (a : SReg) (b : SReg) (g : PReg) : Statement (.andS d a b g) := by
  intro _ _ rest
  exact decode_two _ _ _ _ _ _ rest _
    (by unfold litCount; rw [fMajor_mkW]; rfl)
    (by rw [build_low (n := 0x33) rfl (by decide)]; delta buildLow; dsimp only; simp only [fD_mkW, fA_mkW, fB_mkW, fG_mkW, kS_eS, kP_e3, kC_e3, kT_e4, kH_e4, dec_bind, minor2_op, minor2_field]; rfl)

theorem orS (d : SReg) (a : SReg) (b : SReg) (g : PReg) : Statement (.orS d a b g) := by
  intro _ _ rest
  exact decode_two _ _ _ _ _ _ rest _
    (by unfold litCount; rw [fMajor_mkW]; rfl)
    (by rw [build_low (n := 0x33) rfl (by decide)]; delta buildLow; dsimp only; simp only [fD_mkW, fA_mkW, fB_mkW, fG_mkW, kS_eS, kP_e3, kC_e3, kT_e4, kH_e4, dec_bind, minor2_op, minor2_field]; rfl)

theorem xorS (d : SReg) (a : SReg) (b : SReg) (g : PReg) : Statement (.xorS d a b g) := by
  intro _ _ rest
  exact decode_two _ _ _ _ _ _ rest _
    (by unfold litCount; rw [fMajor_mkW]; rfl)
    (by rw [build_low (n := 0x33) rfl (by decide)]; delta buildLow; dsimp only; simp only [fD_mkW, fA_mkW, fB_mkW, fG_mkW, kS_eS, kP_e3, kC_e3, kT_e4, kH_e4, dec_bind, minor2_op, minor2_field]; rfl)

theorem shlS (d : SReg) (a : SReg) (b : SReg) (g : PReg) : Statement (.shlS d a b g) := by
  intro _ _ rest
  exact decode_two _ _ _ _ _ _ rest _
    (by unfold litCount; rw [fMajor_mkW]; rfl)
    (by rw [build_low (n := 0x33) rfl (by decide)]; delta buildLow; dsimp only; simp only [fD_mkW, fA_mkW, fB_mkW, fG_mkW, kS_eS, kP_e3, kC_e3, kT_e4, kH_e4, dec_bind, minor2_op, minor2_field]; rfl)

theorem shrZ32S (d : SReg) (a : SReg) (b : SReg) (g : PReg) : Statement (.shrZ32S d a b g) := by
  intro _ _ rest
  exact decode_two _ _ _ _ _ _ rest _
    (by unfold litCount; rw [fMajor_mkW]; rfl)
    (by rw [build_low (n := 0x33) rfl (by decide)]; delta buildLow; dsimp only; simp only [fD_mkW, fA_mkW, fB_mkW, fG_mkW, kS_eS, kP_e3, kC_e3, kT_e4, kH_e4, dec_bind, minor2_op, minor2_field]; rfl)

theorem icmpV (d : PReg) (a : VReg) (b : VReg) (c : BitVec 4) (g : PReg) : Statement (.icmpV d a b c g) := by
  intro h _ rest
  delta Instr.wf at h
  dsimp only at h
  try simp [storeTypeLegal, loadTypeLegal] at h
  exact decode_two _ _ _ _ _ _ rest _
    (by unfold litCount; rw [fMajor_mkW]; rfl)
    (by rw [build_mid (n := 0x34) rfl (by decide) (by decide)]; delta buildMid; dsimp only; simp [h, kZ, ill, reg, atomLit, typeRegs, -BitVec.getLsbD_eq_getElem])

theorem icmpS (d : PReg) (a : SReg) (b : SReg) (c : BitVec 4) (g : PReg) : Statement (.icmpS d a b c g) := by
  intro h _ rest
  delta Instr.wf at h
  dsimp only at h
  try simp [storeTypeLegal, loadTypeLegal] at h
  exact decode_two _ _ _ _ _ _ rest _
    (by unfold litCount; rw [fMajor_mkW]; rfl)
    (by rw [build_mid (n := 0x35) rfl (by decide) (by decide)]; delta buildMid; dsimp only; simp [h, kZ, ill, reg, atomLit, typeRegs, -BitVec.getLsbD_eq_getElem])

theorem plog (d : PReg) (a : PReg) (b : PReg) (tt : BitVec 4) (g : PReg) : Statement (.plog d a b tt g) := by
  intro _ _ rest
  exact decode_two _ _ _ _ _ _ rest _
    (by unfold litCount; rw [fMajor_mkW]; rfl)
    (by rw [build_mid (n := 0x36) rfl (by decide) (by decide)]; delta buildMid; dsimp only; simp [kZ, ill, reg, atomLit, typeRegs, -BitVec.getLsbD_eq_getElem])

theorem voteAny (d : SReg) (a : PReg) (g : PReg) : Statement (.voteAny d a g) := by
  intro _ _ rest
  exact decode_one _ _ _ _ _ rest _
    (by unfold litCount; rw [fMajor_mkW, fB_mkW]; rfl)
    (by rw [build_mid (n := 0x37) rfl (by decide) (by decide)]; delta buildMid; dsimp only; simp only [fD_mkW, fA_mkW, fB_mkW, fG_mkW, kS_eS, kP_e3, kC_e3, kT_e4, kH_e4, dec_bind, minor2_op, minor2_field]; rfl)

theorem voteAll (d : SReg) (a : PReg) (g : PReg) : Statement (.voteAll d a g) := by
  intro _ _ rest
  exact decode_one _ _ _ _ _ rest _
    (by unfold litCount; rw [fMajor_mkW, fB_mkW]; rfl)
    (by rw [build_mid (n := 0x37) rfl (by decide) (by decide)]; delta buildMid; dsimp only; simp only [fD_mkW, fA_mkW, fB_mkW, fG_mkW, kS_eS, kP_e3, kC_e3, kT_e4, kH_e4, dec_bind, minor2_op, minor2_field]; rfl)

theorem voteCount (d : SReg) (a : PReg) (g : PReg) : Statement (.voteCount d a g) := by
  intro _ _ rest
  exact decode_one _ _ _ _ _ rest _
    (by unfold litCount; rw [fMajor_mkW, fB_mkW]; rfl)
    (by rw [build_mid (n := 0x37) rfl (by decide) (by decide)]; delta buildMid; dsimp only; simp only [fD_mkW, fA_mkW, fB_mkW, fG_mkW, kS_eS, kP_e3, kC_e3, kT_e4, kH_e4, dec_bind, minor2_op, minor2_field]; rfl)

theorem ballot (d : VReg) (a : PReg) (g : PReg) : Statement (.ballot d a g) := by
  intro _ _ rest
  exact decode_one _ _ _ _ _ rest _
    (by unfold litCount; rw [fMajor_mkW]; rfl)
    (by rw [build_mid (n := 0x38) rfl (by decide) (by decide)]; delta buildMid; dsimp only; simp only [fD_mkW, fA_mkW, fB_mkW, fG_mkW, kS_eS, kP_e3, kC_e3, kT_e4, kH_e4, dec_bind, minor2_op, minor2_field]; rfl)

theorem shfl (d : VReg) (a : VReg) (b : VReg) (g : PReg) : Statement (.shfl d a b g) := by
  intro _ _ rest
  exact decode_two _ _ _ _ _ _ rest _
    (by unfold litCount; rw [fMajor_mkW]; rfl)
    (by rw [build_mid (n := 0x39) rfl (by decide) (by decide)]; delta buildMid; dsimp only; simp only [fD_mkW, fA_mkW, fB_mkW, fG_mkW, kS_eS, kP_e3, kC_e3, kT_e4, kH_e4, dec_bind, minor2_op, minor2_field]; rfl)

theorem shflu (d : VReg) (a : VReg) (b : VReg) (g : PReg) : Statement (.shflu d a b g) := by
  intro _ _ rest
  exact decode_two _ _ _ _ _ _ rest _
    (by unfold litCount; rw [fMajor_mkW]; rfl)
    (by rw [build_mid (n := 0x39) rfl (by decide) (by decide)]; delta buildMid; dsimp only; simp only [fD_mkW, fA_mkW, fB_mkW, fG_mkW, kS_eS, kP_e3, kC_e3, kT_e4, kH_e4, dec_bind, minor2_op, minor2_field]; rfl)

theorem shfld (d : VReg) (a : VReg) (b : VReg) (g : PReg) : Statement (.shfld d a b g) := by
  intro _ _ rest
  exact decode_two _ _ _ _ _ _ rest _
    (by unfold litCount; rw [fMajor_mkW]; rfl)
    (by rw [build_mid (n := 0x39) rfl (by decide) (by decide)]; delta buildMid; dsimp only; simp only [fD_mkW, fA_mkW, fB_mkW, fG_mkW, kS_eS, kP_e3, kC_e3, kT_e4, kH_e4, dec_bind, minor2_op, minor2_field]; rfl)

theorem shflx (d : VReg) (a : VReg) (b : VReg) (g : PReg) : Statement (.shflx d a b g) := by
  intro _ _ rest
  exact decode_two _ _ _ _ _ _ rest _
    (by unfold litCount; rw [fMajor_mkW]; rfl)
    (by rw [build_mid (n := 0x39) rfl (by decide) (by decide)]; delta buildMid; dsimp only; simp only [fD_mkW, fA_mkW, fB_mkW, fG_mkW, kS_eS, kP_e3, kC_e3, kT_e4, kH_e4, dec_bind, minor2_op, minor2_field]; rfl)

theorem gredIadd (d : VReg) (a : VReg) (g : PReg) : Statement (.gredIadd d a g) := by
  intro _ _ rest
  exact decode_one _ _ _ _ _ rest _
    (by unfold litCount; rw [fMajor_mkW, fB_mkW]; rfl)
    (by rw [build_mid (n := 0x3A) rfl (by decide) (by decide)]; delta buildMid; dsimp only; simp only [fD_mkW, fA_mkW, fB_mkW, fG_mkW, kS_eS, kP_e3, kC_e3, kT_e4, kH_e4, dec_bind, minor2_op, minor2_field]; rfl)

theorem gredIminS32 (d : VReg) (a : VReg) (g : PReg) : Statement (.gredIminS32 d a g) := by
  intro _ _ rest
  exact decode_one _ _ _ _ _ rest _
    (by unfold litCount; rw [fMajor_mkW, fB_mkW]; rfl)
    (by rw [build_mid (n := 0x3A) rfl (by decide) (by decide)]; delta buildMid; dsimp only; simp only [fD_mkW, fA_mkW, fB_mkW, fG_mkW, kS_eS, kP_e3, kC_e3, kT_e4, kH_e4, dec_bind, minor2_op, minor2_field]; rfl)

theorem gredIminZ32 (d : VReg) (a : VReg) (g : PReg) : Statement (.gredIminZ32 d a g) := by
  intro _ _ rest
  exact decode_one _ _ _ _ _ rest _
    (by unfold litCount; rw [fMajor_mkW, fB_mkW]; rfl)
    (by rw [build_mid (n := 0x3A) rfl (by decide) (by decide)]; delta buildMid; dsimp only; simp only [fD_mkW, fA_mkW, fB_mkW, fG_mkW, kS_eS, kP_e3, kC_e3, kT_e4, kH_e4, dec_bind, minor2_op, minor2_field]; rfl)

theorem gredImaxS32 (d : VReg) (a : VReg) (g : PReg) : Statement (.gredImaxS32 d a g) := by
  intro _ _ rest
  exact decode_one _ _ _ _ _ rest _
    (by unfold litCount; rw [fMajor_mkW, fB_mkW]; rfl)
    (by rw [build_mid (n := 0x3A) rfl (by decide) (by decide)]; delta buildMid; dsimp only; simp only [fD_mkW, fA_mkW, fB_mkW, fG_mkW, kS_eS, kP_e3, kC_e3, kT_e4, kH_e4, dec_bind, minor2_op, minor2_field]; rfl)

theorem gredImaxZ32 (d : VReg) (a : VReg) (g : PReg) : Statement (.gredImaxZ32 d a g) := by
  intro _ _ rest
  exact decode_one _ _ _ _ _ rest _
    (by unfold litCount; rw [fMajor_mkW, fB_mkW]; rfl)
    (by rw [build_mid (n := 0x3A) rfl (by decide) (by decide)]; delta buildMid; dsimp only; simp only [fD_mkW, fA_mkW, fB_mkW, fG_mkW, kS_eS, kP_e3, kC_e3, kT_e4, kH_e4, dec_bind, minor2_op, minor2_field]; rfl)

theorem gredAnd (d : VReg) (a : VReg) (g : PReg) : Statement (.gredAnd d a g) := by
  intro _ _ rest
  exact decode_one _ _ _ _ _ rest _
    (by unfold litCount; rw [fMajor_mkW, fB_mkW]; rfl)
    (by rw [build_mid (n := 0x3A) rfl (by decide) (by decide)]; delta buildMid; dsimp only; simp only [fD_mkW, fA_mkW, fB_mkW, fG_mkW, kS_eS, kP_e3, kC_e3, kT_e4, kH_e4, dec_bind, minor2_op, minor2_field]; rfl)

theorem gredOr (d : VReg) (a : VReg) (g : PReg) : Statement (.gredOr d a g) := by
  intro _ _ rest
  exact decode_one _ _ _ _ _ rest _
    (by unfold litCount; rw [fMajor_mkW, fB_mkW]; rfl)
    (by rw [build_mid (n := 0x3A) rfl (by decide) (by decide)]; delta buildMid; dsimp only; simp only [fD_mkW, fA_mkW, fB_mkW, fG_mkW, kS_eS, kP_e3, kC_e3, kT_e4, kH_e4, dec_bind, minor2_op, minor2_field]; rfl)

theorem gredXor (d : VReg) (a : VReg) (g : PReg) : Statement (.gredXor d a g) := by
  intro _ _ rest
  exact decode_one _ _ _ _ _ rest _
    (by unfold litCount; rw [fMajor_mkW, fB_mkW]; rfl)
    (by rw [build_mid (n := 0x3A) rfl (by decide) (by decide)]; delta buildMid; dsimp only; simp only [fD_mkW, fA_mkW, fB_mkW, fG_mkW, kS_eS, kP_e3, kC_e3, kT_e4, kH_e4, dec_bind, minor2_op, minor2_field]; rfl)

theorem gredFadd (d : VReg) (a : VReg) (g : PReg) : Statement (.gredFadd d a g) := by
  intro _ _ rest
  exact decode_one _ _ _ _ _ rest _
    (by unfold litCount; rw [fMajor_mkW, fB_mkW]; rfl)
    (by rw [build_mid (n := 0x3A) rfl (by decide) (by decide)]; delta buildMid; dsimp only; simp only [fD_mkW, fA_mkW, fB_mkW, fG_mkW, kS_eS, kP_e3, kC_e3, kT_e4, kH_e4, dec_bind, minor2_op, minor2_field]; rfl)

theorem gredFmin (d : VReg) (a : VReg) (g : PReg) : Statement (.gredFmin d a g) := by
  intro _ _ rest
  exact decode_one _ _ _ _ _ rest _
    (by unfold litCount; rw [fMajor_mkW, fB_mkW]; rfl)
    (by rw [build_mid (n := 0x3A) rfl (by decide) (by decide)]; delta buildMid; dsimp only; simp only [fD_mkW, fA_mkW, fB_mkW, fG_mkW, kS_eS, kP_e3, kC_e3, kT_e4, kH_e4, dec_bind, minor2_op, minor2_field]; rfl)

theorem gredFmax (d : VReg) (a : VReg) (g : PReg) : Statement (.gredFmax d a g) := by
  intro _ _ rest
  exact decode_one _ _ _ _ _ rest _
    (by unfold litCount; rw [fMajor_mkW, fB_mkW]; rfl)
    (by rw [build_mid (n := 0x3A) rfl (by decide) (by decide)]; delta buildMid; dsimp only; simp only [fD_mkW, fA_mkW, fB_mkW, fG_mkW, kS_eS, kP_e3, kC_e3, kT_e4, kH_e4, dec_bind, minor2_op, minor2_field]; rfl)

theorem movs (d : VReg) (a : SReg) (g : PReg) : Statement (.movs d a g) := by
  intro _ _ rest
  exact decode_one _ _ _ _ _ rest _
    (by unfold litCount; rw [fMajor_mkW]; rfl)
    (by rw [build_mid (n := 0x3B) rfl (by decide) (by decide)]; delta buildMid; dsimp only; simp only [fD_mkW, fA_mkW, fB_mkW, fG_mkW, kS_eS, kP_e3, kC_e3, kT_e4, kH_e4, dec_bind, minor2_op, minor2_field]; rfl)

theorem rdln (d : SReg) (a : VReg) (n : BitVec 10) (g : PReg) : Statement (.rdln d a n g) := by
  intro _ _ rest
  exact decode_two _ _ _ _ _ _ rest _
    (by unfold litCount; rw [fMajor_mkW]; rfl)
    (by rw [build_mid (n := 0x3C) rfl (by decide) (by decide)]; delta buildMid; dsimp only; simp [kZ, ill, reg, atomLit, typeRegs, -BitVec.getLsbD_eq_getElem])

theorem sel (d : VReg) (a : VReg) (b : VReg) (p : PReg) (g : PReg) : Statement (.sel d a b p g) := by
  intro _ _ rest
  exact decode_two _ _ _ _ _ _ rest _
    (by unfold litCount; rw [fMajor_mkW]; rfl)
    (by rw [build_mid (n := 0x3D) rfl (by decide) (by decide)]; delta buildMid; dsimp only; simp [kZ, ill, reg, atomLit, typeRegs, -BitVec.getLsbD_eq_getElem])

theorem fadd (d : VReg) (a : VReg) (b : VReg) (g : PReg) : Statement (.fadd d a b g) := by
  intro _ _ rest
  exact decode_one _ _ _ _ _ rest _
    (by unfold litCount; rw [fMajor_mkW]; rfl)
    (by rw [build_mid (n := 0x3E) rfl (by decide) (by decide)]; delta buildMid; dsimp only; simp only [fD_mkW, fA_mkW, fB_mkW, fG_mkW, kS_eS, kP_e3, kC_e3, kT_e4, kH_e4, dec_bind, minor2_op, minor2_field])

theorem fmul (d : VReg) (a : VReg) (b : VReg) (g : PReg) : Statement (.fmul d a b g) := by
  intro _ _ rest
  exact decode_one _ _ _ _ _ rest _
    (by unfold litCount; rw [fMajor_mkW]; rfl)
    (by rw [build_mid (n := 0x3F) rfl (by decide) (by decide)]; delta buildMid; dsimp only; simp only [fD_mkW, fA_mkW, fB_mkW, fG_mkW, kS_eS, kP_e3, kC_e3, kT_e4, kH_e4, dec_bind, minor2_op, minor2_field])

theorem fdiv (d : VReg) (a : VReg) (b : VReg) (g : PReg) : Statement (.fdiv d a b g) := by
  intro _ _ rest
  exact decode_one _ _ _ _ _ rest _
    (by unfold litCount; rw [fMajor_mkW]; rfl)
    (by rw [build_mid (n := 0x40) rfl (by decide) (by decide)]; delta buildMid; dsimp only; simp only [fD_mkW, fA_mkW, fB_mkW, fG_mkW, kS_eS, kP_e3, kC_e3, kT_e4, kH_e4, dec_bind, minor2_op, minor2_field])

theorem fmin (d : VReg) (a : VReg) (b : VReg) (g : PReg) : Statement (.fmin d a b g) := by
  intro _ _ rest
  exact decode_one _ _ _ _ _ rest _
    (by unfold litCount; rw [fMajor_mkW]; rfl)
    (by rw [build_mid (n := 0x41) rfl (by decide) (by decide)]; delta buildMid; dsimp only; simp only [fD_mkW, fA_mkW, fB_mkW, fG_mkW, kS_eS, kP_e3, kC_e3, kT_e4, kH_e4, dec_bind, minor2_op, minor2_field])

theorem fmax (d : VReg) (a : VReg) (b : VReg) (g : PReg) : Statement (.fmax d a b g) := by
  intro _ _ rest
  exact decode_one _ _ _ _ _ rest _
    (by unfold litCount; rw [fMajor_mkW]; rfl)
    (by rw [build_mid (n := 0x42) rfl (by decide) (by decide)]; delta buildMid; dsimp only; simp only [fD_mkW, fA_mkW, fB_mkW, fG_mkW, kS_eS, kP_e3, kC_e3, kT_e4, kH_e4, dec_bind, minor2_op, minor2_field])

theorem fmaxz (d : VReg) (a : VReg) (g : PReg) : Statement (.fmaxz d a g) := by
  intro _ _ rest
  exact decode_one _ _ _ _ _ rest _
    (by unfold litCount; rw [fMajor_mkW]; rfl)
    (by rw [build_mid (n := 0x43) rfl (by decide) (by decide)]; delta buildMid; dsimp only; simp only [fD_mkW, fA_mkW, fB_mkW, fG_mkW, kS_eS, kP_e3, kC_e3, kT_e4, kH_e4, dec_bind, minor2_op, minor2_field]; rfl)

theorem fminz (d : VReg) (a : VReg) (g : PReg) : Statement (.fminz d a g) := by
  intro _ _ rest
  exact decode_one _ _ _ _ _ rest _
    (by unfold litCount; rw [fMajor_mkW]; rfl)
    (by rw [build_mid (n := 0x44) rfl (by decide) (by decide)]; delta buildMid; dsimp only; simp only [fD_mkW, fA_mkW, fB_mkW, fG_mkW, kS_eS, kP_e3, kC_e3, kT_e4, kH_e4, dec_bind, minor2_op, minor2_field]; rfl)

theorem fset (d : PReg) (a : VReg) (b : VReg) (c : BitVec 4) (g : PReg) : Statement (.fset d a b c g) := by
  intro h _ rest
  delta Instr.wf at h
  dsimp only at h
  try simp [storeTypeLegal, loadTypeLegal] at h
  exact decode_two _ _ _ _ _ _ rest _
    (by unfold litCount; rw [fMajor_mkW]; rfl)
    (by rw [build_mid (n := 0x45) rfl (by decide) (by decide)]; delta buildMid; dsimp only; simp [h, kZ, ill, reg, atomLit, typeRegs, -BitVec.getLsbD_eq_getElem])

theorem fsetk (d : VReg) (a : VReg) (c : BitVec 4) (g : PReg) : Statement (.fsetk d a c g) := by
  intro h _ rest
  delta Instr.wf at h
  dsimp only at h
  try simp [storeTypeLegal, loadTypeLegal] at h
  exact decode_two _ _ _ _ _ _ rest _
    (by unfold litCount; rw [fMajor_mkW]; rfl)
    (by rw [build_mid (n := 0x46) rfl (by decide) (by decide)]; delta buildMid; dsimp only; simp [h, kZ, ill, reg, atomLit, typeRegs, -BitVec.getLsbD_eq_getElem])

theorem faddLong (r : Rnd) (d : VReg) (a : VReg) (b : VReg) (g : PReg) : Statement (.faddLong r d a b g) := by
  intro _ _ rest
  exact decode_two _ _ _ _ _ _ rest _
    (by unfold litCount; rw [fMajor_mkW]; rfl)
    (by rw [build_mid (n := 0x47) rfl (by decide) (by decide)]; delta buildMid; dsimp only; simp [kZ, ill, reg, atomLit, typeRegs, buildFpLong, -BitVec.getLsbD_eq_getElem])

theorem fsub (r : Rnd) (d : VReg) (a : VReg) (b : VReg) (g : PReg) : Statement (.fsub r d a b g) := by
  intro _ _ rest
  exact decode_two _ _ _ _ _ _ rest _
    (by unfold litCount; rw [fMajor_mkW]; rfl)
    (by rw [build_mid (n := 0x47) rfl (by decide) (by decide)]; delta buildMid; dsimp only; simp [kZ, ill, reg, atomLit, typeRegs, buildFpLong, -BitVec.getLsbD_eq_getElem])

theorem fmulLong (r : Rnd) (d : VReg) (a : VReg) (b : VReg) (g : PReg) : Statement (.fmulLong r d a b g) := by
  intro _ _ rest
  exact decode_two _ _ _ _ _ _ rest _
    (by unfold litCount; rw [fMajor_mkW]; rfl)
    (by rw [build_mid (n := 0x47) rfl (by decide) (by decide)]; delta buildMid; dsimp only; simp [kZ, ill, reg, atomLit, typeRegs, buildFpLong, -BitVec.getLsbD_eq_getElem])

theorem ffmaLong (r : Rnd) (d : VReg) (a : VReg) (b : VReg) (c : VReg) (g : PReg) : Statement (.ffmaLong r d a b c g) := by
  intro _ _ rest
  exact decode_two _ _ _ _ _ _ rest _
    (by unfold litCount; rw [fMajor_mkW]; rfl)
    (by rw [build_mid (n := 0x47) rfl (by decide) (by decide)]; delta buildMid; dsimp only; simp [kZ, ill, reg, atomLit, typeRegs, buildFpLong, -BitVec.getLsbD_eq_getElem])

theorem fdivLong (r : Rnd) (d : VReg) (a : VReg) (b : VReg) (g : PReg) : Statement (.fdivLong r d a b g) := by
  intro _ _ rest
  exact decode_two _ _ _ _ _ _ rest _
    (by unfold litCount; rw [fMajor_mkW]; rfl)
    (by rw [build_mid (n := 0x47) rfl (by decide) (by decide)]; delta buildMid; dsimp only; simp [kZ, ill, reg, atomLit, typeRegs, buildFpLong, -BitVec.getLsbD_eq_getElem])

theorem ffms (r : Rnd) (d : VReg) (a : VReg) (b : VReg) (c : VReg) (g : PReg) : Statement (.ffms r d a b c g) := by
  intro _ _ rest
  exact decode_two _ _ _ _ _ _ rest _
    (by unfold litCount; rw [fMajor_mkW]; rfl)
    (by rw [build_mid (n := 0x47) rfl (by decide) (by decide)]; delta buildMid; dsimp only; simp [kZ, ill, reg, atomLit, typeRegs, buildFpLong, -BitVec.getLsbD_eq_getElem])

theorem fnma (r : Rnd) (d : VReg) (a : VReg) (b : VReg) (c : VReg) (g : PReg) : Statement (.fnma r d a b c g) := by
  intro _ _ rest
  exact decode_two _ _ _ _ _ _ rest _
    (by unfold litCount; rw [fMajor_mkW]; rfl)
    (by rw [build_mid (n := 0x47) rfl (by decide) (by decide)]; delta buildMid; dsimp only; simp [kZ, ill, reg, atomLit, typeRegs, buildFpLong, -BitVec.getLsbD_eq_getElem])

theorem fminLong (r : Rnd) (d : VReg) (a : VReg) (b : VReg) (g : PReg) : Statement (.fminLong r d a b g) := by
  intro _ _ rest
  exact decode_two _ _ _ _ _ _ rest _
    (by unfold litCount; rw [fMajor_mkW]; rfl)
    (by rw [build_mid (n := 0x47) rfl (by decide) (by decide)]; delta buildMid; dsimp only; simp [kZ, ill, reg, atomLit, typeRegs, buildFpLong, -BitVec.getLsbD_eq_getElem])

theorem fmaxLong (r : Rnd) (d : VReg) (a : VReg) (b : VReg) (g : PReg) : Statement (.fmaxLong r d a b g) := by
  intro _ _ rest
  exact decode_two _ _ _ _ _ _ rest _
    (by unfold litCount; rw [fMajor_mkW]; rfl)
    (by rw [build_mid (n := 0x47) rfl (by decide) (by decide)]; delta buildMid; dsimp only; simp [kZ, ill, reg, atomLit, typeRegs, buildFpLong, -BitVec.getLsbD_eq_getElem])

theorem fsqrt (r : Rnd) (d : VReg) (a : VReg) (g : PReg) : Statement (.fsqrt r d a g) := by
  intro _ _ rest
  exact decode_one _ _ _ _ _ rest _
    (by exact litCount_fpUnary _ _ _ _ _ (by decide))
    (by rw [build_mid (n := 0x48) rfl (by decide) (by decide)]; delta buildMid; dsimp only; simp only [fD_mkW, fA_mkW, fB_mkW, fG_mkW, kS_eS, kP_e3, kC_e3, kT_e4, kH_e4, dec_bind, minor2_op, minor2_field]; rfl)

theorem frsq (r : Rnd) (d : VReg) (a : VReg) (g : PReg) : Statement (.frsq r d a g) := by
  intro _ _ rest
  exact decode_one _ _ _ _ _ rest _
    (by exact litCount_fpUnary _ _ _ _ _ (by decide))
    (by rw [build_mid (n := 0x48) rfl (by decide) (by decide)]; delta buildMid; dsimp only; simp only [fD_mkW, fA_mkW, fB_mkW, fG_mkW, kS_eS, kP_e3, kC_e3, kT_e4, kH_e4, dec_bind, minor2_op, minor2_field]; rfl)

theorem frcp (r : Rnd) (d : VReg) (a : VReg) (g : PReg) : Statement (.frcp r d a g) := by
  intro _ _ rest
  exact decode_one _ _ _ _ _ rest _
    (by exact litCount_fpUnary _ _ _ _ _ (by decide))
    (by rw [build_mid (n := 0x48) rfl (by decide) (by decide)]; delta buildMid; dsimp only; simp only [fD_mkW, fA_mkW, fB_mkW, fG_mkW, kS_eS, kP_e3, kC_e3, kT_e4, kH_e4, dec_bind, minor2_op, minor2_field]; rfl)

theorem fexp2 (r : Rnd) (d : VReg) (a : VReg) (g : PReg) : Statement (.fexp2 r d a g) := by
  intro _ _ rest
  exact decode_one _ _ _ _ _ rest _
    (by exact litCount_fpUnary _ _ _ _ _ (by decide))
    (by rw [build_mid (n := 0x48) rfl (by decide) (by decide)]; delta buildMid; dsimp only; simp only [fD_mkW, fA_mkW, fB_mkW, fG_mkW, kS_eS, kP_e3, kC_e3, kT_e4, kH_e4, dec_bind, minor2_op, minor2_field]; rfl)

theorem flog2 (r : Rnd) (d : VReg) (a : VReg) (g : PReg) : Statement (.flog2 r d a g) := by
  intro _ _ rest
  exact decode_one _ _ _ _ _ rest _
    (by exact litCount_fpUnary _ _ _ _ _ (by decide))
    (by rw [build_mid (n := 0x48) rfl (by decide) (by decide)]; delta buildMid; dsimp only; simp only [fD_mkW, fA_mkW, fB_mkW, fG_mkW, kS_eS, kP_e3, kC_e3, kT_e4, kH_e4, dec_bind, minor2_op, minor2_field]; rfl)

theorem fsin (r : Rnd) (d : VReg) (a : VReg) (g : PReg) : Statement (.fsin r d a g) := by
  intro _ _ rest
  exact decode_one _ _ _ _ _ rest _
    (by exact litCount_fpUnary _ _ _ _ _ (by decide))
    (by rw [build_mid (n := 0x48) rfl (by decide) (by decide)]; delta buildMid; dsimp only; simp only [fD_mkW, fA_mkW, fB_mkW, fG_mkW, kS_eS, kP_e3, kC_e3, kT_e4, kH_e4, dec_bind, minor2_op, minor2_field]; rfl)

theorem fcos (r : Rnd) (d : VReg) (a : VReg) (g : PReg) : Statement (.fcos r d a g) := by
  intro _ _ rest
  exact decode_one _ _ _ _ _ rest _
    (by exact litCount_fpUnary _ _ _ _ _ (by decide))
    (by rw [build_mid (n := 0x48) rfl (by decide) (by decide)]; delta buildMid; dsimp only; simp only [fD_mkW, fA_mkW, fB_mkW, fG_mkW, kS_eS, kP_e3, kC_e3, kT_e4, kH_e4, dec_bind, minor2_op, minor2_field]; rfl)

theorem ftanh (r : Rnd) (d : VReg) (a : VReg) (g : PReg) : Statement (.ftanh r d a g) := by
  intro _ _ rest
  exact decode_one _ _ _ _ _ rest _
    (by exact litCount_fpUnary _ _ _ _ _ (by decide))
    (by rw [build_mid (n := 0x48) rfl (by decide) (by decide)]; delta buildMid; dsimp only; simp only [fD_mkW, fA_mkW, fB_mkW, fG_mkW, kS_eS, kP_e3, kC_e3, kT_e4, kH_e4, dec_bind, minor2_op, minor2_field]; rfl)

theorem frint (r : Rnd) (d : VReg) (a : VReg) (g : PReg) : Statement (.frint r d a g) := by
  intro _ _ rest
  exact decode_one _ _ _ _ _ rest _
    (by exact litCount_fpUnary _ _ _ _ _ (by decide))
    (by rw [build_mid (n := 0x48) rfl (by decide) (by decide)]; delta buildMid; dsimp only; simp only [fD_mkW, fA_mkW, fB_mkW, fG_mkW, kS_eS, kP_e3, kC_e3, kT_e4, kH_e4, dec_bind, minor2_op, minor2_field]; rfl)

theorem fabs (d : VReg) (a : VReg) (g : PReg) : Statement (.fabs d a g) := by
  intro _ _ rest
  exact decode_one _ _ _ _ _ rest _
    (by unfold litCount; rw [fMajor_mkW, fB_mkW]; rfl)
    (by rw [build_mid (n := 0x48) rfl (by decide) (by decide)]; delta buildMid; dsimp only; simp only [fD_mkW, fA_mkW, fB_mkW, fG_mkW, kS_eS, kP_e3, kC_e3, kT_e4, kH_e4, dec_bind, minor2_op, minor2_field]; rfl)

theorem fneg (d : VReg) (a : VReg) (g : PReg) : Statement (.fneg d a g) := by
  intro _ _ rest
  exact decode_one _ _ _ _ _ rest _
    (by unfold litCount; rw [fMajor_mkW, fB_mkW]; rfl)
    (by rw [build_mid (n := 0x48) rfl (by decide) (by decide)]; delta buildMid; dsimp only; simp only [fD_mkW, fA_mkW, fB_mkW, fG_mkW, kS_eS, kP_e3, kC_e3, kT_e4, kH_e4, dec_bind, minor2_op, minor2_field]; rfl)

theorem fcvtS32F32 (r : Rnd) (d : VReg) (a : VReg) (g : PReg) : Statement (.fcvtS32F32 r d a g) := by
  intro _ _ rest
  exact decode_one _ _ _ _ _ rest _
    (by exact litCount_fcvt _ _ _ _ _ (by decide))
    (by rw [build_mid (n := 0x49) rfl (by decide) (by decide)]; delta buildMid; dsimp only; simp only [fD_mkW, fA_mkW, fB_mkW, fG_mkW, kS_eS, kP_e3, kC_e3, kT_e4, kH_e4, dec_bind, minor2_op, minor2_field]; rfl)

theorem fcvtZ32F32 (r : Rnd) (d : VReg) (a : VReg) (g : PReg) : Statement (.fcvtZ32F32 r d a g) := by
  intro _ _ rest
  exact decode_one _ _ _ _ _ rest _
    (by exact litCount_fcvt _ _ _ _ _ (by decide))
    (by rw [build_mid (n := 0x49) rfl (by decide) (by decide)]; delta buildMid; dsimp only; simp only [fD_mkW, fA_mkW, fB_mkW, fG_mkW, kS_eS, kP_e3, kC_e3, kT_e4, kH_e4, dec_bind, minor2_op, minor2_field]; rfl)

theorem fcvtF32S32 (r : Rnd) (d : VReg) (a : VReg) (g : PReg) : Statement (.fcvtF32S32 r d a g) := by
  intro _ _ rest
  exact decode_one _ _ _ _ _ rest _
    (by exact litCount_fcvt _ _ _ _ _ (by decide))
    (by rw [build_mid (n := 0x49) rfl (by decide) (by decide)]; delta buildMid; dsimp only; simp only [fD_mkW, fA_mkW, fB_mkW, fG_mkW, kS_eS, kP_e3, kC_e3, kT_e4, kH_e4, dec_bind, minor2_op, minor2_field]; rfl)

theorem fcvtF32Z32 (r : Rnd) (d : VReg) (a : VReg) (g : PReg) : Statement (.fcvtF32Z32 r d a g) := by
  intro _ _ rest
  exact decode_one _ _ _ _ _ rest _
    (by exact litCount_fcvt _ _ _ _ _ (by decide))
    (by rw [build_mid (n := 0x49) rfl (by decide) (by decide)]; delta buildMid; dsimp only; simp only [fD_mkW, fA_mkW, fB_mkW, fG_mkW, kS_eS, kP_e3, kC_e3, kT_e4, kH_e4, dec_bind, minor2_op, minor2_field]; rfl)

theorem fcvtBf16F32 (r : Rnd) (d : VReg) (a : VReg) (g : PReg) : Statement (.fcvtBf16F32 r d a g) := by
  intro _ _ rest
  exact decode_one _ _ _ _ _ rest _
    (by exact litCount_fcvt _ _ _ _ _ (by decide))
    (by rw [build_mid (n := 0x49) rfl (by decide) (by decide)]; delta buildMid; dsimp only; simp only [fD_mkW, fA_mkW, fB_mkW, fG_mkW, kS_eS, kP_e3, kC_e3, kT_e4, kH_e4, dec_bind, minor2_op, minor2_field]; rfl)

theorem fcvtF16F32 (r : Rnd) (d : VReg) (a : VReg) (g : PReg) : Statement (.fcvtF16F32 r d a g) := by
  intro _ _ rest
  exact decode_one _ _ _ _ _ rest _
    (by exact litCount_fcvt _ _ _ _ _ (by decide))
    (by rw [build_mid (n := 0x49) rfl (by decide) (by decide)]; delta buildMid; dsimp only; simp only [fD_mkW, fA_mkW, fB_mkW, fG_mkW, kS_eS, kP_e3, kC_e3, kT_e4, kH_e4, dec_bind, minor2_op, minor2_field]; rfl)

theorem fcvtF32Bf16 (r : Rnd) (d : VReg) (a : VReg) (g : PReg) : Statement (.fcvtF32Bf16 r d a g) := by
  intro _ _ rest
  exact decode_one _ _ _ _ _ rest _
    (by exact litCount_fcvt _ _ _ _ _ (by decide))
    (by rw [build_mid (n := 0x49) rfl (by decide) (by decide)]; delta buildMid; dsimp only; simp only [fD_mkW, fA_mkW, fB_mkW, fG_mkW, kS_eS, kP_e3, kC_e3, kT_e4, kH_e4, dec_bind, minor2_op, minor2_field]; rfl)

theorem fcvtF32F16 (r : Rnd) (d : VReg) (a : VReg) (g : PReg) : Statement (.fcvtF32F16 r d a g) := by
  intro _ _ rest
  exact decode_one _ _ _ _ _ rest _
    (by exact litCount_fcvt _ _ _ _ _ (by decide))
    (by rw [build_mid (n := 0x49) rfl (by decide) (by decide)]; delta buildMid; dsimp only; simp only [fD_mkW, fA_mkW, fB_mkW, fG_mkW, kS_eS, kP_e3, kC_e3, kT_e4, kH_e4, dec_bind, minor2_op, minor2_field]; rfl)

theorem fcvtE4m3F32 (r : Rnd) (d : VReg) (a : VReg) (g : PReg) : Statement (.fcvtE4m3F32 r d a g) := by
  intro _ _ rest
  exact decode_one _ _ _ _ _ rest _
    (by exact litCount_fcvt _ _ _ _ _ (by decide))
    (by rw [build_mid (n := 0x49) rfl (by decide) (by decide)]; delta buildMid; dsimp only; simp only [fD_mkW, fA_mkW, fB_mkW, fG_mkW, kS_eS, kP_e3, kC_e3, kT_e4, kH_e4, dec_bind, minor2_op, minor2_field]; rfl)

theorem fcvtE5m2F32 (r : Rnd) (d : VReg) (a : VReg) (g : PReg) : Statement (.fcvtE5m2F32 r d a g) := by
  intro _ _ rest
  exact decode_one _ _ _ _ _ rest _
    (by exact litCount_fcvt _ _ _ _ _ (by decide))
    (by rw [build_mid (n := 0x49) rfl (by decide) (by decide)]; delta buildMid; dsimp only; simp only [fD_mkW, fA_mkW, fB_mkW, fG_mkW, kS_eS, kP_e3, kC_e3, kT_e4, kH_e4, dec_bind, minor2_op, minor2_field]; rfl)

theorem fcvtF32E4m3 (r : Rnd) (d : VReg) (a : VReg) (g : PReg) : Statement (.fcvtF32E4m3 r d a g) := by
  intro _ _ rest
  exact decode_one _ _ _ _ _ rest _
    (by exact litCount_fcvt _ _ _ _ _ (by decide))
    (by rw [build_mid (n := 0x49) rfl (by decide) (by decide)]; delta buildMid; dsimp only; simp only [fD_mkW, fA_mkW, fB_mkW, fG_mkW, kS_eS, kP_e3, kC_e3, kT_e4, kH_e4, dec_bind, minor2_op, minor2_field]; rfl)

theorem fcvtF32E5m2 (r : Rnd) (d : VReg) (a : VReg) (g : PReg) : Statement (.fcvtF32E5m2 r d a g) := by
  intro _ _ rest
  exact decode_one _ _ _ _ _ rest _
    (by exact litCount_fcvt _ _ _ _ _ (by decide))
    (by rw [build_mid (n := 0x49) rfl (by decide) (by decide)]; delta buildMid; dsimp only; simp only [fD_mkW, fA_mkW, fB_mkW, fG_mkW, kS_eS, kP_e3, kC_e3, kT_e4, kH_e4, dec_bind, minor2_op, minor2_field]; rfl)

theorem hadd2 (bf : Bool) (r : Rnd) (d : VReg) (a : VReg) (b : VReg) (c : VReg) (g : PReg) : Statement (.hadd2 bf r d a b c g) := by
  intro _ _ rest
  exact decode_two _ _ _ _ _ _ rest _
    (by unfold litCount; rw [fMajor_mkW]; rfl)
    (by rw [build_mid (n := 0x4A) rfl (by decide) (by decide)]; delta buildMid; dsimp only; simp [kZ, ill, reg, atomLit, typeRegs, buildPacked, -BitVec.getLsbD_eq_getElem])

theorem hmul2 (bf : Bool) (r : Rnd) (d : VReg) (a : VReg) (b : VReg) (c : VReg) (g : PReg) : Statement (.hmul2 bf r d a b c g) := by
  intro _ _ rest
  exact decode_two _ _ _ _ _ _ rest _
    (by unfold litCount; rw [fMajor_mkW]; rfl)
    (by rw [build_mid (n := 0x4A) rfl (by decide) (by decide)]; delta buildMid; dsimp only; simp [kZ, ill, reg, atomLit, typeRegs, buildPacked, -BitVec.getLsbD_eq_getElem])

theorem hfma2 (bf : Bool) (r : Rnd) (d : VReg) (a : VReg) (b : VReg) (c : VReg) (g : PReg) : Statement (.hfma2 bf r d a b c g) := by
  intro _ _ rest
  exact decode_two _ _ _ _ _ _ rest _
    (by unfold litCount; rw [fMajor_mkW]; rfl)
    (by rw [build_mid (n := 0x4A) rfl (by decide) (by decide)]; delta buildMid; dsimp only; simp [kZ, ill, reg, atomLit, typeRegs, buildPacked, -BitVec.getLsbD_eq_getElem])

theorem hmin2 (bf : Bool) (r : Rnd) (d : VReg) (a : VReg) (b : VReg) (c : VReg) (g : PReg) : Statement (.hmin2 bf r d a b c g) := by
  intro _ _ rest
  exact decode_two _ _ _ _ _ _ rest _
    (by unfold litCount; rw [fMajor_mkW]; rfl)
    (by rw [build_mid (n := 0x4A) rfl (by decide) (by decide)]; delta buildMid; dsimp only; simp [kZ, ill, reg, atomLit, typeRegs, buildPacked, -BitVec.getLsbD_eq_getElem])

theorem hmax2 (bf : Bool) (r : Rnd) (d : VReg) (a : VReg) (b : VReg) (c : VReg) (g : PReg) : Statement (.hmax2 bf r d a b c g) := by
  intro _ _ rest
  exact decode_two _ _ _ _ _ _ rest _
    (by unfold litCount; rw [fMajor_mkW]; rfl)
    (by rw [build_mid (n := 0x4A) rfl (by decide) (by decide)]; delta buildMid; dsimp only; simp [kZ, ill, reg, atomLit, typeRegs, buildPacked, -BitVec.getLsbD_eq_getElem])

theorem ffma (k : BitVec 3) (d : VReg) (a : VReg) (b : VReg) (g : PReg) : Statement (.ffma k d a b g) := by
  intro _ _ rest
  have h : k = 0#3 ∨ k = 1#3 ∨ k = 2#3 ∨ k = 3#3 ∨ k = 4#3 ∨ k = 5#3 ∨ k = 6#3 ∨ k = 7#3 := by
    have := k.isLt
    simp only [← BitVec.toNat_inj, BitVec.toNat_ofNat]
    omega
  have hb : build (mkW (0xF#4 ++ k) d a b g) 0#30 0#30
      = .ok (.ffma (BitVec.extractLsb' 24 3 (mkW (0xF#4 ++ k) d a b g)) d a b g) := by
    rcases h with rfl | rfl | rfl | rfl | rfl | rfl | rfl | rfl <;>
      (rw [build_high rfl (by decide) (by decide)]; delta buildHigh; dsimp only
       simp only [fD_mkW, fA_mkW, fB_mkW, fG_mkW]; rfl)
  rw [ffma_field] at hb
  refine decode_one _ _ _ _ _ rest _ ?_ hb
  rcases h with rfl | rfl | rfl | rfl | rfl | rfl | rfl | rfl <;> (unfold litCount; rw [fMajor_mkW]; rfl)

theorem ld (d : VReg) (a : VReg) (b : BufSel) (g : PReg) : Statement (.ld d a b g) := by
  intro _ _ rest
  exact decode_one _ _ _ _ _ rest _
    (by unfold litCount; rw [fMajor_mkW]; rfl)
    (by rw [build_mid (n := 0x4C) rfl (by decide) (by decide)]; delta buildMid; dsimp only; simp only [fD_mkW, fA_mkW, fB_mkW, fG_mkW, kS_eS, kP_e3, kC_e3, kT_e4, kH_e4, dec_bind, minor2_op, minor2_field])

theorem ldLong (d : VReg) (a : VReg) (b : BufSel) (t : TypeCode) (pol : BitVec 8) (g : PReg) : Statement (.ldLong d a b t pol g) := by
  intro h _ rest
  delta Instr.wf at h
  dsimp only at h
  try simp [storeTypeLegal, loadTypeLegal] at h
  exact decode_two _ _ _ _ _ _ rest _
    (by unfold litCount; rw [fMajor_mkW]; rfl)
    (by rw [build_mid (n := 0x4D) rfl (by decide) (by decide)]; delta buildMid; dsimp only; simp [h, kZ, ill, reg, atomLit, typeRegs, -BitVec.getLsbD_eq_getElem])

theorem st (d : VReg) (a : VReg) (b : BufSel) (g : PReg) : Statement (.st d a b g) := by
  intro _ _ rest
  exact decode_one _ _ _ _ _ rest _
    (by unfold litCount; rw [fMajor_mkW]; rfl)
    (by rw [build_mid (n := 0x4E) rfl (by decide) (by decide)]; delta buildMid; dsimp only; simp only [fD_mkW, fA_mkW, fB_mkW, fG_mkW, kS_eS, kP_e3, kC_e3, kT_e4, kH_e4, dec_bind, minor2_op, minor2_field])

theorem stLong (d : VReg) (a : VReg) (b : BufSel) (t : TypeCode) (pol : BitVec 8) (g : PReg) : Statement (.stLong d a b t pol g) := by
  intro h _ rest
  delta Instr.wf at h
  dsimp only at h
  try simp [storeTypeLegal, loadTypeLegal] at h
  exact decode_two _ _ _ _ _ _ rest _
    (by unfold litCount; rw [fMajor_mkW]; rfl)
    (by rw [build_mid (n := 0x4F) rfl (by decide) (by decide)]; delta buildMid; dsimp only; simp [h, kZ, ill, reg, atomLit, typeRegs, -BitVec.getLsbD_eq_getElem])

theorem ldp (d : VReg) (a : VReg) (t : TypeCode) (g : PReg) : Statement (.ldp d a t g) := by
  intro h _ rest
  delta Instr.wf at h
  dsimp only at h
  try simp [storeTypeLegal, loadTypeLegal] at h
  exact decode_one _ _ _ _ _ rest _
    (by unfold litCount; rw [fMajor_mkW, fB_mkW]; dsimp only; rw [e4_toNat]; simp; omega)
    (by rw [build_mid (n := 0x50) rfl (by decide) (by decide)]; delta buildMid; dsimp only; simp [h, kZ, ill, reg, atomLit, typeRegs, -BitVec.getLsbD_eq_getElem])

theorem stp (d : VReg) (a : VReg) (t : TypeCode) (g : PReg) : Statement (.stp d a t g) := by
  intro h _ rest
  delta Instr.wf at h
  dsimp only at h
  try simp [storeTypeLegal, loadTypeLegal] at h
  exact decode_one _ _ _ _ _ rest _
    (by unfold litCount; rw [fMajor_mkW, fB_mkW]; dsimp only; rw [e4_toNat]; simp; omega)
    (by rw [build_mid (n := 0x51) rfl (by decide) (by decide)]; delta buildMid; dsimp only; simp [h, kZ, ill, reg, atomLit, typeRegs, -BitVec.getLsbD_eq_getElem])

theorem lds (d : VReg) (a : VReg) (t : TypeCode) (g : PReg) : Statement (.lds d a t g) := by
  intro h _ rest
  delta Instr.wf at h
  dsimp only at h
  try simp [storeTypeLegal, loadTypeLegal] at h
  exact decode_one _ _ _ _ _ rest _
    (by unfold litCount; rw [fMajor_mkW, fB_mkW]; dsimp only; rw [e4_toNat]; simp; omega)
    (by rw [build_mid (n := 0x52) rfl (by decide) (by decide)]; delta buildMid; dsimp only; simp [h, kZ, ill, reg, atomLit, typeRegs, -BitVec.getLsbD_eq_getElem])

theorem sts (d : VReg) (a : VReg) (t : TypeCode) (g : PReg) : Statement (.sts d a t g) := by
  intro h _ rest
  delta Instr.wf at h
  dsimp only at h
  try simp [storeTypeLegal, loadTypeLegal] at h
  exact decode_one _ _ _ _ _ rest _
    (by unfold litCount; rw [fMajor_mkW, fB_mkW]; dsimp only; rw [e4_toNat]; simp; omega)
    (by rw [build_mid (n := 0x53) rfl (by decide) (by decide)]; delta buildMid; dsimp only; simp [h, kZ, ill, reg, atomLit, typeRegs, -BitVec.getLsbD_eq_getElem])

theorem lookup (d : VReg) (a : VReg) (g : PReg) : Statement (.lookup d a g) := by
  intro _ _ rest
  exact decode_one _ _ _ _ _ rest _
    (by unfold litCount; rw [fMajor_mkW, fB_mkW]; rfl)
    (by rw [build_mid (n := 0x54) rfl (by decide) (by decide)]; delta buildMid; dsimp only; simp only [fD_mkW, fA_mkW, fB_mkW, fG_mkW, kS_eS, kP_e3, kC_e3, kT_e4, kH_e4, dec_bind, minor2_op, minor2_field]; rfl)

theorem tagset (d : VReg) (a : VReg) (g : PReg) : Statement (.tagset d a g) := by
  intro _ _ rest
  exact decode_one _ _ _ _ _ rest _
    (by unfold litCount; rw [fMajor_mkW, fB_mkW]; rfl)
    (by rw [build_mid (n := 0x54) rfl (by decide) (by decide)]; delta buildMid; dsimp only; simp only [fD_mkW, fA_mkW, fB_mkW, fG_mkW, kS_eS, kP_e3, kC_e3, kT_e4, kH_e4, dec_bind, minor2_op, minor2_field]; rfl)

theorem taginv (d : VReg) (a : VReg) (g : PReg) : Statement (.taginv d a g) := by
  intro _ _ rest
  exact decode_one _ _ _ _ _ rest _
    (by unfold litCount; rw [fMajor_mkW, fB_mkW]; rfl)
    (by rw [build_mid (n := 0x54) rfl (by decide) (by decide)]; delta buildMid; dsimp only; simp only [fD_mkW, fA_mkW, fB_mkW, fG_mkW, kS_eS, kP_e3, kC_e3, kT_e4, kH_e4, dec_bind, minor2_op, minor2_field]; rfl)

theorem atom (d : VReg) (a : VReg) (b : BufSel) (c : VReg) (op : BitVec 5) (w : Bool) (g : PReg) : Statement (.atom d a b c op w g) := by
  intro h _ rest
  delta Instr.wf at h
  dsimp only at h
  try simp [storeTypeLegal, loadTypeLegal] at h
  exact decode_two _ _ _ _ _ _ rest _
    (by unfold litCount; rw [fMajor_mkW]; rfl)
    (by rw [build_mid (n := 0x55) rfl (by decide) (by decide)]; delta buildMid; dsimp only; simp [h, kZ, ill, reg, atomLit, typeRegs, -BitVec.getLsbD_eq_getElem])

theorem atoms (a : VReg) (b : BufSel) (c : VReg) (op : BitVec 5) (w : Bool) (g : PReg) : Statement (.atoms a b c op w g) := by
  intro h _ rest
  delta Instr.wf at h
  dsimp only at h
  try simp [storeTypeLegal, loadTypeLegal] at h
  exact decode_two _ _ _ _ _ _ rest _
    (by unfold litCount; rw [fMajor_mkW]; rfl)
    (by rw [build_mid (n := 0x56) rfl (by decide) (by decide)]; delta buildMid; dsimp only; simp [h, kZ, ill, reg, atomLit, typeRegs, -BitVec.getLsbD_eq_getElem])

theorem cas (d : VReg) (a : VReg) (b : BufSel) (c : VReg) (e : VReg) (w : BitVec 2) (g : PReg) : Statement (.cas d a b c e w g) := by
  intro h _ rest
  delta Instr.wf at h
  dsimp only at h
  try simp [storeTypeLegal, loadTypeLegal] at h
  exact decode_two _ _ _ _ _ _ rest _
    (by unfold litCount; rw [fMajor_mkW]; rfl)
    (by rw [build_mid (n := 0x57) rfl (by decide) (by decide)]; delta buildMid; dsimp only; simp [h, kZ, ill, reg, atomLit, typeRegs, -BitVec.getLsbD_eq_getElem])

theorem rlk (a : VReg) (b : BufSel) (g : PReg) : Statement (.rlk a b g) := by
  intro _ _ rest
  exact decode_two _ _ _ _ _ _ rest _
    (by unfold litCount; rw [fMajor_mkW]; rfl)
    (by rw [build_mid (n := 0x58) rfl (by decide) (by decide)]; delta buildMid; dsimp only; simp only [fD_mkW, fA_mkW, fB_mkW, fG_mkW, kS_eS, kP_e3, kC_e3, kT_e4, kH_e4, dec_bind, minor2_op, minor2_field]; rfl)

theorem runl (a : VReg) (b : BufSel) (g : PReg) : Statement (.runl a b g) := by
  intro _ _ rest
  exact decode_two _ _ _ _ _ _ rest _
    (by unfold litCount; rw [fMajor_mkW]; rfl)
    (by rw [build_mid (n := 0x58) rfl (by decide) (by decide)]; delta buildMid; dsimp only; simp only [fD_mkW, fA_mkW, fB_mkW, fG_mkW, kS_eS, kP_e3, kC_e3, kT_e4, kH_e4, dec_bind, minor2_op, minor2_field]; rfl)

theorem wlk (a : VReg) (b : BufSel) (g : PReg) : Statement (.wlk a b g) := by
  intro _ _ rest
  exact decode_two _ _ _ _ _ _ rest _
    (by unfold litCount; rw [fMajor_mkW]; rfl)
    (by rw [build_mid (n := 0x58) rfl (by decide) (by decide)]; delta buildMid; dsimp only; simp only [fD_mkW, fA_mkW, fB_mkW, fG_mkW, kS_eS, kP_e3, kC_e3, kT_e4, kH_e4, dec_bind, minor2_op, minor2_field]; rfl)

theorem wunl (a : VReg) (b : BufSel) (g : PReg) : Statement (.wunl a b g) := by
  intro _ _ rest
  exact decode_two _ _ _ _ _ _ rest _
    (by unfold litCount; rw [fMajor_mkW]; rfl)
    (by rw [build_mid (n := 0x58) rfl (by decide) (by decide)]; delta buildMid; dsimp only; simp only [fD_mkW, fA_mkW, fB_mkW, fG_mkW, kS_eS, kP_e3, kC_e3, kT_e4, kH_e4, dec_bind, minor2_op, minor2_field]; rfl)

theorem fenceAr (sc : BitVec 3) (g : PReg) : Statement (.fenceAr sc g) := by
  intro h _ rest
  delta Instr.wf at h
  dsimp only at h
  try simp [storeTypeLegal, loadTypeLegal] at h
  exact decode_one _ _ _ _ _ rest _
    (by unfold litCount; rw [fMajor_mkW, fB_mkW]; dsimp only; rw [minor3_val]; simp; omega)
    (by rw [build_mid (n := 0x59) rfl (by decide) (by decide)]; delta buildMid; dsimp only; simp [h, kZ, ill, reg, atomLit, typeRegs, -BitVec.getLsbD_eq_getElem])

theorem fenceAcq (sc : BitVec 3) (g : PReg) : Statement (.fenceAcq sc g) := by
  intro h _ rest
  delta Instr.wf at h
  dsimp only at h
  try simp [storeTypeLegal, loadTypeLegal] at h
  exact decode_one _ _ _ _ _ rest _
    (by unfold litCount; rw [fMajor_mkW, fB_mkW]; dsimp only; rw [minor3_val]; simp; omega)
    (by rw [build_mid (n := 0x59) rfl (by decide) (by decide)]; delta buildMid; dsimp only; simp [h, kZ, ill, reg, atomLit, typeRegs, -BitVec.getLsbD_eq_getElem])

theorem fenceRel (sc : BitVec 3) (g : PReg) : Statement (.fenceRel sc g) := by
  intro h _ rest
  delta Instr.wf at h
  dsimp only at h
  try simp [storeTypeLegal, loadTypeLegal] at h
  exact decode_one _ _ _ _ _ rest _
    (by unfold litCount; rw [fMajor_mkW, fB_mkW]; dsimp only; rw [minor3_val]; simp; omega)
    (by rw [build_mid (n := 0x59) rfl (by decide) (by decide)]; delta buildMid; dsimp only; simp [h, kZ, ill, reg, atomLit, typeRegs, -BitVec.getLsbD_eq_getElem])

theorem waitw (d : VReg) (a : VReg) (b : BufSel) (g : PReg) : Statement (.waitw d a b g) := by
  intro _ _ rest
  exact decode_one _ _ _ _ _ rest _
    (by unfold litCount; rw [fMajor_mkW]; rfl)
    (by rw [build_mid (n := 0x5A) rfl (by decide) (by decide)]; delta buildMid; dsimp only; simp only [fD_mkW, fA_mkW, fB_mkW, fG_mkW, kS_eS, kP_e3, kC_e3, kT_e4, kH_e4, dec_bind, minor2_op, minor2_field])

theorem pref (a : VReg) (b : BufSel) (g : PReg) : Statement (.pref a b g) := by
  intro _ _ rest
  exact decode_one _ _ _ _ _ rest _
    (by unfold litCount; rw [fMajor_mkW]; rfl)
    (by rw [build_mid (n := 0x5B) rfl (by decide) (by decide)]; delta buildMid; dsimp only; simp only [fD_mkW, fA_mkW, fB_mkW, fG_mkW, kS_eS, kP_e3, kC_e3, kT_e4, kH_e4, dec_bind, minor2_op, minor2_field]; rfl)

theorem hpush (h : HReg) (a : VReg) (g : PReg) : Statement (.hpush h a g) := by
  intro _ _ rest
  exact decode_one _ _ _ _ _ rest _
    (by unfold litCount; rw [fMajor_mkW]; rfl)
    (by rw [build_mid (n := 0x5C) rfl (by decide) (by decide)]; delta buildMid; dsimp only; simp only [fD_mkW, fA_mkW, fB_mkW, fG_mkW, kS_eS, kP_e3, kC_e3, kT_e4, kH_e4, dec_bind, minor2_op, minor2_field]; rfl)

theorem hpop (d : VReg) (h : HReg) (g : PReg) : Statement (.hpop d h g) := by
  intro _ _ rest
  exact decode_one _ _ _ _ _ rest _
    (by unfold litCount; rw [fMajor_mkW]; rfl)
    (by rw [build_mid (n := 0x5D) rfl (by decide) (by decide)]; delta buildMid; dsimp only; simp only [fD_mkW, fA_mkW, fB_mkW, fG_mkW, kS_eS, kP_e3, kC_e3, kT_e4, kH_e4, dec_bind, minor2_op, minor2_field]; rfl)

theorem arrv (a : SReg) (sc : BitVec 3) (g : PReg) : Statement (.arrv a sc g) := by
  intro h _ rest
  delta Instr.wf at h
  dsimp only at h
  try simp [storeTypeLegal, loadTypeLegal] at h
  exact decode_one _ _ _ _ _ rest _
    (by unfold litCount; rw [fMajor_mkW, fB_mkW]; dsimp only; rw [minor33_val]; simp; omega)
    (by rw [build_mid (n := 0x5E) rfl (by decide) (by decide)]; delta buildMid; dsimp only; simp [h, kZ, ill, reg, atomLit, typeRegs, -BitVec.getLsbD_eq_getElem])

theorem barw (a : SReg) (sc : BitVec 3) (g : PReg) : Statement (.barw a sc g) := by
  intro h _ rest
  delta Instr.wf at h
  dsimp only at h
  try simp [storeTypeLegal, loadTypeLegal] at h
  exact decode_one _ _ _ _ _ rest _
    (by unfold litCount; rw [fMajor_mkW, fB_mkW]; dsimp only; rw [minor33_val]; simp; omega)
    (by rw [build_mid (n := 0x5E) rfl (by decide) (by decide)]; delta buildMid; dsimp only; simp [h, kZ, ill, reg, atomLit, typeRegs, -BitVec.getLsbD_eq_getElem])

theorem barc (g : PReg) : Statement (.barc g) := by
  intro _ _ rest
  exact decode_one _ _ _ _ _ rest _
    (by unfold litCount; rw [fMajor_mkW, fB_mkW]; rfl)
    (by rw [build_mid (n := 0x5E) rfl (by decide) (by decide)]; delta buildMid; dsimp only; simp only [fD_mkW, fA_mkW, fB_mkW, fG_mkW, kS_eS, kP_e3, kC_e3, kT_e4, kH_e4, dec_bind, minor2_op, minor2_field]; rfl)

theorem putp (d : VReg) (a : VReg) (t : TypeCode) (g : PReg) : Statement (.putp d a t g) := by
  intro h _ rest
  delta Instr.wf at h
  dsimp only at h
  try simp [storeTypeLegal, loadTypeLegal] at h
  exact decode_one _ _ _ _ _ rest _
    (by unfold litCount; rw [fMajor_mkW, fB_mkW]; dsimp only; rw [e4_toNat]; simp; omega)
    (by rw [build_mid (n := 0x5F) rfl (by decide) (by decide)]; delta buildMid; dsimp only; simp [h, kZ, ill, reg, atomLit, typeRegs, -BitVec.getLsbD_eq_getElem])

theorem cpy (d : SReg) (a : SReg) (b : BufSel) (g : PReg) : Statement (.cpy d a b g) := by
  intro h _ rest
  delta Instr.wf at h
  dsimp only at h
  try simp [storeTypeLegal, loadTypeLegal] at h
  exact decode_one _ _ _ _ _ rest _
    (by unfold litCount; rw [fMajor_mkW]; rfl)
    (by rw [build_high (n := 0x60) rfl (by decide) (by decide)]; delta buildHigh; dsimp only; simp [h, kZ, ill, reg, atomLit, -BitVec.getLsbD_eq_getElem])

theorem cpys (d : SReg) (a : SReg) (b : BufSel) (g : PReg) : Statement (.cpys d a b g) := by
  intro h _ rest
  delta Instr.wf at h
  dsimp only at h
  try simp [storeTypeLegal, loadTypeLegal] at h
  exact decode_one _ _ _ _ _ rest _
    (by unfold litCount; rw [fMajor_mkW]; rfl)
    (by rw [build_high (n := 0x61) rfl (by decide) (by decide)]; delta buildHigh; dsimp only; simp [h, kZ, ill, reg, atomLit, -BitVec.getLsbD_eq_getElem])

theorem gath (d : SReg) (a : VReg) (b : BufSel) (g : PReg) : Statement (.gath d a b g) := by
  intro h _ rest
  delta Instr.wf at h
  dsimp only at h
  try simp [storeTypeLegal, loadTypeLegal] at h
  exact decode_one _ _ _ _ _ rest _
    (by unfold litCount; rw [fMajor_mkW]; rfl)
    (by rw [build_high (n := 0x62) rfl (by decide) (by decide)]; delta buildHigh; dsimp only; simp [h, kZ, ill, reg, atomLit, -BitVec.getLsbD_eq_getElem])

theorem scat (d : SReg) (a : VReg) (b : BufSel) (g : PReg) : Statement (.scat d a b g) := by
  intro h _ rest
  delta Instr.wf at h
  dsimp only at h
  try simp [storeTypeLegal, loadTypeLegal] at h
  exact decode_one _ _ _ _ _ rest _
    (by unfold litCount; rw [fMajor_mkW]; rfl)
    (by rw [build_high (n := 0x63) rfl (by decide) (by decide)]; delta buildHigh; dsimp only; simp [h, kZ, ill, reg, atomLit, -BitVec.getLsbD_eq_getElem])

theorem cpyb (d : SReg) (g : PReg) : Statement (.cpyb d g) := by
  intro _ _ rest
  exact decode_one _ _ _ _ _ rest _
    (by unfold litCount; rw [fMajor_mkW]; rfl)
    (by rw [build_high (n := 0x64) rfl (by decide) (by decide)]; delta buildHigh; dsimp only; simp only [fD_mkW, fA_mkW, fB_mkW, fG_mkW, kS_eS, kP_e3, kC_e3, kT_e4, kH_e4, dec_bind, minor2_op, minor2_field]; rfl)

theorem waitb (a : SReg) (g : PReg) : Statement (.waitb a g) := by
  intro _ _ rest
  exact decode_one _ _ _ _ _ rest _
    (by unfold litCount; rw [fMajor_mkW]; rfl)
    (by rw [build_high (n := 0x65) rfl (by decide) (by decide)]; delta buildHigh; dsimp only; simp only [fD_mkW, fA_mkW, fB_mkW, fG_mkW, kS_eS, kP_e3, kC_e3, kT_e4, kH_e4, dec_bind, minor2_op, minor2_field]; rfl)

theorem put (d : SReg) (a : SReg) (b : BufSel) (g : PReg) : Statement (.put d a b g) := by
  intro h _ rest
  delta Instr.wf at h
  dsimp only at h
  try simp [storeTypeLegal, loadTypeLegal] at h
  exact decode_one _ _ _ _ _ rest _
    (by unfold litCount; rw [fMajor_mkW]; rfl)
    (by rw [build_high (n := 0x66) rfl (by decide) (by decide)]; delta buildHigh; dsimp only; simp [h, kZ, ill, reg, atomLit, -BitVec.getLsbD_eq_getElem])

theorem get (d : SReg) (a : SReg) (b : BufSel) (g : PReg) : Statement (.get d a b g) := by
  intro h _ rest
  delta Instr.wf at h
  dsimp only at h
  try simp [storeTypeLegal, loadTypeLegal] at h
  exact decode_one _ _ _ _ _ rest _
    (by unfold litCount; rw [fMajor_mkW]; rfl)
    (by rw [build_high (n := 0x67) rfl (by decide) (by decide)]; delta buildHigh; dsimp only; simp [h, kZ, ill, reg, atomLit, -BitVec.getLsbD_eq_getElem])

theorem ratom (d : VReg) (a : VReg) (b : BufSel) (c : VReg) (op : BitVec 5) (w : Bool) (g : PReg) : Statement (.ratom d a b c op w g) := by
  intro h _ rest
  delta Instr.wf at h
  dsimp only at h
  try simp [storeTypeLegal, loadTypeLegal] at h
  exact decode_two _ _ _ _ _ _ rest _
    (by unfold litCount; rw [fMajor_mkW]; rfl)
    (by rw [build_high (n := 0x68) rfl (by decide) (by decide)]; delta buildHigh; dsimp only; simp [h, kZ, ill, reg, atomLit, -BitVec.getLsbD_eq_getElem])

theorem ctradd (d : SReg) (a : SReg) (g : PReg) : Statement (.ctradd d a g) := by
  intro _ _ rest
  exact decode_one _ _ _ _ _ rest _
    (by unfold litCount; rw [fMajor_mkW, fB_mkW]; rfl)
    (by rw [build_high (n := 0x69) rfl (by decide) (by decide)]; delta buildHigh; dsimp only; simp only [fD_mkW, fA_mkW, fB_mkW, fG_mkW, kS_eS, kP_e3, kC_e3, kT_e4, kH_e4, dec_bind, minor2_op, minor2_field]; rfl)

theorem ctrset (d : SReg) (a : SReg) (g : PReg) : Statement (.ctrset d a g) := by
  intro _ _ rest
  exact decode_one _ _ _ _ _ rest _
    (by unfold litCount; rw [fMajor_mkW, fB_mkW]; rfl)
    (by rw [build_high (n := 0x69) rfl (by decide) (by decide)]; delta buildHigh; dsimp only; simp only [fD_mkW, fA_mkW, fB_mkW, fG_mkW, kS_eS, kP_e3, kC_e3, kT_e4, kH_e4, dec_bind, minor2_op, minor2_field]; rfl)

theorem ctrwait (d : SReg) (a : SReg) (g : PReg) : Statement (.ctrwait d a g) := by
  intro _ _ rest
  exact decode_one _ _ _ _ _ rest _
    (by unfold litCount; rw [fMajor_mkW, fB_mkW]; rfl)
    (by rw [build_high (n := 0x69) rfl (by decide) (by decide)]; delta buildHigh; dsimp only; simp only [fD_mkW, fA_mkW, fB_mkW, fG_mkW, kS_eS, kP_e3, kC_e3, kT_e4, kH_e4, dec_bind, minor2_op, minor2_field]; rfl)

theorem ctrrd (d : SReg) (a : SReg) (g : PReg) : Statement (.ctrrd d a g) := by
  intro _ _ rest
  exact decode_one _ _ _ _ _ rest _
    (by unfold litCount; rw [fMajor_mkW, fB_mkW]; rfl)
    (by rw [build_high (n := 0x69) rfl (by decide) (by decide)]; delta buildHigh; dsimp only; simp only [fD_mkW, fA_mkW, fB_mkW, fG_mkW, kS_eS, kP_e3, kC_e3, kT_e4, kH_e4, dec_bind, minor2_op, minor2_field]; rfl)

theorem trig (d : SReg) (a : SReg) (b : BufSel) (c : BitVec 8) (g : PReg) : Statement (.trig d a b c g) := by
  intro h _ rest
  delta Instr.wf at h
  dsimp only at h
  try simp [storeTypeLegal, loadTypeLegal] at h
  exact decode_two _ _ _ _ _ _ rest _
    (by unfold litCount; rw [fMajor_mkW]; rfl)
    (by rw [build_high (n := 0x6A) rfl (by decide) (by decide)]; delta buildHigh; dsimp only; simp [h, kZ, ill, reg, atomLit, -BitVec.getLsbD_eq_getElem])

theorem trigx (d : SReg) (a : SReg) (b : BufSel) (c : BitVec 8) (g : PReg) : Statement (.trigx d a b c g) := by
  intro h _ rest
  delta Instr.wf at h
  dsimp only at h
  try simp [storeTypeLegal, loadTypeLegal] at h
  exact decode_two _ _ _ _ _ _ rest _
    (by unfold litCount; rw [fMajor_mkW]; rfl)
    (by rw [build_high (n := 0x6A) rfl (by decide) (by decide)]; delta buildHigh; dsimp only; simp [h, kZ, ill, reg, atomLit, -BitVec.getLsbD_eq_getElem])

theorem fencex (a : SReg) (g : PReg) : Statement (.fencex a g) := by
  intro _ _ rest
  exact decode_one _ _ _ _ _ rest _
    (by unfold litCount; rw [fMajor_mkW]; rfl)
    (by rw [build_high (n := 0x6B) rfl (by decide) (by decide)]; delta buildHigh; dsimp only; simp only [fD_mkW, fA_mkW, fB_mkW, fG_mkW, kS_eS, kP_e3, kC_e3, kT_e4, kH_e4, dec_bind, minor2_op, minor2_field]; rfl)

theorem coll (d : SReg) (a : SReg) (b : BufSel) (kind : BitVec 4) (op : BitVec 4) (log : Bool) (g : PReg) : Statement (.coll d a b kind op log g) := by
  intro h _ rest
  delta Instr.wf at h
  dsimp only at h
  try simp [storeTypeLegal, loadTypeLegal] at h
  exact decode_two _ _ _ _ _ _ rest _
    (by unfold litCount; rw [fMajor_mkW]; rfl)
    (by rw [build_high (n := 0x6C) rfl (by decide) (by decide)]; delta buildHigh; dsimp only; simp [h, kZ, ill, reg, atomLit, -BitVec.getLsbD_eq_getElem])

theorem rgnreg (d : SReg) (a : SReg) (g : PReg) : Statement (.rgnreg d a g) := by
  intro h _ rest
  delta Instr.wf at h
  dsimp only at h
  try simp [storeTypeLegal, loadTypeLegal] at h
  exact decode_one _ _ _ _ _ rest _
    (by unfold litCount; rw [fMajor_mkW, fB_mkW]; dsimp only; simp [h])
    (by rw [build_high (n := 0x6D) rfl (by decide) (by decide)]; delta buildHigh; dsimp only; simp [h, kZ, ill, reg, atomLit, -BitVec.getLsbD_eq_getElem])

theorem rgnrev (d : SReg) (a : SReg) (g : PReg) : Statement (.rgnrev d a g) := by
  intro _ _ rest
  exact decode_one _ _ _ _ _ rest _
    (by unfold litCount; rw [fMajor_mkW, fB_mkW]; rfl)
    (by rw [build_high (n := 0x6D) rfl (by decide) (by decide)]; delta buildHigh; dsimp only; simp only [fD_mkW, fA_mkW, fB_mkW, fG_mkW, kS_eS, kP_e3, kC_e3, kT_e4, kH_e4, dec_bind, minor2_op, minor2_field]; rfl)

theorem tcfg (a : SReg) (g : PReg) : Statement (.tcfg a g) := by
  intro _ _ rest
  exact decode_one _ _ _ _ _ rest _
    (by unfold litCount; rw [fMajor_mkW, fB_mkW]; rfl)
    (by rw [build_high (n := 0x6E) rfl (by decide) (by decide)]; delta buildHigh; dsimp only; simp only [fD_mkW, fA_mkW, fB_mkW, fG_mkW, kS_eS, kP_e3, kC_e3, kT_e4, kH_e4, dec_bind, minor2_op, minor2_field]; rfl)

theorem trel (a : SReg) (g : PReg) : Statement (.trel a g) := by
  intro _ _ rest
  exact decode_one _ _ _ _ _ rest _
    (by unfold litCount; rw [fMajor_mkW, fB_mkW]; rfl)
    (by rw [build_high (n := 0x6E) rfl (by decide) (by decide)]; delta buildHigh; dsimp only; simp only [fD_mkW, fA_mkW, fB_mkW, fG_mkW, kS_eS, kP_e3, kC_e3, kT_e4, kH_e4, dec_bind, minor2_op, minor2_field]; rfl)

theorem trelDiscard (a : SReg) (g : PReg) : Statement (.trelDiscard a g) := by
  intro _ _ rest
  exact decode_one _ _ _ _ _ rest _
    (by unfold litCount; rw [fMajor_mkW, fB_mkW]; rfl)
    (by rw [build_high (n := 0x6E) rfl (by decide) (by decide)]; delta buildHigh; dsimp only; simp only [fD_mkW, fA_mkW, fB_mkW, fG_mkW, kS_eS, kP_e3, kC_e3, kT_e4, kH_e4, dec_bind, minor2_op, minor2_field]; rfl)

theorem mld (d : TReg) (a : VReg) (b : BufSel) (g : PReg) : Statement (.mld d a b g) := by
  intro _ _ rest
  exact decode_one _ _ _ _ _ rest _
    (by unfold litCount; rw [fMajor_mkW]; rfl)
    (by rw [build_high (n := 0x6F) rfl (by decide) (by decide)]; delta buildHigh; dsimp only; simp only [fD_mkW, fA_mkW, fB_mkW, fG_mkW, kS_eS, kP_e3, kC_e3, kT_e4, kH_e4, dec_bind, minor2_op, minor2_field])

theorem mst (d : TReg) (a : VReg) (b : BufSel) (g : PReg) : Statement (.mst d a b g) := by
  intro _ _ rest
  exact decode_one _ _ _ _ _ rest _
    (by unfold litCount; rw [fMajor_mkW]; rfl)
    (by rw [build_high (n := 0x70) rfl (by decide) (by decide)]; delta buildHigh; dsimp only; simp only [fD_mkW, fA_mkW, fB_mkW, fG_mkW, kS_eS, kP_e3, kC_e3, kT_e4, kH_e4, dec_bind, minor2_op, minor2_field])

theorem accz (d : AReg) (g : PReg) : Statement (.accz d g) := by
  intro _ _ rest
  exact decode_one _ _ _ _ _ rest _
    (by unfold litCount; rw [fMajor_mkW]; rfl)
    (by rw [build_high (n := 0x71) rfl (by decide) (by decide)]; delta buildHigh; dsimp only; simp only [fD_mkW, fA_mkW, fB_mkW, fG_mkW, kS_eS, kP_e3, kC_e3, kT_e4, kH_e4, dec_bind, minor2_op, minor2_field]; rfl)

theorem accrd (d : VReg) (a : AReg) (b : SReg) (g : PReg) : Statement (.accrd d a b g) := by
  intro _ _ rest
  exact decode_one _ _ _ _ _ rest _
    (by unfold litCount; rw [fMajor_mkW]; rfl)
    (by rw [build_high (n := 0x72) rfl (by decide) (by decide)]; delta buildHigh; dsimp only; simp only [fD_mkW, fA_mkW, fB_mkW, fG_mkW, kS_eS, kP_e3, kC_e3, kT_e4, kH_e4, dec_bind, minor2_op, minor2_field])

theorem accwr (d : AReg) (a : VReg) (b : SReg) (g : PReg) : Statement (.accwr d a b g) := by
  intro _ _ rest
  exact decode_one _ _ _ _ _ rest _
    (by unfold litCount; rw [fMajor_mkW]; rfl)
    (by rw [build_high (n := 0x73) rfl (by decide) (by decide)]; delta buildHigh; dsimp only; simp only [fD_mkW, fA_mkW, fB_mkW, fG_mkW, kS_eS, kP_e3, kC_e3, kT_e4, kH_e4, dec_bind, minor2_op, minor2_field])

theorem mma (d : AReg) (a : TReg) (b : VReg) (fb : SReg) (k2 : Bool) (g : PReg) : Statement (.mma d a b fb k2 g) := by
  intro h _ rest
  delta Instr.wf at h
  dsimp only at h
  try simp [storeTypeLegal, loadTypeLegal] at h
  exact decode_two _ _ _ _ _ _ rest _
    (by unfold litCount; rw [fMajor_mkW]; rfl)
    (by rw [build_high (n := 0x74) rfl (by decide) (by decide)]; delta buildHigh; dsimp only; simp [h, kZ, ill, reg, atomLit, -BitVec.getLsbD_eq_getElem])

theorem mmaSgn (d : AReg) (a : TReg) (b : VReg) (fb : SReg) (k2 : Bool) (st : TReg) (g : PReg) : Statement (.mmaSgn d a b fb k2 st g) := by
  intro h _ rest
  delta Instr.wf at h
  dsimp only at h
  try simp [storeTypeLegal, loadTypeLegal] at h
  exact decode_two _ _ _ _ _ _ rest _
    (by unfold litCount; rw [fMajor_mkW]; rfl)
    (by rw [build_high (n := 0x74) rfl (by decide) (by decide)]; delta buildHigh; dsimp only; simp [h, kZ, ill, reg, atomLit, -BitVec.getLsbD_eq_getElem])

theorem mtrn (d : TReg) (a : TReg) (g : PReg) : Statement (.mtrn d a g) := by
  intro _ _ rest
  exact decode_two _ _ _ _ _ _ rest _
    (by unfold litCount; rw [fMajor_mkW]; rfl)
    (by rw [build_high (n := 0x75) rfl (by decide) (by decide)]; delta buildHigh; dsimp only; simp only [fD_mkW, fA_mkW, fB_mkW, fG_mkW, kS_eS, kP_e3, kC_e3, kT_e4, kH_e4, dec_bind, minor2_op, minor2_field]; rfl)

theorem mprm (d : TReg) (a : TReg) (b : VReg) (g : PReg) : Statement (.mprm d a b g) := by
  intro _ _ rest
  exact decode_two _ _ _ _ _ _ rest _
    (by unfold litCount; rw [fMajor_mkW]; rfl)
    (by rw [build_high (n := 0x75) rfl (by decide) (by decide)]; delta buildHigh; dsimp only; simp only [fD_mkW, fA_mkW, fB_mkW, fG_mkW, kS_eS, kP_e3, kC_e3, kT_e4, kH_e4, dec_bind, minor2_op, minor2_field]; rfl)

theorem mrsum (d : AReg) (a : TReg) (g : PReg) : Statement (.mrsum d a g) := by
  intro _ _ rest
  exact decode_two _ _ _ _ _ _ rest _
    (by unfold litCount; rw [fMajor_mkW]; rfl)
    (by rw [build_high (n := 0x75) rfl (by decide) (by decide)]; delta buildHigh; dsimp only; simp only [fD_mkW, fA_mkW, fB_mkW, fG_mkW, kS_eS, kP_e3, kC_e3, kT_e4, kH_e4, dec_bind, minor2_op, minor2_field]; rfl)

theorem runStart (core : Nat) : Statement (.runStart core) := fun _ h => by cases h

theorem pipeWriteback (role : Nat) : Statement (.pipeWriteback role) := fun _ h => by cases h

theorem loadReturn (op : Nat) (ext : Bytes) : Statement (.loadReturn op ext) := fun _ h => by cases h

theorem storeRetire (op : Nat) : Statement (.storeRetire op) := fun _ h => by cases h

theorem pageWalkComplete (role : Nat) : Statement (.pageWalkComplete role) := fun _ h => by cases h

theorem globalVerdictReceive (role : Nat) (refused : Option Nat) : Statement (.globalVerdictReceive role refused) := fun _ h => by cases h

theorem hashComplete (core : Nat) : Statement (.hashComplete core) := fun _ h => by cases h

theorem signComplete (core : Nat) : Statement (.signComplete core) := fun _ h => by cases h

theorem matrixQueueStart (op : Nat) : Statement (.matrixQueueStart op) := fun _ h => by cases h

theorem matrixComplete (op : Nat) : Statement (.matrixComplete op) := fun _ h => by cases h

theorem frameGrant (core : Nat) : Statement (.frameGrant core) := fun _ h => by cases h

theorem gleanerSpill (core : Nat) : Statement (.gleanerSpill core) := fun _ h => by cases h

theorem spillStoreAck (core : Nat) : Statement (.spillStoreAck core) := fun _ h => by cases h

theorem harrowSweepComplete (core : Nat) : Statement (.harrowSweepComplete core) := fun _ h => by cases h

theorem claimPull (core : Nat) (plot : Nat) : Statement (.claimPull core plot) := fun _ h => by cases h

theorem coopClaimPull (cluster : Nat) (plot : Nat) : Statement (.coopClaimPull cluster plot) := fun _ h => by cases h

theorem localityDecay (core : Nat) : Statement (.localityDecay core) := fun _ h => by cases h

theorem parkWake (role : Nat) (ext : Bytes) : Statement (.parkWake role ext) := fun _ h => by cases h

theorem contextSwitchOut (core : Nat) (plot : Nat) : Statement (.contextSwitchOut core plot) := fun _ h => by cases h

theorem teamSwitchOut (role : Nat) : Statement (.teamSwitchOut role) := fun _ h => by cases h

theorem stallSwitchOut (role : Nat) : Statement (.stallSwitchOut role) := fun _ h => by cases h

theorem stallHintSet (dest : FabricDest) : Statement (.stallHintSet dest) := fun _ h => by cases h

theorem stallHintClear (dest : FabricDest) : Statement (.stallHintClear dest) := fun _ h => by cases h

theorem engineStopAck (core : Nat) (cls : EngineClass) : Statement (.engineStopAck core cls) := fun _ h => by cases h

theorem headlandSave (core : Nat) : Statement (.headlandSave core) := fun _ h => by cases h

theorem headlandSaveDone (core : Nat) : Statement (.headlandSaveDone core) := fun _ h => by cases h

theorem contextResume (core : Nat) (ctx : Nat) : Statement (.contextResume core ctx) := fun _ h => by cases h

theorem engineChunkDone (cmd : Nat) (k : Portion Nat) (ext : Bytes) : Statement (.engineChunkDone cmd k ext) := fun _ h => by cases h

theorem engineSourceDone (cmd : Nat) : Statement (.engineSourceDone cmd) := fun _ h => by cases h

theorem engineCommandComplete (cmd : Nat) : Statement (.engineCommandComplete cmd) := fun _ h => by cases h

theorem packetArrive (p : Portion Packet) : Statement (.packetArrive p) := fun _ h => by cases h

theorem packetAckReceive (pkt : Nat) (ack : Portion PacketAck) : Statement (.packetAckReceive pkt ack) := fun _ h => by cases h

theorem packetRetransmitTimeout (pkt : Nat) : Statement (.packetRetransmitTimeout pkt) := fun _ h => by cases h

theorem fenceArrive (f : FenceId) (n : Nat) : Statement (.fenceArrive f n) := fun _ h => by cases h

theorem fenceVerdictTimeout (f : FenceId) : Statement (.fenceVerdictTimeout f) := fun _ h => by cases h

theorem fenceVerdictReceive (cmd : Nat) (placed : Nat) : Statement (.fenceVerdictReceive cmd placed) := fun _ h => by cases h

theorem fenceAbortReceive (f : FenceId) : Statement (.fenceAbortReceive f) := fun _ h => by cases h

theorem collContributionArrive (c : Contribution) : Statement (.collContributionArrive c) := fun _ h => by cases h

theorem collChunkCommit (coll : Nat) (k : Portion Nat) : Statement (.collChunkCommit coll k) := fun _ h => by cases h

theorem collResend (coll : Nat) : Statement (.collResend coll) := fun _ h => by cases h

theorem doorbellWrite (vi : Nat) (q : Nat) (v : BitVec 64) (trusted : Bool) : Statement (.doorbellWrite vi q v trusted) := fun _ h => by cases h

theorem queueCfgWrite (vi : Nat) (q : Nat) (v : BitVec 64) (trusted : Bool) : Statement (.queueCfgWrite vi q v trusted) := fun _ h => by cases h

theorem queueCtlResume (vi : Nat) (q : Nat) (trusted : Bool) : Statement (.queueCtlResume vi q trusted) := fun _ h => by cases h

theorem queueCtlSkip (vi : Nat) (q : Nat) (trusted : Bool) : Statement (.queueCtlSkip vi q trusted) := fun _ h => by cases h

theorem queueEntryNop (q : Nat) (ext : Bytes) : Statement (.queueEntryNop q ext) := fun _ h => by cases h

theorem queueEntryLaunch (q : Nat) (ext : Bytes) : Statement (.queueEntryLaunch q ext) := fun _ h => by cases h

theorem queueEntryWait (q : Nat) (ext : Bytes) : Statement (.queueEntryWait q ext) := fun _ h => by cases h

theorem queueWaitRelease (q : Nat) : Statement (.queueWaitRelease q) := fun _ h => by cases h

theorem queueEntrySignal (q : Nat) (ext : Bytes) : Statement (.queueEntrySignal q ext) := fun _ h => by cases h

theorem signalFire (q : Nat) : Statement (.signalFire q) := fun _ h => by cases h

theorem plotEnd (plot : Nat) : Statement (.plotEnd plot) := fun _ h => by cases h

theorem invcmdPages (vi : Nat) (v : BitVec 64) (trusted : Bool) : Statement (.invcmdPages vi v trusted) := fun _ h => by cases h

theorem invcmdAsid (vi : Nat) (v : BitVec 64) (trusted : Bool) : Statement (.invcmdAsid vi v trusted) := fun _ h => by cases h

theorem invcmdAll (vi : Nat) (v : BitVec 64) (trusted : Bool) : Statement (.invcmdAll vi v trusted) := fun _ h => by cases h

theorem invalidationComplete (vi : Nat) : Statement (.invalidationComplete vi) := fun _ h => by cases h

theorem faulttailWrite (vi : Nat) (v : BitVec 64) (trusted : Bool) : Statement (.faulttailWrite vi v trusted) := fun _ h => by cases h

theorem faultdoneRetry (vi : Nat) (v : BitVec 64) (trusted : Bool) : Statement (.faultdoneRetry vi v trusted) := fun _ h => by cases h

theorem faultdoneFail (vi : Nat) (v : BitVec 64) (trusted : Bool) : Statement (.faultdoneFail vi v trusted) := fun _ h => by cases h

theorem faultdoneMigrate (vi : Nat) (v : BitVec 64) (trusted : Bool) : Statement (.faultdoneMigrate vi v trusted) := fun _ h => by cases h

theorem faultdoneResume (vi : Nat) (v : BitVec 64) (trusted : Bool) : Statement (.faultdoneResume vi v trusted) := fun _ h => by cases h

theorem faultdoneKill (vi : Nat) (v : BitVec 64) (trusted : Bool) : Statement (.faultdoneKill vi v trusted) := fun _ h => by cases h

theorem migcmdGo (vi : Nat) (v : BitVec 64) (trusted : Bool) : Statement (.migcmdGo vi v trusted) := fun _ h => by cases h

theorem migrationComplete (vi : Nat) (token : Nat) (ext : Bytes) : Statement (.migrationComplete vi token ext) := fun _ h => by cases h

theorem bar4Read (vi : Nat) (off : Nat) (n : Nat) (trusted : Bool) : Statement (.bar4Read vi off n trusted) := fun _ h => by cases h

theorem bar4Write (vi : Nat) (off : Nat) (data : Bytes) (trusted : Bool) : Statement (.bar4Write vi off data trusted) := fun _ h => by cases h

theorem bar4Atomic (vi : Nat) (off : Nat) (a : HostAtomic) (trusted : Bool) : Statement (.bar4Atomic vi off a trusted) := fun _ h => by cases h

theorem atsTranslationCompletion (who : Nat) (ok : Bool) : Statement (.atsTranslationCompletion who ok) := fun _ h => by cases h

theorem priPageResponse (who : Nat) (ok : Bool) : Statement (.priPageResponse who ok) := fun _ h => by cases h

theorem atsInvalidateRequest (vi : Nat) (lo : Nat) (hi : Nat) : Statement (.atsInvalidateRequest vi lo hi) := fun _ h => by cases h

theorem atsInvalidateComplete (vi : Nat) : Statement (.atsInvalidateComplete vi) := fun _ h => by cases h

theorem pcieCompletionTimeout (cmd : Nat) : Statement (.pcieCompletionTimeout cmd) := fun _ h => by cases h

theorem vientryWrite (vi : Nat) (i : Nat) (v : BitVec 64) : Statement (.vientryWrite vi i v) := fun _ h => by cases h

theorem functionLevelReset (vi : Nat) : Statement (.functionLevelReset vi) := fun _ h => by cases h

theorem savepoolWrite (vi : Nat) (size : Bool) (v : BitVec 64) : Statement (.savepoolWrite vi size v) := fun _ h => by cases h

theorem ctxcmdPreempt (v : BitVec 64) : Statement (.ctxcmdPreempt v) := fun _ h => by cases h

theorem ctxcmdResume (v : BitVec 64) : Statement (.ctxcmdResume v) := fun _ h => by cases h

theorem ctxcmdKill (v : BitVec 64) : Statement (.ctxcmdKill v) := fun _ h => by cases h

theorem registerWrite (r : HostReg) (v : BitVec 64) (trusted : Bool) : Statement (.registerWrite r v trusted) := fun _ h => by cases h

theorem worldreq (v : BitVec 64) : Statement (.worldreq v) := fun _ h => by cases h

theorem handoverComplete : Statement .handoverComplete := fun _ h => by cases h

theorem sealedRangeWrite (vi : Nat) (i : Nat) (v : BitVec 64) : Statement (.sealedRangeWrite vi i v) := fun _ h => by cases h

theorem measExtend (i : BitVec 32) : Statement (.measExtend i) := fun _ h => by cases h

theorem lockbootWrite (v : BitVec 32) : Statement (.lockbootWrite v) := fun _ h => by cases h

theorem doeRequestArrive (fn : Nat) (typ : Nat) (data : Bytes) : Statement (.doeRequestArrive fn typ data) := fun _ h => by cases h

theorem rsplenWrite (fn : Nat) (v : BitVec 32) : Statement (.rsplenWrite fn v) := fun _ h => by cases h

theorem doeAbort (fn : Nat) : Statement (.doeAbort fn) := fun _ h => by cases h

theorem getVersion (fn : Nat) (msg : Bytes) : Statement (.getVersion fn msg) := fun _ h => by cases h

theorem getCapabilities (fn : Nat) (msg : Bytes) : Statement (.getCapabilities fn msg) := fun _ h => by cases h

theorem negotiateAlgorithms (fn : Nat) (msg : Bytes) : Statement (.negotiateAlgorithms fn msg) := fun _ h => by cases h

theorem getDigests (fn : Nat) (msg : Bytes) : Statement (.getDigests fn msg) := fun _ h => by cases h

theorem getCertificate (fn : Nat) (msg : Bytes) : Statement (.getCertificate fn msg) := fun _ h => by cases h

theorem challenge (fn : Nat) (msg : Bytes) : Statement (.challenge fn msg) := fun _ h => by cases h

theorem getMeasurements (fn : Nat) (msg : Bytes) : Statement (.getMeasurements fn msg) := fun _ h => by cases h

theorem keyExchange (fn : Nat) (msg : Bytes) : Statement (.keyExchange fn msg) := fun _ h => by cases h

theorem setObservation (fn : Nat) (secured : Bool) (msg : Bytes) : Statement (.setObservation fn secured msg) := fun _ h => by cases h

theorem getTdispVersion (vi : Nat) (pfSession : Bool) : Statement (.getTdispVersion vi pfSession) := fun _ h => by cases h

theorem getTdispCapabilities (vi : Nat) (pfSession : Bool) : Statement (.getTdispCapabilities vi pfSession) := fun _ h => by cases h

theorem lockInterfaceRequest (vi : Nat) (pfSession : Bool) : Statement (.lockInterfaceRequest vi pfSession) := fun _ h => by cases h

theorem getDeviceInterfaceReport (vi : Nat) (pfSession : Bool) : Statement (.getDeviceInterfaceReport vi pfSession) := fun _ h => by cases h

theorem getDeviceInterfaceState (vi : Nat) (pfSession : Bool) : Statement (.getDeviceInterfaceState vi pfSession) := fun _ h => by cases h

theorem startInterfaceRequest (vi : Nat) (pfSession : Bool) (nonce : BitVec 256) : Statement (.startInterfaceRequest vi pfSession nonce) := fun _ h => by cases h

theorem stopInterfaceRequest (vi : Nat) (pfSession : Bool) : Statement (.stopInterfaceRequest vi pfSession) := fun _ h => by cases h

theorem ideStreamInsecure (vi : Nat) : Statement (.ideStreamInsecure vi) := fun _ h => by cases h

theorem teldataRead (requester : BitVec 16) : Statement (.teldataRead requester) := fun _ h => by cases h

theorem setrank (secured : Bool) (tag : BitVec 16) (msg : Bytes) : Statement (.setrank secured tag msg) := fun _ h => by cases h

theorem setpod (secured : Bool) (tag : BitVec 16) (msg : Bytes) : Statement (.setpod secured tag msg) := fun _ h => by cases h

theorem setpath (secured : Bool) (tag : BitVec 16) (msg : Bytes) : Statement (.setpath secured tag msg) := fun _ h => by cases h

theorem setcam (secured : Bool) (tag : BitVec 16) (msg : Bytes) : Statement (.setcam secured tag msg) := fun _ h => by cases h

theorem setmember (secured : Bool) (tag : BitVec 16) (msg : Bytes) : Statement (.setmember secured tag msg) := fun _ h => by cases h

theorem jobset (secured : Bool) (tag : BitVec 16) (msg : Bytes) : Statement (.jobset secured tag msg) := fun _ h => by cases h

theorem roster (secured : Bool) (tag : BitVec 16) (msg : Bytes) : Statement (.roster secured tag msg) := fun _ h => by cases h

theorem rosterBufferedApply (vi : Nat) : Statement (.rosterBufferedApply vi) := fun _ h => by cases h

theorem logtail (secured : Bool) (tag : BitVec 16) (msg : Bytes) : Statement (.logtail secured tag msg) := fun _ h => by cases h

theorem loginfo (secured : Bool) (tag : BitVec 16) (msg : Bytes) : Statement (.loginfo secured tag msg) := fun _ h => by cases h

theorem getLifetimeBlock (block : Nat) (off : Nat) : Statement (.getLifetimeBlock block off) := fun _ h => by cases h

theorem lifetimeFlush : Statement .lifetimeFlush := fun _ h => by cases h

theorem orderlyPowerDown : Statement .orderlyPowerDown := fun _ h => by cases h

theorem packageReset : Statement .packageReset := fun _ h => by cases h

theorem thermalThrottle : Statement .thermalThrottle := fun _ h => by cases h

theorem thermalTrip : Statement .thermalTrip := fun _ h => by cases h

theorem decodeFault (c : Imm8) : Statement (.decodeFault c) := fun _ h => by cases h

theorem issueCycle (core : Nat) : Statement (.issueCycle core) := fun _ h => by cases h

theorem invstatRead (vi : Nat) (trusted : Bool) : Statement (.invstatRead vi trusted) := fun _ h => by cases h

theorem faultcfgWrite (vi : Nat) (v : BitVec 64) (trusted : Bool) : Statement (.faultcfgWrite vi v trusted) := fun _ h => by cases h

theorem powerLoss : Statement .powerLoss := fun _ h => by cases h

theorem linkRetrain (link : Nat) : Statement (.linkRetrain link) := fun _ h => by cases h

theorem throttleEnd : Statement .throttleEnd := fun _ h => by cases h

theorem stateBlockRewriteDone (world : Nat) : Statement (.stateBlockRewriteDone world) := fun _ h => by cases h

theorem ideKmRequest (vi : Nat) : Statement (.ideKmRequest vi) := fun _ h => by cases h

end Sys2Proof.Laws.RoundTrip
end

