-- ==== Sys2Proof/Laws/Shapes.lean ====
section
/-! SUPPORT. What the shared shapes of instructions do when their names, operands and destinations are good: the vector,
predicate and scalar shapes of Machine/Flags.lean (R45, R60, R125, R176). -/

namespace Sys2Proof.Machine

theorem me_of {s : State} {r : Role} (h : mget s.roles s.cur = some r) : s.me = r := by
  simp [State.me, State.role, h]
theorem modMe_of {s : State} {r : Role} (h : mget s.roles s.cur = some r) (f : Role → Role) :
    s.modMe f = s.setRole s.cur (f r) := by
  simp [State.modMe, State.modRole, h]
theorem mget_setMe (s : State) (k : Nat) (r : Role) : mget (s.setRole k r).roles k = some r := by
  simp [State.setRole]
theorem settleFor_groups (r : Role) (xs : List Nat) : (r.settleFor xs).groups = r.groups := by
  have h1 : ∀ r : Role, r.landOldest.groups = r.groups := by
    intro r
    unfold Role.landOldest
    split <;> rfl
  have h2 : ∀ (n : Nat) (r : Role), (r.settleTo n).groups = r.groups := by
    intro n
    induction n with
    | zero => intro r; rfl
    | succ n ih => intro r; exact (ih _).trans (h1 r)
  exact h2 _ _

theorem claim_cur (s : State) (k x : Nat) (m : Mask) : (s.claim k x m).cur = s.cur := by
  unfold State.claim
  dsimp only
  split <;> rfl
theorem mset_mset {α : Type} (m : AMap α) (k : Nat) (a b : α) : mset (mset m k a) k b = mset m k b := by
  induction m with
  | nil => simp [mset]
  | cons p m ih =>
    obtain ⟨i, v⟩ := p
    simp only [mset]
    by_cases h : k = i
    · simp [h, mset]
    · by_cases h2 : k < i
      · simp [h, h2, mset]
      · simp [h, h2, mset, ih]

/-- The results of the lanes of a group, and the conditions that a vector function meets in them. -/
def vecRes (r : Role) (m : Mask) (fn : Mask → List (List Lanes) → Nat → Nat → FRes) (rows : List (List Lanes)) :
    List (Lanes × FFlags) :=
  (List.range r.groups).map fun grp => laneResults (groupMask m grp) (fn m rows grp)
def vecFlags (r : Role) (m : Mask) (fn : Mask → List (List Lanes) → Nat → Nat → FRes) (rows : List (List Lanes)) :
    FFlags := (vecRes r m fn rows).foldl (fun acc x => acc ||| x.2) 0

theorem laneOfRes (r : Role) (m : Mask) (fn : Mask → List (List Lanes) → Nat → Nat → FRes) (rows : List (List Lanes))
    (n : Nat) (hn : n < 32 * r.groups) :
    laneOfRows ((vecRes r m fn rows).map (·.1)) n =
      if m.getLsbD n then BitVec.ofNat 32 (fn m rows (n / 32) (n % 32)).1 else 0 := by
  have hg : n / 32 < r.groups := by omega
  unfold laneOfRows vecRes
  rw [List.map_map, List.getD_eq_getElem?_getD, List.getElem?_map, List.getElem?_range hg]
  simp only [Option.map_some, Option.getD_some, Function.comp, laneResults]
  rw [lane_lanesOf _ _ (Nat.mod_lt _ (by omega)), groupMask_bit']

/-- A run goes on after a role and its claims have been set. -/
theorem after_put (s : State) (r : Role) (x : Nat) (m : Mask) (n : Nat) :
    ∃ r', mget (((s.setRole s.cur r).claim s.cur x m).advance s.cur n).roles s.cur = some r'
      ∧ r'.still = r.still ∧ r.wentOn (1 + n) r'
      ∧ onlyRole s.cur s (((s.setRole s.cur r).claim s.cur x m).advance s.cur n) := by
  have hm : mget ((s.setRole s.cur r).claim s.cur x m).roles s.cur = some r := by
    rw [claim_roles]; exact mget_setMe _ _ _
  obtain ⟨r', h1, h2, h3⟩ := advance_wentOn _ s.cur n r hm
  exact ⟨r', h1, h2, h3, onlyRole_trans (onlyRole_trans (onlyRole_setRole _ _ _) (onlyRole_claim _ _ _ _ _))
    (onlyRole_advance _ _ _)⟩

theorem still_besideFrames {r r' : Role} (h : r'.still = r.still) : r'.besideFrames = r.besideFrames := by
  unfold Role.besideFrames; rw [h]
theorem still_frames {r r' : Role} (h : r'.still = r.still) : r'.frames = r.frames := by
  simpa [Role.still] using congrArg Role.frames h
theorem still_frame {r r' : Role} (h : r'.still = r.still) : r'.frame = r.frame := by
  unfold Role.frame; rw [still_frames h]

/-- The vector shape: the destination's participating lanes take their results, and the conditions met are added to
FPFLAGS when none of them is enabled to trap. -/
theorem vecRows_next (s : State) (lits : Nat) (d : VReg) (srcs : List VReg) (g : PReg)
    (fn : Mask → List (List Lanes) → Nat → Nat → FRes) (r r1 : Role) (x : Nat) (xs : List Nat)
    (rows : List (List Lanes)) (hr : mget s.roles s.cur = some r) (hn : r.frame.vnames (d :: srcs) = .ok (x :: xs))
    (h1 : r1 = r.settleFor (x :: xs)) (hread : r1.readRegs (r1.part g) xs = .ok rows)
    (hc : r1.checkReg x (r1.part g) = .ok ()) (hf : vecFlags r1 (r1.part g) fn rows &&& r1.fpTrapEn = 0) :
    ∃ t r', vecRows s lits d srcs g fn = .next t ∧ mget t.roles s.cur = some r' ∧ onlyRole s.cur s t
      ∧ r1.wentOn (1 + lits) r' ∧ r'.besideFrames = ({ r1 with fpflags := r1.fpflags ||| vecFlags r1 (r1.part g) fn rows } : Role).besideFrames
      ∧ r'.frames.tail = r1.frames.tail ∧ r'.frame.besideRows = r1.frame.besideRows
      ∧ (∀ n, n < 32 * r1.groups → r'.frame.value x n =
          if (r1.part g).getLsbD n then BitVec.ofNat 32 (fn (r1.part g) rows (n / 32) (n % 32)).1
          else r1.frame.value x n)
      ∧ ∀ k, (∀ q, q < r1.groups → k ≠ rowKey x q) → mget r'.frame.rows k = mget r1.frame.rows k := by
  subst h1
  generalize hR : r.settleFor (x :: xs) = r1 at *
  generalize hm : r1.part g = m at *
  let r2 : Role := { r1 with fpflags := r1.fpflags ||| vecFlags r1 m fn rows }
  have hw := writeReg_spec r2 x m ((vecRes r1 m fn rows).map (·.1)) (by simp [vecRes, r2]) hc
  obtain ⟨r', a, b, w, c⟩ := after_put s (r2.writeReg x m ((vecRes r1 m fn rows).map (·.1))) x m lits
  refine ⟨_, r', ?_, a, c, w, ?_, ?_, ?_, fun n hn => ?_, fun k hk => ?_⟩
  · unfold vecRows named
    rw [me_of hr, hn]
    dsimp only
    rw [modMe_of hr, hR]
    have hme : (s.setRole s.cur r1).me = r1 := me_of (s := s.setRole s.cur r1) (mget_setMe _ _ _)
    rw [hme, hm]
    simp only [List.tail_cons, List.headD_cons, hread, hc]
    unfold done
    show Host.Outcome.next _ = _
    have hfl : r1.meetFlags (vecFlags r1 m fn rows) = .ok r2 := by
      unfold Role.meetFlags
      rw [if_neg (by rw [hf]; exact fun h => h rfl)]
    have hset : (((s.setRole s.cur r1).setMe r2).putReg x m ((vecRes r1 m fn rows).map (·.1)))
        = (s.setRole s.cur (r2.writeReg x m ((vecRes r1 m fn rows).map (·.1)))).claim s.cur x m := by
      unfold State.putReg State.setMe State.modMe State.modRole
      simp only [State.setRole_cur, mget_setMe]
      congr 1
      simp only [State.setRole, mset_mset]
    have hgo : (do
        let rows_1 ← (Except.ok rows : Res (List (List Lanes)))
        (Except.ok () : Res Unit)
        let r ← r1.meetFlags (vecFlags r1 m fn rows_1)
        Except.ok (((s.setRole s.cur r1).setMe r).putReg x m ((vecRes r1 m fn rows_1).map (·.1))) : Res State)
        = .ok ((s.setRole s.cur (r2.writeReg x m ((vecRes r1 m fn rows).map (·.1)))).claim s.cur x m) := by
      show (do
        let r ← r1.meetFlags (vecFlags r1 m fn rows)
        Except.ok (((s.setRole s.cur r1).setMe r).putReg x m ((vecRes r1 m fn rows).map (·.1))) : Res State) = _
      rw [hfl]
      show Except.ok _ = _
      rw [hset]
    have := congrArg (fun q : Res State => Host.Outcome.next (φ := Fault) (ρ := Refusal) (match q with
      | .ok s' => s'.advance s'.cur lits
      | .error t => takeTrap (s.setRole s.cur r1) (s.setRole s.cur r1).cur t)) hgo
    exact this.trans (by dsimp only; rw [claim_cur]; rfl)
  · rw [still_besideFrames b]; exact hw.1
  · rw [still_frames b]; exact hw.2.1
  · rw [still_frame b]; exact hw.2.2.1
  · rw [still_frame b, hw.2.2.2.1 n hn]
    split
    · rename_i h
      rw [laneOfRes r1 m fn rows n hn, if_pos h]
    · rfl
  · rw [still_frame b]; exact hw.2.2.2.2 k hk

end Sys2Proof.Machine
end

