-- ==== Sys2Proof/Laws/Tokens.lean ====
section
/-! SUPPORT. The token of a fault record is one that no unanswered record has (R378). -/

namespace Sys2Proof.Machine

theorem tokenFrom_lt (inUse : List Nat) (t n : Nat) : tokenFrom inUse t n < 65536 := by
  induction n generalizing t with
  | zero => exact Nat.mod_lt _ (by omega)
  | succ n ih =>
    unfold tokenFrom
    split
    · exact ih _
    · exact Nat.mod_lt _ (by omega)

/-- The search finds a token that is not in use when there is one among those it tries. -/
theorem tokenFrom_found (inUse : List Nat) (t n : Nat) (h : ∃ j, j ≤ n ∧ (t + j) % 65536 ∉ inUse) :
    tokenFrom inUse t n ∉ inUse := by
  induction n generalizing t with
  | zero =>
    obtain ⟨j, hj, hm⟩ := h
    obtain rfl : j = 0 := by omega
    simpa [tokenFrom] using hm
  | succ n ih =>
    obtain ⟨j, hj, hm⟩ := h
    unfold tokenFrom
    by_cases hc : t % 65536 ∈ inUse
    · rw [if_pos (by simpa using hc)]
      refine ih _ ?_
      cases j with
      | zero => exact absurd hc hm
      | succ j => exact ⟨j, by omega, by rwa [Nat.add_right_comm t 1 j]⟩
    · rw [if_neg (by simpa using hc)]
      exact hc

/-- A list that has n + 1 numbers which follow one another, modulo 65,536, is at least as long. -/
theorem tokens_length (inUse : List Nat) (t n : Nat) (hn : n < 65536) (h : ∀ j, j ≤ n → (t + j) % 65536 ∈ inUse) :
    n < inUse.length := by
  induction n generalizing inUse with
  | zero => exact List.length_pos_of_mem (h 0 (Nat.le_refl _))
  | succ n ih =>
    have hm := h (n + 1) (Nat.le_refl _)
    have hl := List.length_erase_of_mem hm
    have hp := List.length_pos_of_mem hm
    have := ih (inUse.erase ((t + (n + 1)) % 65536)) (by omega) fun j hj =>
      (List.mem_erase_of_ne (by omega)).mpr (h j (by omega))
    omega

/-- Fewer tokens in use than there are: the search finds a fresh one. -/
theorem tokenFrom_fresh (inUse : List Nat) (t : Nat) (h : inUse.length < 65536) :
    tokenFrom inUse t inUse.length ∉ inUse := by
  refine tokenFrom_found inUse t _ (Classical.byContradiction fun hn => ?_)
  have := tokens_length inUse t inUse.length h fun j hj =>
    Classical.byContradiction fun hm => hn ⟨j, hj, hm⟩
  omega

end Sys2Proof.Machine
end

