-- ==== Sys2Proof/Tests/Slice0.lean ====
section
/-! SUPPORT. Small tests: words of the spec decoded, ill-formed terms refused, single steps on a small state, and for every
statement with hypotheses states and operands that meet them. Expected values are the spec's worked examples, or are worked
out by hand from its rules; the comments name the rules. -/

set_option Elab.async false

namespace Sys2Proof.Tests
open Sys2Proof Sys2Proof.Machine

/-! ## Decoding: words of the spec's own examples, and words written out from its encoding tables -/

-- worked words of R147, R151, R152, R163, R164, R166
theorem test_decode_brx : decode [0x03008C00#32] = .ok (.brx 35 0, 1) := rfl
theorem test_decode_unwind : decode [0x07000018#32] = .ok (.unwind 3 0, 1) := rfl
theorem test_decode_winb : decode [0x08000040#32] = .ok (.winb 8 0, 1) := rfl
theorem test_decode_yield : decode [0x16000000#32] = .ok (.yield 0, 1) := rfl
theorem test_decode_waitf : decode [0x17000000#32, 0x80000009#32] = .ok (.waitf 9 0, 2) := rfl
theorem test_decode_clock : decode [0x1A140000#32] = .ok (.clock 10 0, 1) := rfl
-- R146: brc.all again ?p1; b = 3 has no meaning
theorem test_decode_brc_all : decode [0x02000009#32, 0xBFFFFFFF#32] = .ok (.brcAll 0x3FFFFFFF 1, 2) := rfl
theorem test_decode_brc_b3 : decode [0x02000018#32, 0x80000000#32] = .error causeIllop := rfl
-- the loop of R159
theorem test_decode_loop : decode [0x0C000000#32, 0x8000000A#32] = .ok (.loop 10, 2) := rfl
theorem test_decode_icmp : decode [0x34020400#32, 0x80000000#32] = .ok (.icmpV 1 1 0 0 0, 2) := rfl
theorem test_decode_brk : decode [0x0D000400#32] = .ok (.brk 1 0, 1) := rfl
theorem test_decode_iaddi : decode [0x230207F8#32] = .ok (.iaddiV 1 1 127 0, 1) := rfl
theorem test_decode_endl : decode [0x0F000000#32, 0xBFFFFFFA#32] = .ok (.endl 0x3FFFFFFA, 2) := rfl
theorem test_header_of_loop : headerFault 0xC003FC40#32 = none ∧ hdrLen 0xC003FC40#32 = 2 := by decide +kernel
-- R161, R162, R168, R169
theorem test_decode_trap : decode [0x13000050#32] = .ok (.trap 10 0, 1) := rfl
theorem test_decode_svc : decode [0x14000000#32, 0x80000007#32] = .ok (.svc 7 0, 2) := rfl
theorem test_decode_hash : decode [0x1C700028#32] = .ok (.hash 56 5 0, 1) := rfl
theorem test_decode_sign : decode [0x1D70A020#32] = .ok (.sign 56 40 4 0, 1) := rfl
-- R107: system register 0x7F is not listed
theorem test_decode_rdsr_unlisted : decode [0x180003F8#32] = .error causeIllop := rfl
-- R186, R189, R192
theorem test_decode_pand : decode [0x36060410#32, 0x80000008#32] = .ok (.plog 3 1 2 8 0, 2) := rfl
theorem test_decode_shflx : decode [0x390C1048#32, 0x80000003#32] = .ok (.shflx 6 4 9 0, 2) := rfl
theorem test_decode_sel : decode [0x3D020818#32, 0x80000004#32] = .ok (.sel 1 2 3 4 0, 2) := rfl
-- R214, R227, R228, R230, R233, R234
theorem test_decode_ld : decode [0x4C080810#32] = .ok (.ld 4 2 2 0, 1) := rfl
theorem test_decode_waitw : decode [0x5A181680#32] = .ok (.waitw 12 5 0x50 0, 1) := rfl
theorem test_decode_waitw_plain : decode [0x5A060810#32] = .ok (.waitw 3 2 2 0, 1) := rfl
theorem test_decode_wlk : decode [0x58000A90#32, 0x80000002#32] = .ok (.wlk 2 0x52 0, 2) := rfl
theorem test_decode_fence : decode [0x59000018#32] = .ok (.fenceAr 3 0, 1) := rfl
theorem test_decode_fence_rel_dv : decode [0x590000A0#32] = .ok (.fenceRel 4 0, 1) := rfl
theorem test_decode_fence_ar_sy : decode [0x59000030#32] = .ok (.fenceAr 6 0, 1) := rfl
theorem test_decode_hpush : decode [0x5C041C00#32] = .ok (.hpush 2 7 0, 1) := rfl
theorem test_decode_hpop : decode [0x5D100800#32] = .ok (.hpop 8 2 0, 1) := rfl
theorem test_decode_arrv : decode [0x5E001840#32] = .ok (.arrv 6 2 0, 1) := rfl
theorem test_decode_barw : decode [0x5E001848#32] = .ok (.barw 6 2 0, 1) := rfl
theorem test_decode_barc : decode [0x5E000070#32] = .ok (.barc 0, 1) := rfl
-- R243
theorem test_decode_ctradd : decode [0x69326000#32] = .ok (.ctradd 25 24 0, 1) := rfl
theorem test_decode_ctrset : decode [0x69326008#32] = .ok (.ctrset 25 24 0, 1) := rfl
theorem test_decode_ctrwait : decode [0x69326010#32] = .ok (.ctrwait 25 24 0, 1) := rfl
theorem test_decode_ctrrd : decode [0x69326018#32] = .ok (.ctrrd 25 24 0, 1) := rfl
-- R98, R99: one word of each floating-point format; R93: a reserved register name
theorem test_decode_fadd : decode [0b0_0111110_0000100_0000101_0000110_010#32] = .ok (.fadd 4 5 6 2, 1) := rfl
theorem test_decode_ffma : decode [0b0_1111010_0000001_0000010_0000011_000#32] = .ok (.ffma 2 1 2 3 0, 1) := rfl
-- R101, R102: engine and matrix words
theorem test_decode_cpy : decode [0b0_1100000_0000100_0001000_0000011_000#32] = .ok (.cpy 4 8 3 0, 1) := rfl
theorem test_decode_cpy_odd_group : decode [0b0_1100000_0000101_0001000_0000011_000#32] = .error causeRegfield := rfl
theorem test_decode_accz : decode [0b0_1110001_0000101_0000000_0000000_001#32] = .ok (.accz 5 1, 1) := rfl
-- R76: the order of the checks
theorem test_decode_straylit : decode [0x80000001#32] = .error causeStraylit := rfl
theorem test_decode_header_as_instruction : decode [0xC003FC20#32] = .error causeBadhdr := rfl
theorem test_decode_literal_past_the_run : decode [0x01000000#32] = .error causeBadhdr := rfl
theorem test_decode_no_literal : decode [0x01000000#32, 0x00000000#32] = .error causeIllop := rfl

/-! ## Ill-formed terms, one for each check of WellFormed -/

theorem test_wf_demand_small : (Instr.callf 0 0x001 0).wf = false := by decide
theorem test_wf_demand_large : (Instr.callx 0 0xFFF 0).wf = false := by decide
theorem test_wf_trap_cause : (Instr.trap 0x17 0).wf = false := by decide
theorem test_wf_sysreg_read : (Instr.rdsr 0 0x18 0).wf = false := by decide
theorem test_wf_sysreg_write : (Instr.wrsr 0 0x00 0).wf = false := by decide
theorem test_wf_hash_group : (Instr.hash 57 0 0).wf = false := by decide
theorem test_wf_sign_group : (Instr.sign 56 41 0 0).wf = false := by decide
theorem test_wf_dbg_pair : (Instr.drdv 3 0 0).wf = false ∧ (Instr.dwrg 3 0 0).wf = false ∧ (Instr.genrd 3 0 0).wf = false := by
  decide
theorem test_wf_bfx_length : (Instr.bfx 0 0 0 0 true 0).wf = false ∧ (Instr.bfi 0 0 0 33 0).wf = false := by decide
theorem test_wf_icmp_code : (Instr.icmpV 0 0 0 10 0).wf = false ∧ (Instr.icmpS 0 0 0 10 0).wf = false := by decide
theorem test_wf_fset_code : (Instr.fset 0 0 0 8 0).wf = false ∧ (Instr.fsetk 0 0 8 0).wf = false := by decide
theorem test_wf_load_type : (Instr.ldLong 0 0 0 7 0 0).wf = false ∧ (Instr.ldp 1 0 5 0).wf = false
    ∧ (Instr.lds 2 0 6 0).wf = false := by decide
theorem test_wf_store_type : (Instr.stp 0 0 1 0).wf = false ∧ (Instr.sts 0 0 3 0).wf = false
    ∧ (Instr.putp 1 0 5 0).wf = false := by decide
theorem test_wf_policy : (Instr.ldLong 0 0 0 4 3 0).wf = false ∧ (Instr.stLong 0 0 0 4 0x20 0).wf = false := by decide
theorem test_wf_atomic : (Instr.atom 0 0 0 0 12 false 0).wf = false ∧ (Instr.atoms 0 0 0 9 true 0).wf = false
    ∧ (Instr.ratom 1 0 0 0 0 true 0).wf = false := by decide
theorem test_wf_cas : (Instr.cas 0 0 0 0 0 3 0).wf = false ∧ (Instr.cas 0 0 0 0 2 2 0).wf = false := by decide
theorem test_wf_fence_scope : (Instr.fenceAr 7 0).wf = false ∧ (Instr.arrv 0 0 0).wf = false ∧ (Instr.barw 0 4 0).wf = false := by
  decide
theorem test_wf_engine_groups : (Instr.cpy 1 0 0 0).wf = false ∧ (Instr.cpys 0 2 0 0).wf = false
    ∧ (Instr.gath 1 0 0 0).wf = false ∧ (Instr.scat 3 0 0 0).wf = false ∧ (Instr.put 0 1 0 0).wf = false
    ∧ (Instr.get 2 0 0 0).wf = false ∧ (Instr.trig 1 0 0 0 0).wf = false ∧ (Instr.trigx 0 1 0 0 0).wf = false := by decide
theorem test_wf_coll : (Instr.coll 0 0 0 6 0 false 0).wf = false ∧ (Instr.coll 0 0 0 3 1 false 0).wf = false := by decide
theorem test_wf_pairs : (Instr.rgnreg 1 0 0).wf = false ∧ (Instr.mma 0 0 0 1 false 0).wf = false
    ∧ (Instr.mmaSgn 0 0 0 1 false 0 0).wf = false := by decide


/-! ## A word of every encoded instruction, written out from the tables of R95 to R113 by the field places of R56 and R61 -/

/-- major × 2^24 + d × 2^17 + a × 2^10 + b × 2^3 + guard; and a literal word. -/
def wd (m d a b g : Nat) : Word := BitVec.ofNat 32 (m * 2 ^ 24 + d * 2 ^ 17 + a * 2 ^ 10 + b * 2 ^ 3 + g)
def lt (n : Nat) : Word := BitVec.ofNat 32 (2 ^ 31 + n)
def decodesTo (x : List Word × Instr) : Bool :=
  match decode x.1 with
  | .ok (j, n) => decide (j = x.2) && n == x.1.length
  | .error _ => false

-- R95, R104
theorem test_words_control : [
    ([wd 0x00 0 0 0 3], Instr.nop 3), ([wd 0x01 0 0 0 2, lt 9], .bra 9 2), ([wd 0x02 0 0 0 1, lt 9], .brcAny 9 1),
    ([wd 0x02 0 0 1 1, lt 9], .brcAll 9 1), ([wd 0x02 0 0 2 1, lt 9], .brcNone 9 1), ([wd 0x03 0 35 0 4], .brx 35 4),
    ([wd 0x04 0 0 0 1, lt 9, lt (3 * 128 + 5)], .callf 9 0x185 1), ([wd 0x05 0 35 0 1, lt (3 * 128 + 5)], .callx 35 0x185 1),
    ([wd 0x06 0 0 0 1], .retf 1), ([wd 0x07 0 0 3 1], .unwind 3 1), ([wd 0x08 0 0 8 1], .winb 8 1),
    ([wd 0x09 0 3 0 1, lt 9], .ifp 3 9 1), ([wd 0x0A 0 0 0 0, lt 9], .elsep 9), ([wd 0x0B 0 0 0 0], .endif),
    ([wd 0x0C 0 0 0 0, lt 9], .loop 9), ([wd 0x0D 0 3 0 1], .brk 3 1), ([wd 0x0E 0 3 0 1], .cont 3 1),
    ([wd 0x0F 0 0 0 0, lt 9], .endl 9), ([wd 0x10 0 0 0 0], .serb), ([wd 0x11 0 0 0 0, lt 9], .sere 9),
    ([wd 0x12 0 0 0 1], .exit 1), ([wd 0x13 0 0 0x18 1], .trap 0x18 1), ([wd 0x14 0 0 0 1, lt 9], .svc 9 1),
    ([wd 0x15 0 0 0 1], .bkpt 1), ([wd 0x16 0 0 0 1], .yield 1), ([wd 0x17 0 0 0 1, lt 0x801], .waitf 0x801 1)].all decodesTo
    = true := by decide +kernel
-- R96, R106, R107
theorem test_words_system : [
    ([wd 0x18 5 0 0x17 1], Instr.rdsr 5 0x17 1), ([wd 0x19 0 5 0x0A 1], .wrsr 5 0x0A 1), ([wd 0x1A 5 0 0 1], .clock 5 1),
    ([wd 0x1B 0 5 0 1], .cacheIinv 5 1), ([wd 0x1B 0 5 1 1], .cacheIinvall 5 1), ([wd 0x1B 0 5 2 1], .cacheL1inv 5 1),
    ([wd 0x1C 56 0 5 1], .hash 56 5 1), ([wd 0x1D 56 40 4 1], .sign 56 40 4 1), ([wd 0x1E 6 9 0 1], .drdv 6 9 1),
    ([wd 0x1E 6 9 1 1], .dwrv 6 9 1), ([wd 0x1E 6 9 2 1], .drds 6 9 1), ([wd 0x1E 6 9 3 1], .dwrs 6 9 1),
    ([wd 0x1E 6 9 4 1], .drdt 6 9 1), ([wd 0x1E 6 9 5 1], .dwrt 6 9 1), ([wd 0x1E 6 9 6 1], .drda 6 9 1),
    ([wd 0x1E 6 9 7 1], .dwra 6 9 1), ([wd 0x1E 6 9 8 1], .drdg 6 9 1), ([wd 0x1E 6 9 9 1], .dwrg 6 9 1),
    ([wd 0x1E 6 9 10 1], .genrd 6 9 1), ([wd 0x1E 6 9 11 1], .gencert 6 9 1)].all decodesTo = true := by decide +kernel
-- R97, R108
theorem test_words_vector_integer : [
    ([wd 0x20 100 2 3 1], Instr.iaddV 100 2 3 1), ([wd 0x21 100 2 3 1], .isubV 100 2 3 1), ([wd 0x22 100 2 3 1], .imulV 100 2 3 1),
    ([wd 0x23 100 2 0x7F 1], .iaddiV 100 2 0x7F 1), ([wd 0x24 100 2 3 1], .andV 100 2 3 1), ([wd 0x25 100 2 3 1], .orV 100 2 3 1),
    ([wd 0x26 100 2 3 1], .xorV 100 2 3 1), ([wd 0x27 100 2 3 1], .shlV 100 2 3 1), ([wd 0x28 100 2 3 1], .shrZ32V 100 2 3 1),
    ([wd 0x29 100 2 3 1, lt 0], .imulhV true 100 2 3 1), ([wd 0x29 100 2 3 1, lt 1], .imulhV false 100 2 3 1),
    ([wd 0x29 100 2 3 1, lt 2], .idivV true 100 2 3 1), ([wd 0x29 100 2 3 1, lt 3], .idivV false 100 2 3 1),
    ([wd 0x29 100 2 3 1, lt 4], .iremV true 100 2 3 1), ([wd 0x29 100 2 3 1, lt 5], .iremV false 100 2 3 1),
    ([wd 0x29 100 2 3 1, lt 6], .iminV true 100 2 3 1), ([wd 0x29 100 2 3 1, lt 7], .iminV false 100 2 3 1),
    ([wd 0x29 100 2 3 1, lt 8], .imaxV true 100 2 3 1), ([wd 0x29 100 2 3 1, lt 9], .imaxV false 100 2 3 1),
    ([wd 0x29 100 2 3 1, lt 10], .shrS32V 100 2 3 1), ([wd 0x29 100 2 3 1, lt 11], .rotlV 100 2 3 1),
    ([wd 0x2A 100 0 0 1, lt 7], .movlV 100 7 1), ([wd 0x2B 100 2 0 1, lt (5 + 6 * 32 + 2048)], .bfx 100 2 5 6 true 1),
    ([wd 0x2C 100 2 0 1, lt (5 + 6 * 32)], .bfi 100 2 5 6 1), ([wd 0x2D 100 2 0 1], .mov 100 2 1), ([wd 0x2D 100 2 1 1], .not 100 2 1),
    ([wd 0x2D 100 2 2 1], .neg 100 2 1), ([wd 0x2D 100 2 3 1], .iabs 100 2 1), ([wd 0x2D 100 2 4 1], .popc 100 2 1),
    ([wd 0x2D 100 2 5 1], .clz 100 2 1), ([wd 0x2D 100 2 6 1], .brev 100 2 1), ([wd 0x2D 100 2 7 1], .sext8 100 2 1),
    ([wd 0x2D 100 2 8 1], .sext16 100 2 1), ([wd 0x2D 100 0 9 1], .laneid 100 1)].all decodesTo = true := by decide +kernel
theorem test_words_scalar_integer : [
    ([wd 0x2E 60 2 3 1], Instr.iaddS 60 2 3 1), ([wd 0x2F 60 2 3 1], .isubS 60 2 3 1), ([wd 0x30 60 2 0x7F 1], .iaddiS 60 2 0x7F 1),
    ([wd 0x31 60 2 3 1], .imulS 60 2 3 1), ([wd 0x32 60 0 0 1, lt 7, lt 5], .movlS 60 (5 * 2 ^ 30 + 7) 1),
    ([wd 0x33 60 2 3 1, lt 0], .imulhS true 60 2 3 1), ([wd 0x33 60 2 3 1, lt 1], .imulhS false 60 2 3 1),
    ([wd 0x33 60 2 3 1, lt 2], .idivS true 60 2 3 1), ([wd 0x33 60 2 3 1, lt 5], .iremS false 60 2 3 1),
    ([wd 0x33 60 2 3 1, lt 6], .iminS true 60 2 3 1), ([wd 0x33 60 2 3 1, lt 9], .imaxS false 60 2 3 1),
    ([wd 0x33 60 2 3 1, lt 10], .shrS32S 60 2 3 1), ([wd 0x33 60 2 3 1, lt 11], .rotlS 60 2 3 1),
    ([wd 0x33 60 2 3 1, lt 12], .andS 60 2 3 1), ([wd 0x33 60 2 3 1, lt 13], .orS 60 2 3 1), ([wd 0x33 60 2 3 1, lt 14], .xorS 60 2 3 1),
    ([wd 0x33 60 2 3 1, lt 15], .shlS 60 2 3 1), ([wd 0x33 60 2 3 1, lt 16], .shrZ32S 60 2 3 1)].all decodesTo = true := by
  decide +kernel
-- R98, R109, R110
theorem test_words_lanes : [
    ([wd 0x34 7 2 3 1, lt 9], Instr.icmpV 7 2 3 9 1), ([wd 0x35 7 2 3 1, lt 4], .icmpS 7 2 3 4 1), ([wd 0x36 7 2 3 1, lt 8], .plog 7 2 3 8 1),
    ([wd 0x37 60 2 0 1], .voteAny 60 2 1), ([wd 0x37 60 2 1 1], .voteAll 60 2 1), ([wd 0x37 60 2 2 1], .voteCount 60 2 1),
    ([wd 0x38 100 2 0 1], .ballot 100 2 1), ([wd 0x39 100 2 3 1, lt 0], .shfl 100 2 3 1), ([wd 0x39 100 2 3 1, lt 1], .shflu 100 2 3 1),
    ([wd 0x39 100 2 3 1, lt 2], .shfld 100 2 3 1), ([wd 0x39 100 2 3 1, lt 3], .shflx 100 2 3 1), ([wd 0x3A 100 2 0 1], .gredIadd 100 2 1),
    ([wd 0x3A 100 2 1 1], .gredIminS32 100 2 1), ([wd 0x3A 100 2 2 1], .gredIminZ32 100 2 1), ([wd 0x3A 100 2 3 1], .gredImaxS32 100 2 1),
    ([wd 0x3A 100 2 4 1], .gredImaxZ32 100 2 1), ([wd 0x3A 100 2 5 1], .gredAnd 100 2 1), ([wd 0x3A 100 2 6 1], .gredOr 100 2 1),
    ([wd 0x3A 100 2 7 1], .gredXor 100 2 1), ([wd 0x3A 100 2 8 1], .gredFadd 100 2 1), ([wd 0x3A 100 2 9 1], .gredFmin 100 2 1),
    ([wd 0x3A 100 2 10 1], .gredFmax 100 2 1), ([wd 0x3B 100 2 0 1], .movs 100 2 1), ([wd 0x3C 60 2 0 1, lt 1023], .rdln 60 2 1023 1),
    ([wd 0x3D 100 2 3 1, lt 6], .sel 100 2 3 6 1)].all decodesTo = true := by decide +kernel
-- R99, R103, R105, R110
theorem test_words_float : [
    ([wd 0x3E 100 2 3 1], Instr.fadd 100 2 3 1), ([wd 0x3F 100 2 3 1], .fmul 100 2 3 1), ([wd 0x40 100 2 3 1], .fdiv 100 2 3 1),
    ([wd 0x41 100 2 3 1], .fmin 100 2 3 1), ([wd 0x42 100 2 3 1], .fmax 100 2 3 1), ([wd 0x43 100 2 0 1], .fmaxz 100 2 1),
    ([wd 0x44 100 2 0 1], .fminz 100 2 1), ([wd 0x45 7 2 3 1, lt 6], .fset 7 2 3 6 1), ([wd 0x46 100 2 0 1, lt 7], .fsetk 100 2 7 1),
    ([wd 0x47 100 2 3 1, lt (0 + 1 * 32)], .faddLong 1 100 2 3 1), ([wd 0x47 100 2 3 1, lt (1 + 2 * 32)], .fsub 2 100 2 3 1),
    ([wd 0x47 100 2 3 1, lt (2 + 3 * 32)], .fmulLong 3 100 2 3 1), ([wd 0x47 100 2 3 1, lt (3 + 1 * 32 + 30 * 128)], .ffmaLong 1 100 2 3 30 1),
    ([wd 0x47 100 2 3 1, lt 4], .fdivLong 0 100 2 3 1), ([wd 0x47 100 2 3 1, lt (5 + 30 * 128)], .ffms 0 100 2 3 30 1),
    ([wd 0x47 100 2 3 1, lt (6 + 30 * 128)], .fnma 0 100 2 3 30 1), ([wd 0x47 100 2 3 1, lt 7], .fminLong 0 100 2 3 1),
    ([wd 0x47 100 2 3 1, lt 8], .fmaxLong 0 100 2 3 1), ([wd 0x48 100 2 1 1], .fsqrt 1 100 2 1), ([wd 0x48 100 2 4 1], .frsq 0 100 2 1),
    ([wd 0x48 100 2 10 1], .frcp 2 100 2 1), ([wd 0x48 100 2 12 1], .fexp2 0 100 2 1), ([wd 0x48 100 2 19 1], .flog2 3 100 2 1),
    ([wd 0x48 100 2 22 1], .fsin 2 100 2 1), ([wd 0x48 100 2 24 1], .fcos 0 100 2 1), ([wd 0x48 100 2 28 1], .ftanh 0 100 2 1),
    ([wd 0x48 100 2 33 1], .frint 1 100 2 1), ([wd 0x48 100 2 36 1], .fabs 100 2 1), ([wd 0x48 100 2 40 1], .fneg 100 2 1),
    ([wd 0x79 100 2 3 1], .ffma 1 100 2 3 1)].all decodesTo = true := by decide +kernel
theorem test_words_conversions_and_packed : [
    ([wd 0x49 100 2 1 1], Instr.fcvtS32F32 1 100 2 1), ([wd 0x49 100 2 4 1], .fcvtZ32F32 0 100 2 1), ([wd 0x49 100 2 8 1], .fcvtF32S32 0 100 2 1),
    ([wd 0x49 100 2 12 1], .fcvtF32Z32 0 100 2 1), ([wd 0x49 100 2 16 1], .fcvtBf16F32 0 100 2 1), ([wd 0x49 100 2 20 1], .fcvtF16F32 0 100 2 1),
    ([wd 0x49 100 2 24 1], .fcvtF32Bf16 0 100 2 1), ([wd 0x49 100 2 28 1], .fcvtF32F16 0 100 2 1), ([wd 0x49 100 2 32 1], .fcvtE4m3F32 0 100 2 1),
    ([wd 0x49 100 2 36 1], .fcvtE5m2F32 0 100 2 1), ([wd 0x49 100 2 40 1], .fcvtF32E4m3 0 100 2 1), ([wd 0x49 100 2 47 1], .fcvtF32E5m2 3 100 2 1),
    ([wd 0x4A 100 2 3 1, lt (0 + 2 * 16 + 5 * 64 + 1 * 8192)], .hadd2 true 2 100 2 3 5 1), ([wd 0x4A 100 2 3 1, lt 1], .hmul2 false 0 100 2 3 0 1),
    ([wd 0x4A 100 2 3 1, lt (2 + 5 * 64)], .hfma2 false 0 100 2 3 5 1), ([wd 0x4A 100 2 3 1, lt 3], .hmin2 false 0 100 2 3 0 1),
    ([wd 0x4A 100 2 3 1, lt 4], .hmax2 false 0 100 2 3 0 1)].all decodesTo = true := by decide +kernel
-- R100, R104, R111, R112
theorem test_words_memory : [
    ([wd 0x4C 100 2 0x52 1], Instr.ld 100 2 0x52 1), ([wd 0x4D 100 2 3 1, lt (5 + 16 * 2)], .ldLong 100 2 3 5 2 1),
    ([wd 0x4E 100 2 3 1], .st 100 2 3 1), ([wd 0x4F 100 2 3 1, lt 6], .stLong 100 2 3 6 0 1), ([wd 0x50 100 2 1 1], .ldp 100 2 1 1),
    ([wd 0x51 100 2 2 1], .stp 100 2 2 1), ([wd 0x52 100 2 3 1], .lds 100 2 3 1), ([wd 0x53 100 2 4 1], .sts 100 2 4 1),
    ([wd 0x54 100 2 0 1], .lookup 100 2 1), ([wd 0x54 100 2 1 1], .tagset 100 2 1), ([wd 0x54 100 2 2 1], .taginv 100 2 1),
    ([wd 0x55 100 2 3 1, lt (6 + 11 * 128 + 4096)], .atom 100 2 3 6 11 true 1), ([wd 0x56 0 2 3 1, lt (7 + 9 * 128)], .atoms 2 3 7 9 false 1),
    ([wd 0x57 100 2 3 1, lt (8 + 12 * 128 + 2 * 16384)], .cas 100 2 3 8 12 2 1), ([wd 0x58 0 2 3 1, lt 0], .rlk 2 3 1),
    ([wd 0x58 0 2 3 1, lt 1], .runl 2 3 1), ([wd 0x58 0 2 3 1, lt 2], .wlk 2 3 1), ([wd 0x58 0 2 3 1, lt 3], .wunl 2 3 1),
    ([wd 0x59 0 0 (5 + 0 * 8) 1], .fenceAr 5 1), ([wd 0x59 0 0 (5 + 1 * 8) 1], .fenceAcq 5 1), ([wd 0x59 0 0 (5 + 2 * 8) 1], .fenceRel 5 1),
    ([wd 0x5A 100 2 3 1], .waitw 100 2 3 1), ([wd 0x5B 0 2 3 1], .pref 2 3 1), ([wd 0x5C 9 2 0 1], .hpush 9 2 1), ([wd 0x5D 100 9 0 1], .hpop 100 9 1),
    ([wd 0x5E 0 2 (0 + 1 * 4) 1], .arrv 2 1 1), ([wd 0x5E 0 2 (1 + 3 * 4) 1], .barw 2 3 1), ([wd 0x5E 0 0 (2 + 3 * 4) 1], .barc 1),
    ([wd 0x5F 100 2 6 1], .putp 100 2 6 1)].all decodesTo = true := by decide +kernel
-- R101, R102, R113
theorem test_words_engines_and_matrix : [
    ([wd 0x60 8 12 3 1], Instr.cpy 8 12 3 1), ([wd 0x61 9 12 3 1], .cpys 9 12 3 1), ([wd 0x62 8 2 3 1], .gath 8 2 3 1), ([wd 0x63 8 2 3 1], .scat 8 2 3 1),
    ([wd 0x64 9 0 0 1], .cpyb 9 1), ([wd 0x65 0 9 0 1], .waitb 9 1), ([wd 0x66 8 12 3 1], .put 8 12 3 1), ([wd 0x67 8 12 3 1], .get 8 12 3 1),
    ([wd 0x68 100 2 3 1, lt (6 + 10 * 128 + 4096)], .ratom 100 2 3 6 10 true 1), ([wd 0x69 9 10 0 1], .ctradd 9 10 1), ([wd 0x69 9 10 1 1], .ctrset 9 10 1),
    ([wd 0x69 9 10 2 1], .ctrwait 9 10 1), ([wd 0x69 9 10 3 1], .ctrrd 9 10 1), ([wd 0x6A 8 12 3 1, lt 200], .trig 8 12 3 200 1),
    ([wd 0x6A 8 12 3 1, lt (200 + 256)], .trigx 8 12 3 200 1), ([wd 0x6B 0 9 0 1], .fencex 9 1),
    ([wd 0x6C 8 12 3 1, lt (1 + 2 * 16 + 256)], .coll 8 12 3 1 2 true 1), ([wd 0x6D 8 10 0 1], .rgnreg 8 10 1), ([wd 0x6D 8 10 1 1], .rgnrev 8 10 1),
    ([wd 0x6E 0 9 0 1], .tcfg 9 1), ([wd 0x6E 0 9 1 1], .trel 9 1), ([wd 0x6E 0 9 2 1], .trelDiscard 9 1), ([wd 0x6F 9 2 3 1], .mld 9 2 3 1),
    ([wd 0x70 9 2 3 1], .mst 9 2 3 1), ([wd 0x71 5 0 0 1], .accz 5 1), ([wd 0x72 100 5 9 1], .accrd 100 5 9 1), ([wd 0x73 5 100 9 1], .accwr 5 100 9 1),
    ([wd 0x74 5 9 100 1, lt (6 + 128)], .mma 5 9 100 6 true 1), ([wd 0x74 5 9 100 1, lt (6 + 64 + 11 * 256)], .mmaSgn 5 9 100 6 false 11 1),
    ([wd 0x75 8 9 0 1, lt 0], .mtrn 8 9 1), ([wd 0x75 8 9 100 1, lt 1], .mprm 8 9 100 1), ([wd 0x75 5 9 0 1, lt 2], .mrsum 5 9 1)].all decodesTo
    = true := by decide +kernel
/-! ## A small state

One role of one group of a plot on core 0, in the middle of a run at 0x1000, whose page of device memory stands in the
core's translation cache. v1 holds n in lane n, v2 holds 7, v3 holds 0xFFFFFFFF; s1 holds 40, s2 holds 2, s3 holds -1. The records in its scalars
are local but those of s20, which names another rank's memory, and s32, which names the scratchpad; s12 holds the
descriptor of a copy of one row of 64 bytes. -/

def lanesOf (f : Nat → Nat) : Lanes := BitVec.ofNat 1024 ((List.range 32).foldr (fun n acc => f n % 2 ^ 32 + 2 ^ 32 * acc) 0)

/-- A granule of four scalars. -/
def granOf (a b c d : BitVec 64) : BitVec 256 := d ++ c ++ b ++ a

def aFrame : Frame :=
  { Frame.root 64 64 5 with
    rows := [(rowKey 1 0, ⟨5, lanesOf fun n => n, false⟩), (rowKey 2 0, ⟨5, lanesOf fun _ => 7, false⟩),
      (rowKey 3 0, ⟨5, lanesOf fun _ => 0xFFFFFFFF, false⟩), (rowKey 4 0, ⟨5, lanesOf fun n => 4 * n, false⟩),
      (rowKey 5 0, ⟨5, lanesOf fun _ => 0x3F800000, false⟩), (rowKey 6 0, ⟨5, lanesOf fun _ => 0x40400000, false⟩)]
    grans := [(0, ⟨5, granOf 0 40 2 (-1), false⟩), (1, ⟨5, granOf 0x3000 0x1000 0 0, false⟩), (2, ⟨5, granOf 0x4000 32 0 0, false⟩),
      (3, ⟨5, granOf 0 0 0x100000040 0, false⟩), (4, ⟨5, granOf 0x5000 0x1000 0 0, false⟩), (5, ⟨5, granOf 0 0x1000 0x40000000 0, false⟩),
      (6, ⟨5, granOf 0x6000 0x400000001000 0 0, false⟩), (7, ⟨5, granOf 0x7000 0x400000004000 0 0, false⟩),
      (8, ⟨5, granOf 0 0x10000 0xC0000000 0, false⟩)]
    preds := [0, 0xF, 0xFFFFFFFF, 0, 0, 0, 0, 0] }

def aRole : Role :=
  { Role.hyaluo with
    plot := some 0, team := 1, core := 0, priv := false, status := .running, hdr := 0x1000
    hdrWord := mkHeader 0 0 1 24 false, off := 1, frames := [aFrame], budget := none }

def aTeam : Team := { Team.hyaluo with plot := some 0, core := 0, live := [1], gen := 4 }

def aCore : Core :=
  { Core.reset with
    genCounter := 5, genLive := [5, 4], rowsUsed := [65, 0, 0, 0], gransUsed := 17, plotSlots := [(0, 0)]
    slots := [(0, 1)], running := some 1, tlb := [⟨0, 0, 0, 0, true, true, true⟩] }

def aPlot : Plot := { probePlot with priv := false, counters := BitVec.allOnes 256, regions := BitVec.allOnes 64 }

/-- The state in which a role runs, with device memory as given. -/
def around (r : Role) (m : Mem) : State :=
  { State.reset with
    roles := [(0, Role.hyaluo), (1, r)], teams := [(0, Team.hyaluo), (1, aTeam)], plots := [(0, aPlot)]
    cores := [(0, aCore), (hyCore, State.reset.core hyCore)], cur := 1, turn := 0, next := 100, ram := m }

/-- Device memory: header words at 0x1000 and 0x2000, and 0x11223344 at 0x3000. -/
def aMem : Mem :=
  wrBytes (wrBytes (wrBytes [] 0x1000 (leBytes 4 (mkHeader 0 0 1 24 false).toNat)) 0x2000
    (leBytes 4 (mkHeader 0 15 15 1 false).toNat)) 0x3000 (leBytes 4 0x11223344)

def w : State := around aRole aMem
/-- The same with another role. -/
def wr (r : Role) : State := around r aMem

/-- A fact of the next state of an instruction. -/
def gives {α : Type} (i : Instr) (s : State) (f : State → α) : Option α :=
  match exec i s with
  | .next t => some (f t)
  | _ => none

/-- The running role, or role k, after an instruction. -/
def lane1 (i : Instr) (x n : Nat) : BitVec 32 := (gives i w fun t => (t.role 1).settle.frame.value x n).getD 0xDEAD
def scal1 (i : Instr) (x : Nat) : BitVec 64 := (gives i w fun t => (t.role 1).frame.svalue x).getD 0xDEAD
def pred1 (i : Instr) (p : PReg) : Mask := (gives i w fun t => (t.role 1).frame.pred p).getD 0xDEAD

/-- The status of a role after an instruction, and the cause in the trap record at the head of the interface's. -/
def stopped1 (i : Instr) (s : State) : Bool := (gives i s fun t => (t.role 1).status == .stopped).getD false

/-! ## Single steps -/

-- R179 to R184
theorem test_iadd : lane1 (.iaddV 10 1 3 0) 10 0 = 0xFFFFFFFF ∧ lane1 (.iaddV 10 1 3 0) 10 5 = 4 := by decide +kernel
theorem test_isub : lane1 (.isubV 10 1 2 0) 10 6 = 0xFFFFFFFF := by decide +kernel
theorem test_imul_wraps : lane1 (.imulV 10 3 3 0) 10 9 = 1 := by decide +kernel
theorem test_imulh_signed : lane1 (.imulhV true 10 3 3 0) 10 9 = 0 := by decide +kernel
theorem test_imulh_unsigned : lane1 (.imulhV false 10 3 3 0) 10 9 = 0xFFFFFFFE := by decide +kernel
theorem test_iaddi : lane1 (.iaddiV 10 1 127 0) 10 0 = 0xFFFFFFFF := by decide +kernel
theorem test_idiv_zero : lane1 (.idivV true 10 2 1 0) 10 0 = 0xFFFFFFFF ∧ lane1 (.idivV true 10 2 1 0) 10 2 = 3 := by
  decide +kernel
theorem test_irem_zero : lane1 (.iremV false 10 2 1 0) 10 0 = 7 ∧ lane1 (.iremV false 10 2 1 0) 10 4 = 3 := by decide +kernel
theorem test_imin_signed : lane1 (.iminV true 10 1 3 0) 10 3 = 0xFFFFFFFF := by decide +kernel
theorem test_imax_unsigned : lane1 (.imaxV false 10 1 3 0) 10 3 = 0xFFFFFFFF := by decide +kernel
theorem test_shl_by_more : lane1 (.shlV 10 2 1 0) 10 31 = 0x80000000 := by decide +kernel
theorem test_shr_signed : lane1 (.shrS32V 10 3 1 0) 10 31 = 0xFFFFFFFF := by decide +kernel
theorem test_rotl : lane1 (.rotlV 10 2 1 0) 10 31 = 0x80000003 := by decide +kernel
theorem test_bfx_sign : lane1 (.bfx 10 2 1 2 true 0) 10 0 = 0xFFFFFFFF := by decide +kernel
theorem test_bfi : lane1 (.bfi 3 2 4 4 0) 3 0 = 0xFFFFFF7F := by decide +kernel
theorem test_clz : lane1 (.clz 10 1 0) 10 0 = 32 ∧ lane1 (.clz 10 1 0) 10 31 = 27 := by decide +kernel
theorem test_popc : lane1 (.popc 10 1 0) 10 31 = 5 := by decide +kernel
theorem test_brev : lane1 (.brev 10 1 0) 10 1 = 0x80000000 := by decide +kernel
theorem test_sext8 : lane1 (.sext8 10 3 0) 10 1 = 0xFFFFFFFF := by decide +kernel
theorem test_laneid : lane1 (.laneid 10 0) 10 31 = 31 := by decide +kernel
theorem test_movl_vector : lane1 (.movlV 10 0x3FFFFFFF 0) 10 2 = 0xFFFFFFFF := by decide +kernel
theorem test_movl_scalar : scal1 (.movlS 20 0x800000000000001 0) 20 = 0xF800000000000001 := by decide +kernel
theorem test_guard_off : lane1 (.iaddV 2 2 2 1) 2 3 = 14 ∧ lane1 (.iaddV 2 2 2 1) 2 4 = 7 := by decide +kernel
theorem test_scalar_idiv : scal1 (.idivS true 20 1 2 0) 20 = 20 := by decide +kernel
theorem test_scalar_imulh : scal1 (.imulhS false 20 3 3 0) 20 = 0xFFFFFFFFFFFFFFFE := by decide +kernel
-- R185 to R192
theorem test_icmp_less : pred1 (.icmpV 4 1 2 2 0) 4 = 0x7F := by decide +kernel
theorem test_plog_and : pred1 (.plog 4 1 2 8 0) 4 = 0xF := by decide +kernel
theorem test_vote_count : scal1 (.voteCount 20 1 0) 20 = 4 := by decide +kernel
theorem test_vote_all : scal1 (.voteAll 20 1 0) 20 = 0 := by decide +kernel
theorem test_ballot : lane1 (.ballot 10 1 0) 10 20 = 0xF := by decide +kernel
theorem test_shflu_low : lane1 (.shflu 10 1 2 0) 10 6 = 6 ∧ lane1 (.shflu 10 1 2 0) 10 7 = 0 := by decide +kernel
theorem test_shfld_high : lane1 (.shfld 10 1 2 0) 10 24 = 31 ∧ lane1 (.shfld 10 1 2 0) 10 25 = 25 := by decide +kernel
theorem test_gred_sum : lane1 (.gredIadd 10 1 0) 10 4 = 496 := by decide +kernel
theorem test_gred_guarded : lane1 (.gredIadd 10 1 1) 10 2 = 6 := by decide +kernel
theorem test_rdln_inactive : scal1 (.rdln 20 1 17 0) 20 = 17 := by decide +kernel
theorem test_sel : lane1 (.sel 10 1 2 1 0) 10 3 = 3 ∧ lane1 (.sel 10 1 2 1 0) 10 4 = 7 := by decide +kernel
-- R193 to R202: 1.0 and 3.0
theorem test_fadd : lane1 (.fadd 10 5 6 0) 10 0 = 0x40800000 := by decide +kernel
theorem test_fdiv_third : lane1 (.fdivLong 0 10 5 6 0) 10 0 = 0x3EAAAAAB := by decide +kernel
theorem test_fdiv_third_down : lane1 (.fdivLong 1 10 5 6 0) 10 0 = 0x3EAAAAAA := by decide +kernel
theorem test_fsub : lane1 (.fsub 0 10 5 6 0) 10 0 = 0xC0000000 := by decide +kernel
theorem test_ffma : lane1 (.ffmaLong 0 10 5 6 6 0) 10 0 = 0x40C00000 := by decide +kernel
theorem test_fsqrt : lane1 (.fsqrt 0 10 6 0) 10 0 = 0x3FDDB3D7 := by decide +kernel
theorem test_fexp2 : lane1 (.fexp2 0 10 6 0) 10 0 = 0x41000000 := by decide +kernel
theorem test_fcvt_int : lane1 (.fcvtF32S32 0 10 3 0) 10 0 = 0xBF800000 := by decide +kernel
theorem test_fcvt_half : lane1 (.fcvtF16F32 0 10 6 0) 10 0 = 0x4200 := by decide +kernel
theorem test_hadd2 : lane1 (.hadd2 true 0 10 5 5 0 0) 10 0 = 0x40000000 := by decide +kernel
theorem test_fset : pred1 (.fset 4 5 6 2 0) 4 = 0xFFFFFFFF := by decide +kernel
-- R145 to R163
theorem test_bra : gives (.bra 1023 0) w (fun t => ((t.role 1).hdr, (t.role 1).off)) = some (0x2000, 0) := by decide +kernel
theorem test_bra_not_header : stopped1 (.bra 1024 0) w = true := by decide +kernel
theorem test_brc_all_taken : gives (.brcAll 1023 2) w (fun t => (t.role 1).hdr) = some 0x2000 := by decide +kernel
theorem test_brc_none : gives (.brcNone 1023 2) w (fun t => ((t.role 1).hdr, (t.role 1).off)) = some (0x1000, 3) := by
  decide +kernel
theorem test_callf_callee : gives (.callf 1023 0x102 0) w (fun t => ((t.role 1).frames.length, (t.role 1).frame.v,
    (t.role 1).frame.sc, (t.role 1).frame.gen)) = some (2, 16, 8, 6) := by decide +kernel
theorem test_callf_return_point : gives (.callf 1023 0x102 0) w (fun t => (t.role 1).frame.link.ret) = some 0x1064 := by
  decide +kernel
theorem test_ifp : gives (.ifp 1 1023 0) w (fun t => ((t.role 1).mask, (t.role 1).stack.length)) = some (0xF, 1) := by
  decide +kernel
theorem test_serb : gives .serb w (fun t => (t.role 1).mask) = some 1 := by decide +kernel
theorem test_endif_empty : stopped1 .endif w = true := by decide +kernel
theorem test_exit : gives (.exit 0) w (fun t => (mget t.roles 1).isNone) = some true := by decide +kernel
theorem test_svc : gives (.svc 9 0) w (fun t => ((t.role 1).status == .stopped, (t.role 1).off)) = some (true, 3) := by
  decide +kernel
theorem test_winb : gives (.winb 6 0) w (fun t => (t.role 1).frame.w) = some 48 := by decide +kernel
theorem test_winb_far : stopped1 (.winb 7 0) w = true := by decide +kernel
-- R165, R166, R171
theorem test_rdsr_groups : scal1 (.rdsr 20 6 0) 20 = 1 := by decide +kernel
theorem test_rdsr_gencur_user : stopped1 (.rdsr 20 0x0C 0) w = true := by decide +kernel
theorem test_drdv_user : stopped1 (.drdv 20 1 0) w = true := by decide +kernel
-- R243, R247
theorem test_cpyb : gives (.cpyb 20 0) w (fun t => ((t.role 1).frame.svalue 20, (t.role 1).batchOpen)) = some (1, 2) := by
  decide +kernel
theorem test_ctradd_outstanding : gives (.ctradd 1 2 0) w (fun t => (t.ops.length, (t.role 1).flags.getD 1 9)) = some (1, 1) := by
  decide +kernel
-- R27: v60 is outside a frame of 64 registers; R44: an unwritten row reads as zero
theorem test_regfield : stopped1 (.iaddV 10 60 1 0) w = true := by decide +kernel
theorem test_unwritten_reads_zero : lane1 (.mov 10 30 0) 10 0 = 0 := by decide +kernel

/-! ## Witnesses: states and operands that meet the hypotheses of the statements

Each theorem is named after its statement and the clause whose hypotheses it shows. -/

/-- A result is there, or is not; with a check of it. -/
def isOk {α : Type} (x : Res α) (p : α → Bool := fun _ => true) : Bool :=
  match x with
  | .ok a => p a
  | .error _ => false
theorem ok_of {α : Type} {x : Res α} {p : α → Bool} (h : isOk x p = true) : ∃ a, x = .ok a ∧ p a = true := by
  cases x with
  | ok a => exact ⟨a, rfl, h⟩
  | error e => cases h
theorem has_ok {α : Type} {x : Res α} (h : isOk x = true) : ∃ a, x = .ok a := (ok_of h).imp fun _ => And.left
theorem has_error {α : Type} {x : Res α} (h : isOk x = false) : ∃ t, x = .error t := by
  cases x with
  | ok a => cases h
  | error e => exact ⟨e, rfl⟩
theorem is_unit {x : Res Unit} (h : isOk x = true) : x = .ok () := by
  cases x with
  | ok a => rfl
  | error e => cases h
theorem is_ok {α : Type} [DecidableEq α] {x : Res α} {a : α} (h : isOk x (fun b => decide (b = a)) = true) : x = .ok a := by
  obtain ⟨b, rfl, hb⟩ := ok_of h
  rw [of_decide_eq_true hb]

/-- What holds of role k in the state after an instruction. -/
def leavesRole (i : Instr) (s : State) (k : Nat) (p : Role → Bool) : Bool :=
  (gives i s fun t => (mget t.roles k).any p) == some true
theorem role_of {i : Instr} {s : State} {k : Nat} {p : Role → Bool} (h : leavesRole i s k p = true) :
    ∃ t r', exec i s = .next t ∧ mget t.roles k = some r' ∧ p r' = true := by
  unfold leavesRole gives at h
  cases e : exec i s with
  | next t =>
    rw [e] at h
    cases e2 : mget t.roles k with
    | some r' => exact ⟨t, r', rfl, e2, by simpa [e2] using h⟩
    | none => simp [e2] at h
  | _ => rw [e] at h; cases h

theorem wit_DecodeOfEncode : (Instr.callf 5 0x102 0).wf = true ∧ (Instr.callf 5 0x102 0).isEvent = false := by decide +kernel
theorem wit_EncodeOfDecode : decode [0x230207F8#32] = .ok (.iaddiV 1 1 127 0, 1) := rfl
theorem wit_RefusedWords : isLit 0x80000000#32 = true ∧ isHdr 0xFFFFFFFF#32 = true
    ∧ (isLit 0x77000000#32 = false ∧ isHdr 0x77000000#32 = false ∧ (fMajor 0x77000000#32).toNat ∈ [0x1F, 0x4B, 0x76, 0x77])
    ∧ (litCount 0x01000000#32 = some (0 + 1) ∧ ([] : List Word).length < 0 + 1)
    ∧ (0 + 1 ≤ [0#32].length ∧ ([0#32].take (0 + 1)).all isLit = false)
    ∧ isHdr 0x7FFFFFFF#32 = false := by decide +kernel

/-- The state with a NOP to run next, and the role that runs it. -/
def nopNext : State := State.reset.withFetchWord 32 0
theorem wit_StepRunsDecoded : nopNext.agenda = [] ∧ nopNext.lost = false ∧ nopNext.issuer = some 0
    ∧ (∃ r, mget nopNext.roles 0 = some r ∧ r.words.length = hdrLen r.hdrWord + 1 - r.off
      ∧ (r.plot.isNone = true → hyRefuses (r.words.headD 0) = false) ∧ decode r.words = .ok (.nop 0, 1)
      ∧ nopNext.waitsInPlace 0 (.nop 0) = false ∧ (∀ f, r.frames[0]? = some f → f.flawless = true)
      ∧ (∀ g, g < r.groups → r.frame.hiddenTag g ≠ poisonTag)) := by
  refine ⟨rfl, rfl, ?_, _, rfl, ?_, ?_, rfl, ?_, ?_, ?_⟩
  case refine_5 => intro f h; cases h; decide +kernel
  all_goals decide +kernel
/-- A role about to read OPFLAGS while matrix work of it goes on; and one whose p1 to p7 are lost, at a guarded NOP. -/
def flagsNext : State :=
  { State.reset.withFetchWord 32 0x18280058 with mats := [⟨50, 0, 0, 0, hyCore, .mtrn 0 1, [0], [[]], 0, true, 0⟩] }
theorem wit_StepRunsDecoded_waits : flagsNext.issuer = some 0 ∧ (∃ r, mget flagsNext.roles 0 = some r
    ∧ decode r.words = .ok (.rdsr 20 0x0B 0, 1)) ∧ flagsNext.waitsInPlace 0 (.rdsr 20 0x0B 0) = true :=
  ⟨by decide +kernel, ⟨_, rfl, rfl⟩, by decide +kernel⟩
def lostNext : State := (State.reset.withFetchWord 32 1).modRole 0 fun r =>
  { r with frames := [{ r.frame with hidden := [(0, poisonTag)] }] }
theorem wit_StepRunsDecoded_lost : lostNext.issuer = some 0 ∧ lostNext.waitsInPlace 0 (.nop 1) = false
    ∧ (∃ r, mget lostNext.roles 0 = some r ∧ decode r.words = .ok (.nop 1, 1)
      ∧ (lostNext.issueTo 0 (.nop 1) r.words).2.isSome = true) := by
  refine ⟨?_, ?_, _, rfl, rfl, ?_⟩ <;> decide +kernel
theorem wit_StepRunsDecoded_user : ∃ r, mget (State.reset.withFetchWord 32 0x5E000070).roles 1 = some r
    ∧ (State.reset.withFetchWord 32 0x5E000070).issuer = some 1 ∧ r.plot.isNone = false
    ∧ r.words.length = hdrLen r.hdrWord + 1 - r.off ∧ decode r.words = .ok (.barc 0, 1) :=
  ⟨_, rfl, by decide +kernel, rfl, by decide +kernel, rfl⟩

def illNext : State := State.reset.withFetchWord 32 0x1F000000
theorem wit_StepTakesEventsAndDecodeFaults_agenda :
    { State.reset with agenda := [.thermalThrottle] }.agenda = .thermalThrottle :: [] := rfl
theorem wit_StepTakesEventsAndDecodeFaults_lost :
    { State.reset with lost := true }.agenda = [] ∧ { State.reset with lost := true }.lost = true := ⟨rfl, rfl⟩
theorem wit_StepTakesEventsAndDecodeFaults_fault : illNext.agenda = [] ∧ illNext.lost = false ∧ illNext.issuer = some 0
    ∧ ∃ r, mget illNext.roles 0 = some r ∧ r.words.length = hdrLen r.hdrWord + 1 - r.off ∧ r.words ≠ []
      ∧ (r.plot.isNone && hyRefuses (r.words.headD 0)) = false ∧ decode r.words = .error causeIllop :=
  ⟨rfl, rfl, by decide +kernel, _, rfl, by decide +kernel, by decide +kernel, by decide +kernel, rfl⟩
theorem wit_ResetState : State.reset.memOk = true := by decide +kernel
theorem wit_StepKeepsMemoryForm : nopNext.memOk = true ∧ ∃ t, step nopNext = .next t := ⟨by decide +kernel, _, rfl⟩

theorem wit_RegisterNames : 16 ≤ aFrame.v ∧ ((55 : VReg).toNat ≤ 119 ∧ aFrame.w + (55 : VReg).toNat < aFrame.v - 8)
    ∧ 120 ≤ (120 : VReg).toNat ∧ ((56 : VReg).toNat ≤ 119 ∧ aFrame.v - 8 ≤ aFrame.w + (56 : VReg).toNat) := by decide +kernel
theorem wit_RegisterReadsAndWrites : aRole.readReg 1 1 = .ok [lanesOf fun n => n]
    ∧ (∃ t, ({ aRole with tagTrap := true } : Role).readReg 40 1 = .error t) ∧ ([0] : List Lanes).length = aRole.groups
    ∧ aRole.checkReg 1 3 = .ok () ∧ aFrame.gen ≠ poisonTag ∧ aFrame.readS false 1 = .ok 40
    ∧ aFrame.checkS 60 [0, 0].length = .ok () :=
  ⟨is_ok (by decide +kernel), has_error (by decide +kernel), by decide +kernel, is_unit (by decide +kernel),
    by decide +kernel, is_ok (by decide +kernel), is_unit (by decide +kernel)⟩
/-- A role whose v40 is poisoned: a partial write of it is refused. -/
def poisoned : Role := { aRole with frames := [{ aFrame with rows := aFrame.rows ++ [(rowKey 40 0, ⟨poisonTag, 0, false⟩)] }] }
theorem wit_RegisterReadsAndWrites_poison : (∃ t, poisoned.checkReg 40 1 = .error t) ∧ ∃ t, poisoned.readReg 40 1 = .error t :=
  ⟨has_error (by decide +kernel), has_error (by decide +kernel)⟩
theorem wit_PredicateRegisters_write : (1 : PReg) ≠ 0 ∧ (1 : PReg).toNat < aFrame.preds.length := by decide +kernel
theorem wit_PredicateRegisters_call : mget w.roles w.cur = some aRole ∧ ∃ t r', exec (.callf 1023 0x102 0) w = .next t
    ∧ mget t.roles w.cur = some r' ∧ decide (aRole.frames.length < r'.frames.length) = true :=
  ⟨rfl, role_of (by decide +kernel)⟩

/-- A role in a callee of aFrame, about to return to 0x2000. -/
def callee : Role :=
  { aRole with
    frames := [{ Frame.root 16 64 6 with link := ⟨0x2000, 5, 0, 0, false, 2⟩ }, { aFrame with ownsIn := false }] }
theorem wit_PredicateRegisters_return : mget (wr callee).roles (wr callee).cur = some callee ∧ ∃ t r',
    exec (.retf 0) (wr callee) = .next t ∧ mget t.roles (wr callee).cur = some r'
    ∧ decide (r'.frames.length < callee.frames.length
      ∧ (callee.frames[callee.frames.length - r'.frames.length]?).isSome = true) = true :=
  ⟨rfl, role_of (by decide +kernel)⟩

/-- The same with its caller spilled at private word 0, in a page that is mapped. -/
def spilledCaller : Role :=
  { callee with privBase := 0x8000, frames := callee.frames.take 1 ++ [{ aFrame with spilled := some 0, ownsIn := false }] }
theorem wit_PredicateRegisters_refill : (spilledCaller.frames[1]?).map (·.spilled) = some (some 0) ∧ ∃ t r',
    exec (.retf 0) (wr spilledCaller) = .next t ∧ mget t.roles (wr spilledCaller).cur = some r'
    ∧ decide (r'.frames.length = 1 ∧ r'.frame.spilled = none ∧ r'.groups ≤ 32) = true :=
  ⟨rfl, role_of (by decide +kernel)⟩

/-! ### Vector, scalar and predicate results -/

/-- What a form of the vector shape finds in a role: names, operands, destination. -/
def vecFinds (f : Says.VecForm) (r : Role) : Bool :=
  isOk (r.frame.vnames (f.d :: f.srcs)) fun xs =>
    isOk (Says.scalars r f.scal)
    && isOk ((r.settleFor xs).readRegs ((r.settleFor xs).part f.g) xs.tail)
    && isOk ((r.settleFor xs).checkReg (xs.headD 0) ((r.settleFor xs).part f.g))
theorem vec_of {f : Says.VecForm} {r : Role} (h : vecFinds f r = true) : ∃ xs vs rows,
    r.frame.vnames (f.d :: f.srcs) = .ok xs ∧ Says.scalars r f.scal = .ok vs
    ∧ (r.settleFor xs).readRegs ((r.settleFor xs).part f.g) xs.tail = .ok rows
    ∧ (r.settleFor xs).checkReg (xs.headD 0) ((r.settleFor xs).part f.g) = .ok () := by
  obtain ⟨xs, e, h⟩ := ok_of h
  simp only [Bool.and_eq_true] at h
  obtain ⟨vs, e1⟩ := has_ok h.1.1
  obtain ⟨rows, e2⟩ := has_ok h.1.2
  exact ⟨xs, vs, rows, e, e1, e2, is_unit h.2⟩

theorem wit_IntegerResults_vector : ∃ f, Says.vectorInteger (.iaddV 10 1 3 0) = some f ∧ (Instr.iaddV 10 1 3 0).wf = true
    ∧ mget w.roles w.cur = some aRole ∧ vecFinds f aRole = true ∧ aRole.fpTrapEn = 0 :=
  ⟨_, rfl, rfl, rfl, by decide +kernel, rfl⟩
theorem wit_IntegerResults_scalar : ∃ f, Says.scalarInteger (.idivS true 20 1 2 0) = some f
    ∧ (Instr.idivS true 20 1 2 0).wf = true ∧ mget w.roles w.cur = some aRole ∧ aRole.frame.gen ≠ poisonTag
    ∧ f.d.toNat < aRole.frame.sc ∧ Says.scalars aRole f.srcs = .ok [40, 2]
    ∧ aRole.frame.checkS f.d.toNat 1 = .ok () ∧ aRole.part f.g ≠ 0 :=
  ⟨_, rfl, rfl, rfl, by decide +kernel, by decide +kernel, is_ok (by decide +kernel), is_unit (by decide +kernel),
    by decide +kernel⟩
theorem wit_IntegerResults_predicate : ∃ f, Says.comparing (.icmpV 4 1 2 9 0) = some f ∧ (Instr.icmpV 4 1 2 9 0).wf = true
    ∧ mget w.roles w.cur = some aRole ∧ f.scal = [] ∧ aRole.frame.vnames f.srcs = .ok [1, 2]
    ∧ isOk ((aRole.settleFor [1, 2]).readRegs ((aRole.settleFor [1, 2]).part f.g) [1, 2]) = true ∧ aRole.groups ≤ 32
    ∧ (aRole.settleFor [1, 2]).frame.preds.length = 8 ∧ (aRole.settleFor [1, 2]).fpTrapEn = 0 :=
  ⟨_, rfl, rfl, rfl, rfl, is_ok (by decide +kernel), by decide +kernel, by decide +kernel, by decide +kernel,
    by decide +kernel⟩
theorem wit_AcrossLaneResults : (∃ f, Says.acrossLanes (.shfl 10 1 2 0) = some f ∧ vecFinds f aRole = true)
    ∧ (∃ f, Says.groupReduction (.gredFadd 10 5 0) = some f ∧ vecFinds f aRole = true) ∧ aRole.frame.gen ≠ poisonTag
    ∧ aRole.frame.vname 1 = .ok 1
    ∧ (20 : SReg).toNat < aRole.frame.sc ∧ aRole.part 0 ≠ 0 ∧ (aRole.settleFor [1]).frame.checkS 20 1 = .ok ()
    ∧ (31 : BitVec 10).toNat / 32 < aRole.groups
    ∧ ((mget (aRole.settleFor [1]).frame.rows (rowKey 1 ((31 : BitVec 10).toNat / 32))).map fun row => row.tag)
      = some (aRole.settleFor [1]).frame.gen
    ∧ ¬((32 : BitVec 10).toNat / 32 < aRole.groups) :=
  ⟨⟨_, rfl, by decide +kernel⟩, ⟨_, rfl, by decide +kernel⟩, by decide +kernel, is_ok (by decide +kernel), by decide +kernel,
    by decide +kernel, is_unit (by decide +kernel), by decide +kernel, by decide +kernel, by decide +kernel⟩

/-- A role that traps on every floating-point condition. -/
def trapping : Role := { aRole with fpTrapEn := 31 }
theorem wit_DirectFloatResults : (∃ f, Says.directFloat (.fexp2 3 10 6 0) = some f ∧ vecFinds f aRole = true)
    ∧ (∃ f, Says.onlineFloat (.fadd 10 5 6 0) = some f ∧ vecFinds f trapping = true) ∧ trapping.fpTrapEn ≠ 0
    ∧ (Fmt.f32.add 0 (Fmt.f32.decode 0x3F800000) (Fmt.f32.decode 0x40400000)).2 &&& trapping.fpTrapEn = 0 :=
  ⟨⟨_, rfl, by decide +kernel⟩, ⟨_, rfl, by decide +kernel⟩, by decide +kernel, by decide +kernel⟩
theorem wit_OperandAndConditionTraps_names : ∃ f, Says.atOnce (.iaddV 56 1 3 0) = some f ∧ f.scal = []
    ∧ mget w.roles w.cur = some aRole ∧ isOk (aRole.frame.vnames (f.d :: f.srcs)) = false :=
  ⟨_, rfl, rfl, rfl, by decide +kernel⟩
theorem wit_OperandAndConditionTraps_operand : ∃ f, Says.atOnce (.mov 10 40 0) = some f ∧ f.scal = []
    ∧ mget (wr poisoned).roles 1 = some poisoned ∧ poisoned.frame.vnames (f.d :: f.srcs) = .ok [10, 40]
    ∧ isOk ((poisoned.settleFor [10, 40]).readRegs ((poisoned.settleFor [10, 40]).part f.g) [40]) = false :=
  ⟨_, rfl, rfl, rfl, is_ok (by decide +kernel), by decide +kernel⟩
theorem wit_OperandAndConditionTraps_destination : ∃ f, Says.atOnce (.mov 40 1 1) = some f ∧ f.scal = []
    ∧ mget (wr poisoned).roles 1 = some poisoned ∧ poisoned.frame.vnames (f.d :: f.srcs) = .ok [40, 1]
    ∧ isOk ((poisoned.settleFor [40, 1]).readRegs ((poisoned.settleFor [40, 1]).part f.g) [1]) = true
    ∧ isOk ((poisoned.settleFor [40, 1]).checkReg 40 ((poisoned.settleFor [40, 1]).part f.g)) = false :=
  ⟨_, rfl, rfl, rfl, is_ok (by decide +kernel), by decide +kernel, by decide +kernel⟩
-- one third is inexact
theorem wit_OperandAndConditionTraps_condition : ∃ f, Says.onlineFloat (.fdiv 10 5 6 0) = some f
    ∧ mget (wr trapping).roles 1 = some trapping ∧ vecFinds f trapping = true ∧ (trapping.part 0).getLsbD 31 = true
    ∧ (Fmt.f32.div 0 (Fmt.f32.decode 0x3F800000) (Fmt.f32.decode 0x40400000)).2 &&& trapping.fpTrapEn ≠ 0 :=
  ⟨_, rfl, rfl, by decide +kernel, by decide +kernel, by decide +kernel⟩
theorem wit_OnlineOpens : ∃ f, Says.onlineFloat (.fadd 10 5 6 0) = some f ∧ (Instr.fadd 10 5 6 0).wf = true
    ∧ mget w.roles w.cur = some aRole ∧ aRole.fpTrapEn = 0 ∧ aRole.frame.vnames (f.d :: f.srcs) = .ok [10, 5, 6]
    ∧ aRole.part f.g ≠ 0 ∧ isOk (aRole.settle.readRegs (aRole.part f.g) [5, 6]) = true
    ∧ aRole.settle.checkReg 10 (aRole.part f.g) = .ok () ∧ aRole.stages = [] :=
  ⟨_, rfl, rfl, rfl, rfl, is_ok (by decide +kernel), by decide +kernel, by decide +kernel, is_unit (by decide +kernel), rfl⟩
theorem wit_FurrowKeepsProgramOrder : ∃ t r', exec (.fadd 10 5 6 0) w = .next t ∧ mget t.roles w.cur = some r'
    ∧ decide (r'.stages.length = 1) = true := role_of (by decide +kernel)
/-- The role with one open instruction. -/
def openRole : Role := (gives (.fadd 10 5 6 0) w fun t => t.role 1).getD aRole
theorem wit_OldestStageLands : mget (wr openRole).roles 1 = some openRole ∧ openRole.stages.length = 1
    ∧ isOk (openRole.checkReg (openRole.stages.head?.map (·.dest) |>.getD 0) 1) = true ∧ openRole.status = .running :=
  ⟨rfl, by decide +kernel, by decide +kernel, by decide +kernel⟩
theorem wit_SumsAndProductsRoundOnce : Says.units (0x3F800000 : BitVec 32).toNat = some (2 ^ 149)
    ∧ Says.units (0x00000001 : BitVec 32).toNat = some 1 ∧ Says.units (0x80000001 : BitVec 32).toNat = some (-1) := by
  decide +kernel

/-! ### Transfers, calls, divergence, ends and traps -/

def fetched (s : State) (r : Role) (a : Nat) : Option Word :=
  match (s.fetch r a).1 with
  | .word x => some x
  | _ => none
theorem fetch_of {s : State} {r : Role} {a : Nat} {p : Word → Bool} (h : (fetched s r a).any p = true) :
    ∃ x, (s.fetch r a).1 = .word x ∧ p x = true := by
  unfold fetched at h
  cases e : (s.fetch r a).1 with
  | word x => exact ⟨x, rfl, by simpa [e] using h⟩
  | _ => simp [e] at h
theorem good_of {s : State} {r : Role} {a : Nat} (h : a % 4 = 0)
    (h2 : (fetched s r a).any (fun x => decide (headerFault x = none)) = true) : Says.goodTarget s r a := by
  obtain ⟨x, e, hx⟩ := fetch_of h2
  exact ⟨h, x, e, of_decide_eq_true hx⟩

theorem wit_Branches_taken : ∃ t taken, Says.branching (.bra 1023 0) = some (t, taken) ∧ mget w.roles w.cur = some aRole
    ∧ taken aRole = true ∧ Says.goodTarget w aRole (Says.targetAt aRole t).toNat :=
  ⟨_, _, rfl, rfl, by decide +kernel, good_of (by decide +kernel) (by decide +kernel)⟩
theorem wit_Branches_not_taken : ∃ t taken, Says.branching (.brcNone 1023 0) = some (t, taken) ∧ taken aRole = false :=
  ⟨_, _, rfl, by decide +kernel⟩
theorem wit_Branches_not_header : Says.badTarget w aRole 0x2004 causeNothdr := by
  have h : (fetched w aRole 0x2004).any (fun x => decide (headerFault x = some causeNothdr)) = true := by decide +kernel
  obtain ⟨x, e, hx⟩ := fetch_of h
  unfold Says.badTarget
  rw [if_neg (by decide)]
  exact .inr ⟨x, e, of_decide_eq_true hx⟩
theorem wit_Branches_misaligned : Says.badTarget w aRole 0x2002 causeAlign := rfl
theorem wit_Branches_register : aRole.part 0 ≠ 0 ∧ aRole.part 3 = 0 ∧ aRole.frame.readS aRole.tagTrap 4 = .ok 0x3000
    ∧ (4 : SReg).toNat < aRole.frame.sc := ⟨by decide +kernel, by decide +kernel, is_ok (by decide +kernel), by decide⟩

theorem wit_Calls : ∃ dem g at' a, Says.calling (.callf 1023 0x102 0) = some (dem, g, at') ∧ Says.callReady w aRole g
    ∧ at' aRole = some a ∧ (16, 8) = Says.demandOf dem ∧ aRole.settle.frame.sc = 64 ∧ aRole.settle.frames.length < 62
    ∧ aRole.settle.budget = none ∧ Says.goodTarget w aRole a.toNat ∧ (w.core aRole.core).frameReqs = []
    ∧ (w.core aRole.core).fits aRole.core (callNeed aRole.groups 16 8) = true
    ∧ ((w.core aRole.core).nextGen.map (·.1)) = some 6 :=
  ⟨_, _, _, _, rfl, ⟨rfl, by decide +kernel, by decide +kernel⟩, rfl, by decide +kernel, by decide +kernel, by decide +kernel,
    by decide +kernel, good_of (by decide +kernel) (by decide +kernel), rfl, by decide +kernel, by decide +kernel⟩
/-- A core without free rows, and a role at the depth limit. -/
def fullCore : State := w.setCore 0 { aCore with rowsUsed := [2048, 0, 0, 0] }
def deepRole : Role := { aRole with frames := List.replicate 62 aFrame }
theorem wit_Calls_no_rows : (fullCore.core aRole.core).fits aRole.core (callNeed aRole.groups 16 8) = false
    ∧ (fullCore.core aRole.core).frameReqs = [] ∧ Says.goodTarget fullCore aRole 0x2000 :=
  ⟨by decide +kernel, rfl, good_of (by decide +kernel) (by decide +kernel)⟩
theorem wit_Calls_limits : deepRole.settle.frame.sc = 64 ∧ 62 ≤ deepRole.settle.frames.length
    ∧ Says.callReady (wr deepRole) deepRole 0
    ∧ (({ aRole with budget := some 79 } : Role).settle.budget = some 79
      ∧ 79 < ({ aRole with budget := some 79 } : Role).settle.liveV + 16)
    ∧ ({ aRole with frames := [{ aFrame with sc := 32 }] } : Role).settle.frame.sc ≠ 64 :=
  ⟨by decide +kernel, by decide +kernel, ⟨rfl, by decide +kernel, by decide +kernel⟩, by decide +kernel, by decide +kernel⟩
theorem wit_ArgumentOverlap : (1 : Nat) ≤ 32 ∧ sortedFrom none aFrame.rows = true ∧ sortedFrom none callee.frame.rows = true
    ∧ sortedFrom none aFrame.grans = true ∧ sortedFrom none callee.frame.grans = true ∧ 16 ≤ aFrame.v
    ∧ aFrame.gen ≠ poisonTag ∧ aFrame.gen ≠ voidTag ∧ callee.frame.gen ≠ poisonTag ∧ callee.frame.gen ≠ voidTag
    ∧ mget aFrame.rows (rowKey (aFrame.v - 8 + 2) 0) = none ∧ mget callee.frame.rows (rowKey 2 0) = none := by
  decide +kernel
theorem wit_ReturnsAndWindows : Says.returning (.unwind 1 0) = some (1, 0) ∧ mget (wr callee).roles 1 = some callee
    ∧ callee.part 0 ≠ 0 ∧ (wr callee).flagAOut 1 = false ∧ (callee.frames[0]?).map (·.link.ret) = some 0x2000
    ∧ (callee.frames[1]?).map (·.spilled) = some none ∧ Says.goodTarget (wr callee) callee 0x2000
    ∧ callee.frame.hiddenTag linkUnit ≠ poisonTag
    ∧ ((wr callee).core callee.core).spill.map (·.gen) ≠ (callee.frames[1]?).map (·.gen) := by
  refine ⟨rfl, rfl, ?_, ?_, ?_, ?_, good_of ?_ ?_, ?_, ?_⟩ <;> decide +kernel
/-- The same with its link record lost. -/
def unlinked : Role := { callee with frames := { callee.frame with hidden := [(linkUnit, poisonTag)] } :: callee.frames.tail }
theorem wit_ReturnsAndWindows_lost : mget (wr unlinked).roles 1 = some unlinked ∧ unlinked.part 0 ≠ 0
    ∧ unlinked.frame.hiddenTag linkUnit = poisonTag ∧ Says.goodTarget (wr unlinked) unlinked 0x2000 := by
  refine ⟨rfl, ?_, ?_, good_of ?_ ?_⟩ <;> decide +kernel
theorem wit_ReturnsAndWindows_range : ((callee.frames.length : Int) - 1 < (2 : Imm7).toInt) ∧ (0x7F : Imm7).toInt < 1
    ∧ 16 ≤ aRole.frame.v ∧ ((aRole.frame.v : Int) - 16 < 8 * (7 : Imm7).toInt)
    ∧ 8 * (6 : Imm7).toInt ≤ (aRole.frame.v : Int) - 16 ∧ w.flagAOut w.cur = false := by decide +kernel
theorem wit_StructuredDivergence_fault : Says.divergence aRole .endif = some none := by decide +kernel
def diverges (r : Role) (i : Instr) (dest : Option Target) : Bool :=
  match Says.divergence r i with
  | some (some (_, _, x)) => decide (x = dest)
  | _ => false
theorem divergence_of {r : Role} {i : Instr} {dest : Option Target} (h : diverges r i dest = true) :
    ∃ m st, Says.divergence r i = some (some (m, st, dest)) := by
  unfold diverges at h
  split at h
  · rename_i m st x e
    exact ⟨m, st, by rw [e, of_decide_eq_true h]⟩
  · cases h
theorem wit_StructuredDivergence_on : ∃ m st, Says.divergence aRole .serb = some (some (m, st, none)) :=
  divergence_of (by decide +kernel)
theorem wit_StructuredDivergence_to : (∃ m st, Says.divergence aRole (.ifp 3 1023 0) = some (some (m, st, some 1023)))
    ∧ Says.goodTarget w aRole (Says.targetAt aRole 1023).toNat :=
  ⟨divergence_of (by decide +kernel), good_of (by decide +kernel) (by decide +kernel)⟩
theorem wit_NopYieldWaitfAndExit : aRole.part 0 ≠ 0 ∧ aRole.part 3 = 0 ∧ w.flagAOut w.cur = false
    ∧ (∀ f, f < 12 → (0xFFF : BitVec 12).getLsbD f = true → aRole.flags.getD f 0 = 0)
    ∧ (0 < 12 ∧ (1 : BitVec 12).getLsbD 0 = true ∧ ({ aRole with flags := [1] } : Role).flags.getD 0 0 ≠ 0) :=
  ⟨by decide +kernel, by decide +kernel, by decide +kernel, by decide +kernel, by decide +kernel⟩
/-- The state with a load outstanding. -/
def loading : State := (gives (.ld 10 4 1 0) w id).getD w
theorem wit_NopYieldWaitfAndExit_held : loading.flagAOut loading.cur = true ∧ (loading.role 1).part 0 ≠ 0 := by
  decide +kernel
/-- A role with a block at 0x8000. -/
def blocked : Role := { aRole with block := some 0x8000 }
theorem wit_SoftwareTrapsAndTakingATrap : mget (wr blocked).roles 1 = some blocked
    ∧ ({ cause := causeSvc, info := 9 } : Trap).deferred = false ∧ blocked.block = some 0x8000
    ∧ (blocked.plot.bind (mget (wr blocked).plots)).isSome = true ∧ (wr blocked).poison = [] ∧ (wr blocked).memOk = true :=
  ⟨rfl, rfl, rfl, by decide +kernel, rfl, by decide +kernel⟩

/-! ### System registers, caches, the crypto engines and the debug path -/

def privileged : Role := { aRole with priv := true }
theorem wit_SystemRegisters : mget (wr privileged).roles 1 = some privileged ∧ privileged.frame.gen ≠ poisonTag
    ∧ (20 : SReg).toNat < privileged.frame.sc ∧ (Instr.rdsr 20 0x17 0).wf = true ∧ (Instr.rdsr 20 0x0C 0).wf = true
    ∧ privileged.part 0 ≠ 0 ∧ privileged.frame.checkS 63 1 = .ok () ∧ (wr privileged).opPending 1 = false
    ∧ aRole.priv = false ∧ privileged.frame.readS privileged.tagTrap 1 = .ok 40 :=
  ⟨rfl, by decide +kernel, by decide +kernel, by decide +kernel, by decide +kernel, by decide +kernel,
    is_unit (by decide +kernel), by decide +kernel, rfl, is_ok (by decide +kernel)⟩
/-- The state with an unfinished matrix instruction of the role. -/
def matrixGoing : State :=
  { w with mats := [⟨50, 1, 1, 0, 0, .mtrn 0 1, [0], [[]], 0, true, 0⟩] }
theorem wit_SystemRegisters_pending : isOk (aRole.frame.readS aRole.tagTrap 1) = true
    ∧ matrixGoing.opPending matrixGoing.cur = true := by decide +kernel
theorem wit_CachesAndPrefetch : aRole.part 0 ≠ 0 ∧ aRole.frame.readS aRole.tagTrap 1 = .ok 40
    ∧ (40 : BitVec 64).toNat < 2 ^ 52 ∧ aRole.frame.bname 1 = .ok 4 ∧ aRole.frame.vname 4 = .ok 4 :=
  ⟨by decide +kernel, is_ok (by decide +kernel), by decide, is_ok (by decide +kernel), is_ok (by decide +kernel)⟩
theorem wit_CachesAndPrefetch_none : (1 : SReg).toNat < aRole.frame.sc ∧ aRole.part 3 = 0 ∧ ∀ l, l < 32 →
    (w.setRole w.cur (aRole.settleFor [4])).laneOut (aRole.settleFor [4])
      { acc := .rd, size := 1, via := .record (Rec.mk (0x3000 + 0x1000 * 2 ^ 64)) false, locks := false } l (4 * l)
        ≠ .walk 0x3000 false := by decide +kernel
/-- The pieces of memory that a span takes. -/
def piecesAt : SpanAt → Option (List (Place × Nat))
  | .at' ps => some ps
  | _ => none
theorem pieces_of {x : SpanAt} (h : (piecesAt x).isSome = true) : ∃ ps, x = .at' ps := by
  cases x with
  | at' ps => exact ⟨ps, rfl⟩
  | _ => cases h
/-- What stops a span. -/
def stopsSpan : SpanAt → Bool
  | .bad _ => true
  | _ => false
theorem stop_of {x : SpanAt} (h : stopsSpan x = true) : ∃ t, x = .bad t := by
  cases x with
  | bad t => exact ⟨t, rfl⟩
  | _ => cases h
theorem wit_HashAndSign_hash : aRole.frame.bname 1 = .ok 4 ∧ (56 : SReg).toNat + 3 < aRole.frame.sc ∧ aRole.part 0 ≠ 0
    ∧ aRole.part 3 = 0
    ∧ (∃ rc, aRole.readRec 4 = .ok rc ∧ rc.check aRole [0, 3] (selRec 1) = .ok ()
      ∧ decide (rc.format < 4 ∧ rc.extent ≤ 65536 ∧ rc.format ≠ 1 ∧ rc.format ≠ 2 ∧ rc.format ≠ 3) = true
      ∧ ∃ ps, w.spanAt aRole rc (selRec 1) rc.extent = .at' ps)
    ∧ aRole.frame.checkS 56 4 = .ok () := by
  refine ⟨is_ok ?_, ?_, ?_, ?_, ⟨_, rfl, is_unit ?_, ?_, pieces_of ?_⟩, is_unit ?_⟩ <;> decide +kernel
/-- A record of 64 bytes beyond the scratchpad. -/
theorem wit_HashAndSign_unreached : ∃ t, w.spanAt aRole (Rec.mk (0xFFFF00 + 64 * 2 ^ 64 + 3 * 2 ^ 158)) 1 64 = .bad t :=
  stop_of (by decide +kernel)
/-- Records that HASH refuses: format 4; format 1 with 0x1001 bytes. -/
theorem wit_HashAndSign_refused : 4 ≤ (Rec.mk (4 * 2 ^ 152)).format
    ∧ ((Rec.mk (0x1001 * 2 ^ 64 + 2 ^ 152)).format = 1 ∧ (Rec.mk (0x1001 * 2 ^ 64 + 2 ^ 152)).extent % 64 ≠ 0)
    ∧ (Rec.mk (0x1001 * 2 ^ 64 + 2 ^ 152)).check aRole [0, 3] 1 = .ok () :=
  ⟨by decide +kernel, by decide +kernel, is_unit (by decide +kernel)⟩
theorem wit_HashAndSign_sign : (∃ rc, aRole.readRec 8 = .ok rc ∧ rc.extent = 32 ∧ rc.check aRole [0, 3] (selRec 2) = .ok ()
      ∧ ∃ ps, w.spanAt aRole rc (selRec 2) 32 = .at' ps)
    ∧ aRole.plot.isSome = true ∧ isOk (aRole.frame.readSs aRole.tagTrap 40 4) = true ∧ aRole.frame.checkS 56 8 = .ok () := by
  refine ⟨⟨_, rfl, ?_, is_unit ?_, pieces_of ?_⟩, rfl, ?_, is_unit ?_⟩ <;> decide +kernel
/-- Hyaluo may sign with fused key 1. -/
theorem wit_HashAndSign_fused : Role.hyaluo.plot = none ∧ 1 < 8 ∧ ∃ key, State.reset.fusedKey 1 = some key :=
  ⟨rfl, by decide, _, rfl⟩
/-- The state with a request at each crypto engine. -/
def hashReq : CryptoReq := ⟨1, 56, false, 0, 0, [], none, [(.ram 0x3000, 64)], true, false, 2, 100⟩
def signReq : CryptoReq := ⟨1, 56, true, 0, 0, [1, 2, 3, 4], some 7, [], false, true, 2, 100⟩
def hashing : State :=
  wr { aRole with status := .held .hash } |>.setCore 0 { aCore with running := none, hashQ := [hashReq], signQ := [signReq] }
theorem wit_HashAndSign_complete : (hashing.core 0).hashQ = hashReq :: [] ∧ (hashing.core 0).signQ = signReq :: []
    ∧ hashing.released 1 0 100 6 = true ∧ (mget hashing.roles 1).isSome = true ∧ aRole.frame.gen ≠ poisonTag
    ∧ aRole.frame.checkS 56 8 = .ok () := by
  refine ⟨rfl, rfl, ?_, ?_, ?_, is_unit ?_⟩ <;> decide +kernel
theorem wit_HashAndSign_waits : ({ loading with cores := hashing.cores } : State).released 1 0 101 6 = false := by
  decide +kernel

/-- A privileged role and a stopped one, in team slots 0 and 1 of core 0. -/
def debugged : State :=
  { (wr privileged) with roles := [(0, Role.hyaluo), (1, privileged), (2, { aRole with slot := 1, status := .stopped })] }
  |>.setCore 0 { aCore with slots := [(0, 1), (1, 2)] }
theorem wit_DebugAndGenerations : Says.debugging (.drdv 20 1 0) = some (.vec, false, 20, 1, 0)
    ∧ mget debugged.roles 1 = some privileged ∧ (20 : SReg).toNat + 1 < privileged.frame.sc
    ∧ privileged.frame.checkS 20 2 = .ok () ∧ (mget debugged.worldMap (privileged.core / 4)).getD 0 = debugged.worldOf privileged
    ∧ (0x1001 : BitVec 64).toNat / 2 ^ 41 = 0 ∧ mget (debugged.core 0).slots ((0x1001 : BitVec 64).toNat % 64) = some 2
    ∧ (mget debugged.roles 2).map (·.status) = some .stopped
    ∧ Says.unitHolds debugged 0 { aRole with slot := 1, status := .stopped } .vec 0x1001 0x0000000100000000 5 := by
  refine ⟨rfl, rfl, ?_, is_unit ?_, ?_, ?_, ?_, ?_, ?_, ?_, ?_, ?_, ?_, ?_, ⟨5, lanesOf fun n => n, false⟩, ?_, ?_, rfl⟩ <;>
    decide +kernel
/-- A team with tile 1 and accumulator 2 of its first sub-partition written. -/
def tiledTeam : State :=
  { debugged with teams := [(0, Team.hyaluo), (1, { aTeam with tcfg := some ⟨0x1000304, 4, [(1, ⟨4, [(8, 9)], []⟩)], [(2, ⟨4, [(0, 6)], []⟩)], [], none⟩ })] }
theorem wit_DebugAndGenerations_tile : Says.unitHolds tiledTeam 0 aRole .tile 0x20001000 9 4 := by
  refine ⟨_, ⟨4, [(8, 9)], []⟩, rfl, ?_, ?_, ?_, rfl, ?_, ?_, rfl⟩ <;> decide +kernel
theorem wit_DebugAndGenerations_accumulator : Says.unitHolds tiledTeam 0 aRole .acc 0x2000 6 4 := by
  refine ⟨_, ⟨4, [(0, 6)], []⟩, rfl, ?_, ?_, rfl, ?_, ?_, rfl⟩ <;> decide +kernel
theorem wit_DebugAndGenerations_status : Says.debugStatus debugged privileged 0x20000000000 badSel
    ∧ Says.debugStatus debugged privileged 0x1000 notStopped :=
  ⟨rfl, by unfold Says.debugStatus; rw [if_neg (by decide), if_neg (by decide +kernel)]; exact ⟨by decide +kernel, rfl⟩⟩


/-! ### Thread accesses, locks, fences, word waits, handoff registers and barriers -/

/-- A result's value, or another one. -/
def okD {α : Type} (x : Res α) (d : α) : α :=
  match x with
  | .ok a => a
  | .error _ => d
theorem okD_of {α : Type} {x : Res α} {d : α} (h : isOk x = true) : x = .ok (okD x d) := by
  cases x with
  | ok a => rfl
  | error e => cases h

/-- What a thread access finds in a role, and a check of that. -/
def accessFinds (f : Says.AccessForm) (s : State) (r : Role) (p : State → Role → Rec → List (List Lanes) → Bool) : Bool :=
  isOk (r.frame.vnames f.dests) fun ds => isOk (r.frame.vnames f.srcs) fun xs =>
    decide ((r.settleFor (ds ++ xs)).part f.g ≠ 0)
    && isOk ((r.settleFor (ds ++ xs)).readRegs ((r.settleFor (ds ++ xs)).part f.g) xs) (fun rows =>
      isOk ((r.settleFor (ds ++ xs)).checkRegs ((r.settleFor (ds ++ xs)).part f.g) ds)
      && match f.buf with
        | none => p (s.setRole s.cur (r.settleFor (ds ++ xs))) (r.settleFor (ds ++ xs)) ⟨0⟩ rows
        | some b => isOk (r.frame.bname b) fun base => isOk ((r.settleFor (ds ++ xs)).readRec base) fun rc =>
          isOk (rc.check (r.settleFor (ds ++ xs)) [0, 1, 2, 3] (selRec b))
            && p (s.setRole s.cur (r.settleFor (ds ++ xs))) (r.settleFor (ds ++ xs)) rc rows)
theorem access_of {f : Says.AccessForm} {s : State} {r : Role} {p : State → Role → Rec → List (List Lanes) → Bool}
    (hr : mget s.roles s.cur = some r) (hv : ∀ x, f.via x ≠ .putp) (h : accessFinds f s r p = true) :
    ∃ r1 base ds xs rc rows, Says.accessReady f s r r1 base ds xs rc rows ∧ p (s.setRole s.cur r1) r1 rc rows = true := by
  obtain ⟨ds, e1, h⟩ := ok_of h
  obtain ⟨xs, e2, h⟩ := ok_of h
  simp only [Bool.and_eq_true, decide_eq_true_eq] at h
  obtain ⟨hp, h⟩ := h
  obtain ⟨rows, e3, h⟩ := ok_of h
  simp only [Bool.and_eq_true] at h
  obtain ⟨hd, h⟩ := h
  cases e : f.buf with
  | none =>
    rw [e] at h
    exact ⟨_, 0, ds, xs, ⟨0⟩, rows, ⟨hr, by simp [e], e1, e2, rfl, hp, by simp [e], by simp, e3, is_unit hd,
      by simp [e], fun x => absurd x (hv _)⟩, h⟩
  | some b =>
    rw [e] at h
    obtain ⟨base, e4, h⟩ := ok_of h
    obtain ⟨rc, e5, h⟩ := ok_of h
    simp only [Bool.and_eq_true] at h
    exact ⟨_, base, ds, xs, rc, rows, ⟨hr, by simp [e, e4], e1, e2, rfl, hp, by simp [e5], by simp [e], e3, is_unit hd,
      by simp [e, is_unit h.1], fun x => absurd x (hv _)⟩, h.2⟩

/-- Whether every lane of an access is good, in a record of another kind than 1 and outside the scratchpad; or some lane
is bad. -/
def lanesFound (f : Says.AccessForm) (s1 : State) (r1 : Role) (rc : Rec) (rows : List (List Lanes)) : Checked :=
  checkLanes (fun l => s1.laneOut r1 (Says.laneAccess f rc) l (laneOfRows (rows.getD 0 []) l).toNat) f.size
    (laneList (r1.part f.g)) false
def allGood (f : Says.AccessForm) (s1 : State) (r1 : Role) (rc : Rec) (rows : List (List Lanes)) : Bool :=
  match lanesFound f s1 r1 rc rows with
  | .ok lanes => rc.kind != 1 && lanes.all fun p => p.2.all fun q => !isScratch q.place
  | _ => false
def someBad (f : Says.AccessForm) (s1 : State) (r1 : Role) (rc : Rec) (rows : List (List Lanes)) : Bool :=
  match lanesFound f s1 r1 rc rows with
  | .bad _ => true
  | _ => false
def access (i : Instr) : Says.AccessForm := (Says.accessing i).getD ⟨0, [], [], none, fun _ => .priv, .rd, 0, .lookup, 0, 2, 0⟩

theorem wit_ThreadAccessesIssue_load : ∃ r1 base ds xs rc rows,
    Says.accessReady (access (.ld 10 4 1 0)) w aRole r1 base ds xs rc rows
    ∧ allGood (access (.ld 10 4 1 0)) (w.setRole w.cur r1) r1 rc rows = true :=
  access_of rfl (fun _ h => by cases h) (by decide +kernel)
theorem wit_ThreadAccessesIssue_cas : ∃ r1 base ds xs rc rows,
    Says.accessReady (access (.cas 10 4 1 20 24 2 1)) w aRole r1 base ds xs rc rows
    ∧ allGood (access (.cas 10 4 1 20 24 2 1)) (w.setRole w.cur r1) r1 rc rows = true :=
  access_of rfl (fun _ h => by cases h) (by decide +kernel)
theorem wit_ThreadAccessesIssue_bad : ∃ r1 base ds xs rc rows,
    Says.accessReady (access (.st 1 3 1 0)) w aRole r1 base ds xs rc rows
    ∧ someBad (access (.st 1 3 1 0)) (w.setRole w.cur r1) r1 rc rows = true :=
  access_of rfl (fun _ h => by cases h) (by decide +kernel)
/-- A team with tag slots and handoff registers, and scratchpad granule 0 written. -/
def aTeam2 : Team := { aTeam with tagSlots := 8, handoffHeld := true }
def scr (r : Role) (tm : Team) (m : Mem := []) : State :=
  { (wr r) with teams := [(0, Team.hyaluo), (1, tm)] }.setCore 0 { aCore with scratchTags := [(0, 4)], scratch := m }
def atSeven (f : Says.AccessForm) (s1 : State) (r1 : Role) (rc : Rec) (rows : List (List Lanes)) : Bool :=
  lanesFound f s1 r1 rc rows == .ok ((List.range 32).map fun n => (n, [⟨0, 1, .scratch 7⟩]))
theorem wit_ThreadAccessesIssue_scratch : ∃ r1 base ds xs rc rows,
    Says.accessReady (access (.lds 10 2 0 2)) (scr aRole aTeam2) aRole r1 base ds xs rc rows
    ∧ atSeven (access (.lds 10 2 0 2)) ((scr aRole aTeam2).setRole (scr aRole aTeam2).cur r1) r1 rc rows = true :=
  access_of rfl (fun _ h => by cases h) (by decide +kernel)
theorem wit_ThreadAccessesIssue_putp : (w.team aRole.team).set = none ∧ aRole.part 0 ≠ 0 ∧ (Instr.putp 10 4 4 0).wf = true
    ∧ aRole.frame.vnames (4 :: Says.span 10 ((Says.bytesOf 4 + 3) / 4)) = .ok [4, 10]
    ∧ isOk ((aRole.settleFor [4, 10]).readRegs (aRole.part 0) [4, 10]) = true := by
  refine ⟨rfl, ?_, ?_, is_ok ?_, ?_⟩ <;> decide +kernel
theorem wit_ThreadAccessesIssue_tags : aRole.frame.vnames [2, 1] = .ok [2, 1] ∧ isOk (aRole.readReg 2 (aRole.part 0)) = true
    ∧ isOk (aRole.readReg 1 (aRole.part 1)) = true
    ∧ (∀ l ∈ laneList (aRole.part 1), (laneOfRows [lanesOf fun n => n] l).toNat < ((scr aRole aTeam2).team 1).tagSlots)
    ∧ ((laneList (aRole.part 0)).find? fun l =>
        decide (((scr aRole aTeam2).team 1).tagSlots ≤ (laneOfRows [lanesOf fun n => n] l).toNat)) = some 8 :=
  ⟨is_ok (by decide +kernel), by decide +kernel, by decide +kernel, by decide +kernel, by decide +kernel⟩

/-- The state after an instruction with its run over, and its one outstanding operation. -/
def issued (i : Instr) : State := (gives i w fun t => t.modRole 1 fun r => { r with status := .ready }).getD w
def opOf (s : State) : MemOp := s.ops.headD (MemOp.plain .lookup)
/-- The state, its one operation and that one's role as the statements about ends of operations take them. -/
def endable (s : State) : Bool :=
  decide (s.ops.find? (fun p => p.id == (opOf s).id) = some (opOf s)) && s.mayPerform (opOf s)
    && (mget s.roles (opOf s).role).isSome && s.poison.isEmpty && s.memOk
theorem wit_LoadsReturnAndStoresRetire_load : endable (issued (.ld 10 4 1 0)) = true ∧ (opOf (issued (.ld 10 4 1 0))).kind = .load false 4
    ∧ (opOf (issued (.ld 10 4 1 0))).kind.isA = true ∧ (issued (.ld 10 4 1 0)).runOver (opOf (issued (.ld 10 4 1 0))) = true
    ∧ (opOf (issued (.ld 10 4 1 0))).dests = [10] ∧ (opOf (issued (.ld 10 4 1 0))).won = []
    ∧ ((opOf (issued (.ld 10 4 1 0))).lanes.map OpLane.lane) = List.range 32
    ∧ (opOf (issued (.ld 10 4 1 0))).lanes.all (fun l => l.off == 0 && l.len == 4
        && l.place == .ram (0x3000 + 4 * (4 * l.lane))) = true := by decide +kernel
/-- R206, R294: a REP load reads memory and leaves a replica of each of its four lines, which the next one may read. -/
theorem test_rep_load : (opOf (issued (.ldLong 10 4 1 4 0x10 0))).rep = true ∧ (opOf (issued (.ld 10 4 1 0))).rep = false
    ∧ (match exec (.loadReturn (opOf (issued (.ldLong 10 4 1 4 0x10 0))).id []) (issued (.ldLong 10 4 1 4 0x10 0)) with
      | .next t => some (t.replicas.map fun x => (x.plot, x.line), (t.role 1).frame.value 10 0)
      | _ => none) = some ([(0, 0x60), (0, 0x61), (0, 0x62), (0, 0x63)], 0x11223344) := by decide +kernel
theorem wit_LoadsReturnAndStoresRetire_running : loading.runOver (opOf loading) = false ∧ (opOf loading).kind.isA = true
    ∧ (mget loading.roles (opOf loading).role).isSome = true := by decide +kernel
/-- One lane only: the predicate of lane 0. -/
def oneLane : Role := { aRole with mask := 1 }
def atomGoing (i : Instr) : State :=
  (gives i (wr oneLane) fun t => t.modRole 1 fun r => { r with status := .ready }).getD w
theorem wit_LoadsReturnAndStoresRetire_atomic : endable (atomGoing (.atom 10 4 1 2 0 false 0)) = true
    ∧ (opOf (atomGoing (.atom 10 4 1 2 0 false 0))).kind = .atomic 0 4 true
    ∧ (opOf (atomGoing (.atom 10 4 1 2 0 false 0))).dests = (List.range 1).map (10 + ·)
    ∧ (opOf (atomGoing (.atom 10 4 1 2 0 false 0))).lanes = [⟨0, 0, 4, .ram 0x3000, (opOf (atomGoing (.atom 10 4 1 2 0 false 0))).lanes.headD ⟨0, 0, 0, .dropped, 0, 0, 0⟩ |>.gen, 7, 0⟩]
    ∧ Says.atomResult 0 (BitVec.ofNat 32 (rdLE (atomGoing (.atom 10 4 1 2 0 false 0)).ram 0x3000 4)) 7 = some 0x1122334B := by
  decide +kernel
theorem wit_LoadsReturnAndStoresRetire_cas : endable (atomGoing (.cas 20 4 1 24 28 2 0)) = true
    ∧ (opOf (atomGoing (.cas 20 4 1 24 28 2 0))).kind = .cas 16
    ∧ (opOf (atomGoing (.cas 20 4 1 24 28 2 0))).lanes.map (fun l => (l.place, l.len)) = [(.ram 0x3000, 16)] := by
  decide +kernel
theorem wit_LoadsReturnAndStoresRetire_counter : endable (issued (.ctrrd 20 2 0)) = true ∧ (opOf (issued (.ctrrd 20 2 0))).kind = .ctrrd 2
    ∧ (opOf (issued (.ctrrd 20 2 0))).sdest = some 20
    ∧ (aRole.frame.checkS 20 1 = .ok ()) := ⟨by decide +kernel, by decide +kernel, by decide +kernel, is_unit (by decide +kernel)⟩
/-- A store that has reached the egress queue. -/
def egressed : State :=
  match exec (.storeRetire (opOf (issued (.st 2 4 1 0))).id) (issued (.st 2 4 1 0)) with
  | .next t => t
  | _ => w
theorem wit_LoadsReturnAndStoresRetire_store : endable (issued (.st 2 4 1 0)) = true ∧ (opOf (issued (.st 2 4 1 0))).kind = .store 4
    ∧ (opOf (issued (.st 2 4 1 0))).level = .core ∧ endable egressed = true ∧ (opOf egressed).level = .egress
    ∧ (opOf egressed).lanes.all (fun l => l.place == .ram (0x3000 + 4 * (4 * l.lane))) = true
    ∧ (opOf egressed).lanes ≠ [] := by decide +kernel
theorem test_store_retire : (match exec (.storeRetire (opOf egressed).id) egressed with
    | .next t => some (rdLE t.ram 0x3010 4, t.ops.length)
    | _ => none) = some (7, 0) := by decide +kernel

/-- What a uniform access finds, and a check of it. -/
def uniFinds (s : State) (r : Role) (d : List VReg) (a : VReg) (b : BufSel) (g : PReg) (acc : Acc) (size : Nat) (locks : Bool)
    (p : State → Role → List Nat → OpLane → Nat → Bool) : Bool :=
  isOk (r.frame.bname b) fun base => isOk (r.frame.vnames d) fun ds => isOk (r.frame.vname a) fun x =>
    let r1 := r.settleFor (x :: ds)
    match lowestLane (r1.part g) with
    | none => false
    | some l => isOk (r1.readRec base) fun rc => isOk (r1.readReg x (1#1024 <<< l)) fun rows =>
      isOk (r1.checkRegs (r1.part g) ds) && decide (rc.kind ≠ 1) && isOk (rc.check r1 [0, 3] (selRec b))
      && match (s.setRole s.cur r1).laneOut r1
          { acc := acc, size := size, via := .record rc true, locks := locks, xch := true, info := selRec b } l (laneOfRows rows l).toNat with
        | .go [q] => !isScratch q.place && p (s.setRole s.cur r1) r1 ds
            ⟨l, q.off, q.len, q.place, (s.setRole s.cur r1).placeGen r1 q.place, 0, 0⟩
            (min (selScope b) (if rc.kind = 0 then 4 else 2))
        | _ => false
theorem uni_of {s : State} {r : Role} {d : List VReg} {a : VReg} {b : BufSel} {g : PReg} {acc : Acc} {size : Nat}
    {locks : Bool} {p : State → Role → List Nat → OpLane → Nat → Bool} (hr : mget s.roles s.cur = some r)
    (h : uniFinds s r d a b g acc size locks p = true) :
    ∃ s1 r1 ds q sc, Says.uniReady s s1 r r1 d a b g acc size locks ds q sc ∧ p s1 r1 ds q sc = true := by
  obtain ⟨base, e1, h⟩ := ok_of h
  obtain ⟨ds, e2, h⟩ := ok_of h
  obtain ⟨x, e3, h⟩ := ok_of h
  simp only at h
  split at h
  · cases h
  rename_i l el
  obtain ⟨rc, e4, h⟩ := ok_of h
  obtain ⟨rows, e5, h⟩ := ok_of h
  simp only [Bool.and_eq_true, decide_eq_true_eq] at h
  obtain ⟨⟨⟨h1, h2⟩, h3⟩, h⟩ := h
  split at h
  · rename_i q eq
    simp only [Bool.and_eq_true] at h
    exact ⟨_, _, ds, ⟨l, q.off, q.len, q.place, _, 0, 0⟩, _, ⟨base, x, rc, rows, q, hr, e1, e2, e3, rfl, rfl, el, e4, e5,
      is_unit h1, h2, is_unit h3, eq, rfl, rfl, fun hs => by simp [hs] at h⟩, h.2⟩
  · cases h

/-- A role whose v5 holds 0 and whose v7 holds the word at 0x3000. -/
def locker : Role := { aRole with
  frames := [{ aFrame with rows := aFrame.rows ++ [(rowKey 7 0, ⟨5, lanesOf fun _ => 0x11223344, false⟩)] }] }
theorem wit_LockWords : ∃ s1 r1 ds q sc, Says.uniReady (wr locker) s1 locker r1 [] 1 1 0 .at' 8 true ds q sc
    ∧ (ds == [] && q.place == .ram 0x3000
      && s1.mayPerform (s1.nowOp (.atomic 0 8 true) false sc q)) = true :=
  uni_of rfl (by decide +kernel)
/-- The state with a load of the lock word outstanding. -/
def loadGoing : State := { loading with roles := mset loading.roles 1 { loading.role 1 with hdr := 0x1000 } }
theorem wit_LockWords_held : ∃ s1 r1 ds q sc, Says.uniReady loadGoing s1 (loadGoing.role 1) r1 [] 1 1 0 .at' 8 true ds q sc
    ∧ (ds == [] && q.place == .ram 0x3000
      && !s1.mayPerform (s1.nowOp (.atomic 0 8 true) true sc q)) = true :=
  uni_of (by decide +kernel) (by decide +kernel)
-- R226: a reader waits while a writer holds or waits; a counted writer takes its count back
theorem test_lock_word : Says.lockWord 0 false 0x8000000100000005 = (0x8000000100000005, false)
    ∧ Says.lockWord 2 true 0x300000000 = (0x4000000200000000, true)
    ∧ Says.lockWord 2 false 1 = (0x100000001, false) := by decide +kernel
theorem test_rlk : gives (.rlk 1 1 0) (wr locker) (fun t => (rdLE t.ram 0x3000 8, (t.role 1).off)) = some (0x11223345, 3) := by
  decide +kernel
theorem wit_FencesAndWordWaits_fence : mget w.roles w.cur = some aRole ∧ aRole.part 3 = 0 ∧ aRole.part 0 ≠ 0 :=
  ⟨rfl, by decide +kernel, by decide +kernel⟩
theorem wit_FencesAndWordWaits_differs : ∃ s1 r1 ds q sc, Says.uniReady (wr locker) s1 locker r1 [2] 1 1 0 .rd 4 false ds q sc
    ∧ (ds == [2] && q.place == .ram 0x3000 && s1.mayPerform (s1.nowOp (.load false 4) false 2 q)
      && isOk (r1.readReg 2 (1#1024 <<< q.lane)) fun old =>
        decide (laneOfRows old q.lane ≠ BitVec.ofNat 32 (rdLE (wr locker).ram 0x3000 4))) = true :=
  uni_of rfl (by decide +kernel)
theorem wit_FencesAndWordWaits_same : ∃ s1 r1 ds q sc, Says.uniReady (wr locker) s1 locker r1 [7] 1 1 0 .rd 4 false ds q sc
    ∧ (ds == [7] && q.place == .ram 0x3000 && s1.mayPerform (s1.nowOp (.load false 4) false 2 q)
      && isOk (r1.readReg 7 (1#1024 <<< q.lane)) fun old =>
        decide (laneOfRows old q.lane = BitVec.ofNat 32 (rdLE (wr locker).ram 0x3000 4))) = true :=
  uni_of rfl (by decide +kernel)

/-- The state with a store to the word outstanding. -/
def storeGoing : State := (gives (.st 2 4 1 0) (wr locker) id).getD w
theorem wit_FencesAndWordWaits_held : ∃ s1 r1 ds q sc,
    Says.uniReady storeGoing s1 (storeGoing.role 1) r1 [7] 1 1 0 .rd 4 false ds q sc
    ∧ (ds == [7] && q.place == .ram 0x3000 && !s1.mayPerform (s1.nowOp (.load false 4) false 2 q)) = true :=
  uni_of (by decide +kernel) (by decide +kernel)

/-- A team whose handoff register 0 holds one entry, 1 holds four, 2 none. -/
def handing : Team := { aTeam2 with
  handoff := [(0, [[lanesOf fun n => n]]), (1, List.replicate 4 [0])], producers := [(1, 0)] }
theorem wit_HandoffRegisters : mget (scr aRole handing).roles 1 = some aRole ∧ mget (scr aRole handing).teams 1 = some handing
    ∧ aRole.frame.vname 1 = .ok 1 ∧ aRole.part 0 ≠ 0 ∧ handing.handoffHeld = true
    ∧ (scr aRole handing).released 1 0 100 2 = true ∧ (handing.queueOf 2).length < 4 ∧ isOk (aRole.readReg 1 (aRole.part 0)) = true
    ∧ 4 ≤ (handing.queueOf 1).length ∧ (handing.live.any (· != 1)) = false ∧ (∃ e rest, handing.queueOf 0 = e :: rest)
    ∧ aRole.checkReg 1 (aRole.part 0) = .ok () ∧ handing.queueOf 2 = [] :=
  ⟨rfl, rfl, is_ok (by decide +kernel), by decide +kernel, rfl, rfl, by decide +kernel, by decide +kernel, by decide +kernel,
    rfl, ⟨_, _, rfl⟩, is_unit (by decide +kernel), rfl⟩
/-- A yoke without handoff rows on a core without free ones. -/
def handless : State := (scr aRole { handing with handoffHeld := false }).setCore 0 { aCore with rowsUsed := [2048, 2048, 2048, 2048] }
theorem wit_HandoffRegisters_no_rows : (handless.team 1).handoffHeld = false ∧ isOk (aRole.readReg 1 (aRole.part 0)) = true
    ∧ (handless.core aRole.core).fits aRole.core (handoffNeed (handless.team 1).gmax) = false := by decide +kernel
theorem wit_HandoffRegisters_other_lives : ({ handing with live := [1, 2] } : Team).live.any (· != 1) = true := rfl
theorem test_hpush_full : stopped1 (.hpush 1 1 0) (scr aRole handing) = true := by decide +kernel

/-- A barrier word at scratchpad place 8: one participant of two is missing. -/
def barred (r : Role) : State := scr r aTeam2 (wrBytes [] 8 (leBytes 8 0x0003000002000001))
/-- The state with an arrival outstanding, and the one after it. -/
def arriving : State := (gives (.arrv 55 2 0) (barred { aRole with
  frames := [{ aFrame with grans := aFrame.grans ++ [(13, ⟨5, granOf 0 0 0 8, false⟩)] }] }) fun t => t).getD w
theorem wit_BarrierInstructions_arrv : arriving.ops.length = 1 ∧ (opOf arriving).kind = .arrv 8
    ∧ (opOf arriving).lanes.map (·.place) = [.scratch 8] ∧ arriving.mayPerform (opOf arriving) = true
    ∧ (arriving.role 1).arrivalOp = some (opOf arriving).id ∧ (arriving.core 0).scrTag (.scratch 8) = 4
    ∧ (mget arriving.teams (opOf arriving).team).map (fun x => decide (x.live ≠ [])) = some true ∧ 8 / 128 = (8 + 7) / 128
    ∧ sortedFrom none (arriving.core 0).scratch = true
    ∧ Says.arrived (BitVec.ofNat 64 (rdLE (arriving.core 0).scratch 8 8)) = 0x0004000002000002 := by decide +kernel
theorem wit_BarrierInstructions_issue : isOk ((barred aRole).barrierWord .at' 8) (fun q => q.place == .scratch 8
    && ((barred aRole).core 0).scrTag (.scratch 8) == q.gen) = true := by decide +kernel
/-- A role that has arrived in phase 3 at the word at 8, whose address s56 holds. -/
def arrivedRole : Role := { aRole with
  arrival := some (8, 3), frames := [{ aFrame with grans := aFrame.grans ++ [(14, ⟨5, granOf 0 0 0 8, false⟩)] }] }
theorem wit_BarrierInstructions_barw : mget (barred arrivedRole).roles 1 = some arrivedRole ∧ arrivedRole.arrivalOp = none
    ∧ arrivedRole.frame.readS arrivedRole.tagTrap 59 = .ok 8
    ∧ isOk ((barred arrivedRole).barrierWord .rd 8) (fun q => (barred arrivedRole).mayPerform
        ((barred arrivedRole).nowOp (.load false 8) false 2 q) && q.place == .scratch 8) = true
    ∧ (BitVec.ofNat 64 (rdLE ((barred arrivedRole).core 0).scratch 8 8)).extractLsb' 48 16 = 3 :=
  ⟨rfl, rfl, is_ok (by decide +kernel), by decide +kernel, by decide +kernel⟩
/-- A cooperative set of two roles, of which one has arrived. -/
def inSet (here there : Bool) : State :=
  { w with roles := [(0, Role.hyaluo), (1, aRole), (2, { aRole with roleId := 1, slot := 1, barcArrived := here, status := .parked .barc })]
           teams := [(0, Team.hyaluo), (1, { aTeam with set := if there then some 0 else none })], sets := [(0, ⟨0, 0, 6, false⟩)] }
theorem wit_BarrierInstructions_barc : (inSet true false |>.team 1).set = none
    ∧ ((inSet true true).team 1).set = some 0 ∧ (mget (inSet true true).sets 0).isSome = true
    ∧ (inSet true true).released 1 0 100 3 = true ∧ sortedFrom none (inSet true true).roles = true
    ∧ (mget (inSet true true).sets 0).map (·.out) = some false ∧ (inSet true true).saved = []
    ∧ (mget (inSet true true).roles 2).map (·.barcArrived) = some true
    ∧ (mget (inSet false true).roles 2).map (·.barcArrived) = some false := by decide +kernel

/-- A load by a role that the fabric has told that its lanes pass, to rank 0 from rank 5; its operation. -/
def far : State := { (wr { aRole with verdict := some none }) with rank := 5, pods := [(0, 0x100)], paths := [(0, 3)] }
def farLoad : State := (gives (.ld 10 4 5 0) far fun t => t.modRole 1 fun r => { r with status := .ready }).getD w
theorem wit_LoadsReturnAndStoresRetire_remote : endable farLoad = true ∧ (opOf farLoad).leaves = true
    ∧ (opOf farLoad).level = .core ∧ farLoad.runOver (opOf farLoad) = true
    ∧ (∀ p ∈ farLoad.outPkts, p.packet.seq < farLoad.next)
    ∧ (∀ x ∈ (opOf farLoad).remote, farLoad.roomTo (preryRank (BitVec.ofNat 64 x.1)) (opOf farLoad).remote.length = true) := by
  decide +kernel
/-- A window that is full. -/
def crowded : State := { farLoad with outPkts := List.replicate 64 ⟨0, 0, 0, 0, ⟨5, 0, 0, 0, .read 4, 0, false, none⟩, 1, some 0, false, none⟩, paths := [(0, 1)] }
theorem wit_LoadsReturnAndStoresRetire_no_room : endable crowded = true ∧ (opOf crowded).leaves = true
    ∧ (∀ p ∈ crowded.outPkts, p.cmd ≠ (opOf crowded).id)
    ∧ (∀ x ∈ (opOf crowded).remote, crowded.roomTo (preryRank (BitVec.ofNat 64 x.1)) 1 = false) := by
  decide +kernel

/-! ### Engines, tiles, runs and waits -/

/-- What an engine instruction's operands are in a role, and a check of them. -/
def engFinds (s : State) (r : Role) (fours : List Nat) (vecs : List VReg) (b : BufSel) (g : PReg)
    (p : State → Role → Rec → List Rec → List (List Lanes) → Bool) : Bool :=
  isOk (r.frame.bname b) fun base => decide (∀ n ∈ fours, n + 3 < r.frame.sc) && isOk (r.frame.vnames vecs) fun xs =>
    decide ((r.settleFor xs).part g ≠ 0) && isOk ((r.settleFor xs).readRec base) fun rc =>
      isOk (fours.mapM (r.settleFor xs).readRec) fun rs =>
        isOk ((r.settleFor xs).readRegs ((r.settleFor xs).part g) xs) fun rows =>
          p (s.setRole s.cur (r.settleFor xs)) (r.settleFor xs) rc rs rows
theorem eng_of {s : State} {r : Role} {fours : List Nat} {vecs : List VReg} {b : BufSel} {g : PReg}
    {p : State → Role → Rec → List Rec → List (List Lanes) → Bool} (hr : mget s.roles s.cur = some r)
    (h : engFinds s r fours vecs b g p = true) :
    ∃ s1 r1 rc rs rows, Says.engineReady s s1 r r1 fours vecs b g rc rs rows ∧ p s1 r1 rc rs rows = true := by
  obtain ⟨base, e1, h⟩ := ok_of h
  simp only [Bool.and_eq_true, decide_eq_true_eq] at h
  obtain ⟨h4, h⟩ := h
  obtain ⟨xs, e2, h⟩ := ok_of h
  simp only [Bool.and_eq_true, decide_eq_true_eq] at h
  obtain ⟨hp, h⟩ := h
  obtain ⟨rc, e3, h⟩ := ok_of h
  obtain ⟨rs, e4, h⟩ := ok_of h
  obtain ⟨rows, e5, h⟩ := ok_of h
  exact ⟨_, _, rc, rs, rows, ⟨base, xs, hr, e1, h4, e2, rfl, rfl, hp, e3, e4, e5⟩, h⟩

/-- The checks of a copy pass, with no stall hint in the way; or fail. -/
def copyPasses (d : Nat) (b : BufSel) (sk dk : List Nat) (pk : Bool) (trig : Option Nat) (s1 : State) (_ : Role) (rc : Rec) (rs : List Rec)
    (_ : List (List Lanes)) : Bool :=
  match rs with
  | [dst, x] => isOk (s1.copyChecks rc dst (selRec b) (d / 4) sk dk ⟨x.n⟩ pk trig)
      && [rc, dst].all fun y => y.kind != 1 || s1.stalled (preryRank (BitVec.ofNat 64 y.base)) == none
  | _ => false
def copyFails (d : Nat) (b : BufSel) (sk dk : List Nat) (pk : Bool) (s1 : State) (_ : Role) (rc : Rec) (rs : List Rec)
    (_ : List (List Lanes)) : Bool :=
  match rs with
  | [dst, x] => !isOk (s1.copyChecks rc dst (selRec b) (d / 4) sk dk ⟨x.n⟩ pk none)
  | _ => false
theorem wit_EngineCommandsIssue_put : ∃ s1 r1 rc rs rows, Says.engineReady w s1 aRole r1 [20, 12] [] 1 0 rc rs rows
    ∧ copyPasses 20 1 [0, 2, 3] [1] true none s1 r1 rc rs rows = true := eng_of rfl (by decide +kernel)
theorem wit_EngineCommandsIssue_cpy_own_range : ∃ s1 r1 rc rs rows, Says.engineReady w s1 aRole r1 [4, 12] [] 1 0 rc rs rows
    ∧ copyFails 4 1 [0, 2, 3] [0, 2, 3] false s1 r1 rc rs rows = true := eng_of rfl (by decide +kernel)
theorem wit_EngineCommandsIssue_room : (w.core aRole.core).cmds.length < 256
    ∧ 64 < ({ w.core 0 with locks := List.replicate 64 ⟨0, .scratch 0, 0, 0, true⟩ } : Core).locks.length + 1 := by
  decide +kernel
def gatherPasses (s1 : State) (r1 : Role) (rc : Rec) (rs : List Rec) (rows : List (List Lanes)) : Bool :=
  match rs with
  | [dst] =>
    isOk (rc.check r1 [0, 2, 3] 1) && isOk (dst.check r1 [0, 2, 3] 6) && decide (0 < dst.stride0 ∧ dst.stride0 ≤ 4096)
    && isOk ((laneList (r1.part 0)).mapM fun l => s1.rowsCheck r1 dst ⟨l * 64, 1, 64, 64⟩ 6) fun spans =>
      isOk ((laneList (r1.part 0)).mapM fun l => s1.rowsCheck r1 rc
        ⟨(laneOfRows (rows.getD 0 []) l).toNat * 64, 1, 64, 64⟩ 1) fun _ =>
      dst.stride0 == 64 && rc.stride0 == 0 && !ownOverlap (s1.extentRange r1 rc) (Says.hull spans)
  | _ => false
theorem wit_EngineCommandsIssue_gath : ∃ s1 r1 rc rs rows, Says.engineReady w s1 aRole r1 [24] [1] 1 0 rc rs rows
    ∧ gatherPasses s1 r1 rc rs rows = true := eng_of rfl (by decide +kernel)
/-- A team with a configuration of sub-partition 0: four tiles, two accumulators, one scale granule. -/
def aTcfg : Tcfg := ⟨0x1010204, 6, [], [], [], none⟩
/-- Nothing of it is written, and so nothing of it is lost. -/
theorem aTcfg_void (u : Nat) : aTcfg.unitTag u = voidTag := by
  unfold Tcfg.unitTag
  dsimp only
  split
  · rfl
  · split <;> rfl
theorem aTcfg_readable {s : State} {r : Role} (h : r.tagTrap = false) : Says.unitsReadable s r aTcfg :=
  fun u => .inr (.inr ⟨h, by rw [aTcfg_void]; decide⟩)
theorem aTcfg_not_poison (u : Nat) : aTcfg.isPoison u = false := by
  unfold Tcfg.isPoison
  rw [aTcfg_void]
  rfl
def tiling : Team := { aTeam2 with tcfg := some aTcfg }
/-- The running role with four more scalars. -/
def with4 (a b c d : BitVec 64) : Role :=
  { aRole with frames := [{ aFrame with grans := aFrame.grans ++ [(14, ⟨5, granOf a b c d, false⟩)] }] }
def tiled (a b c d : BitVec 64) : State := { (wr (with4 a b c d)) with teams := [(0, Team.hyaluo), (1, tiling)] }
def loadPasses (s1 : State) (r1 : Role) (rc : Rec) (_ : List Rec) (rows : List (List Lanes)) : Bool :=
  isOk (rc.check r1 [0, 2, 3] 7) && rc.stride0 == 64 && rc.stride1 == 0 && laneOfRows (rows.getD 0 []) 0 == 0
    && isOk (s1.rowsCheck r1 rc ⟨0, 128, 64, 64⟩ 7)
theorem wit_EngineCommandsIssue_mld : (∃ s1 r1 rc rs rows,
    Says.engineReady (tiled 0 0 0 0) s1 (with4 0 0 0 0) r1 [] [1] 7 0 rc rs rows ∧ loadPasses s1 r1 rc rs rows = true)
    ∧ ((tiled 0 0 0 0).team 1).tcfg = some aTcfg ∧ (1 : TReg).toNat < aTcfg.nt ∧ lowestLane (aRole.part 0) = some 0
    ∧ Says.unitsReadable (tiled 0 0 0 0) aRole aTcfg := by
  refine ⟨eng_of rfl ?_, ?_, ?_, ?_, aTcfg_readable rfl⟩ <;> decide +kernel
/-- CPYS of a descriptor's rows to offset 2 of sub-partition 0. -/
def scalesPass (s1 : State) (r1 : Role) (rc : Rec) (rs : List Rec) (_ : List (List Lanes)) : Bool :=
  match rs with
  | [x] => isOk (rc.check r1 [0, 2, 3] 14) && isOk (s1.rowsCheck r1 rc ((CopyDesc.mk x.n).srcRows rc) 14)
      && decide (2 + (CopyDesc.mk x.n).rows * (CopyDesc.mk x.n).rowBytes ≤ aTcfg.scaleBytes)
      && !(CopyDesc.mk x.n).bad false false && !(CopyDesc.mk x.n).cntS && !(CopyDesc.mk x.n).cntD
      && (CopyDesc.mk x.n).rowBytes % 2 == 0
  | _ => false
theorem wit_EngineCommandsIssue_cpys : ∃ s1 r1 rc rs rows, Says.engineReady (tiled 0 0 0 0) s1 (with4 0 0 0 0) r1 [12] [] 1 0 rc rs rows
    ∧ scalesPass s1 r1 rc rs rows = true := eng_of rfl (by decide +kernel)
theorem wit_EngineCommandsIssue_cpys_word : (∀ u ∈ cpysSubs 0x10002, u ∈ aTcfg.subs) ∧ cpysOff 0x10002 % 2 = 0
    ∧ 0x10002 / 2 ^ 20 % 2 ^ 44 = 0 ∧ 0x10002 / 2 ^ 13 % 8 = 0 := by decide +kernel
theorem wit_EngineCommandsIssue_ratom : aRole.frame.bname 5 = .ok 20 ∧ aRole.frame.vnames (Says.span 10 1) = .ok [10]
    ∧ aRole.frame.vnames (4 :: Says.span 2 1) = .ok [4, 2] ∧ isOk (aRole.readRec 20) (fun rc =>
        isOk (rc.check aRole [1] 5) && rc.bounds == 0 && rc.base == 0 && rc.stride0 == 0 && decide (31 * 4 * 4 + 4 ≤ rc.extent)) = true
    ∧ isOk (aRole.readRegs (aRole.part 0) [4, 2]) = true ∧ aRole.checkRegs (aRole.part 0) [10] = .ok ()
    ∧ w.stalled (preryRank 0) = none :=
  ⟨is_ok (by decide +kernel), is_ok (by decide +kernel), is_ok (by decide +kernel), by decide +kernel, by decide +kernel,
    is_unit (by decide +kernel), by decide +kernel⟩
theorem wit_EngineCommandsIssue_regions : w.regionGranted aRole 40 = true
    ∧ ({ w with plots := [(0, { aPlot with regions := 1 })] } : State).regionGranted aRole 40 = false := by decide +kernel
theorem wit_BatchesCountersAndRegions_counter : Says.counterReady w aRole 1 2 0 2 40 true
    ∧ Says.counterReady w aRole 20 2 0 2 0 false ∧ w.ctrReady w.cur 2 40 = false ∧ w.ctrReady w.cur 2 0 = true
    ∧ ({ w with plots := [(0, { aPlot with counters := 1 })] } : State).granted aRole 2 = false :=
  ⟨⟨rfl, by decide +kernel, by decide +kernel, by decide +kernel, is_ok (by decide +kernel), by decide +kernel,
      is_ok (by decide +kernel)⟩,
    ⟨rfl, by decide +kernel, by decide +kernel, by decide +kernel, is_ok (by decide +kernel), by decide +kernel,
      is_unit (by decide +kernel)⟩, by decide +kernel, by decide +kernel, by decide +kernel⟩
/-- A role whose batch 2 is open, with a command of batch 1 in its core's queue. -/
def batching : State :=
  wr { aRole with batchOpen := 2 } |>.setCore 0 { aCore with cmds := [{ Cmd.plain .cpy with id := 50, role := 1, batch := 1 }] }
theorem wit_BatchesCountersAndRegions_waitb : batching.batchDone 1 1 = false ∧ (wr { aRole with batchOpen := 2 }).batchDone 1 1 = true
    ∧ min (2 : BitVec 64).toNat ((2 : BitVec 64).toNat - 1) = 1 := by decide +kernel
theorem wit_BatchesCountersAndRegions_rgnreg : aRole.frame.readS aRole.tagTrap 0 = .ok 0
    ∧ aRole.frame.readS aRole.tagTrap 1 = .ok 40 ∧ aRole.frame.readS aRole.tagTrap 2 = .ok 2
    ∧ w.space aRole = some (0, 0) ∧ w.regionGranted aRole 2 = true :=
  ⟨is_ok (by decide +kernel), is_ok (by decide +kernel), is_ok (by decide +kernel), by decide +kernel, by decide +kernel⟩
theorem wit_BatchesCountersAndRegions_rgnreg_full :
    64 < ({ w.core 0 with locks := List.replicate 65 ⟨0, .scratch 0, 0, 0, true⟩ } : Core).locks.length ∧ aRole.plot = some 0 := by
  decide +kernel
theorem wit_TriggersAndCollectives_trig : (∃ s1 r1 rc rs rows, Says.engineReady w s1 aRole r1 [20, 12] [] 1 0 rc rs rows
    ∧ copyPasses 20 1 [0, 2, 3] [1] true (some 2) s1 r1 rc rs rows = true)
    ∧ (w.core 0).triggers = [] ∧ (w.core 0).headland = [] := ⟨eng_of rfl (by decide +kernel), rfl, rfl⟩
/-- The same with no counter granted. -/
def ungranted : State := { w with plots := [(0, { aPlot with counters := 0 })] }
def trigRefused (s1 : State) (r1 : Role) (rc : Rec) (rs : List Rec) (_ : List (List Lanes)) : Bool :=
  match rs with
  | [dst, x] => isOk (rc.check r1 [0, 2, 3] 1) && isOk (dst.check r1 [1] 5) && !(CopyDesc.mk x.n).bad true true
      && !s1.granted aRole 2
  | _ => false
theorem wit_TriggersAndCollectives_not_granted : ∃ s1 r1 rc rs rows,
    Says.engineReady ungranted s1 aRole r1 [20, 12] [] 1 0 rc rs rows ∧ trigRefused s1 r1 rc rs rows = true :=
  eng_of rfl (by decide +kernel)
/-- An interface with all of device memory, and a job whose communicator 0 lists rank 0. -/
def anIface : Iface :=
  { Iface.reset with
    entry := [BitVec.ofNat 64 (2 ^ 63 + 2 ^ 62 + 4 * 2 ^ 40 + 4 * 2 ^ 21), BitVec.allOnes 64, 1, 0, BitVec.allOnes 64,
      BitVec.allOnes 64, BitVec.allOnes 64, BitVec.allOnes 64, BitVec.allOnes 64, 0, 0x4000000000, 0, 0, 0, 0, 0]
    roots := [(0, 0x40001)], saveBase := 0x1000000, saveSize := 0x1000000, faultCfg := 0x8000000000000000
    job := some ⟨7, 0x2000000, 64, ⟨1, [(0, [(0, 0)])], [(0, [(0, 0)])]⟩, [], List.replicate 32 0⟩ }
def wi : State := { w with ifaces := [(0, anIface)] }
/-- A collective's records and descriptor: sources and destinations of format 8, four elements, an allreduce. -/
def gathering : Role :=
  { aRole with frames := [{ aFrame with grans := (aFrame.grans.filter fun p => p.1 ≤ 8) ++
      [(9, ⟨5, granOf 0x8000 0x1000 (8 * 2 ^ 24) 0, false⟩), (10, ⟨5, granOf 0xA000 0x1000 (8 * 2 ^ 24) 0, false⟩), (11, ⟨5, granOf 4 0 0 0, false⟩)] }] }
def collPasses (s1 : State) (r1 : Role) (rc : Rec) (rs : List Rec) (_ : List (List Lanes)) : Bool :=
  match rs, s1.plotJob r1.plot with
  | [dst, x], some (v, j) =>
    let c := { Cmd.plain (.coll 1 0 false) with src := Says.bits rc, dst := Says.bits dst, desc := Says.bits x, bsel := 9 }
    let coll : Coll := ⟨c, v, j.id, BitVec.ofNat 32 c.collGroup, BitVec.ofNat 32 c.collSeq, j.slotList c.collGroup c.collSeq,
      j.members c.collGroup c.collSeq, []⟩
    isOk (rc.check r1 [0, 3] 9) && isOk (dst.check r1 [0, 3] 10) && !c.collBad
      && (mget j.roster.comms c.collGroup).isSome && s1.granted r1 dst.counter.toNat
      && isOk (s1.rowsCheck r1 rc ⟨0, 1, coll.srcBytes s1.rank.toNat, coll.srcBytes s1.rank.toNat⟩ 9) (fun from' =>
        isOk (s1.rowsCheck r1 dst ⟨0, 1, coll.dstBytes s1.rank.toNat, coll.dstBytes s1.rank.toNat⟩ 10) fun to' =>
          !ownOverlap from' to') && coll.srcBytes s1.rank.toNat != 0 && coll.dstBytes s1.rank.toNat != 0
      && coll.first.contains s1.rank.toNat && (s1.collOf j.id coll.group coll.seq).isNone
      && coll.first.all fun m => (s1.stalled (BitVec.ofNat 18 m)).isNone
  | _, _ => false
theorem wit_TriggersAndCollectives_coll : ∃ s1 r1 rc rs rows,
    Says.engineReady { (wr gathering) with ifaces := [(0, anIface)] } s1 gathering r1 [40, 44] [] 9 0 rc rs rows
    ∧ collPasses s1 r1 rc rs rows = true := eng_of rfl (by decide +kernel)

theorem wit_TileConfigurations : mget wi.teams aRole.team = some aTeam ∧ aTeam.core = aRole.core
    ∧ (with4 0x1010204 0 0 0).frame.readS aRole.tagTrap 56 = .ok 0x1010204 ∧ tcfgBad 0x1010204 = false
    ∧ (mget wi.worldMap (aRole.core / 4)).getD 0 = wi.worldOf aRole
    ∧ aTeam.tcfg = none ∧ (wi.core 0).frameReqs = [] ∧ (wi.core 0).fits 0 (tcfgNeed 0x1010204) = true
    ∧ (wi.core 0).nextGen.isSome = true ∧ (aTeam.plot.bind (mget wi.plots)) = some aPlot
    ∧ (wi.reserve 0 (tileBlockSize 0x1010204)).map (·.1) = some 0x1000000 := by
  refine ⟨rfl, rfl, is_ok ?_, ?_, ?_, rfl, rfl, ?_, ?_, rfl, ?_⟩ <;> decide +kernel
theorem wit_TileConfigurations_refused : tcfgBad 0x10204 = true
    ∧ (mget ({ wi with worldMap := [(0, 3)] } : State).worldMap (aRole.core / 4)).getD 0 ≠ wi.worldOf aRole
    ∧ ({ aCore with tilesUsed := [16, 0, 0, 0] } : Core).fits 0 (tcfgNeed 0x1010204) = false
    ∧ (tiled 0 0 0 0).matrixBusy 1 = false
    ∧ ({ (tiled 0 0 0 0) with mats := [⟨50, 1, 1, 0, 0, .mtrn 0 1, [0], [[]], 0, true, 0⟩] } : State).matrixBusy 1 = true := by
  decide +kernel
theorem test_tcfg : gives (.tcfg 56 0) { (wr (with4 0x1010204 0 0 0)) with ifaces := [(0, anIface)] }
    (fun t => ((t.team 1).tcfg.map (·.word), (t.core 0).tilesUsed)) = some (some 0x1010204, [4, 0, 0, 0]) := by decide +kernel
/-- Format blocks of MMA: A and B of format 4, blocks of 16. -/
def multiplying : State := tiled 4 4 0 0
theorem wit_MatrixInstructionsIssue_mma : mget multiplying.roles 1 = some (with4 4 4 0 0)
    ∧ mget multiplying.teams 1 = some tiling ∧ tiling.tcfg = some aTcfg
    ∧ (1 : AReg).toNat < aTcfg.na ∧ (3 : TReg).toNat < aTcfg.nt ∧ (∀ u ∈ aTcfg.subs, u < aRole.groups)
    ∧ (with4 4 4 0 0).frame.readS false 56 = .ok 4 ∧ (with4 4 4 0 0).frame.readS false 57 = .ok 4
    ∧ fbPairBad 4 4 = false ∧ 3 + aTiles 4 1 ≤ aTcfg.nt ∧ fbOff 4 % 2 = 0
    ∧ isOk ((with4 4 4 0 0).frame.bNames 1 (bRegs (fbFmt 4) (fbLen 4) 1 1)) (fun xs =>
        !multiplying.pendingBefore 1 xs
          && isOk (aTcfg.subs.mapM fun u => ((with4 4 4 0 0).settleFor xs).readGroup u xs)) = true
    ∧ fbScaled 4 = false ∧ multiplying.queueFull 0 aTcfg.subs = false
    ∧ Says.unitsReadable multiplying (with4 4 4 0 0) aTcfg := by
  refine ⟨rfl, rfl, rfl, ?_, ?_, ?_, is_ok ?_, is_ok ?_, ?_, ?_, ?_, ?_, ?_, ?_, aTcfg_readable rfl⟩ <;> decide +kernel
/-- What stops or holds an MMA: a pair of formats; more tiles than there are; an odd offset; a scaled operand's scales beyond
the granule; a register of B that a load is to write. -/
theorem wit_MatrixInstructionsIssue_stops : fbPairBad 4 9 = true ∧ aTcfg.nt < 3 + aTiles 0x24 2 ∧ fbPairBad 0x10004 4 = false
    ∧ fbOff 0x10004 % 2 ≠ 0 ∧ fbScaled 0x80000004 = true ∧ aTcfg.scaleBytes < fbOff 0x80200004 + 256 * 1
    ∧ ({ loading with ops := loading.ops.map fun o => { o with runNo := 1 } } : State).pendingBefore 1 [10] = true := by
  decide +kernel
theorem wit_MatrixInstructionsIssue_no_group : (∃ u ∈ (⟨0x3010204, 6, [], [], [], none⟩ : Tcfg).subs, aRole.groups ≤ u)
    ∧ aTcfg.na ≤ (2 : AReg).toNat ∧ ({ multiplying with mats := List.replicate 8 ⟨50, 1, 1, 0, 0, .mtrn 0 1, [0], [[]], 0, true, 0⟩ } : State).queueFull 0 aTcfg.subs = true :=
  ⟨⟨1, by decide +kernel⟩, by decide +kernel, by decide +kernel⟩
theorem wit_MatrixInstructionsIssue_moves : Says.matrixReady multiplying (with4 4 4 0 0) 0 tiling aTcfg
    ∧ Says.unitsReadable multiplying (with4 4 4 0 0) aTcfg ∧ (∀ u, aTcfg.isPoison u = false)
    ∧ multiplying.unitsBusy 1 multiplying.next (aTcfg.subs.map fun u => accUnit u 1) = false
    ∧ (with4 4 4 0 0).frame.vname 10 = .ok 10 ∧ (with4 4 4 0 0).frame.readS false 56 = .ok 4
    ∧ (with4 4 4 0 0).checkReg 10 ((with4 4 4 0 0).part 0 &&& ownedMask (with4 4 4 0 0) aTcfg) = .ok ()
    ∧ isOk ((with4 4 4 0 0).readReg 1 ((with4 4 4 0 0).part 0 &&& ownedMask (with4 4 4 0 0) aTcfg)) = true
    ∧ isOk ((with4 4 4 0 0).readGroup 0 [1]) = true := by
  refine ⟨⟨rfl, rfl, rfl, ?_⟩, aTcfg_readable rfl, aTcfg_not_poison, ?_, is_ok ?_, is_ok ?_, is_unit ?_, ?_, ?_⟩ <;>
    decide +kernel
/-- A transposition in the queue; a started one. -/
def aMat (started : Bool) : MatOp := ⟨50, 1, 1, 0, 0, .mtrn 0 1, [0], [[]], 0, started, 0⟩
def mated (started : Bool) : State := { (tiled 0 0 0 0) with mats := [aMat started] }
theorem wit_MatrixInstructionsIssue_busy : (mated true).unitsBusy 1 100 [tileUnit 0 0] = true := by decide +kernel
/-- R269: byte 65 of an INT8 tile of blocks of 64 is element k = 1 of row 1; it is zero to an MMA, and logged. -/
def badTile : Tcfg := { aTcfg with tiles := [(0, ⟨aTcfg.gen, [(65, 9)], [65]⟩)] }
def badMma : MatOp := ⟨51, 1, 1, 0, 0, .mma 0 0 0x22 0x22 1 none, [0], [[]], 0x40, true, 0⟩
theorem test_bad_element : badMma.errors badTile = [⟨0x40, 0, 0, 1, 1⟩] ∧ (badTile.aTile 0 0 1).getD 65 1 = 0
    ∧ (badTile.tile 0 0).getD 65 0 = 9 := by decide +kernel
theorem wit_MatrixArrays : (mated false).mats.find? (fun p => p.id == 50) = some (aMat false)
    ∧ (mated false).atHead (aMat false) = true ∧ (mated false).unitsBusy 1 50 (aMat false).units = false
    ∧ (mated true).mats.find? (fun p => p.id == 50) = some (aMat true) ∧ (mated true).dormant (aMat true) = false
    ∧ mget (mated true).teams 1 = some tiling ∧ tiling.live ≠ [] ∧ (aMat true).errors aTcfg = [] := by decide +kernel
/-- ACCRD and ACCWR in the unfinished work of their team. -/
def accGoing (k : MatKind) : State := { (tiled 0 0 0 0) with mats := [⟨50, 1, 1, 0, 0, k, [0], [], 0, false, 0⟩] }
theorem wit_MatrixArrays_moves : (accGoing (.accrd 1 0 (fullMask 1) 10)).unitsBusy 1 50 [accUnit 0 1] = false
    ∧ ((accGoing (.accrd 1 0 (fullMask 1) 10)).role 1).checkReg 10 (fullMask 1) = .ok ()
    ∧ (MatKind.accrd 1 0 (fullMask 1) 10).queued = false
    ∧ (accGoing (.accwr 1 0 (fullMask 1) [lanesOf fun n => n])).unitsBusy 1 50 [accUnit 0 1] = false := by
  refine ⟨?_, is_unit ?_, ?_, ?_⟩ <;> decide +kernel
theorem test_accrd : (match exec (.matrixComplete 50) { accGoing (.accrd 1 3 (fullMask 1) 10) with teams :=
      [(1, { tiling with tcfg := some { aTcfg with accs := [(1, ⟨6, wrBytes [] (128 * 3 + 4 * 5) [9], []⟩)] } })] } with
    | .next t => some ((t.role 1).frame.value 10 5, (t.role 1).frame.value 10 6, t.mats.length)
    | _ => none) = some (9, 0, 0) := by decide +kernel
theorem test_permuted : (permuted (List.replicate 64 1 ++ List.replicate 8128 2) 0x80).getD 64 0 = 1 := by decide +kernel

/-- A ready role whose header stands at 0x1000, and one with a deferred cause. -/
def aDeferred : Deferred := ⟨causeOperr, 0, 0, []⟩
def readyRole (d : List Deferred) : Role := { aRole with status := .ready, off := 0, deferred := d }
def readyState (d : List Deferred) : State :=
  { (wr (readyRole d)) with ifaces := [(0, anIface)] }.setCore 0 { aCore with running := none, credit := [(0, 3)] }
def runsAt (s : State) (k : Nat) : Bool :=
  match s.runView k with
  | .run _ _ off _ => off == 1
  | _ => false
theorem wit_RunsAndGenerations_start : ((readyState []).noteReady 0).choose 0 = some (1, false)
    ∧ (((readyState []).noteReady 0).role 1).status = .ready ∧ (((readyState []).noteReady 0).role 1).frame.spilled = none
    ∧ runsAt ((readyState []).noteReady 0) 1 = true
    ∧ ((readyState [aDeferred]).noteReady 0).choose 0 = some (1, false) ∧ firstDeferred [aDeferred] = some aDeferred
    ∧ (wi.noteReady 0).choose 0 = none := by decide +kernel
theorem wit_RunsAndGenerations_cycle : (w.core 0).running = some 1 ∧ ((readyState []).core 0).running = none
    ∧ (readyState []).dealt 0 (((readyState []).core 0).pointer + 1) = some 0 ∧ (w.dealt 0 1) = none
    ∧ sortedFrom none (w.core 0).l1 = true ∧ sortedFrom none w.roles = true ∧ (aCore.nextGen.map (·.1)) = some 6 := by
  decide +kernel

/-- R48, R49: a mismatch in a row of the frame's generation is repaired from its copy, or the row is lost; in a row of another
generation it is not looked at. -/
def flawedRow (tag : BitVec 16) : Frame := { aFrame with rows := [(rowKey 9 0, ⟨tag, 7, true⟩)] }
theorem test_parity : [((flawedRow 5).check 0 (fun _ => false) (rowKey 9 0)).1, ((flawedRow 5).check 0 (fun _ => true) (rowKey 9 0)).1,
      ((flawedRow 4).check 0 (fun _ => false) (rowKey 9 0)).1].map (fun f => f.rows.map fun x => (x.2.tag, x.2.flaw))
    = [[(poisonTag, false)], [(5, false)], [(4, true)]] := by decide +kernel

/-- Page tables that map page 1, with a malformed entry for page 2, none for page 3, and one for page 4 of a zeroed page that
may not be read. -/
def tables : Mem :=
  [(0x40000, 0x50001), (0x50000, 0x51001), (0x51000, 0x52001), (0x52008, 0x1001F), (0x52010, 0x2003F),
    (0x52020, 0x800000000004001B)].foldl (fun m p => wrBytes m p.1 (leBytes 8 p.2)) aMem
def walking (va : BitVec 64) (access : Nat := 1) : State :=
  { (around { aRole with status := .held (.tlb va false access) } tables) with ifaces := [(0, anIface)] }
def finds (s : State) (va n : Nat) : Bool :=
  match s.walk 0 0 va, n with
  | .leaf e .., 0 => accOk 1 e
  | .malformed, 1 => true
  | .notPresent, 2 => true
  | .leaf e .., 3 => e.z && !accOk 1 e
  | _, _ => false
theorem wit_WaitsEnd_walk : (walking 0x10000).space aRole = some (0, 0) ∧ finds (walking 0x10000) 0x10000 0 = true
    ∧ finds (walking 0x20000) 0x20000 1 = true ∧ finds (walking 0x30000) 0x30000 2 = true
    ∧ finds (walking 0x40000) 0x40000 3 = true
    ∧ leafIn (walking 0x10000).tlb2 0 0 0x10000 = none ∧ (walking 0x10000).migrating 0 0 1 = false
    ∧ 1 ≠ Acc.ex.code := by decide +kernel
theorem wit_WaitsEnd_late : (Acc.ex.code = Acc.ex.code ∧ aRole.firstWord / 65536 ≠ 3 ∧ aRole.hdr.toNat / 65536 ≠ 3)
    ∧ (mget (walking 0x30000 Acc.ex.code).roles 1).map (·.status) = some (.held (.tlb 0x30000 false Acc.ex.code)) := by
  decide +kernel
theorem wit_WaitsEnd_cached :
    leafIn ({ walking 0x10000 with tlb2 := [⟨0, 0, 1, 0x10000, true, true, true⟩] } : State).tlb2 0 0 0x10000
      = some ⟨0, 0, 1, 0x10000, true, true, true⟩ := by decide +kernel
theorem test_walk_maps : gives (.pageWalkComplete 1) (walking 0x10000) (fun t => ((t.role 1).status, (t.core 0).tlb.head?.map (·.base)))
    = some (.ready, some 0x10000) := by decide +kernel
theorem test_walk_asks : gives (.pageWalkComplete 1) (walking 0x30000) (fun t => ((t.role 1).status, (t.iface 0).faults.length))
    = some (.parked (.fault 0 0 3), 1) := by decide +kernel
theorem test_walk_denied : gives (.pageWalkComplete 1) (walking 0x40000) (fun t => ((t.role 1).status, (t.role 1).walkFault))
    = some (.ready, some (false, 4, causePerm)) := by decide +kernel
def parkedOn (q : WaitOn) : State := wr { aRole with status := .parked q }
theorem wit_WaitsEnd_parks : (parkedOn (.counter 2 0)).ctrReady 1 2 0 = true ∧ (parkedOn (.counter 2 1)).ctrReady 1 2 1 = false
    ∧ (parkedOn (.batch 0)).batchDone 1 0 = true ∧ batching.batchDone 1 1 = false
    ∧ (∀ f, f < 12 → (9 : BitVec 12).getLsbD f = true → aRole.flags.getD f 0 = 0)
    ∧ (parkedOn (.fault 0 0 3)).faultOpen 0 0 3 = false ∧ aRole.reserve = []
    ∧ FabricDest.pod 1 ∉ (parkedOn (.stall (.pod 1))).stall ∧ FabricDest.pod 1 ∈ ({ w with stall := [.pod 1] } : State).stall
    ∧ (barred arrivedRole).phaseOf arrivedRole 8 = 3 ∧ (barred arrivedRole).phaseOf arrivedRole 8 ≠ 4 := by
  decide +kernel
/-- A role parked on the word at 0x3000, which holds 0x11223344. -/
def onWord (v : BitVec 32) : State := parkedOn (.word (.ram 0x3000) v 7 1 none)
theorem wit_WaitsEnd_word : (onWord 5).mayPerform ((onWord 5).opNow 1 (.load false 4) false 2
      ((onWord 5).laneAt ((onWord 5).role 1) (.ram 0x3000) 4)) = true
    ∧ BitVec.ofNat 32 (rdLE (onWord 5).ram 0x3000 4) = 0x11223344 ∧ ((onWord 5).role 1).checkReg 7 1 = .ok () := by
  refine ⟨?_, ?_, is_unit ?_⟩ <;> decide +kernel
theorem test_word_wakes : gives (.parkWake 1 []) (onWord 5) (fun t => ((t.role 1).status, (t.role 1).frame.value 7 0, (t.role 1).off))
    = some (.ready, 0x11223344, 2) ∧ gives (.parkWake 1 []) (onWord 0x11223344) (fun t => (t.role 1).status) = some ((onWord 0x11223344).role 1).status := by
  decide +kernel
/-- A role that waits for a frame on a core with room, and on one without. -/
def asking (rows : Nat) (frames : List Frame) : State :=
  { (wr { aRole with status := .parked (.frame (.call 16 8 0x2000 0x1064)), frames := frames }) with ifaces := [(0, anIface)] }
  |>.setCore 0 { aCore with
    running := none, rowsUsed := [rows, 0, 0, 0], frameReqs := [1], tlb := [⟨0, 0, 65648, 0x80000, true, true, false⟩] }
theorem wit_WaitsEnd_frames : ((asking 65 [aFrame]).core 0).fits 0 (callNeed 1 16 8) = true
    ∧ ((asking 65 [aFrame]).core 0).nextGen.isSome = true
    ∧ (asking 2048 [aFrame]).shortOf 0 (callNeed 1 16 8) = [0] ∧ (asking 2048 [aFrame]).victim 0 0 1 = none
    ∧ (∀ j ∈ (asking 2048 [aFrame]).rolesOn 0, (asking 2048 [aFrame]).mayReturn [0] j = false) := by decide +kernel
/-- The same with three frames, of which the root can be spilled. -/
def deep : List Frame :=
  [{ aFrame with gen := 7, link := ⟨0, 6, 0, 0, false, 3⟩ }, { aFrame with gen := 6, link := ⟨0, 5, 0, 0, false, 2⟩, ownsIn := false },
    { aFrame with ownsIn := false }]
/-- The same while another role of the core runs with a frame that can be spilled. -/
def shared : State :=
  let s := asking 2048 [aFrame]
  ({ s with roles := s.roles ++ [(2, { aRole with slot := 1, roleId := 1, status := .ready, frames := deep })] } : State)
  |>.setCore 0 { s.core 0 with slots := [(0, 1), (1, 2)] }
theorem wit_WaitsEnd_may_return : ∃ j ∈ shared.rolesOn 0, shared.mayReturn [0] j = true := ⟨2, by decide +kernel⟩
def spillAt (s : State) : Option (Nat × DevTr) × State :=
  (s.modCore 0 fun c => { c with victim := some (1, 1) }).devSpan (s.role 1) .wr ((s.role 1).privAddr ((s.role 1).recordBase 2) 0 0)
    (pagesOf ((s.role 1).privAddr ((s.role 1).recordBase 2) 0 0) (128 * 1 * aFrame.recordWords))
theorem wit_WaitsEnd_spill : (asking 2048 deep).victim 0 0 1 = some 1 ∧ ((asking 2048 deep).role 1).spillable = some 2
    ∧ aFrame.flawless = true ∧ (spillAt (asking 2048 deep)).1 = none ∧ (spillAt (asking 2048 deep)).2.roles = (asking 2048 deep).roles := by
  decide +kernel
def spilling : State := (asking 2048 deep).setCore 0 { aCore with spill := some ⟨1, 1, 5, 500⟩ }
theorem wit_WaitsEnd_acknowledged : (spilling.core 0).spill = some ⟨1, 1, 5, 500⟩
    ∧ (∀ g ∈ (spilling.role 1).frames.take 2, g.gen = 5 → g.link.depth = 1 → g.spilled ≠ none)
    ∧ ((spilling.role 1).frames[2]?.map fun f => (f.spilled, f.gen, f.link.depth)) = some (none, 5, 1) := by decide +kernel
theorem wit_WaitsEnd_gone : ∀ f ∈ [{ aFrame with spilled := some 500 }], f.gen = 5 → f.link.depth = 1 → f.spilled ≠ none := by
  decide +kernel

/-! ### Claims, switch-outs, engines at work, packets and fences -/

/-- A plot of one role, of 16 registers and 8 scalars for one group, with work left. -/
def startable : Plot :=
  { aPlot with grid := 3, claim := 2, entries := [0x1000, 0, 0, 0], shapes := [BitVec.ofNat 64 (1 + 2 * 4096 + 2 * 2 ^ 19), 0, 0, 0]
               thresh := 1, scratch := 0 }
def claiming (coop : Bool) : State := { wi with plots := [(0, { startable with coop := coop })] }
/-- The role parked on a fault, or on a stall hint; a saved context that may come back. -/
def switching (q : WaitOn) : State :=
  { (parkedOn q) with
    plots := [(0, startable)], ifaces := [(0, anIface)], teams := [(0, Team.hyaluo), (1, aTeam)]
    saved := [(60, ⟨0, 0, [2], false, [], [], [], [], none, none, none⟩)]
    roles := [(0, Role.hyaluo), (1, { aRole with status := .parked q }), (2, { aRole with status := .saved none })] }
theorem wit_ClaimsAndSwitches_claim : (claiming false).grants 0 = true
    ∧ ((claiming false).startOn 0 0 (startable.range startable.claim) none).isSome = true
    ∧ ((claiming false).startOn 4 0 (startable.range startable.claim) none) = none
    ∧ (claiming false).workWaits 0 = false ∧ (switching (.flags 1)).workWaits 0 = true
    ∧ ({ wi with plots := [(0, { startable with killed := true })] } : State).grants 0 = false := by decide +kernel
theorem test_claim_work : gives (.claimPull 0 0) (claiming false) (fun t => ((mget t.plots 0).map (·.work), t.roles.length)) = some (some 2, 4) := by
  decide +kernel
theorem wit_ClaimsAndSwitches_role :
    (startable.roleSpecs.head?.bind fun x => (claiming false).startRole 0 0 1 0 startable x).isSome = true := by decide +kernel
theorem wit_ClaimsAndSwitches_coop : (claiming true).grants 0 = true ∧ (claiming true).sets = []
    ∧ (∀ q, q < 4 → (claiming true).workWaits (4 * 0 + q) = false)
    ∧ (∀ q, q < 4 → (claiming true).inCoreSet { startable with coop := true } (4 * 0 + q) = true)
    ∧ (((claiming true).startSet 0 0).bind fun x => (List.range 4).foldlM (fun (s : State) q => s.startOn (4 * 0 + q) 0
        ((({ startable with coop := true } : Plot).range (4 * 2)).filter fun t => (t - 0) % 4 == q) (some x.1)) x.2).isSome = true := by
  decide +kernel
theorem wit_ClaimsAndSwitches_out : (∀ h ∈ ((switching (.fault 0 0 3)).core 0).headland, h.plot ≠ 0)
    ∧ startable.thresh * ((switching (.fault 0 0 3)).plotRoles 0 (some 0)).length < 64 * ((switching (.fault 0 0 3)).parkedOf 0 0 true).length
    ∧ (switching (.flags 1)).parkedOf 0 0 true = [] ∧ (switching (.flags 1)).parkedOf 0 0 false = [] ++ 1 :: []
    ∧ (switching (.flags 1)).stopping 1 = false ∧ (switching (.flags 1)).slotsFor 0 0 = true
    ∧ ((switching (.flags 1)).setCore 0 { aCore with slots := (List.range 64).map fun n => (n, 1) }).slotsFor 0 0 = false
    ∧ ((mget (switching (.flags 1)).saved 60).map (switching (.flags 1)).canResume) = some true := by decide +kernel
theorem wit_ClaimsAndSwitches_stall : (mget (switching (.stall (.pod 3))).roles 1).map (·.status) = some (.parked (.stall (.pod 3)))
    ∧ (switching (.stall (.pod 3))).stopping 1 = false := by decide +kernel
/-- A context that is being stopped, with the classes that have acknowledged. -/
def stoppingAt (acks : List EngineClass) (saving : Bool) : State :=
  (switching (.flags 1)).setCore 0 { aCore with
    running := none, headland := [⟨0, [1], true, false, acks, saving⟩], tlb := [⟨0, 0, 65648, 0x80000, true, true, false⟩] }
theorem wit_ClaimsAndSwitches_stop : (stoppingAt [] false).classStopped 0 ⟨0, [1], true, false, [], false⟩ .issue = true
    ∧ (∀ c, c ∈ allClasses → c ∈ allClasses)
    ∧ ((stoppingAt allClasses false).saveFaults [1]).1 = false ∧ ((stoppingAt allClasses false).saveFaults [1]).2.1 = []
    ∧ (((stoppingAt allClasses false).saveFaults [1]).2.2.core 0).headland = [⟨0, [1], true, false, allClasses, false⟩]
    ∧ [1] ≠ ([] : List Nat)
    ∧ 1 ∈ ((stoppingAt allClasses false).saveFaults [1]).2.2.rolesOn 0 := by decide +kernel
theorem wit_ClaimsAndSwitches_saved : ((stoppingAt allClasses true).saveFaults [1]).1 = false
    ∧ (mget ((stoppingAt allClasses true).saveFaults [1]).2.2.plots 0).isSome = true
    ∧ (mget ((stoppingAt allClasses true).saveFaults [1]).2.2.roles 1).map (·.core) = some 0 := by decide +kernel

/-- The saved context that may come back, and what it comes back as; the same behind single teams. -/
def backCtx : SavedCtx := ⟨0, 0, [2], false, [], [], [], [], none, none, none⟩
def resuming : State := (switching (.flags 1)).setCore 0 { aCore with tlb := [⟨0, 0, 65648, 0x80000, true, true, false⟩] }
def behind : State := { resuming with
  saved := [(60, { backCtx with whole := true, roles := [3] }), (61, backCtx)]
  roles := resuming.roles ++ [(3, { aRole with status := .saved none })] }
theorem wit_ClaimsAndSwitches_resume : mget resuming.saved 60 = some backCtx ∧ resuming.canResume backCtx = true
    ∧ backCtx.core = 0 ∧ backCtx.set = none ∧ backCtx.roles.Nodup ∧ (resuming.loadCtx 60 0 backCtx).isSome = true
    ∧ (∀ y ∈ resuming.saved, resuming.servedBefore y.2 backCtx = true → resuming.comes 0 y = none) := by decide +kernel
theorem wit_ClaimsAndSwitches_resume_later : ∃ y ∈ behind.saved, behind.servedBefore y.2 { backCtx with whole := true, roles := [3] } = true
    ∧ (behind.comes 0 y).isSome = true := ⟨(61, backCtx), by decide +kernel⟩
theorem test_resume : gives (.contextResume 0 60) resuming (fun t => ((t.role 2).status, t.saved.length)) = some (.ready, 0) := by
  decide +kernel

/-- A copy in its core's queue, of one row of 64 bytes from 0x8000 to 0x9000, with chunks done. -/
def aCopy (done : List Nat) (src : Bool) : Cmd :=
  { Cmd.plain .cpy with
    id := 50, role := 1, core := 0, plot := some 0, team := 1, batch := 1, src := granOf 0x8000 0x1000 0 0, dst := granOf 0x9000 0x1000 0 0
    desc := granOf 0 0 0x100000040 0, done := done, srcDone := src }
def copying (done : List Nat) (src : Bool) (m : Mem := aMem) : State :=
  { (around aRole m) with ifaces := [(0, anIface)], plots := [(0, aPlot)] }.setCore 0 { aCore with
    cmds := [aCopy done src], locks := [⟨50, .local 0, 0x8000, 0x8FFF, false⟩, ⟨50, .local 0, 0x9000, 0x903F, true⟩] }
def leafs (r w : Bool) : State := (copying [] false).modCore 0 fun c => { c with tlb := [⟨0, 0, 0, 0, r, w, true⟩] }
/-- Pages 0 and 1 may be read, and page 1 is not to be had, or not to be written; the destination is in page 1. -/
def across (tlb : List Leaf) : State := (copying [] false).modCore 0 fun c =>
  { c with tlb := ⟨0, 0, 0, 0, true, true, true⟩ :: tlb, cmds := [{ aCopy [] false with dst := granOf 0x10000 0x1000 0 0 }] }
def copied (s : State) : Option Nat :=
  (s.cmd 50).bind fun c => match s.cmdRead c c.srcRec.kind 0 (Says.copyParts c 0).1 [] with
    | (.ok (bs, _), s1) =>
      match s1.cmdWrite c c.dstRec.kind (fun i => !((((s1.cmdAny c.id).getD c).part).contains (0, i))) 0
          (enginePieces c.dstRec.kind (Says.copyParts c 0).2) bs with
      | (.ok (), _, _) => some 0
      | (.wait, _, _) => some 1
      | (.fail _ _, _, _) => some 2
    | (.wait, _) => some 3
    | (.fail _ _, _) => some 4
theorem wit_EnginesComplete_chunk : (copying [] false).cmd 50 = some (aCopy [] false) ∧ (copying [] false).cmdRuns (aCopy [] false) = true
    ∧ 0 < (copying [] false).cmdChunks (aCopy [] false) ∧ (copying [] false).sentPkt (aCopy [] false) 0 = false
    ∧ Says.copyParts (aCopy [] false) 0 = ([(some 0x8000, 64)], [(some 0x9000, 64)])
    ∧ (mget (copying [] false).plots 0).isSome = true ∧ (copying [] false).migrating 0 0 0 = false
    ∧ ((copying [] false).findLeaf 0 0 0 0x8000).map (fun l => (l.r, l.w)) = some (true, true)
    ∧ ((copying [] false).findLeaf 0 0 0 0x9000).isSome = true ∧ (copying [] false).ops = []
    ∧ (copying [] false).poison = [] ∧ (copying [] false).memOk = true := by decide +kernel
/-- A stopped engine class, a copy that is read and written, a read that waits or fails, a write that fails. -/
theorem wit_EnginesComplete_outcomes :
    ((copying [] false).modCore 0 fun c => { c with headland := [⟨0, [1], true, false, allClasses, false⟩] }).cmdRuns (aCopy [] false)
      = false
    ∧ [copied (copying [] false), copied ((copying [] false).modCore 0 fun c => { c with tlb := [] }), copied (leafs false true),
        copied (leafs true false), copied (across [])] = [some 0, some 3, some 4, some 2, some 1] := by decide +kernel
theorem wit_EnginesComplete_source : (copying [0] false).sourceRead (aCopy [0] false) = true
    ∧ (copying [] false).sourceRead (aCopy [] false) = false ∧ ((copying [0] false).core 0).hosts 0 = true
    ∧ (copying [0] true).mayComplete (aCopy [0] true) = true ∧ (copying [] true).mayComplete (aCopy [] true) = false
    ∧ ((copying [0] true).core 0).triggers = [] := by decide +kernel
theorem test_copy_chunk : gives (.engineChunkDone 50 ⟨0, none⟩ []) (copying [] false (wrByte aMem 0x8005 0x77)) (fun t => rdByte t.ram 0x9005)
    = some 0x77 := by decide +kernel
theorem test_copy_atom : gives (.engineChunkDone 50 ⟨0, some 1⟩ []) (copying [] false (wrByte (wrByte aMem 0x8005 0x77) 0x8025 0x66))
    (fun t => (rdByte t.ram 0x9005, rdByte t.ram 0x9025, (t.cmd 50).any fun c => c.done == [] && c.part == [(0, 1)])) = some (0, 0x66, true) := by
  decide +kernel

/-- A collective of this one member in its core's queue. -/
def reducing (folded : AMap Bytes) (done : Bool := false) : State :=
  let c : Cmd := { Cmd.plain (.coll 1 0 false) with
    id := 50, role := 1, core := 0, plot := some 0, team := 1, batch := 1, src := granOf 0x8000 0x1000 (8 * 2 ^ 24) 0
    dst := granOf 0xA000 0x1000 (8 * 2 ^ 24) 0, desc := granOf 4 0 0 0xC000 }
  { wi with colls := [(50, ⟨c, 0, 7, 0, 0, [0], [0], [(0, ⟨[], folded, [], none, done⟩)]⟩)] }.setCore 0 { aCore with cmds := [c] }
def aColl (s : State) : Coll := (mget s.colls 50).getD ⟨Cmd.plain .cpy, 0, 0, 0, 0, [], [], []⟩
def aContribution (rank : BitVec 18) (job : BitVec 32) : Contribution :=
  ⟨rank, job, 0, 0, 0, 1, 0, 4, 8, 8, 0, 0, List.replicate 16 0, false, true⟩
theorem wit_CollectivesFoldAndCommit_arrive : wi.jobNo 8 = none ∧ (wi.jobNo 7).isSome = true
    ∧ (anIface.job.map fun j => (j.roster.has 0 0, j.roster.has 0 1)) = some (true, false) ∧ wi.collOf 7 0 0 = none
    ∧ ((reducing []).collOf 7 0 0).map (·.1) = some 50 ∧ 0 < (aColl (reducing [])).chunkCount
    ∧ ((aColl (reducing [])).chunk 0).committed = false ∧ ((aColl (reducing [])).chunk 0).result = none
    ∧ ((aColl (reducing [])).chunk 0).staged = []
    ∧ (aColl (reducing [])).agrees (aContribution 0 7) = true ∧ (aColl (reducing [])).agrees { aContribution 0 7 with op := 1 } = false := by
  decide +kernel
/-- How the commit of chunk 0 goes: 0 waits, 1 wrote a part, 2 wrote all and its entry may be written. -/
def committing (s : State) (atom : Option Nat) : Option Nat :=
  (s.cmd 50).bind fun c =>
    let res := (aColl s).result [0] 0 0
    let s0 : State := { s with colls := mset s.colls 50 ((aColl s).setChunk 0 { (aColl s).chunk 0 with result := some (res, 1) }) }
    match s0.cmdStore c 0 0 c.dstRec.kind atom (c.collParts res.writes) (res.writes.flatMap (·.2)) with
    | (.wait, _) => some 0
    | (.ok false, _) => some 1
    | (.ok true, s1) =>
      match s1.cmdPlace c 0 .wr ((c.collCommit + 16 * 0) % 2 ^ 64) with
      | (.ok (.ram _), s2) =>
        if s.cmdRuns c && !c.collLog && s2.memOk && s2.poison.isEmpty && (s2.core 0).triggers.isEmpty && (s2.core 0).hosts 0 then some 2 else none
      | _ => none
    | _ => none
def ready : State := reducing [(0, List.replicate 16 0)]
theorem wit_CollectivesFoldAndCommit_commit :
    [committing ready none, committing ready (some 0), committing (ready.modCore 0 fun c => { c with tlb := [] }) none]
      = [some 2, some 1, some 0]
    ∧ (∀ m ∈ (aColl ready).contributors [0], (mget ((aColl ready).chunk 0).folded m).isSome = true)
    ∧ (∃ m ∈ (aColl (reducing [])).contributors [0], mget ((aColl (reducing [])).chunk 0).folded m = none)
    ∧ (aColl ready).chunkCount = 1 ∧ ((aColl (reducing [] true)).chunk 0).committed = true := by
  decide +kernel
theorem wit_CollectivesFoldAndCommit_rootless : ({ aColl (reducing []) with cmd := { (aColl (reducing [])).cmd with kind := .coll 5 0 false } }
      : Coll).cmd.collKind = 5
    ∧ mget (({ aColl (reducing []) with cmd := { (aColl (reducing [])).cmd with kind := .coll 5 0 false } } : Coll).chunk 0).folded
        ({ (aColl (reducing [])).cmd with kind := .coll 5 0 false } : Cmd).collRoot = none := by decide +kernel
theorem wit_CollectivesFoldAndCommit_resend : ∃ c, (reducing []).cmd 50 = some c ∧ c.done = [] := ⟨_, rfl, rfl⟩

/-- Region 2 of the plot: 64 KiB at 0x10000; packets of rank 9 to it. -/
def aRegion : Region := ⟨0, 0, 0, 0, 0x0, 0x10000, 5, true, true, true⟩
def targeted : State := { wi with regions := [(2, aRegion)] }
def aPacket (op : PacketOp) (key : BitVec 32) : Packet :=
  ⟨9, 3, BitVec.ofNat 64 (2 * 2 ^ 40 + 0x3000), key, op, 0, false, none⟩
/-- The same without a job, so that every rank may send. -/
def openTo : State := { targeted with ifaces := [(0, { anIface with job := none })] }.setCore 0 aCore
theorem wit_PacketsArriveAndReturn_admitted : (openTo.admitted (aPacket (.read 4) 5)).isSome = true
    ∧ openTo.admitted (aPacket (.read 4) 6) = none ∧ targeted.admitted (aPacket (.read 4) 5) = none
    ∧ (aPacket (.read 4) 5).src ≠ openTo.rank ∧ ({ aPacket (.read 4) 5 with src := 0 } : Packet).src = openTo.rank
    ∧ openTo.waitPkts = [] ∧ openTo.poison = [] ∧ openTo.memOk = true := by decide +kernel
/-- The bytes of a packet in the region: the address of the one part, or 1 when it fails, 2 when it waits; and whether the
state is as before, and the rank. -/
def spans (s : State) (a : Acc) (n : Nat) : Nat × Bool × Bool :=
  let (r, t) := s.regionSpan aRegion a (lineSpans (aRegion.base + preryOff (aPacket (.read 4) 5).addr) n)
  (match r with
    | .ok [(pa, k)] => if k = n then pa else 0
    | .ok _ => 0
    | .fail => 1
    | .wait => 2, decide (t = s), decide (t.rank = s.rank))
def mapped (w : Bool := true) : State :=
  { openTo with tlb2 := [⟨0, 0, 0, 0x70000, true, w, false⟩] }
def unmapped : State := openTo.modCore 0 fun c => { c with tlb := [] }
theorem wit_PacketsArriveAndReturn_placed : [spans openTo .wr 4, spans openTo .rd 4, spans openTo .at' 4].all
      (fun x => x == (0x3000, true, true)) = true
    ∧ (spans ((mapped false).modCore 0 fun c => { c with tlb := [] }) .wr 4).1 = 1
    ∧ (spans unmapped .wr 4).1 = 2 ∧ (spans unmapped .wr 4).2.2 = true
    ∧ Says.atomResult 0 (BitVec.ofNat 32 (rdLE openTo.ram 0x3000 4)) 1 = some 0x11223345 := by decide +kernel
/-- A packet placed before; one that waits, its page not to be had; and one whose interval is closed. -/
theorem wit_PacketsArriveAndReturn_again :
    ({ openTo with placed := [(9, 3, [7])] } : State).placed.find? (fun x => x.1 == 9 && x.2.1 == 3) = some (9, 3, [7])
    ∧ ({ unmapped with waitPkts := [⟨aRegion, aPacket (.read 4) 5, []⟩] } : State).waitPkts.find?
        (fun w => w.packet.src == 9 && w.packet.seq == 3) = some ⟨aRegion, aPacket (.read 4) 5, []⟩
    ∧ (spans { unmapped with waitPkts := ([⟨aRegion, aPacket (.read 4) 5, []⟩] : List WaitPkt).erase ⟨aRegion, aPacket (.read 4) 5, []⟩ }
        .rd 4).1 = 2
    ∧ ({ openTo with fenceTab := [⟨⟨9, 7, 1, 0⟩, none, 0, some 2, true⟩] } : State).fenceClosed ⟨9, 7, 1, 0⟩ = true := by decide +kernel
theorem test_packet_write : gives (.packetArrive ⟨aPacket (.write [1, 2] [true, true]) 5, none⟩) openTo
    (fun t => (rdLE t.ram 0x3000 4, t.out == openTo.out ++ [.packetAck 9 3 (.placed [])])) = some (0x11220201, true) := by decide +kernel
/-- A PUT with its one packet out, over Ultra Ethernet or UALink. -/
def putting (sends : Nat) (table : Nat := 1) (later : Bool := false) : State :=
  let c : Cmd := { (aCopy [] false) with kind := .put }
  { wi with
    pods := [(0, BitVec.ofNat 128 (256 * table + 2 ^ 32))], paths := [(0, 1)]
    outPkts := [⟨50, 0, 0, 0, { aPacket (.write [1] [true]) 5 with seq := 77, addr := BitVec.ofNat 64 (9 * 2 ^ 46) }, sends, some 0, later,
      none⟩] }.setCore 0 { aCore with cmds := [c] }
def aRoute (s : State) : Route := s.route (preryRank (BitVec.ofNat 64 (9 * 2 ^ 46)))
theorem wit_PacketsArriveAndReturn_acknowledged : ((putting 1).outPkts.find? fun o => o.packet.seq == 77).map (·.got) = some none
    ∧ ((putting 1).cmd 50).map (fun c => (c.kind, c.copy.cntS)) = some (.put, false) ∧ (putting 1).fenceOut 77 = none
    ∧ (putting 1).outContribs.find? (fun o => o.seq == 77) = none
    ∧ aRoute (putting 1) = .uet 1 0 ∧ aRoute (putting 1 3) = .ual 9 0 ∧ wi.route (preryRank 0) = .self
    ∧ ((putting 16 1 true).outPkts.map fun o => (o.sends, o.later)) = [(16, true)] := by decide +kernel
def contributing : State := { wi with outContribs := [⟨77, 50, 9, 1, none, aContribution 9 7⟩] }
theorem wit_PacketsArriveAndReturn_contribution : (contributing.outContribs.find? fun o => o.seq == 77).isSome = true := by decide +kernel
theorem wit_FencesAreAnswered : ({ wi with fenceTab := [⟨⟨9, 7, 1, 0⟩, some 0, 2, none, false⟩] } : State).fenceTab.find?
      (fun e => e.id == ⟨9, 7, 1, 0⟩ && !e.closed) = some ⟨⟨9, 7, 1, 0⟩, some 0, 2, none, false⟩
    ∧ ({ wi with fenceTab := [⟨⟨9, 7, 1, 0⟩, some 0, 2, none, false⟩] } : State).fenceClosed ⟨9, 7, 1, 0⟩ = false
    ∧ ({ wi with fenceTab := [⟨⟨9, 7, 1, 0⟩, none, 0, some 2, false⟩] } : State).fenceTab.find?
      (fun e => e.id == ⟨9, 7, 1, 0⟩ && !e.closed) = some ⟨⟨9, 7, 1, 0⟩, none, 0, some 2, false⟩
    ∧ (FenceId.mk 9 7 1 0).rank ≠ wi.rank
    ∧ ({ wi with fenceTab := [⟨⟨9, 7, 1, 0⟩, none, 0, some 2, true⟩] } : State).fenceClosed ⟨9, 7, 1, 0⟩ = true := by decide +kernel
/-- A FENCEX whose fence has been sent. -/
def fencing (done : List Nat) : State :=
  wi.setCore 0 { aCore with cmds := [{ (aCopy done true) with kind := .fencex, desc := 2 }] }
theorem wit_FencesAreAnswered_receive : ((fencing [0]).cmd 50).map (fun c => (c.kind, c.done)) = some (.fencex, [0])
    ∧ ((fencing [0, 1]).cmd 50).map (fun c => c.done) = some [0, 1] ∧ ((fencing [0]).fenceOut 50).isSome = true
    ∧ (fencing [0]).outContribs = [] := by decide +kernel

/-! ### Queues, launches and the host's port -/

/-- Queue 0 of interface 0, its ring at host address 0x1000000, at the entry at HEAD. -/
def aQueue : Queue :=
  { Queue.reset with base := 0x1000000, cfg := 0x8000000000000000, tail := 1, headWb := 0x2000000, launches := [0] }
def queued (x : Queue) (w0 : Nat) : State :=
  { wi with queues := [(0, x)], hostMem := wrBytes [] 0x1000000 (leBytes 8 w0) }
theorem wit_QueueRegistersAndEntries_registers : Says.queueReady (queued aQueue 0) 0 0 false 0
    ∧ (5 : BitVec 32) ≠ aQueue.tail ∧ aQueue.size < ((20 : BitVec 32) - aQueue.head).toNat
    ∧ ((0x8000000000000000 : BitVec 64).extractLsb' 16 4).toNat ≤ 12 ∧ Queue.reset.en = false
    ∧ ({ aQueue with status := 0x8003000000000000 } : Queue).stopped = true
    ∧ ({ aQueue with status := 0x8003000000000000 } : Queue).err ≠ 0x0D := by
  refine ⟨⟨by decide, by decide +kernel, by decide +kernel, by decide +kernel⟩, ?_⟩
  decide +kernel
def reads (s : State) (ty : Nat) : Bool :=
  match s.readEntry 0 0 [] with
  | (some e, _) => entryType e == ty
  | _ => false
theorem wit_QueueRegistersAndEntries_entries : (queued aQueue 0).queueVi 0 = some 0 ∧ aQueue.reads = true
    ∧ (anIface.tdi ≠ .error) ∧ reads (queued aQueue 0) 0 = true ∧ reads (queued aQueue (2 * 2 ^ 60)) 2 = true
    ∧ reads (queued aQueue (3 * 2 ^ 60)) 3 = true ∧ reads (queued aQueue (9 * 2 ^ 60)) 9 = true := by decide +kernel
/-- Queue 0 has refused an entry with a completion address in a page the interface may use. -/
def refusing : State :=
  { wi with ifaces := [(0, { anIface with atc := [0x3000] })]
            queues := [(0, { aQueue with status := 0x8003000000000000, refused := [0, 0, 0, 0, 0, 0, 0x3000000, 0], headWb := 0 })] }
theorem wit_QueueRegistersAndEntries_skip : Says.queueReady refusing 0 0 false 0
    ∧ ((refusing.queue 0).stopped, (refusing.queue 0).err == 0x0D, (refusing.queue 0).refused.getD 6 0) = (true, false, 0x3000000)
    ∧ (0x3000000 : BitVec 64).getLsbD 0 = false ∧ (refusing.queue 0).headWb = 0 ∧ (refusing.iface 0).tdi ≠ .error
    ∧ (0x3000000 : BitVec 64).toNat / 16 * 16 / 4096 ∈ (refusing.iface 0).atc
    ∧ (refusing.next, (0x3000000 : BitVec 64).toNat / 16 * 16 / 4096) ∉ (refusing.iface 0).atsFailed ∧ refusing.memOk = true := by
  refine ⟨⟨by decide, by decide +kernel, by decide +kernel, by decide +kernel⟩, ?_⟩
  decide +kernel
theorem wit_QueueRegistersAndEntries_wait : (∃ p ∈ [0], p ∈ aQueue.launches) ∧ (∀ p ∈ [1], p ∉ aQueue.launches)
    ∧ aQueue.en = true ∧ aQueue.stopped = false ∧ ({ aQueue with waiting := some [0] } : Queue).waiting = some [0]
    ∧ ({ aQueue with signals := [⟨5, 0x3000000, true, [0]⟩] } : Queue).signals.find?
        (fun g => !(g.after.any aQueue.launches.contains)) = none
    ∧ ({ aQueue with signals := [⟨5, 0x3000000, true, []⟩] } : Queue).signals.find?
        (fun g => !(g.after.any aQueue.launches.contains)) = some ⟨5, 0x3000000, true, []⟩
    ∧ ((0x3000000 : BitVec 64).toNat / 16 * 16 / 4096 ∈ ({ anIface with atc := [0x3000] } : Iface).atc) := by decide +kernel
/-- An entry, a descriptor and arguments of a good launch: word 0 with threshold 1; one role of one group. -/
def goodEntry : List (BitVec 64) := [BitVec.ofNat 64 (2 ^ 60 + 2 ^ 27), 0x1000, 0x1100, BitVec.ofNat 64 (1 + 2 ^ 32), 0, 0x10000, 0, 0]
def goodDesc : List (BitVec 64) := [0x1000, 0, 0, 0, BitVec.ofNat 64 (1 + 2 * 4096 + 2 * 2 ^ 19)] ++ List.replicate 27 0
theorem wit_LaunchesAndEnds_good : launchFault anIface goodEntry goodDesc
      (launchPlot 0 0 0 goodEntry goodDesc (List.replicate 8 0)) = none
    ∧ launchFault anIface goodEntry (0 :: goodDesc.tail) (launchPlot 0 0 0 goodEntry (0 :: goodDesc.tail) []) = some 4
    ∧ entryType goodEntry = 1 ∧ ((goodEntry.getD 0 0).extractLsb' 44 8).toNat < anIface.acount
    ∧ ((mget anIface.roots 0).getD 0).getLsbD 0 = true ∧ anIface.acount ≤ 4
    ∧ ((wi.reserve 0 4096).map (·.1)) = some 0x1000000 ∧ w.reserve 0 4096 = none := by decide +kernel
/-- Page 0 of interface 0 is at 0x70000 and holds a descriptor and arguments; queue 0 holds an entry. -/
def launching (e d : List (BitVec 64)) (vi : Iface := anIface) (x : Queue := aQueue) : State :=
  { wi with
    ifaces := [(0, vi)], queues := [(0, x)], tlb2 := [⟨0, 0, 0, 0x70000, true, true, false⟩]
    hostMem := wrBytes [] 0x1000000 (e.flatMap fun v => leBytes 8 v.toNat), ram := wrBytes aMem 0x71000 (d.flatMap fun v => leBytes 8 v.toNat) }
/-- Which clause an entry of a queue falls under: unreadable, of no type, no ASID, no block, no pool, good; a descriptor
or the entry itself in a page that is migrating; 16 + a code. -/
def launchCase (s : State) : Nat :=
  match s.queueVi 0 with
  | none => 99
  | some vi =>
    if s.entryHeld vi 0 then 7 else
    match s.readEntry vi 0 [] with
    | (none, _) => 0
    | (some e, s1) =>
      let asid := ((e.getD 0 0).extractLsb' 44 8).toNat
      if 3 < entryType e then 1
      else if (s1.iface vi).acount ≤ asid || !((mget (s1.iface vi).roots asid).getD 0).getLsbD 0 then 2
      else if s1.migrating vi asid ((e.getD 1 0).toNat / 65536) || s1.migrating vi asid ((e.getD 2 0).toNat / 65536) then 6
      else
        let (d, s2) := s1.readBlock vi asid (e.getD 1 0).toNat 256
        let (a, s3) := s2.readBlock vi asid (e.getD 2 0).toNat 64
        match d, a with
        | some d', some a' =>
          match launchFault (s1.iface vi) e d' (launchPlot vi 0 (s1.queue 0).head.toNat e d' a') with
          | some err => 16 + err
          | none => if (s3.reserve vi 4096).isSome then 5 else 4
        | _, _ => 3
theorem wit_LaunchesAndEnds_cases :
    [launching goodEntry goodDesc, launching goodEntry goodDesc { anIface with saveSize := 0 }, launching (goodEntry.set 1 0x1001) goodDesc,
      launching goodEntry goodDesc { anIface with roots := [] }, launching goodEntry (0 :: goodDesc.tail),
      launching (goodEntry.set 0 (9 * 2 ^ 60)) goodDesc,
      launching goodEntry goodDesc anIface { aQueue with base := 0x100000001 },
      launching goodEntry goodDesc { anIface with migs := [⟨9, 0, 0, true, 0x70000, 0, 0, 0⟩] },
      launching goodEntry goodDesc { anIface with migs := [⟨9, 0, 0x10000, true, 0x70000, 0, 0, 0⟩] }
        { aQueue with base := 0x100000001 }].map launchCase = [5, 4, 3, 2, 20, 1, 0, 6, 7] := by
  decide +kernel
/-- A store under way to a place. -/
def storeTo (p : Place) : MemOp := { (w.opNow 1 (.store 4) false 1 ⟨0, 0, 4, p, 0, 0, 0⟩) with id := 5, level := .core }
def ending : State := { wi with roles := [(0, Role.hyaluo)], teams := [(0, Team.hyaluo)], plots := [(0, { aPlot with work := 1, grid := 1 })] }
theorem wit_LaunchesAndEnds_end : ending.plotOver 0 { aPlot with work := 1, grid := 1 } = true ∧ ending.writesLeft = false
    ∧ aPlot.compl = 0 ∧ aPlot.ended = false ∧ wi.plotOver 0 aPlot = false
    ∧ ({ ending with ops := [{ storeTo (.ram 5) with role := 9 }] } : State).writesLeft = true := by decide +kernel

/-- Records of reasons 1, 3 and 5. -/
def faulted (f : FaultRec) : State :=
  { (walking 0x10000) with
    ifaces := [(0, { anIface with faults := [f] })]
    roles := [(0, Role.hyaluo), (1, { aRole with status := .parked (.fault 0 0 3) })] }
theorem wit_FaultRecordsAnswered_retry : Says.hostReady (faulted ⟨1, 0, 3, 1, none, []⟩) 0 false
    ∧ Says.answersRecord (faulted ⟨1, 0, 3, 1, none, []⟩) 0 1 0 ⟨1, 0, 3, 1, none, []⟩
    ∧ Says.answersRecord (faulted ⟨1, 0, 3, 1, none, []⟩) 0 0x10001 1 ⟨1, 0, 3, 1, none, []⟩
    ∧ (∀ c ∈ (faulted ⟨1, 0, 3, 1, none, []⟩).cores, c.2.headland = []) ∧ (faulted ⟨1, 0, 3, 1, none, []⟩).waitPkts = []
    ∧ (faulted ⟨1, 0, 3, 1, none, []⟩).recs = [] ∧ aRole.reserve = [] ∧ aRole.spilling = false
    ∧ 1 ∈ (faulted ⟨1, 0, 3, 1, none, []⟩).faultRoles 0 0 3 :=
  ⟨⟨by decide, by decide +kernel⟩, ⟨by decide, by decide, by decide +kernel⟩, ⟨by decide, by decide, by decide +kernel⟩,
    by decide +kernel, rfl, rfl, rfl, rfl, by decide +kernel⟩
/-- Page 3 belongs to the host: its leaf is LOC 3. -/
def hostOwned : State :=
  { (faulted ⟨1, 0, 3, 3, none, []⟩) with ram := wrBytes tables 0x52018 (leBytes 8 (0x3000000000050000 + 0x1F)) }
def ownerFound (s : State) : Bool :=
  match s.walk 0 0 (3 * 65536) with
  | .owner _ _ => true
  | _ => false
theorem wit_FaultRecordsAnswered_migrate : ownerFound hostOwned = true
    ∧ Says.answersRecord hostOwned 0 0x20001 2 ⟨1, 0, 3, 3, none, []⟩ := ⟨by decide +kernel, by decide, by decide, by decide +kernel⟩
theorem wit_FaultRecordsAnswered_resume : Says.answersRecord (faulted ⟨1, 0, 3, 5, some 1, []⟩) 0 1 0 ⟨1, 0, 3, 5, some 1, []⟩
    ∧ (mget (faulted ⟨1, 0, 3, 5, some 1, []⟩).roles 1).map (fun r => (r.status.isSaved, r.plot)) = some (false, some 0)
    ∧ (mget (faulted ⟨1, 0, 3, 5, some 1, []⟩).plots 0).map (·.killed) = some false :=
  ⟨⟨by decide, by decide, by decide +kernel⟩, by decide +kernel, by decide +kernel⟩
theorem wit_InvalidationsFaultRingAndMigrations_commands : Says.hostReady wi 0 false
    ∧ (∃ c, Says.invalidating (.invcmdPages 0 0x8000000000000001 false) = some (0, 0x8000000000000001, false, c))
    ∧ (0x8000000000000001 : BitVec 64).extractLsb' 58 2 = Says.invScope (.invcmdPages 0 0x8000000000000001 false)
    ∧ (0x8000000000000001 : BitVec 64).extractLsb' 60 3 = 0 ∧ (0x8000000000000001 : BitVec 64).extractLsb' 32 18 = 0 :=
  ⟨⟨by decide, by decide +kernel⟩, ⟨_, rfl⟩, rfl, rfl, rfl⟩
/-- Records wait, with room in the ring and without. -/
def ringing : Iface := { anIface with faultWait := [List.replicate 24 0], faultBase := 0x4000000 }
theorem wit_InvalidationsFaultRingAndMigrations_ring : ringing.faultRoom = true
    ∧ ({ ringing with faultHead := 64 } : Iface).faultRoom = false ∧ ringing.faultWait = [List.replicate 24 0]
    ∧ ({ anIface with invQ := [⟨some 0, 0, 1, none⟩] } : Iface).invQ = ⟨some 0, 0, 1, none⟩ :: [] := by decide +kernel
/-- Page 4 is a 64 KiB page that may migrate (LOC 2), to host address 0x5000000. -/
def migrating : State :=
  { (walking 0x10000) with
    ram := wrBytes tables 0x52020 (leBytes 8 (0x2000000000060000 + 0x1F))
    ifaces := [(0, { anIface with migVa := 0x40000, migIova := 0x5000000, faultCfg := 0, migs := [⟨9, 0, 5, true, 0x80000, 0x6000000, 0x200000000008001F, 0x52028⟩] })] }
def migrates (s : State) : Bool :=
  match s.walk 0 0 0x40000 with
  | .leaf e 0 _ => e.loc == 2
  | _ => false
theorem wit_InvalidationsFaultRingAndMigrations_migrate : migrates migrating = true ∧ (migrating.iface 0).migs.length < 64
    ∧ ((migrating.iface 0).migs.find? fun m => m.token == 9).map (fun m => migrating.pageBusy 0 m) = some false
    ∧ ((migrating.iface 0).migs.find? fun m => m.token == 9).map (fun m => ({ migrating with ops := [storeTo (.ram 0x80010)] } : State).pageBusy 0 m) = some true
    ∧ (migrating.iface 0).migs.find? (fun m => m.token == 8) = none ∧ migrating.waitPkts = [] ∧ migrating.recs = [] ∧ migrating.poison = []
    ∧ migrating.memOk = true ∧ (migrating.iface 0).stopDue = false ∧ (migrating.iface 0).resetDue = false
    ∧ (migrating.iface 0).faultCfg.getLsbD 63 = false := by decide +kernel
theorem wit_HostAccesses_refused : Says.hostPort (.bar4Read 0 0 4 false) = some (0, false)
    ∧ ({ anIface with tdi := .run } : Iface).tdi ≠ .unlocked := ⟨rfl, by decide⟩
theorem wit_HostAccesses_window : Says.hostReady wi 0 false ∧ wi.memOk = true ∧ (Says.windowByte anIface (0x3000 + 4 - 1)).2
    ∧ ¬(Says.windowByte { anIface with entry := anIface.entry.set 10 0 } 0).2
    ∧ Says.plainRegister anIface 5 (.migVa 0) = some (0, { anIface with migVa := 5 }) :=
  ⟨⟨by decide, by decide +kernel⟩, by decide +kernel, by show (_ : Nat) < _; decide +kernel, by show ¬((_ : Nat) < _); decide +kernel, rfl⟩
theorem wit_InvalidationsFaultRingAndMigrations_more : (wi.usesDropped 0 ⟨some 0, 0, 1, none⟩ 100,
      ({ wi with ops := [storeTo (.ram 5)] } : State).usesDropped 0 ⟨some 0, 0, 1, none⟩ 100) = (false, true)
    ∧ (0x9000000000000001 : BitVec 64).extractLsb' 60 3 ≠ 0 ∧ 0x80000 + 65536 ≤ anIface.physBase + anIface.physSize := by
  decide +kernel
theorem test_window_add : gives (.bar4Atomic 0 0x3000 (.fetchAdd 4 1) false) wi (fun t => rdLE t.ram 0x3000 4) = some 0x11223345 := by
  decide +kernel
def hostHeld (st : Status) : State := { wi with roles := [(0, Role.hyaluo), (1, { aRole with status := st })] }
theorem wit_HostTranslations_roles : (hostHeld (.held (.tlb 0x5000 true 1))).space aRole = some (0, 0)
    ∧ (mget (hostHeld (.parked .hostFault)).roles 1).map (·.status) = some (.parked .hostFault)
    ∧ (mget (hostHeld (.saved (some .hostFault))).roles 1).map (·.status) = some (.saved (some .hostFault)) := by decide +kernel
def commandAsks : State := { wi with ifaces := [(0, { anIface with atsReqs := [(50, 5)] })] }
theorem wit_HostTranslations_commands : mget commandAsks.roles 50 = none ∧ commandAsks.asked 50 = [(0, 5)] ∧ commandAsks.recs = []
    ∧ commandAsks.cmd 50 = none ∧ commandAsks.saved = []
    ∧ (⟨granOf 0x8000 0x1000 0x80000000 0 |>.toNat⟩ : Rec).kind = 2
    ∧ (((copying [] false).modCore 0 fun c => { c with cmds := [{ aCopy [] false with src := granOf 0x8000 0x1000 0x80000000 0 }] }).cmd 50).map
        (fun c => c.srcRec.kind) = some 2 ∧ (aCopy [] false).dstRec.kind = 0 := by decide +kernel
theorem wit_HostTranslations_invalidation : ({ anIface with atsInv := [(5, 6, 100)] } : Iface).atsInv = (5, 6, 100) :: []
    ∧ wi.hostBusy 0 5 6 100 = false ∧ ({ wi with ops := [storeTo (.host 0x5010)] } : State).hostBusy 0 5 6 100 = true := by decide +kernel
theorem wit_InterfaceTableAndContextCommands_entry : anIface.entry.length = 16 ∧ anIface.tdi = .unlocked ∧ anIface.en = true
    ∧ wi.entryFault 0 anIface = none ∧ ({ wi with plots := [] } : State).namedPlot = none
    ∧ (wi.entryFault 0 { anIface with entry := anIface.entry.set 10 (BitVec.allOnes 64) }).isSome = true := by decide +kernel
theorem wit_InterfaceTableAndContextCommands_commands : wi.ctxBusy = false ∧ wi.namedPlot = some 0 ∧ wi.namedRoles 0 = [1]
    ∧ (0xB000000000000000 : BitVec 64).getLsbD 63 = true ∧ (0xB000000000000000 : BitVec 64).extractLsb' 60 3 = 3
    ∧ aPlot.killed = false ∧ wi.waitPkts = [] ∧ (wi.role 1).core = 0 ∧ (wi.role 1).status.isSaved = false := by decide +kernel
theorem wit_InterfaceTableAndContextCommands_pool : (∃ x ∈ wi.plots, x.2.vi = 0)
    ∧ (∀ x ∈ ({ wi with plots := [] } : State).plots, x.2.vi ≠ 0) ∧ 0x1000000 + 0x1000000 ≤ anIface.physSize := by decide +kernel

/-! ### Trust, mailboxes, management and the package -/

/-- An interface of world 1 that may be locked: its save pool sealed, its terms set, its stream secure. -/
def lockable : Iface :=
  { anIface with
    entry := anIface.entry.set 0 (BitVec.ofNat 64 (2 ^ 63 + 2 ^ 52 + 4 * 2 ^ 40 + 4 * 2 ^ 21)), saveBase := 0, saveSize := 0x4000000
    sealedR := [0x8000000000001000, 0, 0, 0, 0, 0, 0, 0], terms := some ⟨0, 4, 0x1000⟩, ideSecure := true, nonce := 5 }
def trusting (i : Iface) : State :=
  { State.reset with ifaces := [(0, i)], worldMap := [(0, 1)], roles := [(0, Role.hyaluo)] }
theorem wit_TrustAndTelemetry_tdisp : (trusting lockable).mayLock 0 = true ∧ wi.mayLock 0 = false ∧ Says.noPlots (trusting lockable) 0
    ∧ (trusting { lockable with tdi := .locked }).bootStat = 0 ∧ ({ lockable with tdi := .locked } : Iface).nonce = 5
    ∧ (∀ c ∈ (trusting lockable).cores, c.2.cmds = []) :=
  ⟨by decide +kernel, by decide +kernel, by unfold Says.noPlots; decide +kernel, rfl, rfl, by decide +kernel⟩
theorem wit_TrustAndTelemetry_world : wi.worldBusy = none ∧ wi.clusterHeld 0 = true ∧ wi.clusterHeld 5 = false
    ∧ (0x8000000000000085 : BitVec 64).getLsbD 63 = true ∧ ((0x8000000000000085 : BitVec 64).extractLsb' 0 7).toNat = 5
    ∧ (0x8000000000000085 : BitVec 64).extractLsb' 13 50 = 0 ∧ wi.meas.length = 16 := by decide +kernel
theorem wit_TrustAndTelemetry_sealed : wi.sealedBad 0 0 0x8000000000001000 = false ∧ wi.sealedBad 0 0 0x8000000000001001 = true
    ∧ anIface.sealedR.length = 8 ∧ Says.inSealed anIface 0x8000000000001000 0x100 := by unfold Says.inSealed; decide +kernel
theorem wit_TrustAndTelemetry_telemetry : telKnown 0 = true ∧ telKnown 0xFFFFFFFF = false ∧ wi.withholders 0 = [] := by decide +kernel
theorem wit_MailboxesAndResponders : wi.bootStat = 0 ∧ (wi.responder 0).reqLen = 0 ∧ Says.spdmOf (.getVersion 0 [0x10, 0x84, 0, 0]) = some (0, 0x84, 0x04, [0x10, 0x84, 0, 0])
    ∧ wellFormedReq 0x84 [0x10, 0x84, 0, 0] = true ∧ wellFormedReq 0x84 [0x10, 0x84, 1, 0] = false
    ∧ (Says.spdmStates 0x84).1 = none ∧ (Says.spdmStates 0xE1).1 = some .afterVersion ∧ (wi.responder 0).state = .init
    ∧ msgByte [0x12, 0x85, 0, 0] 1 ∉ supportedCodes ∧ msgByte [0x12, 0x85, 0, 0] 1 ∉ sessionCodes := by decide +kernel
theorem wit_MailboxesAndResponders_terms :
    (lockable.termsOf ([1, 0, 0, 0, 3, 0, 4, 0] ++ leBytes 8 0x1000)).isSome = true ∧ lockable.tdi = .unlocked := by decide +kernel
def message (n : Nat) (p : Bytes) : Bytes := [0, 0, 0, BitVec.ofNat 8 n, 0, 0, 0, 0] ++ p
theorem wit_ManagementCommands_rank : Says.commanded (.setrank true 0 (message 1 (leBytes 4 9))) 1 0 (leBytes 4 (9 : BitVec 18).toNat) State.reset
    ∧ State.reset.plots = [] ∧ State.reset.saved = [] := ⟨⟨message 1 [], rfl, rfl, rfl⟩, rfl, rfl⟩
theorem wit_ManagementCommands_out : Says.nothingOut State.reset := ⟨rfl, rfl, by decide, fun _ h => by cases h⟩
theorem wit_ManagementCommands_tables :
    Says.commanded (.setpath true 0 (message 3 (leBytes 1 4 ++ leBytes 2 9))) 3 0 (leBytes 1 (4 : BitVec 4).toNat ++ leBytes 2 (9 : BitVec 16).toNat) State.reset
    ∧ State.reset.outPkts = [] ∧ (0x200 : BitVec 128).extractLsb' 10 6 = 0 ∧ (0x200 : BitVec 128).extractLsb' 0 8 = 0
    ∧ (0x200 : BitVec 128).extractLsb' 64 13 = 0 ∧ (0x200 : BitVec 128).extractLsb' 8 2 = 2 :=
  ⟨⟨message 3 [], rfl, rfl, rfl⟩, rfl, rfl, rfl, rfl, rfl⟩
/-- A JOBSET of job 8 on interface 0: a ring of one slot at 0x100000 inside the sealed range, and a roster of rank 0. -/
def jobset : Bytes :=
  leBytes 4 8 ++ leBytes 2 0 ++ leBytes 2 0x8000 ++ leBytes 8 0x100000 ++ leBytes 8 1 ++ leBytes 32 0 ++ leBytes 4 1
    ++ leBytes 2 1 ++ leBytes 4 1 ++ leBytes 4 0
def bindable : State := trusting { lockable with saveBase := 0x2000000, saveSize := 0x1000000, job := none }
theorem wit_ManagementCommands_jobset : Says.commanded (.jobset true 0 (message 6 jobset)) 6 0 jobset bindable
    ∧ bindable.jobHeaderBad jobset = false ∧ payload jobset 6 2 % 2 ^ 15 = 0 ∧ 128 ≤ (jobset.getD 7 0).toNat
    ∧ State.reset.jobHeaderBad jobset = true ∧ Says.noPlots bindable 0 ∧ bindable.memOk = true :=
  ⟨⟨message 6 [], rfl, rfl, rfl⟩, by decide +kernel, by decide +kernel, by decide +kernel, by decide +kernel,
    by unfold Says.noPlots; decide +kernel, by decide +kernel⟩
/-- A roster entry: rank 2 is admitted to communicator 0. -/
def admitting : Bytes := leBytes 4 0 ++ leBytes 4 2 ++ leBytes 4 0 ++ leBytes 4 0
theorem wit_ManagementCommands_roster : admitting.length = 16 ∧ (wi.jobNo 7).isSome = true ∧ wi.jobNo 8 = none
    ∧ Says.commanded (.roster true 0 (message 7 (leBytes 4 7 ++ leBytes 4 2 ++ leBytes 2 1 ++ admitting))) 7 0
      (leBytes 4 (7 : BitVec 32).toNat ++ leBytes 4 (2 : BitVec 32).toNat ++ leBytes 2 1 ++ admitting) wi :=
  ⟨by decide +kernel, by decide +kernel, by decide +kernel, message 7 [], rfl, by decide +kernel, rfl⟩
theorem wit_ManagementCommands_log : Says.commanded (.logtail true 0 (message 8 (leBytes 4 7 ++ leBytes 8 1))) 8 0
      (leBytes 4 (7 : BitVec 32).toNat ++ leBytes 8 (1 : BitVec 64).toNat) wi
    ∧ Says.commanded (.loginfo true 0 (message 9 (leBytes 4 7))) 9 0 (leBytes 4 (7 : BitVec 32).toNat) wi
    ∧ ¬((1 : BitVec 64).toNat < rdLE wi.ram (0x2000000 + 8) 8) :=
  ⟨⟨message 8 [], rfl, by decide +kernel, rfl⟩, ⟨message 9 [], rfl, by decide +kernel, rfl⟩, by decide +kernel⟩
theorem wit_LifetimeAndPackage : State.reset.memOk = true ∧ 39 < (Says.lifeSize 0).1 ∧ (Says.lifeSize 7).1 ≤ 0 ∧ 36 < 37 := by decide +kernel
end Sys2Proof.Tests
end

section
/-! SUPPORT. Scalar registers (R21, R44, R45): what a read of one gives after consecutive ones are written, and the
shapes of instructions with a scalar destination or operand (R60, R176), when their names and operands are good. -/

namespace Sys2Proof.Laws.Scalars

open Sys2Proof Sys2Proof.Machine

/-! ## One granule -/

theorem granReg_mkGran (f : Nat → BitVec 64) (i : Nat) (h : i < 4) : granReg (mkGran f) i = f i := by
  apply BitVec.eq_of_toNat_eq
  unfold granReg mkGran
  rw [field_ofNat _ _ (packNat_lt 64 (fun i => (f i).toNat) 4), packNat_field 64 (fun i => (f i).toNat) 4 i h]
  exact Nat.mod_eq_of_lt (f i).isLt

@[simp] theorem granReg_zero (i : Nat) : granReg 0#256 i = 0#64 := by simp [granReg]

/-- One granule of a write of consecutive scalar registers: a step of `Frame.writeSs`. -/
def writeGran (n : Nat) (vs : List (BitVec 64)) (f : Frame) (gi : Nat) : Frame :=
  let full := n ≤ 4 * gi && 4 * gi + 4 ≤ n + vs.length
  let old := mget f.grans gi
  let tag := match old with
    | none => f.gen
    | some r => if !full && r.tag != f.gen && r.tag == poisonTag then poisonTag else f.gen
  let base : BitVec 256 := match old with
    | none => 0
    | some r => if r.tag = f.gen || tag = poisonTag then r.data else 0
  let flaw := match old with
    | none => false
    | some r => !full && (r.tag == f.gen || tag == poisonTag) && r.flaw
  { f with grans := mset f.grans gi ⟨tag, mkGran fun i => (granWrites n vs gi i).getD (granReg base i), flaw⟩ }

theorem writeSs_eq_foldl (f : Frame) (n : Nat) (vs : List (BitVec 64)) :
    f.writeSs n vs = (granSpan n vs.length).foldl (writeGran n vs) f := rfl

/-- Whether a write of k registers from n finds a poison granule that it does not cover (R45). -/
def granLost (f : Frame) (n k gi : Nat) : Bool :=
  match mget f.grans gi with
  | none => false
  | some r => r.tag != f.gen && r.tag == poisonTag && !(n ≤ 4 * gi && 4 * gi + 4 ≤ n + k)

theorem granLost_of_checkS {f : Frame} {n k : Nat} (h : f.checkS n k = .ok ()) :
    ∀ gi ∈ granSpan n k, granLost f n k gi = false := by
  unfold Frame.checkS at h
  split at h
  · cases h
  · rename_i hn
    intro gi hg
    exact Bool.eq_false_iff.mpr (List.any_eq_false.mp (Bool.eq_false_iff.mpr hn) gi hg)

theorem writeGran_gen (n : Nat) (vs : List (BitVec 64)) (f : Frame) (gi : Nat) :
    (writeGran n vs f gi).gen = f.gen := rfl
theorem writeGran_beside (n : Nat) (vs : List (BitVec 64)) (f : Frame) (gi : Nat) :
    (writeGran n vs f gi).besideGrans = f.besideGrans := rfl

theorem mget_writeGran_ne (n : Nat) (vs : List (BitVec 64)) (f : Frame) {gi gj : Nat} (h : gj ≠ gi) :
    mget (writeGran n vs f gi).grans gj = mget f.grans gj := mget_mset_ne _ _ _ _ h

theorem granLost_writeGran (n : Nat) (vs : List (BitVec 64)) (f : Frame) (k : Nat) {gi gj : Nat} (h : gj ≠ gi) :
    granLost (writeGran n vs f gi) n k gj = granLost f n k gj := by
  unfold granLost
  rw [mget_writeGran_ne n vs f h, writeGran_gen]

theorem svalue_writeGran_ne (n : Nat) (vs : List (BitVec 64)) (f : Frame) {gi k : Nat} (h : k / 4 ≠ gi) :
    (writeGran n vs f gi).svalue k = f.svalue k := by
  unfold Frame.svalue
  rw [mget_writeGran_ne n vs f h, writeGran_gen]

/-- The registers of the granule that are written hold their new values, and the others read as before. -/
theorem svalue_writeGran (n : Nat) (vs : List (BitVec 64)) (f : Frame) (k : Nat) (hp : f.gen ≠ poisonTag)
    (hl : granLost f n vs.length (k / 4) = false) :
    (writeGran n vs f (k / 4)).svalue k = (granWrites n vs (k / 4) (k % 4)).getD (f.svalue k) := by
  have h4 : k % 4 < 4 := Nat.mod_lt _ (by omega)
  unfold granLost at hl
  simp only [Frame.svalue, writeGran, mget_mset_self]
  cases hr : mget f.grans (k / 4) with
  | none => simp [granReg_mkGran _ _ h4]
  | some r =>
    simp only [hr] at hl ⊢
    have htag : (!(n ≤ 4 * (k / 4) && 4 * (k / 4) + 4 ≤ n + vs.length) && r.tag != f.gen && r.tag == poisonTag)
        = false := by
      rw [Bool.and_assoc, Bool.and_comm]
      exact hl
    simp only [htag, hp, Bool.false_eq_true, if_false, decide_false, Bool.or_false, decide_eq_true_eq, if_true]
    rw [granReg_mkGran _ _ h4]
    by_cases ht : r.tag = f.gen <;> simp [ht]

/-! ## Consecutive registers -/

theorem mem_granSpan {n k gi : Nat} : gi ∈ granSpan n k ↔ k ≠ 0 ∧ n / 4 ≤ gi ∧ gi ≤ (n + k - 1) / 4 := by
  unfold granSpan
  by_cases hk : k = 0
  · simp [hk]
  · simp only [hk, if_false, List.mem_map, List.mem_range]
    constructor
    · rintro ⟨j, hj, rfl⟩
      omega
    · rintro ⟨-, h1, h2⟩
      exact ⟨gi - n / 4, by omega, by omega⟩

theorem granSpan_nodup (n k : Nat) : (granSpan n k).Nodup :=
  List.Pairwise.map (n / 4 + ·) (fun _ _ hne e => hne (Nat.add_left_cancel e)) List.nodup_range

/-- A list of granules written one after the other. -/
theorem foldl_writeGran (n : Nat) (vs : List (BitVec 64)) (gs : List Nat) (f : Frame) (hnd : gs.Nodup)
    (hp : f.gen ≠ poisonTag) (hl : ∀ gi ∈ gs, granLost f n vs.length gi = false) :
    (gs.foldl (writeGran n vs) f).besideGrans = f.besideGrans
      ∧ ∀ k, (gs.foldl (writeGran n vs) f).svalue k =
          if k / 4 ∈ gs then (granWrites n vs (k / 4) (k % 4)).getD (f.svalue k) else f.svalue k := by
  induction gs generalizing f with
  | nil => exact ⟨rfl, fun _ => by simp⟩
  | cons gi gs ih =>
    obtain ⟨hg, hnd⟩ := List.nodup_cons.mp hnd
    have hrest : ∀ gj ∈ gs, granLost (writeGran n vs f gi) n vs.length gj = false := fun gj hj => by
      have hne : gj ≠ gi := fun e => hg (e ▸ hj)
      rw [granLost_writeGran n vs f _ hne]
      exact hl gj (List.mem_cons_of_mem _ hj)
    obtain ⟨hb, hv⟩ := ih (writeGran n vs f gi) hnd hp hrest
    refine ⟨hb, fun k => (hv k).trans ?_⟩
    by_cases hk : k / 4 = gi
    · subst hk
      rw [if_neg hg, if_pos List.mem_cons_self, svalue_writeGran n vs f k hp (hl _ List.mem_cons_self)]
    · rw [svalue_writeGran_ne n vs f hk]
      simp [List.mem_cons, hk]

/-- The value that a write gives to register k. -/
theorem granWrites_reg (n : Nat) (vs : List (BitVec 64)) (k : Nat) (old : BitVec 64) :
    (granWrites n vs (k / 4) (k % 4)).getD old = if n ≤ k ∧ k < n + vs.length then vs.getD (k - n) 0 else old := by
  unfold granWrites
  rw [Nat.div_add_mod]
  by_cases h1 : n ≤ k
  · by_cases h2 : k < n + vs.length
    · have h3 : k - n < vs.length := by omega
      simp [h1, h2, h3]
    · have h3 : vs.length ≤ k - n := by omega
      simp [h1, h2, h3]
  · simp [h1]

/-- What writing consecutive scalar registers does (R45). -/
theorem writeSs_spec (f : Frame) (n : Nat) (vs : List (BitVec 64)) (hp : f.gen ≠ poisonTag)
    (hc : f.checkS n vs.length = .ok ()) :
    (f.writeSs n vs).besideGrans = f.besideGrans
      ∧ ∀ k, (f.writeSs n vs).svalue k =
          if n ≤ k ∧ k < n + vs.length then vs.getD (k - n) 0 else f.svalue k := by
  obtain ⟨hb, hv⟩ := foldl_writeGran n vs (granSpan n vs.length) f (granSpan_nodup _ _) hp (granLost_of_checkS hc)
  rw [← writeSs_eq_foldl] at hb hv
  refine ⟨hb, fun k => ?_⟩
  rw [hv, granWrites_reg]
  by_cases hk : n ≤ k ∧ k < n + vs.length
  · rw [if_pos (mem_granSpan.mpr (by omega))]
  · simp [hk]

/-! ## Shapes with a scalar register -/

/-- A run goes on after the issuing role's scalar registers have been written. -/
theorem after_putS (s : State) (r : Role) (n : Nat) (vs : List (BitVec 64)) (lits : Nat)
    (hr : mget s.roles s.cur = some r) (hp : r.frame.gen ≠ poisonTag) (hc : r.frame.checkS n vs.length = .ok ()) :
    ∃ r', mget ((s.putS n vs).advance s.cur lits).roles s.cur = some r'
      ∧ onlyRole s.cur s ((s.putS n vs).advance s.cur lits) ∧ r.wentOn (1 + lits) r' ∧ Says.wroteS r r' n vs := by
  obtain ⟨hb, hv⟩ := writeSs_spec r.frame n vs hp hc
  have hput : mget (s.putS n vs).roles s.cur = some (r.setFrame (r.frame.writeSs n vs)) := by
    unfold State.putS
    rw [modMe_of hr]
    exact mget_setMe _ _ _
  obtain ⟨r', hm, hstill, hwent⟩ := advance_wentOn (s.putS n vs) s.cur lits _ hput
  refine ⟨r', hm, ?_, hwent, ?_, ?_, ?_, fun k => ?_⟩
  · exact onlyRole_trans (onlyRole_trans (onlyRole_modRole _ _ _) (onlyRole_claimS _ _ _ _ _)) (onlyRole_advance _ _ _)
  · rw [still_besideFrames hstill]; rfl
  · rw [still_frames hstill]; rfl
  · rw [still_frame hstill]; exact hb
  · rw [still_frame hstill]; exact hv k

/-- A scalar destination is written with the value. -/
theorem scalGet_next (s : State) (lits : Nat) (d : SReg) (g : PReg) (val : State → Res (BitVec 64)) (r : Role)
    (v : BitVec 64) (hr : mget s.roles s.cur = some r) (hp : r.frame.gen ≠ poisonTag) (hd : d.toNat < r.frame.sc)
    (hg : r.part g ≠ 0) (hc : r.frame.checkS d.toNat 1 = .ok ()) (hv : val s = .ok v) :
    ∃ t r', scalGet s lits d g val = .next t ∧ mget t.roles s.cur = some r' ∧ onlyRole s.cur s t
      ∧ r.wentOn (1 + lits) r' ∧ Says.wroteS r r' d.toNat [v] := by
  obtain ⟨r', hm, ho, hw, hs⟩ := after_putS s r d.toNat [v] lits hr hp hc
  refine ⟨_, r', ?_, hm, ho, hw, hs⟩
  have hcur : (s.putS d.toNat [v]).cur = s.cur := by
    unfold State.putS
    rw [modMe_of hr]
    rfl
  simp only [scalGet, me_of hr, Frame.sname, hd, hg, if_true, if_false, hc, hv]
  show Host.Outcome.next ((s.putS d.toNat [v]).advance (s.putS d.toNat [v]).cur lits) = _
  rw [hcur]

/-- Without a participating lane a scalar destination stays as it is. -/
theorem scalGet_off (s : State) (lits : Nat) (d : SReg) (g : PReg) (val : State → Res (BitVec 64)) (r : Role)
    (hr : mget s.roles s.cur = some r) (hd : d.toNat < r.frame.sc) (hg : r.part g = 0) :
    scalGet s lits d g val = done lits s (.ok s) := by
  simp only [scalGet, me_of hr, Frame.sname, hd, hg, if_true]

/-- A scalar operand that can be read is passed on. -/
theorem withScalar_on (s : State) (a : SReg) (g : PReg) (lits : Nat) (body : State → BitVec 64 → Out) (r : Role)
    (v : BitVec 64) (hr : mget s.roles s.cur = some r) (ha : a.toNat < r.frame.sc) (hg : r.part g ≠ 0)
    (hv : r.frame.readS r.tagTrap a.toNat = .ok v) : withScalar s a g lits body = body s v := by
  simp only [withScalar, me_of hr, Frame.sname, ha, hg, if_true, if_false, hv]

/-- Without a participating lane a scalar operand is not read. -/
theorem withScalar_off (s : State) (a : SReg) (g : PReg) (lits : Nat) (body : State → BitVec 64 → Out) (r : Role)
    (hr : mget s.roles s.cur = some r) (ha : a.toNat < r.frame.sc) (hg : r.part g = 0) :
    withScalar s a g lits body = done lits s (.ok s) := by
  simp only [withScalar, me_of hr, Frame.sname, ha, hg, if_true]

end Sys2Proof.Laws.Scalars
end

section
/-! SUPPORT. What the open instructions of a role leave alone as they write (R127, R137, R140). -/

namespace Sys2Proof.Laws.OpenInstructions

open Sys2Proof Sys2Proof.Machine

/-- A role but for what its open instructions change: its frames, its stages and its FPFLAGS. -/
def besideOpen (r : Role) : Role := { r with frames := [], stages := [], fpflags := 0 }

theorem writeReg_beside (f : Frame) (x : Nat) (m : Mask) (rows : List Lanes) :
    (f.writeReg x m rows).besideRows = f.besideRows := by
  unfold Frame.writeReg
  induction List.range rows.length generalizing f with
  | nil => rfl
  | cons g gs ih => exact (ih _).trans (writeRow_beside _ _ _ _ _)

theorem landOldest_beside (r : Role) :
    besideOpen r.landOldest = besideOpen r ∧ r.landOldest.frame.besideRows = r.frame.besideRows := by
  unfold Role.landOldest
  split
  · exact ⟨rfl, rfl⟩
  · exact ⟨rfl, writeReg_beside _ _ _ _⟩

/-- Landing changes vector rows of the current frame, the stages and FPFLAGS. -/
theorem settleTo_beside (n : Nat) (r : Role) :
    besideOpen (r.settleTo n) = besideOpen r ∧ (r.settleTo n).frame.besideRows = r.frame.besideRows := by
  induction n generalizing r with
  | zero => exact ⟨rfl, rfl⟩
  | succ n ih =>
    obtain ⟨h1, h2⟩ := ih r.landOldest
    obtain ⟨h3, h4⟩ := landOldest_beside r
    exact ⟨h1.trans h3, h2.trans h4⟩

theorem part_eq_beside (r : Role) (g : PReg) : r.part g = (besideOpen r).active &&& r.frame.besideRows.pred g := rfl
theorem checkS_eq_beside (f : Frame) (n k : Nat) : f.checkS n k = f.besideRows.checkS n k := rfl

end Sys2Proof.Laws.OpenInstructions
end

section
/-! SUPPORT. RDSR, WRSR and CLOCK (R107, R127, R165, R166). -/

namespace Sys2Proof.Laws.SystemRegisters

open Sys2Proof Sys2Proof.Machine Sys2Proof.Laws.Scalars Sys2Proof.Laws.OpenInstructions

theorem exec_rdsr (d : SReg) (n : Imm7) (g : PReg) (s : State) : exec (.rdsr d n g) s = execRdsr d n g s := rfl
theorem exec_wrsr (a : SReg) (n : Imm7) (g : PReg) (s : State) : exec (.wrsr a n g) s = execWrsr a n g s := rfl
theorem exec_clock (d : SReg) (g : PReg) (s : State) : exec (.clock d g) s = execClock d g s := rfl

/-! ## The wait of an access -/

theorem mset_of_mget {α : Type} {m : AMap α} {k : Nat} {x : α} (h : mget m k = some x) : mset m k x = m := by
  induction m with
  | nil => cases h
  | cons p m ih =>
    obtain ⟨i, y⟩ := p
    simp only [mget] at h
    simp only [mset]
    split at h
    · cases h; simp [*]
    · split at h
      · cases h
      · simp [*, ih h]

theorem setRole_of_mget {s : State} {k : Nat} {r : Role} (h : mget s.roles k = some r) : s.setRole k r = s := by
  unfold State.setRole
  rw [mset_of_mget h]

/-- The role at which a system register is accessed differs from the issuing one in what open instructions write. -/
theorem sysRole_beside (r : Role) (n : Imm7) :
    besideOpen (Says.sysRole r n) = besideOpen r ∧ (Says.sysRole r n).frame.besideRows = r.frame.besideRows := by
  unfold Says.sysRole
  split
  · exact settleTo_beside _ _
  · exact ⟨rfl, rfl⟩

theorem sysRole_part (r : Role) (n : Imm7) (g : PReg) : (Says.sysRole r n).part g = r.part g := by
  rw [part_eq_beside, part_eq_beside, (sysRole_beside r n).1, (sysRole_beside r n).2]
theorem sysRole_checkS (r : Role) (n : Imm7) (i k : Nat) :
    (Says.sysRole r n).frame.checkS i k = r.frame.checkS i k := by
  rw [checkS_eq_beside, (sysRole_beside r n).2, ← checkS_eq_beside]
theorem sysRole_sc (r : Role) (n : Imm7) : (Says.sysRole r n).frame.sc = r.frame.sc :=
  show (Says.sysRole r n).frame.besideRows.sc = r.frame.besideRows.sc by rw [(sysRole_beside r n).2]
theorem sysRole_gen (r : Role) (n : Imm7) : (Says.sysRole r n).frame.gen = r.frame.gen :=
  show (Says.sysRole r n).frame.besideRows.gen = r.frame.besideRows.gen by rw [(sysRole_beside r n).2]
theorem sysRole_other (r : Role) {n : Imm7} (h : n ≠ 0x0A) : Says.sysRole r n = r := if_neg h

/-- An access that need not wait is made at the role whose open instructions have written, for FPFLAGS. -/
theorem sysWait_go (s : State) (n : Imm7) (body : State → Out) (r : Role) (hr : mget s.roles s.cur = some r)
    (hn : n = 0x0B → s.opPending s.cur = false) : sysWait s n body = body (s.setRole s.cur (Says.sysRole r n)) := by
  unfold sysWait
  by_cases hA : n = 0x0A#7
  · subst hA
    exact (if_pos rfl).trans (congrArg body (modMe_of hr _))
  · have hB : ¬((n = 0x0B#7 && s.opPending s.cur) = true) := by
      simpa using hn
    rw [if_neg hA, if_neg hB, sysRole_other r hA, setRole_of_mget hr]

/-- An access of OPFLAGS waits in place for the role's matrix work and COLLs. -/
theorem sysWait_waits (s : State) (body : State → Out) (h : s.opPending s.cur = true) :
    sysWait s 0x0B body = .next s := by
  unfold sysWait
  rw [if_neg (by decide), if_pos (by simpa using h)]

/-! ## Without a participating lane -/

/-- Each of the three instructions, no lane taking part in it, only lets the run go on. -/
theorem exec_off (d a : SReg) (n : Imm7) (g : PReg) (s : State) (r : Role) (hr : mget s.roles s.cur = some r)
    (hd : d.toNat < r.frame.sc) (ha : a.toNat < r.frame.sc) (hg : r.part g = 0) (i : Instr)
    (hi : i = .rdsr d n g ∨ i = .wrsr a n g ∨ i = .clock d g) : exec i s = done 0 s (.ok s) := by
  obtain rfl | rfl | rfl := hi
  · rw [exec_rdsr, execRdsr, me_of hr, if_pos hg, scalGet_off s 0 d g _ r hr hd hg]
  · rw [exec_wrsr, execWrsr, withScalar_off s a g 0 _ r hr ha hg]
  · rw [exec_clock, execClock, scalGet_off s 0 d g _ r hr hd hg]

/-! ## RDSR -/

theorem ofNat_coreId (core : Nat) :
    BitVec.ofNat 64 (coreId core) = BitVec.ofNat 64 (64 * (core / 48) + 4 * (core % 48 / 4) + core % 4) := by
  unfold coreId
  congr 1
  omega

theorem ofNat_toNat_bool (b : Bool) : BitVec.ofNat 64 b.toNat = (BitVec.ofBool b).setWidth 64 := by
  cases b <;> rfl

theorem sysReg_setRole (s : State) (k : Nat) (x r : Role) (n : Nat) : (s.setRole k x).sysReg r n = s.sysReg r n := rfl

/-- The model's number of a system register is the value that R107 gives it. -/
theorem ofNat_sysReg (s : State) (r : Role) (n : Imm7) :
    BitVec.ofNat 64 (s.sysReg r n.toNat) = Says.sysValue s r n := by
  unfold State.sysReg Says.sysValue
  generalize n.toNat = m
  match m with
  | 0 | 1 | 2 | 4 | 5 | 6 | 7 | 8 | 9 | 14 => rfl
  | 3 => exact ofNat_coreId _
  | 10 | 11 | 12 | 13 => exact BitVec.ofNat_toNat _ _
  | 15 => exact ofNat_toNat_bool _
  | j + 16 => exact (BitVec.ofNat_toNat _ _).trans (BitVec.setWidth_eq _)

/-- RDSR that need not wait reads the register at the role of its access. -/
theorem execRdsr_go (d : SReg) (n : Imm7) (g : PReg) (s : State) (r : Role) (hr : mget s.roles s.cur = some r)
    (hd : d.toNat < r.frame.sc) (hg : r.part g ≠ 0) (hC : n = 0x0C → r.priv = true)
    (hB : n = 0x0B → s.opPending s.cur = false) :
    exec (.rdsr d n g) s = scalGet (s.setRole s.cur (Says.sysRole r n)) 0 d g
      fun s => .ok (BitVec.ofNat 64 (s.sysReg s.me n.toNat)) := by
  have hpriv : ¬((n = 0x0C#7 && !r.priv) = true) := by
    simpa using hC
  simp only [exec_rdsr, execRdsr, me_of hr, hg, if_false, Frame.sname, hd, if_true]
  rw [if_neg hpriv, sysWait_go s n _ r hr hB]

/-- RDSR writes the register's value. -/
theorem rdsr_next (d : SReg) (n : Imm7) (g : PReg) (s : State) (r r1 : Role) (hr : mget s.roles s.cur = some r)
    (hp : r.frame.gen ≠ poisonTag) (h1 : r1 = Says.sysRole r n) (hd : d.toNat < r.frame.sc) (hg : r.part g ≠ 0)
    (hc : r.frame.checkS d.toNat 1 = .ok ()) (hC : n = 0x0C → r.priv = true)
    (hB : n = 0x0B → s.opPending s.cur = false) :
    answers (.rdsr d n g) s fun t => ∃ r', mget t.roles s.cur = some r' ∧ onlyRole s.cur s t ∧ r1.wentOn 1 r'
      ∧ Says.wroteS r1 r' d.toNat [Says.sysValue s r1 n] := by
  subst h1
  have hm := mget_setMe s s.cur (Says.sysRole r n)
  obtain ⟨t, r', ht, hr', ho, hw, hv⟩ := scalGet_next (s.setRole s.cur (Says.sysRole r n)) 0 d g
    (fun s => .ok (BitVec.ofNat 64 (s.sysReg s.me n.toNat))) _ (Says.sysValue s (Says.sysRole r n) n) hm
    (by rwa [sysRole_gen]) (by rwa [sysRole_sc]) (by rwa [sysRole_part]) (by rwa [sysRole_checkS])
    (by rw [me_of (s := s.setRole s.cur (Says.sysRole r n)) hm, sysReg_setRole, ofNat_sysReg])
  exact ⟨t, (execRdsr_go d n g s r hr hd hg hC hB).trans ht, r', hr', onlyRole_trans (onlyRole_setRole _ _ _) ho,
    hw, hv⟩

/-- RDSR of GENCUR without privilege. -/
theorem rdsr_gencur_perm (d : SReg) (g : PReg) (s : State) (r : Role) (hr : mget s.roles s.cur = some r)
    (hd : d.toNat < r.frame.sc) (hg : r.part g ≠ 0) (hq : r.priv = false) :
    exec (.rdsr d 0x0C g) s = .next (takeTrap s s.cur { cause := causePerm }) := by
  simp only [exec_rdsr, execRdsr, me_of hr, hg, if_false, Frame.sname, hd, if_true, hq]
  rfl

/-! ## WRSR -/

/-- The role with a system register replaced. -/
def sysWritten (n : Imm7) (v : BitVec 64) (r : Role) : Role :=
  if n = 0x0A#7 then { r with fpflags := v.setWidth 5 }
  else if n = 0x0B#7 then { r with opflags := v.setWidth 2 }
  else r

theorem wentOn_sysWritten (n : Imm7) (v : BitVec 64) (r r' : Role) (k : Nat) (h : (sysWritten n v r).wentOn k r') :
    r.wentOn k r' := by
  unfold sysWritten at h
  split at h
  · exact h
  · split at h <;> exact h

/-- WRSR that need not wait replaces the register at the role of its access. -/
theorem wrsr_next (a : SReg) (n : Imm7) (g : PReg) (s : State) (r : Role) (v : BitVec 64)
    (hr : mget s.roles s.cur = some r) (ha : a.toNat < r.frame.sc) (hg : r.part g ≠ 0)
    (hv : r.frame.readS r.tagTrap a.toNat = .ok v) (hB : n = 0x0B → s.opPending s.cur = false) :
    answers (.wrsr a n g) s fun t => ∃ r', mget t.roles s.cur = some r' ∧ onlyRole s.cur s t
      ∧ (Says.sysRole r n).wentOn 1 r' ∧ r'.still = (sysWritten n v (Says.sysRole r n)).still := by
  have hm := mget_setMe s s.cur (Says.sysRole r n)
  obtain ⟨r', hr', hstill, hwent⟩ := advance_wentOn _ s.cur 0 _
    (mget_setMe (s.setRole s.cur (Says.sysRole r n)) s.cur (sysWritten n v (Says.sysRole r n)))
  refine ⟨_, ?_, r', hr', ?_, wentOn_sysWritten _ _ _ _ _ hwent, hstill⟩
  · rw [exec_wrsr, execWrsr, withScalar_on s a g 0 _ r v hr ha hg hv, sysWait_go s n _ r hr hB,
      modMe_of (s := s.setRole s.cur (Says.sysRole r n)) hm]
    rfl
  · exact onlyRole_trans (onlyRole_setRole _ _ _) (onlyRole_trans (onlyRole_setRole _ _ _) (onlyRole_advance _ _ _))

/-- WRSR replaces FPFLAGS. -/
theorem wrsr_fpflags (a : SReg) (g : PReg) (s : State) (r : Role) (v : BitVec 64) (hr : mget s.roles s.cur = some r)
    (ha : a.toNat < r.frame.sc) (hg : r.part g ≠ 0) (hv : r.frame.readS r.tagTrap a.toNat = .ok v) :
    answers (.wrsr a 0x0A g) s fun t => ∃ r', mget t.roles s.cur = some r' ∧ onlyRole s.cur s t
      ∧ (Says.sysRole r 0x0A).wentOn 1 r' ∧ r'.fpflags = v.setWidth 5
      ∧ r'.besideFlags = (Says.sysRole r 0x0A).besideFlags ∧ r'.frames = (Says.sysRole r 0x0A).frames := by
  obtain ⟨t, ht, r', hr', ho, hw, hstill⟩ := wrsr_next a 0x0A g s r v hr ha hg hv (fun h => by cases h)
  refine ⟨t, ht, r', hr', ho, hw, congrArg Role.fpflags hstill, ?_, ?_⟩
  · unfold Role.besideFlags
    rw [still_besideFrames hstill]
    rfl
  · rw [still_frames hstill]
    rfl

/-- WRSR replaces OPFLAGS. -/
theorem wrsr_opflags (a : SReg) (g : PReg) (s : State) (r : Role) (v : BitVec 64) (hr : mget s.roles s.cur = some r)
    (ha : a.toNat < r.frame.sc) (hg : r.part g ≠ 0) (hv : r.frame.readS r.tagTrap a.toNat = .ok v)
    (hB : s.opPending s.cur = false) :
    answers (.wrsr a 0x0B g) s fun t => ∃ r', mget t.roles s.cur = some r' ∧ onlyRole s.cur s t
      ∧ (Says.sysRole r 0x0B).wentOn 1 r' ∧ r'.still = { (Says.sysRole r 0x0B).still with opflags := v.setWidth 2 } :=
  wrsr_next a 0x0B g s r v hr ha hg hv fun _ => hB

/-- While matrix work or a COLL of the role is unfinished, an access of OPFLAGS changes nothing. -/
theorem opflags_waits (d a : SReg) (g : PReg) (s : State) (r : Role) (v : BitVec 64)
    (hr : mget s.roles s.cur = some r) (hd : d.toNat < r.frame.sc) (ha : a.toNat < r.frame.sc) (hg : r.part g ≠ 0)
    (hv : r.frame.readS r.tagTrap a.toNat = .ok v) (hB : s.opPending s.cur = true) (i : Instr)
    (hi : i = .rdsr d 0x0B g ∨ i = .wrsr a 0x0B g) : exec i s = .next s := by
  obtain rfl | rfl := hi
  · simp only [exec_rdsr, execRdsr, me_of hr, hg, if_false, Frame.sname, hd, if_true]
    exact (if_neg (by simp)).trans (sysWait_waits s _ hB)
  · rw [exec_wrsr, execWrsr, withScalar_on s a g 0 _ r v hr ha hg hv]
    exact sysWait_waits s _ hB

/-! ## The obligations -/

/-- Settles O27: the instructions go through the scalar shapes, at the role whose open instructions have written. -/
theorem systemRegisters : Obligations.SystemRegisters := by
  unfold Obligations.SystemRegisters
  intro d a n g s r r1 hr hp h1 hd ha _
  refine ⟨fun hg i hi => ?_, fun hg hc => ?_, rdsr_next d n g s r r1 hr hp h1 hd, rdsr_gencur_perm d g s r hr hd,
    fun v hg hv => ⟨?_, ?_, ?_⟩⟩
  · obtain ⟨r', hr', hstill, hwent⟩ := advance_wentOn s s.cur 0 r hr
    exact ⟨_, exec_off d a n g s r hr hd ha hg i hi, r', hr', onlyRole_advance _ _ _, hstill, hwent⟩
  · obtain ⟨t, r', ht, h⟩ := scalGet_next s 0 d g (fun s => .ok (BitVec.ofNat 64 s.clock)) r _ hr hp hd hg hc rfl
    exact ⟨t, (exec_clock d g s).trans ht, r', h⟩
  · rintro rfl
    exact h1 ▸ wrsr_fpflags a g s r v hr ha hg hv
  · rintro rfl hB
    exact h1 ▸ wrsr_opflags a g s r v hr ha hg hv hB
  · rintro rfl hB i hi
    exact opflags_waits d a g s r v hr hd ha hg hv hB i hi

/-- Settles O3: the decoder, evaluated at each of the words, answers the instruction it stands for. -/
theorem workedWords : Obligations.WorkedWords := by
  unfold Obligations.WorkedWords
  exact ⟨rfl, rfl, rfl, rfl, rfl, rfl, rfl, rfl, rfl, rfl, rfl, rfl, rfl, rfl⟩

end Sys2Proof.Laws.SystemRegisters
end
